-- ==== Sys2Proof/Word.lean ====
section
/-!
DEFINITION. The word types of the module and their plainest arithmetic: 32-bit registers (R5, R6), bytes,
64-bit scalar registers, and the extraction and replacement of a bit range [msb:lsb].
-/
namespace Sys2Proof

/-- A register word (00_scope, "Registers": registers are 32 bits wide). -/
abbrev Word := BitVec 32

/-- The smallest addressable unit of scratchpad and HBM. -/
abbrev Byte := BitVec 8

/-- A scalar register of a core and one half-pair of 32-bit registers read as one value. -/
abbrev DWord := BitVec 64

/-- Bits `[lsb + width - 1 : lsb]` of `n` as a number (R5). -/
def natField (n lsb width : Nat) : Nat := (n >>> lsb) % 2 ^ width

/-- `n` with bits `[lsb + width - 1 : lsb]` replaced by the low bits of `v` (R5). -/
def natSetField (n lsb width v : Nat) : Nat :=
  n % 2 ^ lsb + (v % 2 ^ width) <<< lsb + (n >>> (lsb + width)) <<< (lsb + width)

/-- Number of bits of `n`: 0 for 0, otherwise the index of the leading one plus one. -/
def bitLen (n : Nat) : Nat := if n = 0 then 0 else Nat.log2 n + 1

/-- The two's complement reading of the low `w` bits of `n`. -/
def natToSigned (w n : Nat) : Int :=
  if n % 2 ^ w < 2 ^ (w - 1) then (n % 2 ^ w : Int) else (n % 2 ^ w : Int) - (2 ^ w : Int)

/-- The low `w` bits of an integer, as a number. -/
def intToNat (w : Nat) (i : Int) : Nat := (i % (2 ^ w : Int)).toNat

end Sys2Proof
end

