-- ==== Sys2Proof/Syntax.lean ====
section
/-!
DEFINITION. The commands of the module, one constructor for each row of spec/opcode_table.json, with their
operands: the fields of a slot operation or instruction, the register and value of an access, the message,
frame or packet that arrives, or the unit to which an event happens.
-/
namespace Sys2Proof

/-- The four slots of a bundle (R153). -/
inductive Slot where
  | seq | arr | vec | str
  deriving DecidableEq, Repr

/-- Where an ARR, VEC or STR slot operation issues: the physical core and the partition tag of its bundle
(R153, R154). -/
structure Issue where
  core : Fin 256
  tag : Fin 4
  deriving DecidableEq, Repr

/-- The tag of a received frame (R305): VLAN ID and priority; and what it carries (R304). -/
inductive EthKind where
  | roce | arp | neighbour | pfc | other
  deriving DecidableEq, Repr

/-- A frame received at a host port (R303 to R305): its length with FCS, whether its FCS is right, its tag as VLAN ID and
PCP, and what it carries. -/
structure EthFrame where
  len : BitVec 16
  fcsOk : Bool
  tag : Option (BitVec 12 × BitVec 3)
  kind : EthKind
  deriving DecidableEq, Repr

/-- A RoCE packet for a QP (R309, R312): the port, whether it is marked CE, QPN and PSN; the place of an RDMA WRITE packet in
its message (first, last; both for only); the virtual address, R_Key and DMA length of its first packet or of a READ
request; whether an ACK is asked for; the payload. -/
structure RocePkt where
  port : Fin 4
  ce : Bool
  qpn : BitVec 24
  psn : BitVec 24
  first : Bool
  last : Bool
  va : BitVec 64
  rkey : BitVec 32
  len : BitVec 32
  ackReq : Bool
  data : List (BitVec 8)
  deriving DecidableEq, Repr

/-- The source of a register access (R486). -/
inductive Src where
  | roce (qp : Fin 2048)
  | i3c
  | fabric
  | own
  deriving DecidableEq, Repr

/-- A temperature sample (R391, R392): a diode, in 0.25 degrees, or a stack, in degrees. -/
inductive TempAt where
  | diode (i : Fin 112) (t : BitVec 10)
  | stack (s : Fin 32) (t : BitVec 8)
  deriving DecidableEq, Repr

/-- How a message reaches the Innkeeper or Passport (R407, R427): over I3C with its TAG and body, or as the first request of
its type that waits in a Craul MGMT message. -/
inductive Via where
  | i3c (tag : BitVec 16) (body : List (BitVec 8))
  | fabric
  deriving DecidableEq, Repr

/-- A failing element that a self-test found (R453): its page, whether it is an array column, its bank, and the row or column
that fails. -/
structure TestFail where
  page : Fin 16384
  col : Bool
  bank : BitVec 8
  target : BitVec 24
  deriving DecidableEq, Repr

/-- What a self-test found (R451 to R453, R461): the failing scan segments, the first failing memory and its failing rows,
first row, lowest bit and expected value, the failing elements, the spare elements found unusable (page, element) and
whether the retest of the repaired memories passed. -/
structure TestFinding where
  segs : List (Fin 64)
  memId : BitVec 8
  nrows : BitVec 16
  row : BitVec 24
  bitNo : BitVec 11
  expect : Bool
  fails : List TestFail
  badSpares : List (Fin 16384 × BitVec 8)
  retestOk : Bool
  deriving DecidableEq, Repr

/-- The commands of the module: one constructor per row of spec/opcode_table.json. -/
inductive Instr where
  /-- NOP (R153): a slot holding opcode 0. -/
  | nop (i : Issue) (slot : Slot)
  /-- SEQ ADD (R158). -/
  | seqAdd (c : Fin 256) (rd ra rb : Fin 32)
  /-- SEQ SUB (R158). -/
  | sub (c : Fin 256) (rd ra rb : Fin 32)
  /-- SEQ AND (R158). -/
  | and (c : Fin 256) (rd ra rb : Fin 32)
  /-- SEQ OR (R158). -/
  | or (c : Fin 256) (rd ra rb : Fin 32)
  /-- SEQ XOR (R158). -/
  | xor (c : Fin 256) (rd ra rb : Fin 32)
  /-- SEQ SHL (R158). -/
  | shl (c : Fin 256) (rd ra rb : Fin 32)
  /-- SEQ SHR (R158). -/
  | shr (c : Fin 256) (rd ra rb : Fin 32)
  /-- SEQ SRA (R158). -/
  | sra (c : Fin 256) (rd ra rb : Fin 32)
  /-- SEQ MUL (R158). -/
  | mul (c : Fin 256) (rd ra rb : Fin 32)
  /-- SEQ ADDI (R158). -/
  | addi (c : Fin 256) (rd ra : Fin 32) (imm : BitVec 32)
  /-- SEQ LIH (R158). -/
  | lih (c : Fin 256) (rd ra : Fin 32) (imm : BitVec 32)
  /-- SEQ CMP (R158). -/
  | cmp (c : Fin 256) (qd : Fin 8) (ra rb : Fin 32) (cond : BitVec 3)
  /-- SEQ QOP (R158). -/
  | qop (c : Fin 256) (qd qa qb : Fin 8) (fn : BitVec 2)
  /-- SEQ BR (R159). -/
  | br (c : Fin 256) (q : Fin 8) (neg : Bool) (tgt : BitVec 12)
  /-- SEQ LOOP (R159). -/
  | seqLoop (c : Fin 256) (ra : Fin 32) (last : BitVec 12)
  /-- SEQ LDS (R160). -/
  | lds (c : Fin 256) (rd ra : Fin 32) (h : Fin 64)
  /-- SEQ RDS (R161). -/
  | rds (c : Fin 256) (rd : Fin 32) (sel : BitVec 8)
  /-- SEQ FTEST (R172). -/
  | ftest (c : Fin 256) (qd : Fin 8) (part : Fin 4) (clr : Bool) (mask : BitVec 5)
  /-- SEQ MUSTER (R142). -/
  | muster (c : Fin 256) (scope : Bool) (kind fence : BitVec 2)
  /-- SEQ WAITT (R160). -/
  | waitt (c : Fin 256) (qd : Fin 8) (ra : Fin 32) (h : Fin 64)
  /-- A waiting WAITT finds its token set or reaches its limit (R160). -/
  | waittResume (c : Fin 256)
  /-- SEQ END (R158). -/
  | seqEnd (c : Fin 256)
  /-- ARR PASS (R54, R162). -/
  | pass (i : Issue) (entry : Fin 16)
  /-- ARR DSET (R162). -/
  | dset (i : Issue) (entry : Fin 16) (vs : Fin 32)
  /-- A queued pass begins its tile load (R58, R59). -/
  | tileLoad (c : Fin 256) (part : Fin 4)
  /-- A pass latches (R59). -/
  | passLatch (c : Fin 256) (part : Fin 4)
  /-- The next drain row of the pass in progress is converted and written (R63, R522). -/
  | drainRow (c : Fin 256) (part : Fin 4)
  /-- The drain delivery of the pass in progress completes (R59). -/
  | drainComplete (c : Fin 256) (part : Fin 4)
  /-- A weight parity (kind 1) or segment residue (kind 2) error at a physical row and column (R73). -/
  | arrayErr (c : Fin 256) (part : Fin 4) (prow pcol : Fin 130) (residue : Bool)
  /-- VEC VADD (R164). -/
  | vadd (i : Issue) (ty : BitVec 2) (mk : Fin 8) (vd va vb : Fin 32)
  /-- VEC VSUB (R164). -/
  | vsub (i : Issue) (ty : BitVec 2) (mk : Fin 8) (vd va vb : Fin 32)
  /-- VEC VMUL (R164). -/
  | vmul (i : Issue) (ty : BitVec 2) (mk : Fin 8) (vd va vb : Fin 32)
  /-- VEC VFMA (R164). -/
  | vfma (i : Issue) (ty : BitVec 2) (mk : Fin 8) (vd va vb vc : Fin 32)
  /-- VEC VMAX (R164). -/
  | vmax (i : Issue) (ty : BitVec 2) (mk : Fin 8) (vd va vb : Fin 32)
  /-- VEC VMIN (R164). -/
  | vmin (i : Issue) (ty : BitVec 2) (mk : Fin 8) (vd va vb : Fin 32)
  /-- VEC VABS (R164). -/
  | vabs (i : Issue) (ty : BitVec 2) (mk : Fin 8) (vd va : Fin 32)
  /-- VEC VNEG (R164). -/
  | vneg (i : Issue) (ty : BitVec 2) (mk : Fin 8) (vd va : Fin 32)
  /-- VEC VSGN (R164). -/
  | vsgn (i : Issue) (ty : BitVec 2) (mk : Fin 8) (vd va : Fin 32)
  /-- VEC VDIV (R164). -/
  | vdiv (i : Issue) (ty : BitVec 2) (mk : Fin 8) (vd va vb : Fin 32)
  /-- VEC VSQRT (R164). -/
  | vsqrt (i : Issue) (ty : BitVec 2) (mk : Fin 8) (vd va : Fin 32)
  /-- VEC VEXP2 (R164). -/
  | vexp2 (i : Issue) (ty : BitVec 2) (mk : Fin 8) (vd va : Fin 32)
  /-- VEC VLOG2 (R164). -/
  | vlog2 (i : Issue) (ty : BitVec 2) (mk : Fin 8) (vd va : Fin 32)
  /-- VEC VCMP (R164). -/
  | vcmp (i : Issue) (ty : BitVec 2) (mk : Fin 8) (md : Fin 8) (va vb : Fin 32) (cond : BitVec 3)
  /-- VEC VSEL (R164). -/
  | vsel (i : Issue) (ty : BitVec 2) (mk : Fin 8) (vd va vb : Fin 32)
  /-- VEC VIADD (R164). -/
  | viadd (i : Issue) (ty : BitVec 2) (mk : Fin 8) (vd va vb : Fin 32)
  /-- VEC VISUB (R164). -/
  | visub (i : Issue) (ty : BitVec 2) (mk : Fin 8) (vd va vb : Fin 32)
  /-- VEC VIAND (R164). -/
  | viand (i : Issue) (ty : BitVec 2) (mk : Fin 8) (vd va vb : Fin 32)
  /-- VEC VIOR (R164). -/
  | vior (i : Issue) (ty : BitVec 2) (mk : Fin 8) (vd va vb : Fin 32)
  /-- VEC VIXOR (R164). -/
  | vixor (i : Issue) (ty : BitVec 2) (mk : Fin 8) (vd va vb : Fin 32)
  /-- VEC VISHL (R164). -/
  | vishl (i : Issue) (ty : BitVec 2) (mk : Fin 8) (vd va vb : Fin 32)
  /-- VEC VISHR (R164). -/
  | vishr (i : Issue) (ty : BitVec 2) (mk : Fin 8) (vd va vb : Fin 32)
  /-- VEC VFTOI (R164). -/
  | vftoi (i : Issue) (ty : BitVec 2) (mk : Fin 8) (vd va : Fin 32)
  /-- VEC VITOF (R164). -/
  | vitof (i : Issue) (ty : BitVec 2) (mk : Fin 8) (vd va : Fin 32)
  /-- VEC VBCAST (R164). -/
  | vbcast (i : Issue) (ty : BitVec 2) (mk : Fin 8) (vd : Fin 32) (ra : Fin 32)
  /-- VEC VREDS (R164, R48). -/
  | vreds (i : Issue) (ty : BitVec 2) (mk : Fin 8) (rd : Fin 32) (va : Fin 32) (fn : BitVec 2)
  /-- VEC VBMAX (R164). -/
  | vbmax (i : Issue) (ty : BitVec 2) (mk : Fin 8) (vd va : Fin 32)
  /-- VEC VSCALEB (R164). -/
  | vscaleb (i : Issue) (ty : BitVec 2) (mk : Fin 8) (vd va vb : Fin 32)
  /-- VEC VCVT (R166). -/
  | vcvt (i : Issue) (ty : BitVec 2) (vd va vc : Fin 32) (fmt : BitVec 8) (grp : Fin 8) (sct : BitVec 8) (sctEn : Bool) (re rt : Fin 32)
  /-- VEC VDEC (R166). -/
  | vdec (i : Issue) (vd va vb : Fin 32) (fmt : BitVec 8) (grp : Fin 8) (sct : BitVec 8) (sctEn : Bool)
  /-- VEC VRNG (R167). -/
  | vrng (i : Issue) (vd : Fin 32) (re rt : Fin 32)
  /-- VEC VLD (R165). -/
  | vld (i : Issue) (vd : Fin 32) (h : Fin 64) (ra : Fin 32) (len : BitVec 3) (wid : Bool) (imm : BitVec 24)
  /-- VEC VST (R165). -/
  | vst (i : Issue) (va : Fin 32) (h : Fin 64) (ra : Fin 32) (len : BitVec 3) (dlv : Bool) (imm : BitVec 24)
  /-- VEC VMPACK (R164). -/
  | vmpack (i : Issue) (mk : Fin 8) (vd : Fin 32)
  /-- VEC VMUNPK (R164). -/
  | vmunpk (i : Issue) (md : Fin 8) (va : Fin 32)
  /-- VEC VSCRD (R178). -/
  | vscrd (i : Issue) (vd : Fin 32) (ra : Fin 32)
  /-- VEC VSCWR (R178). -/
  | vscwr (i : Issue) (va : Fin 32) (ra : Fin 32)
  /-- STR START (R118). -/
  | start (i : Issue) (s : Fin 8) (ra rb : Fin 32)
  /-- STR STOP (R118). -/
  | stop (i : Issue) (s : Fin 8)
  /-- STR CREDIT (R118). -/
  | credit (i : Issue) (s : Fin 8) (n : BitVec 12) (h : Option (Fin 64))
  /-- STR SEND (R118). -/
  | send (i : Issue) (s : Fin 8) (h : Fin 64) (ra : Fin 32) (len : BitVec 6)
  /-- STR ARM (R99, R169). -/
  | arm (i : Issue) (h : Fin 64) (n : BitVec 12)
  /-- STR COPY (R169). -/
  | strCopy (i : Issue) (h : Fin 64) (ra : Fin 32) (h2 : Fin 64) (rb : Fin 32) (len : BitVec 6)
  /-- Courier PUT (R137). -/
  | courierPut (i : Issue) (h : Fin 64) (ra rb rc : Fin 32) (tgt : BitVec 2) (len : BitVec 6) (qd : Fin 8)
  /-- Courier GET (R137). -/
  | courierGet (i : Issue) (h : Fin 64) (ra rb rc : Fin 32) (tgt : BitVec 2) (len : BitVec 6) (qd : Fin 8)
  /-- Courier ADD (R137). -/
  | courierAdd (i : Issue) (h : Fin 64) (ra rb rc rd : Fin 32) (tgt : BitVec 2) (qd : Fin 8)
  /-- The completion or delivery of the Courier operation with this number returns (R138, R141). -/
  | courierComplete (c : Fin 256) (id : Nat)
  /-- Saddlebag PUSH (R106). -/
  | push (i : Issue) (k : Fin 8) (h : Fin 64) (ra : Fin 32)
  /-- Saddlebag POP (R106). -/
  | pop (i : Issue) (k : Fin 8) (h : Fin 64) (ra : Fin 32)
  /-- The write-out of a staging slot completes (R107). -/
  | sbWriteOutComplete (c : Fin 256) (k : Fin 8) (j : Fin 16)
  /-- The prefetch into a staging slot returns (R108). -/
  | sbPrefetchComplete (c : Fin 256) (k : Fin 8) (j : Fin 16)
  /-- Itinerary NOP (R122). -/
  | itinNop (c : Fin 256) (s : Fin 8)
  /-- Itinerary LOOP (R123). -/
  | itinLoop (c : Fin 256) (s : Fin 8) (last : Fin 32) (cnt : BitVec 24)
  /-- Itinerary SETA (R122). -/
  | seta (c : Fin 256) (s : Fin 8) (ad : Fin 8) (imm : BitVec 48)
  /-- Itinerary SETAH (R122). -/
  | setah (c : Fin 256) (s : Fin 8) (ad : Fin 8) (imm : BitVec 16)
  /-- Itinerary ADV (R122). -/
  | adv (c : Fin 256) (s : Fin 8) (ad : Fin 8) (imm : BitVec 40)
  /-- Itinerary SETD (R122). -/
  | setd (c : Fin 256) (s : Fin 8) (epoch : BitVec 16) (module : BitVec 20)
  /-- Itinerary CVT (R126). -/
  | cvt (c : Fin 256) (s : Fin 8) (ereg : Fin 8) (mfmt lfmt : BitVec 8) (tid : BitVec 32)
  /-- Itinerary LOAD (R124). -/
  | itinLoad (c : Fin 256) (s : Fin 8) (at_ al : Fin 8) (h : Fin 64) (tgt : BitVec 2) (len : BitVec 7) (it il : Bool)
  /-- Itinerary STORE (R124). -/
  | itinStore (c : Fin 256) (s : Fin 8) (at_ : Fin 8) (tgt : BitVec 2) (len : BitVec 7) (it : Bool)
  /-- Itinerary GATHER (R127). -/
  | gather (c : Fin 256) (s : Fin 8) (at_ al : Fin 8) (h ih : Fin 64) (ai : Fin 8) (cnt : BitVec 6) (il ii : Bool)
  /-- Itinerary FENCE (R122). -/
  | fence (c : Fin 256) (s : Fin 8)
  /-- Itinerary END (R122). -/
  | itinEnd (c : Fin 256) (s : Fin 8)
  /-- The request with this number completes at its target (R125). -/
  | requestComplete (c : Fin 256) (id : Nat)
  /-- The delivery of the request with this number lands and completes (R99, R125). -/
  | deliveryComplete (c : Fin 256) (id : Nat)
  /-- A core whose MUSTER retired and whose fence is met sends its arrival (R143). -/
  | musterArrival (c : Fin 256)
  /-- A module Muster releases its participants (R146). -/
  | musterRelease (b : Fin 2)
  /-- At a yield point with a switch pending the core is saved (R174, R351). -/
  | yieldSave (c : Fin 256)
  /-- A logical core is reloaded onto a core and resumes (R351). -/
  | coreRestore (c : Fin 256) (l : Fin 240)
  /-- A requested switch was not taken within 131,072 CCLK (R175). -/
  | noYield (c : Fin 256)
  /-- At the SWITCH yield bundle the Steward loads the next segment (R340). -/
  | segmentSwitch (c : Fin 256)
  /-- A Steward requests a time-slice switch at a resident core (R350). -/
  | timesliceRequest (c : Fin 256)
  /-- The Stewards tear down a faulted context (R347). -/
  | ctxTeardown (b : Fin 2) (ctx : Fin 16)
  /-- The scratchpad scrubber reads its next row (R92). -/
  | scrubRead (c : Fin 256)
  /-- The Steward copies trace records of a core into the die's ring (R194). -/
  | traceFlush (c : Fin 256)
  /-- A channel error window of 2^28 PCLK has ended (R212). -/
  | hbmErrWindow (n : Fin 512)
  /-- A failing channel's relocation is checked and starts, or the channel enters PENDING (R213). -/
  | relocationStart (n : Fin 512)
  /-- The relocation engine copies the next granule (R214, R215). -/
  | granuleCopy (n : Fin 512)
  /-- The last granule of a map-out has been copied (R214). -/
  | relocationDone (n : Fin 512)
  /-- The rebuild of a domain completes (R218). -/
  | domainRebuild (d : Fin 4)
  /-- The patrol scrubber of a pseudo-channel reads its next burst (R208). -/
  | patrolScrub (n : Fin 512) (p : Fin 2)
  /-- A bank refresh of a stack falls due (R209). -/
  | refresh (stk : Fin 32)
  /-- HBM_MAP_CTRL.MODE is written in a stack page (R203, R223). -/
  | mode (stk : Fin 32) (striped : Bool)
  /-- HBM_MAP_CTRL.REBUILD is written 1 in a stack page (R218). -/
  | rebuild (stk : Fin 32)
  /-- HBM_XLATE_HI is written in a stack page (R223). -/
  | hbmXlate (stk : Fin 32) (hi : BitVec 10)
  /-- HBM_CH_CMD.FAIL is written 1 (R212). -/
  | fail (n : Fin 512)
  /-- HBM_CH_CMD.TEST_ENTER is written 1 (R220). -/
  | testEnter (n : Fin 512)
  /-- HBM_CH_CMD.TEST_EXIT is written 1 (R220). -/
  | testExit (n : Fin 512)
  /-- HBM_TG_CTRL.START is written 1 (R221). -/
  | tgStart (n : Fin 512) (p : Fin 2)
  /-- HBM_TG_CTRL.STOP is written 1 (R221). -/
  | tgStop (n : Fin 512) (p : Fin 2)
  /-- A traffic generator run ends: passes completed and bursts checked in it (R221). -/
  | tgRunEnd (n : Fin 512) (p : Fin 2) (passes : BitVec 16) (bursts : BitVec 64)
  /-- The checker finds a failing burst: its place, lowest failing bit, that bit's expected value and the number of
  failing bits less one (R222). -/
  | tgCheckFail (n : Fin 512) (p : Fin 2) (slot : BitVec 22) (burst : BitVec 5) (bitNo : BitVec 8) (expect : Bool) (nbits : BitVec 8)
  /-- A stack completes training: the channels that failed it and the data lanes replaced (R219). -/
  | stackTrained (stk : Fin 32) (failed : BitVec 16) (lanes : BitVec 8)
  /-- A channel's PHY loses training and retraining fails (R212). -/
  | phyTrainingLoss (n : Fin 512)
  /-- A link completes the training steps (R232): the identity received, whether the lane numbers arrived in place, the
  lanes that qualified (bit 16 the spare), the peer's lane map for this module's lanes, the ack loop time. -/
  | linkTraining (l : Fin 64) (peer : BitVec 20) (port : Fin 16) (link : Fin 4) (split : BitVec 2) (inPlace : Bool) (qual txLanes : BitVec 17) (txSpareLane : Fin 16) (txFibre : Fin 8) (loop_ : BitVec 12)
  /-- A flit of 640 bytes arrives (R229, R233). -/
  | flitReceive (l : Fin 64) (flit : List (BitVec 8)) (decoded : Bool)
  /-- A lane error window ends with these counts (R236). -/
  | laneWindow (p : Fin 16) (i : Fin 17) (csym ucw : BitVec 32)
  /-- A lane fails by codewords (0), lock (1) or signal (2) (R236). -/
  | laneFailed (p : Fin 16) (i : Fin 17) (why : Fin 3)
  /-- The LANE_OUT record at the head of a link is acted on (R237). -/
  | laneOut (l : Fin 64)
  /-- The SPARE_REQ record at the head of a link is acted on (R237). -/
  | spareReq (l : Fin 64)
  /-- The SPARE_READY record at the head of a link is acted on (R237). -/
  | spareReady (l : Fin 64)
  /-- The MAP record at the head of a link is acted on (R231). -/
  | map (l : Fin 64)
  /-- The CLOSE record at the head of a link is acted on (R239). -/
  | close (l : Fin 64)
  /-- No flit has passed its CRC for 4 microseconds (R239). -/
  | linkDead (l : Fin 64)
  /-- The retrain timer of a DOWN link (R241). -/
  | retrainTimer (l : Fin 64)
  /-- The limit of a local close (R241). -/
  | closeTimeout (l : Fin 64)
  /-- FAB_PORT_CMD.RETRAIN is written 1 for a link (R241). -/
  | retrain (l : Fin 64)
  /-- FAB_PORT_CMD.CLOSE is written 1 for a link (R241). -/
  | fabClose (l : Fin 64)
  /-- FAB_PORT_CMD.FEED_SWAP is written 1 (R243). -/
  | feedSwap (p : Fin 16)
  /-- Feed A (0) or B (1) falls to these powers for 200 ns, or for 10 ms (R243). -/
  | feedLoss (p : Fin 16) (b : Fin 2) (l0 l1 l2 : BitVec 10) (long : Bool)
  /-- Feed A (0) or B (1) rises to these powers (R244). -/
  | feedOk (p : Fin 16) (b : Fin 2) (l0 l1 l2 : BitVec 10)
  /-- FAB_RTR_ID is written (R264). -/
  | fabRtrId (id : BitVec 20)
  /-- FAB_PORT_CFG.SPLIT is written (R230). -/
  | split (p : Fin 16) (v : BitVec 2)
  /-- The next whole message of a link is taken (R256). -/
  | messageArrive (l : Fin 64)
  /-- The first queued message of a class begins on a link (R266). -/
  | messageForward (l : Fin 64) (cls : Fin 6)
  /-- Returns owed on a link leave in a CTRL flit (R255). -/
  | creditReturn (l : Fin 64)
  /-- A Craul WRITE commits (R261). -/
  | write
  /-- A Craul READ commits (R261). -/
  | read
  /-- A Craul ADD commits (R261). -/
  | craulAdd
  /-- A WRITE_DONE response completes its request (R251). -/
  | writeDone
  /-- A READ_DATA response completes its request (R251). -/
  | readData
  /-- An ADD_OLD response completes its request (R251). -/
  | addOld
  /-- A LINK_LAST message is taken (R269). -/
  | linkLast
  /-- No LINK_LAST has arrived for a link within 50 microseconds (R269). -/
  | linkLastTimeout (l : Fin 64)
  /-- An outstanding request of a core reaches the response limit (R271). -/
  | timeout (c : Fin 256) (id : Nat)
  /-- The stall timer of a link's class queue, or of a class's local delivery queue, reaches its limit (R259). -/
  | stall (l : Option (Fin 64)) (cls : Fin 6)
  /-- FAB_WIN_CMD.OPEN is written 1 (R262). -/
  | winOpen
  /-- FAB_WIN_CMD.CLOSE is written 1 (R262). -/
  | winClose
  /-- The last message committed before a window's close has landed (R262). -/
  | winBusyClear (i : Fin 4096)
  /-- FAB_RTR_RT_SEL.WRITE is written 1 (R268). -/
  | rtWrite (idx : Fin 1024) (member : Bool)
  /-- The entry at the head of the Caravan queue becomes active (R278). -/
  | entryActivate
  /-- An active instance whose work is done completes (R281). -/
  | entryComplete (e : Fin 1024)
  /-- An instance has not completed within CARAVAN_TMO (R299). -/
  | caravanTmo (e : Fin 1024)
  /-- The first CREDIT in the collective queue is taken (R297). -/
  | collCredit
  /-- The first CONTRIB in the collective queue is taken (R282). -/
  | contrib
  /-- The first RESULT in the collective queue is taken (R297). -/
  | result
  /-- The first A2A_COUNT in the collective queue is taken (R288). -/
  | a2aCount
  /-- The first A2A_ROWS in the collective queue is taken (R288). -/
  | a2aRows
  /-- The first PERMUTE_DATA in the collective queue is taken (R287). -/
  | permuteData
  /-- The first STATUS in the collective queue is taken (R284). -/
  | status
  /-- The first MUSTER_ARRIVE in the collective queue is taken (R292). -/
  | musterArrive
  /-- The first MUSTER_RELEASE in the collective queue is taken (R292). -/
  | collMusterRelease
  /-- The first RELAY_BLOCK in the collective queue is taken (R290). -/
  | relayBlock
  /-- The first RELAY_CREDIT in the collective queue is taken (R297). -/
  | relayCredit
  /-- Relay passes the next landed block of an instance on (R290). -/
  | relayPassOn (e : Fin 1024)
  /-- A core waits past CARAVAN_PREF_THR (R296). -/
  | prefetchFallback (c : Fin 256)
  /-- CARAVAN_RESHARD.ARM is written 1 with a PERMUTE entry (R286). -/
  | armReshard (e : Fin 1024)
  /-- A frame arrives at a host port (R304); `full` tells that the receive buffer has no room for it. -/
  | ethFrame (i : Fin 4) (f : EthFrame) (full : Bool)
  /-- An ARP request for an IPv4 address arrives (R304). -/
  | arp (i : Fin 4) (ip : BitVec 32)
  /-- A neighbour solicitation for an IPv6 address arrives (R304). -/
  | neighbourSolicitation (i : Fin 4) (ip : BitVec 128)
  /-- A PFC frame arrives: the priorities it names and the pause time of each (R306). -/
  | pfcFrame (i : Fin 4) (en : BitVec 8) (times : List (BitVec 16))
  /-- The free receive space of a port, in KiB, is below XOFF, or below XON with a pause in force (R306). -/
  | pfcXoff (i : Fin 4) (free : BitVec 12)
  /-- The free receive space of a port, in KiB, is above XON (R306). -/
  | pfcXon (i : Fin 4) (free : BitVec 12)
  /-- An RDMA WRITE packet arrives (R316). -/
  | rdmaWrite (p : RocePkt)
  /-- An RDMA READ request arrives (R316). -/
  | rdmaRead (p : RocePkt)
  /-- A SEND, or a packet of an opcode outside the subset, arrives (R309). -/
  | receivedSend (p : RocePkt)
  /-- A CNP arrives for a QP (R311). -/
  | cnp (qpn : BitVec 24)
  /-- An INTERVAL of a QP ends (R311). -/
  | rateInterval (i : Fin 2048)
  /-- An ACK or a NAK for a module SEND arrives: its PSN and AETH syndrome (R313). -/
  | ack (qpn psn : BitVec 24) (synd : BitVec 8)
  /-- The retransmission timer of a QP expires (R313). -/
  | retransmitTimeout (i : Fin 2048)
  /-- ROCE_QP_SEL is written with WRITE 1 (R310). -/
  | qpWrite (i : Fin 2048)
  /-- ROCE_MR_SEL is written with WRITE 1 (R314). -/
  | mrWrite (i : Fin 64)
  /-- SQ_DB of a queue is written from a QP (R317, R318). -/
  | sqDb (q : Fin 4) (qp : Fin 2048) (v : BitVec 32)
  /-- CQ_DB of a queue is written from a QP (R317, R318). -/
  | cqDb (q : Fin 4) (qp : Fin 2048) (v : BitVec 32)
  /-- The next command of a queue is fetched and starts (R323). -/
  | commandFetch (q : Fin 4)
  /-- The record of a completed command is written (R325); queue 4 stands for the I3C COMMAND message whose TAG is `n`. -/
  | commandComplete (q : Fin 5) (n : BitVec 32)
  /-- The event that has waited longest is recorded (R328). -/
  | event
  /-- CMDQ_CTRL.RESET of a queue is written 1 (R327). -/
  | queueReset (q : Fin 4)
  /-- CMDQ_CTRL.EN of a queue is written 1 (R322). -/
  | queueEnable (q : Fin 4)
  /-- NOP runs (R326). -/
  | cmdNop (q : Fin 5) (n : BitVec 32)
  /-- JOB_START runs (R341). -/
  | jobStart (q : Fin 5) (n : BitVec 32)
  /-- JOB_STOP runs (R345). -/
  | jobStop (q : Fin 5) (n : BitVec 32)
  /-- STEP_GO runs (R344). -/
  | stepGo (q : Fin 5) (n : BitVec 32)
  /-- COPY runs (R326). -/
  | cmdCopy (q : Fin 5) (n : BitVec 32)
  /-- FILL runs (R326). -/
  | fill (q : Fin 5) (n : BitVec 32)
  /-- CRC runs (R326). -/
  | crc (q : Fin 5) (n : BitVec 32)
  /-- INFO runs (R326). -/
  | info (q : Fin 5) (n : BitVec 32)
  /-- POWER_LIMIT is accepted (R386). -/
  | powerLimit (q : Fin 5) (n : BitVec 32)
  /-- POWER_STATE runs (R382). -/
  | powerState (q : Fin 5) (n : BitVec 32)
  /-- UPDATE runs (R413). -/
  | update (q : Fin 5) (n : BitVec 32)
  /-- LOG_READ runs (R411). -/
  | cmdLogRead (q : Fin 5) (n : BitVec 32)
  /-- ATTEST runs (R427). -/
  | attest (q : Fin 5) (n : BitVec 32)
  /-- REMOVE_READY runs (R468). -/
  | removeReady (q : Fin 5) (n : BitVec 32)
  /-- DEBUG_OPEN runs (R433). -/
  | debugOpen (q : Fin 5) (n : BitVec 32)
  /-- DEBUG_CLOSE runs (R436). -/
  | debugClose (q : Fin 5) (n : BitVec 32)
  /-- HALT runs (R326). -/
  | halt (q : Fin 5) (n : BitVec 32)
  /-- RESUME runs (R326). -/
  | resume (q : Fin 5) (n : BitVec 32)
  /-- SNAPSHOT runs (R326). -/
  | snapshot (q : Fin 5) (n : BitVec 32)
  /-- A held job whose work is done, or whose contexts are down, ends (R345). -/
  | jobEnd (b : Fin 2)
  /-- A healthy core that became ready takes a saved-out logical core (R445). -/
  | coreReadyMap (c : Fin 256)
  /-- The window of a Curfew milestone closes (R357). -/
  | curfewClose (b : Fin 2) (i : Fin 64)
  /-- The pending fall-back image of a bank starts (R358). -/
  | fallbackStart (b : Fin 2)
  /-- The switch edge of a die's divider (R377). -/
  | dividerSwitch (d : Fin 4)
  /-- REFCLK shows no edge for 100 ns (R378). -/
  | refLost
  /-- The reference has been lost for 100 ms (R378). -/
  | refLossP3
  /-- The reference has been lost for 10 s (R378). -/
  | refLossHostDown
  /-- Edges of the reference have returned for 1 ms (R378). -/
  | refBack
  /-- A die compares its copy of the ESC with the hub's (R379). -/
  | escCheck (d : Fin 4) (copy : BitVec 64)
  /-- Input power, die power and monitors are sampled (R387, R397). -/
  | powerSample (input : BitVec 13) (d0 d1 d2 d3 : BitVec 12) (mons : List (Fin 72 × BitVec 16))
  /-- A tick of the cap loop (R387). -/
  | capLoopTick
  /-- The core-rail current of a die exceeds its limit for 200 ns (R388). -/
  | currentDemand (d : Fin 4)
  /-- A THROT_N assertion is recognised (R389). -/
  | throtN
  /-- THROT_N has been high for 4 microseconds (R389). -/
  | throtNEnd
  /-- An assertion of THROT_N has been recognised for 30 s (R389). -/
  | throtStuck
  /-- LEAK_N has been low for 100 microseconds (R390). -/
  | leak
  /-- PWR_CTRL.LEAK_CLR is written 1 while LEAK_N reads high or low (R390). -/
  | leakClr (high : Bool)
  /-- A temperature is sampled at or above a threshold that steps a demand (R391). -/
  | tempHot (u : TempAt)
  /-- A thermal demand of a die steps (R391). -/
  | thermalStep (d : Fin 4)
  /-- A temperature has been at or above a trip threshold for 100 microseconds (R392). -/
  | trip (u : TempAt)
  /-- An optical engine (16 the host engine) is sampled at a temperature of 85 degrees or more (R391). -/
  | engineHot (e : Fin 17) (temp : BitVec 8)
  /-- The coolant inlet has been above 40 degrees for 10 s (R394). -/
  | coolantHot (inlet : BitVec 8)
  /-- The coolant outlet has been more than 36 degrees above the inlet for 10 s (R394). -/
  | flowLow (inlet outlet : BitVec 8)
  /-- The module completes the entry to P3 (R384). -/
  | p3Entry
  /-- The module leaves P3 (R385). -/
  | p3Exit
  /-- A core in P2 is self-tested and parked (R383). -/
  | corePark (c : Fin 256)
  /-- The hub watchdog expires (R405). -/
  | watchdogExpiry
  /-- The boot ROM starts from the inactive slot (R414). -/
  | rollback
  /-- Firmware booted by an update has not set HEALTHY within 30 s (R414). -/
  | healthTimeout
  /-- An uncorrectable error in the Innkeeper's SRAM (R401). -/
  | sramUe
  /-- The Innkeeper refreshes its sensor snapshot from these samples: class, index, value (R406). -/
  | sensorRefresh (values : List (Fin 7 × Fin 272 × BitVec 16))
  /-- Buffered log records are written to flash (R409). -/
  | logFlush
  /-- A GET_SENSOR message (R408). -/
  | getSensor (v : Via)
  /-- A READ_REG message (R408). -/
  | readReg (v : Via)
  /-- A WRITE_REG message (R408). -/
  | writeReg (v : Via)
  /-- A COMMAND message (R408). -/
  | command (v : Via)
  /-- A LOG_READ message (R411). -/
  | msgLogRead (v : Via)
  /-- An UPDATE_WRITE message (R408). -/
  | updateWrite (v : Via)
  /-- An UPDATE_APPLY message (R413). -/
  | updateApply (v : Via)
  /-- An UPDATE_STATUS message (R408). -/
  | updateStatus (v : Via)
  /-- A die's pending Steward firmware and core microcode are loaded (R413). -/
  | pendingComponentLoad (d : Fin 4)
  /-- The boot ROM verifies, measures and starts the Innkeeper firmware (R421). -/
  | boot
  /-- The security block checks, measures and loads a component of type `t` of the active slot (R422). -/
  | componentLoad (t : Fin 6)
  /-- A GET_INFO message (R427). -/
  | getInfo (v : Via)
  /-- A GET_CERT message (R427). -/
  | getCert (v : Via)
  /-- A GET_MEAS_LOG message (R427). -/
  | getMeasLog (v : Via)
  /-- A GET_REPORT message (R428). -/
  | getReport (v : Via)
  /-- A GET_NONCE message (R427). -/
  | getNonce (v : Via)
  /-- A DEBUG_TOKEN message (R432). -/
  | debugToken (v : Via)
  /-- A LIFECYCLE_TOKEN message (R430). -/
  | lifecycleToken (v : Via)
  /-- A REVOKE_TOKEN message (R420). -/
  | revokeToken (v : Via)
  /-- A DEBUG_CLOSE message (R427). -/
  | msgDebugClose (v : Via)
  /-- The memories of a zeroization are zero (R434). -/
  | zeroize
  /-- 100 ms have passed since the response of a lifecycle transition (R430). -/
  | lifecycleReset
  /-- SEC_LOCK.LOCK is written 1 (R438). -/
  | secLock
  /-- The module comes up from PWR_GOOD (R440). -/
  | powerUp
  /-- RESET_N has been low for 10 microseconds and is released (R441). -/
  | resetN
  /-- A RESET_N pulse of so many whole microseconds, fewer than ten (R509). -/
  | resetIgnored (us : BitVec 8)
  /-- The Innkeeper builds the domain of a die and zeroes it (R440). -/
  | domainReady (d : Fin 4)
  /-- The Steward brings a core up (R455). -/
  | coreBringUp (c : Fin 256)
  /-- A self-test of a unit begins (R447): core, 256 + die common, 260 hub memories, 261 hub logic. -/
  | selftestStart (u : Fin 262)
  /-- A self-test ends with these findings (R453). -/
  | selftestDone (u : Fin 262) (f : TestFinding)
  /-- The budget window of a unit under test closes (R449). -/
  | selftestBudget (u : Fin 262)
  /-- A soft repair of a page is burnt and reads back well or not (R458). -/
  | fuseBurn (page : Fin 16384) (element : BitVec 8) (ok : Bool)
  /-- RNG_CTRL.KAT is written 1 (R184). -/
  | kat (c : Fin 256)
  /-- SPAD_CTRL.ZERO is written 1 (R94). -/
  | zero (c : Fin 256)
  /-- A scratchpad zero fill finishes (R94). -/
  | zeroFillDone (c : Fin 256)
  /-- ARRAY_CTRL.PCLR is written (R69). -/
  | pclr (c : Fin 256) (m : BitVec 4)
  /-- ARRAY_PART is written (R67). -/
  | arrayPart (c : Fin 256) (v : BitVec 32)
  /-- ARRAY_REPAIR_ROW or _COL is written (R73). -/
  | arrayRepair (c : Fin 256) (col : Bool) (v : BitVec 32)
  /-- LEDGER_HBASE of a handle is written (R103). -/
  | ledgerHbase (c : Fin 256) (h : Fin 64) (v : BitVec 32)
  /-- STREAM_CTRL.STOP is written (R149). -/
  | streamStop (c : Fin 256) (m : BitVec 8)
  /-- SEQ_CTRL.HALT is written (R181). -/
  | seqHalt (c : Fin 256) (v : Bool)
  /-- SEQ_CTRL.STEP is written 1 (R181). -/
  | seqStep (c : Fin 256)
  /-- SEQ_IMEM_DATA is read, or written with a value (R181). -/
  | seqImemData (c : Fin 256) (v : Option (BitVec 32))
  /-- CARAVAN_PLAN_DATA is read, or written with a value (R301). -/
  | caravanPlanData (v : Option (BitVec 32))
  /-- CARAVAN_RANK_DATA is read, or written with a value (R301). -/
  | caravanRankData (v : Option (BitVec 32))
  /-- JOB_STEPNUM's low or high half of a bank is written by a source (R177). -/
  | jobStepnum (src : Src) (b : Fin 2) (hi : Bool) (v : BitVec 32)
  /-- BLK_CTRL.ERR_CLR of a page is written 1 (R481). -/
  | errClr (page : Fin 16384)
  /-- BLK_CTRL.CNT_CLR of a page is written 1 (R481). -/
  | cntClr (page : Fin 16384)
  /-- A source reads a _LO word of a pair (R488). -/
  | pairLoRead (src : Src) (page : Fin 16384) (word : Fin 1024)
  /-- A source writes a _LO word of a writable pair (R489). -/
  | pairLoWrite (src : Src) (page : Fin 16384) (word : Fin 1024) (v : BitVec 32)
  /-- SYS_SEM[k] is read (R491). -/
  | sysSem (k : Fin 16)
  /-- SYS_SEM_REL is written (R491). -/
  | sysSemRel (v : BitVec 16)
  /-- The Innkeeper has waited 10 ms for semaphore 0 (R492). -/
  | semBreak
  /-- A source writes a register (R494). -/
  | registerWrite (src : Src) (page : Fin 16384) (word : Fin 1024) (v : BitVec 32)
  /-- NOC_HAZ_CTRL.HIT of a range is cleared (R151). -/
  | nocHazHitClear (d : Fin 4) (w : Fin 4)
  /-- The input capacitance is within 5 percent (R464). -/
  | prechargeDone
  /-- PWR_EN is asserted with these SLOT_ID straps (R471, R510). -/
  | pwrEnAssert (slot : BitVec 8)
  /-- EJECT_N is asserted: freshly, already low at power-up, or held low (R466). -/
  | ejectN (fresh : Bool)
  /-- The module completes the entry to P4 (R469). -/
  | p4Entry
  /-- PWR_EN is lost (false) or the input falls below 44 V (true), and the last record is written so many ms later (R472). -/
  | lossOfInput (low : Bool) (ms : BitVec 16)
  /-- The input returns above 50 V for 100 ms with PWR_EN asserted (R473). -/
  | inputRestore
  /-- The input has been outside its steady range for 10 ms; the lower blade voltage in 0.1 V (R504). -/
  | inputRange (v : BitVec 16)
  /-- The host laser feed is measured below 8 dBm for 200 ns (R308). -/
  | hostFeedLoss (pwr : BitVec 10)
  /-- A host port's link comes up or goes down, with its faults and FEC locks (R303). -/
  | hostLink (i : Fin 4) (up lfault rfault : Bool) (fec : BitVec 4)
  /-- A port's spare receiver has qualified (R237). -/
  | spareQualified (p : Fin 16)
  /-- The host laser feed is measured OK again (R308). -/
  | hostFeedOk (pwr : BitVec 10)
  /-- An optical engine is sampled below 80 degrees (R391). -/
  | engineCool (e : Fin 17) (temp : BitVec 8)
  /-- The current demand of a die has lasted 100 microseconds (R388). -/
  | currentDemandEnd (d : Fin 4)
  /-- Newly booted firmware sets HEALTHY (R413). -/
  | healthy
  /-- An MCTP control message arrives over I3C (R407): its instance, command code and data. -/
  | mctpControl (inst : BitVec 8) (cmd : BitVec 8) (data : List (BitVec 8))
  /-- The I3C controller assigns a dynamic address (R512). -/
  | entdaa (addr : BitVec 7)
  /-- An instruction is shifted into the TAP (R513). -/
  | jtagInstruction (ir : BitVec 8)
  /-- A source reads a register that holds an RC field (R9). -/
  | rcRead (src : Src) (page : Fin 16384) (word : Fin 1024)
  deriving DecidableEq, Repr

end Sys2Proof
end

