-- ==== Sys2Proof/Decode.lean ====
section
/-!
DEFINITION. The commands that a word of bits spells. No row of spec/opcode_table.json gives bits: a command of this block is
not a word, and no word spells one.
-/
namespace Sys2Proof

/-- The command that a word spells by the bits of spec/opcode_table.json: none, since the table gives no row any bits. -/
def decodeTableWord (_nbits _w : Nat) : Option Instr := none

end Sys2Proof
end

