-- ==== Sys2Proof/Machine/SMap.lean ====
section
/-!
DEFINITION. Sparse tables: the one way this model stores anything that has an address, an index or a
number (memory bytes, register words, register files, tables of the hub). A table is a list of
(key, value) pairs in one canonical form: keys strictly rising and no value equal to what an unlisted
key reads as. Equal tables are therefore equal lists.
-/
namespace Sys2Proof.Machine

/-- A sparse table from numbers to values. -/
abbrev SMap (α : Type) := List (Nat × α)

/-- The value at key `k`; an unlisted key reads as `d k`. -/
def smGet {α : Type} (d : Nat → α) : SMap α → Nat → α
  | [], k => d k
  | (j, v) :: r, k => if k < j then d k else if j = k then v else smGet d r k

/-- The table with key `k` set to `v`, in canonical form. -/
def smPut {α : Type} [DecidableEq α] (d : Nat → α) : SMap α → Nat → α → SMap α
  | [], k, v => if v = d k then [] else [(k, v)]
  | (j, w) :: r, k, v =>
    if k < j then (if v = d k then (j, w) :: r else (k, v) :: (j, w) :: r)
    else if j = k then (if v = d k then r else (k, v) :: r)
    else (j, w) :: smPut d r k v

/-- Every key of the table is above `lo`, keys rise strictly, and no listed value is the default. -/
def smWfFrom {α : Type} [DecidableEq α] (d : Nat → α) : Nat → SMap α → Bool
  | _, [] => true
  | lo, (k, v) :: r => decide (lo ≤ k) && decide (v ≠ d k) && smWfFrom d (k + 1) r

/-- The canonical form of a table. -/
def smWf {α : Type} [DecidableEq α] (d : Nat → α) (m : SMap α) : Bool := smWfFrom d 0 m

/-- A table of plain data whose unlisted keys read as one value. -/
def tabGet {α : Type} (d : α) (m : SMap α) (k : Nat) : α := smGet (fun _ => d) m k

/-- Setting one key of such a table. -/
def tabPut {α : Type} [DecidableEq α] (d : α) (m : SMap α) (k : Nat) (v : α) : SMap α :=
  smPut (fun _ => d) m k v

/-- Removing every key that a test names (it reads as the default afterwards). -/
def tabDrop {α : Type} (p : Nat → Bool) (m : SMap α) : SMap α := m.filter (fun e => !p e.1)

/-- Byte memory: Host cells (address, byte), unlisted bytes read as zero. -/
abbrev Memory := List Host.Cell

/-- What a byte of memory that nothing has written reads as (log entry 3: DESIGN CHOICE). -/
def memEmpty : Byte := 0#8

/-- One byte of memory. -/
def memByte (m : Memory) (a : Nat) : Byte := tabGet memEmpty m a

/-- Memory with one byte written. -/
def memPut (m : Memory) (a : Nat) (v : Byte) : Memory := tabPut memEmpty m a v

/-- `n` bytes from address `a` upward. -/
def memRead (m : Memory) (a : Nat) : Nat → List Byte
  | 0 => []
  | n + 1 => memByte m a :: memRead m (a + 1) n

/-- Bytes written from address `a` upward. -/
def memWrite (m : Memory) (a : Nat) : List Byte → Memory
  | [] => m
  | b :: r => memWrite (memPut m a b) (a + 1) r

/-- The canonical form of byte memory. -/
def Memory.wf (m : Memory) : Bool := smWf (fun _ => memEmpty) m

/-- Bytes, lowest address first, as one little-endian number (R6). -/
def bytesToNat : List Byte → Nat
  | [] => 0
  | b :: r => b.toNat + 256 * bytesToNat r

/-- The low `n` bytes of a number, lowest first (R6). -/
def natToBytes : Nat → Nat → List Byte
  | 0, _ => []
  | n + 1, v => BitVec.ofNat 8 v :: natToBytes n (v / 256)

/-- `n` bytes from address `a` upward as one little-endian number (R6). -/
def memNat (m : Memory) (a n : Nat) : Nat := bytesToNat (memRead m a n)

/-- `n` zero bytes. -/
def zeros (n : Nat) : List Byte := List.replicate n 0#8

end Sys2Proof.Machine
end

