-- ==== Sys2Proof/Machine/Crc.lean ====
section
/-!
DEFINITION. CRC-32C as R229 defines it for every use in the spec.
-/
namespace Sys2Proof.Machine

/-- Shift the register right by `n` bits with the reflected polynomial 0x82F6_3B78 (R229). -/
def crcShift : Nat → Nat → Nat
  | 0, r => r
  | n + 1, r => crcShift n (if r % 2 = 1 then (r / 2) ^^^ 0x82F63B78 else r / 2)

/-- The register after one byte. -/
def crcByte (r : Nat) (b : Byte) : Nat := crcShift 8 (r ^^^ b.toNat)

/-- The register after a list of bytes in ascending order. -/
def crcRun (r : Nat) (bs : List Byte) : Nat := bs.foldl crcByte r

/-- The final complement. -/
def crcFin (r : Nat) : Nat := r ^^^ 0xFFFFFFFF

/-- CRC-32C of a list of bytes (R229). -/
def crc32c (bs : List Byte) : Nat := crcFin (crcRun 0xFFFFFFFF bs)

end Sys2Proof.Machine
end

