-- ==== Sys2Proof/Config.lean ====
section
/-!
DEFINITION. What the spec leaves open: the free values (opaque constants applied to a counter of State, log
entry 2) and the functions whose algorithms lie outside the spec.
-/
namespace Sys2Proof.Config

/-- A free byte for each value of the free counter (log entry 2). -/
opaque freeByte : Nat → BitVec 8

/-- A free 32-bit word for each value of the free counter (log entry 2). -/
opaque freeWord : Nat → BitVec 32

/-- A free 64-bit value for each value of the free counter (log entry 2). -/
opaque freeDWord : Nat → BitVec 64

/-- The number that stands for a named value where the spec names the values of a field and gives them no codes: the
first argument is the field (log entry 8), the second the value's place in the spec's list. -/
opaque code : Nat → Nat → Nat

/-- Whether an Ed25519 signature over a message verifies with the key of a slot (R418, RFC 8032; log entry 17). -/
opaque edOk : Nat → List (BitVec 8) → List (BitVec 8) → Bool

/-- Whether an ML-DSA-65 signature over a message verifies with the key of a slot (R418, FIPS 204; log entry 17). -/
opaque mldsaOk : Nat → List (BitVec 8) → List (BitVec 8) → Bool

/-- Byte of the Ed25519 signature of a message by the identity key (R428; log entry 17). -/
opaque edSig : List (BitVec 8) → Nat → BitVec 8

/-- Byte of the hedged ML-DSA-65 signature of a message by the identity key, for a draw of the generator (R428; log
entry 17). -/
opaque mldsaSig : Nat → List (BitVec 8) → Nat → BitVec 8

/-- Length in bytes of a certificate: algorithm, device or intermediate (R426; log entry 17). -/
opaque certLen : Nat → Nat → Nat

/-- Byte of a certificate (R426; log entry 17). -/
opaque certByte : Nat → Nat → Nat → BitVec 8

/-- Whether the identity keys derived at a module reset equal those of the certificates (R425; log entry 17). -/
opaque idOk : Nat → Bool

/-- ROM version of the fuse record (R423; log entry 17). -/
opaque romVersion : BitVec 8

/-- Byte of the fused hash of a key slot (R417, R423; log entry 17). -/
opaque slotHash : Nat → Nat → BitVec 8

/-- What a register that counts or measures physical traffic or corrections shows, for which the spec gives no row that
changes it: its key and the root-clock tick (log entry 49). -/
opaque phys : Nat → Nat → Nat

/-- Length in bytes of what SNAPSHOT writes for a number of cores (R326; log entry 15). -/
opaque snapLen : Nat → Nat

end Sys2Proof.Config
end

