-- ==== Sys2Proof/Machine/CarState.lean ====
section
/-!
DEFINITION. The state of Caravan beside its register page (R274 to R300).
-/
namespace Sys2Proof.Machine

/-- An instance of a plan entry that has triggered and not completed (R278): the values it took at its trigger, and, once
active, how far it has come: per rank the bytes received, the bytes held, the bytes sent, the limit granted by that rank
and whether its counts or its STATUS OK have come; the reduced prefix or the blocks landed; the blocks passed on; the
bytes of each slice landed; the index list it read. `status` is set once the instance is to complete. -/
structure Inst where
  entry : Nat
  inst : Nat
  step : Nat
  lepoch : Nat
  trig : Nat
  bank : Nat
  stepNo : Nat
  actAt : Nat := 0
  got : SMap Nat := []
  held : List (Nat × Memory) := []
  sent : SMap Nat := []
  limit : SMap Nat := []
  from_ : List Nat := []
  counts : SMap Nat := []
  done : Nat := 0
  passed : Nat := 0
  landed : SMap Nat := []
  idx : List Nat := []
  dropped : Nat := 0
  status : Option Nat := none
  deriving DecidableEq, Repr

/-- An arrival of a child module at a SCOPE 1 Muster (R292): its sequence, KIND, and whether it is degraded. -/
structure ChildArr where
  seq : Nat := 0
  kind : Nat := 0
  deg : Bool := false
  here : Bool := false
  deriving DecidableEq, Repr

/-- Caravan: the plan table as 32-bit words, the bank that loaded each entry (plus one), the rank memory, the groups as
(BASE, SIZE), the triggers of each entry so far, the queue, the active instances, arrivals of child modules by rank, the
received counts of the latest completed instance of each dispatch entry (key entry · 2^24 + rank · 64 + expert), degraded
arrivals by bank, step and position, and the idle counts (key 8 · logical core + cause). -/
structure Caravan where
  plan : SMap Word := []
  owner : SMap Nat := []
  ranks : SMap Nat := []
  groups : SMap (Nat × Nat) := []
  trigs : SMap Nat := []
  queue : List Inst := []
  active : List Inst := []
  children : SMap ChildArr := []
  a2a : SMap Nat := []
  degPos : List (Nat × Nat × Nat) := []
  idle : SMap Nat := []
  deriving DecidableEq, Repr

end Sys2Proof.Machine
end

