-- ==== Sys2Proof/Machine/Numfmt.lean ====
section
/-!
DEFINITION. Number formats, scaling and rounding (02_number_formats.md): the seven element formats, the
exact values they stand for, rounding to nearest and stochastic rounding, the flags, block scaling with and
without the sub-block nudge, and the FP32 arithmetic of the array, the vector unit and Caravan. Every value
is an exact dyadic number, magnitude × 2^exponent, until the one rounding that a rule names.
-/
namespace Sys2Proof.Machine

/-- A floating-point value as a rule sees it: a finite dyadic number with its sign kept (so that −0.0 is
kept, R26), an infinity or a NaN. `fin neg m e` is (−1)^neg × m × 2^e. -/
inductive FV where
  | fin (neg : Bool) (m : Nat) (e : Int)
  | inf (neg : Bool)
  | nan (neg : Bool)
  deriving DecidableEq, Repr

/-- The special encodings of a format (R24): all of IEEE 754's, one NaN per sign, or none. -/
inductive Specials where
  | ieee | nanOnly | none
  deriving DecidableEq, Repr

/-- One element format (R24): exponent and mantissa widths, bias, special encodings, emax. -/
structure Fmt where
  ew : Nat
  mw : Nat
  bias : Nat
  sp : Specials
  emax : Int
  deriving DecidableEq, Repr

def fmtFP32 : Fmt := { ew := 8, mw := 23, bias := 127, sp := .ieee, emax := 127 }
def fmtBF16 : Fmt := { ew := 8, mw := 7, bias := 127, sp := .ieee, emax := 127 }
def fmtE4M3 : Fmt := { ew := 4, mw := 3, bias := 7, sp := .nanOnly, emax := 8 }
def fmtE5M2 : Fmt := { ew := 5, mw := 2, bias := 15, sp := .ieee, emax := 15 }
def fmtE3M2 : Fmt := { ew := 3, mw := 2, bias := 3, sp := .none, emax := 4 }
def fmtE2M3 : Fmt := { ew := 2, mw := 3, bias := 1, sp := .none, emax := 2 }
def fmtE2M1 : Fmt := { ew := 2, mw := 1, bias := 1, sp := .none, emax := 2 }

/-- The element format of an ELEM code (R22); codes 0x7 to 0xF are reserved. -/
def fmtOfElem (elem : BitVec 4) : Option Fmt :=
  match elem.toNat with
  | 0 => some fmtFP32
  | 1 => some fmtBF16
  | 2 => some fmtE4M3
  | 3 => some fmtE5M2
  | 4 => some fmtE3M2
  | 5 => some fmtE2M3
  | 6 => some fmtE2M1
  | _ => none

/-- Width of an element in bits (R24). -/
def fmtWidth (f : Fmt) : Nat := 1 + f.ew + f.mw

/-- Exponent of the least significant bit of a subnormal: 1 − bias − mantissa width. -/
def fmtMinExp (f : Fmt) : Int := 1 - (f.bias : Int) - (f.mw : Int)

/-- Magnitude bits of the largest finite value (R24, R25). -/
def fmtMaxBits (f : Fmt) : Nat :=
  match f.sp with
  | .ieee => (2 ^ f.ew - 1) * 2 ^ f.mw - 1
  | .nanOnly => 2 ^ (f.ew + f.mw) - 2
  | .none => 2 ^ (f.ew + f.mw) - 1

/-- The value of an encoding (R24, R25). -/
def decodeFmt (f : Fmt) (bits : Nat) : FV :=
  let neg := bits.testBit (f.ew + f.mw)
  let ef := natField bits f.mw f.ew
  let mf := bits % 2 ^ f.mw
  if f.sp = .ieee ∧ ef = 2 ^ f.ew - 1 then
    if mf = 0 then .inf neg else .nan neg
  else if f.sp = .nanOnly ∧ ef = 2 ^ f.ew - 1 ∧ mf = 2 ^ f.mw - 1 then .nan neg
  else if ef = 0 then .fin neg mf (fmtMinExp f)
  else .fin neg (mf + 2 ^ f.mw) (fmtMinExp f + (ef : Int) - 1)

/-- Sign bit of a format in place. -/
def signBits (f : Fmt) (neg : Bool) : Nat := if neg then 2 ^ (f.ew + f.mw) else 0

/-- The canonical NaN of a format (R27), with the given sign; FP4 and FP6 have none and R34 step 2 governs. -/
def canonNaN (f : Fmt) (neg : Bool) : Nat :=
  signBits f neg +
  match f.sp with
  | .ieee => if f.ew = 5 then 0x7E else (2 ^ f.ew - 1) * 2 ^ f.mw + 2 ^ (f.mw - 1)
  | .nanOnly => 2 ^ (f.ew + f.mw) - 1
  | .none => 0

/-- Infinity of a format (FP32, BF16, E5M2 only). -/
def infBits (f : Fmt) (neg : Bool) : Nat := signBits f neg + (2 ^ f.ew - 1) * 2 ^ f.mw

/-- Largest finite value with a sign. -/
def maxBits (f : Fmt) (neg : Bool) : Nat := signBits f neg + fmtMaxBits f

/-- The sticky flags of R46: bits 0 to 4 are IV, DZ, OF, UF, NX. -/
abbrev Flags5 := BitVec 5

def flIV : Flags5 := 0b00001#5
def flDZ : Flags5 := 0b00010#5
def flOF : Flags5 := 0b00100#5
def flUF : Flags5 := 0b01000#5
def flNX : Flags5 := 0b10000#5
def flNone : Flags5 := 0#5

/-- Compare two dyadic magnitudes: m₁ × 2^e₁ ≤ m₂ × 2^e₂, exactly. -/
def magLe (m₁ : Nat) (e₁ : Int) (m₂ : Nat) (e₂ : Int) : Bool :=
  if e₁ ≤ e₂ then decide (m₁ ≤ m₂ <<< (e₂ - e₁).toNat)
  else decide (m₁ <<< (e₁ - e₂).toNat ≤ m₂)

/-- Strictly less, exactly. -/
def magLt (m₁ : Nat) (e₁ : Int) (m₂ : Nat) (e₂ : Int) : Bool := !magLe m₂ e₂ m₁ e₁

/-- The rounding in force: to nearest with ties to even, or stochastic with the 24 random bits of R43. -/
inductive Rnd where
  | rne
  | sr (u : Nat)
  deriving DecidableEq, Repr

/-- Round a magnitude m × 2^e to a multiple of 2^q (R43): the kept multiple, and whether it is inexact. -/
def roundAt (r : Rnd) (m : Nat) (e q : Int) : Nat × Bool :=
  if q ≤ e then (m <<< (e - q).toNat, false)
  else
    let sh := (q - e).toNat
    let k := m >>> sh
    let rem := m % 2 ^ sh
    if rem = 0 then (k, false)
    else
      match r with
      | .rne =>
        let half := 2 ^ (sh - 1)
        (if rem < half then k else if half < rem then k + 1 else if k % 2 = 0 then k else k + 1, true)
      | .sr u => (if u < (rem * 2 ^ 24) >>> sh then k + 1 else k, true)

/-- The result of rounding a non-zero magnitude into a format without regard to overflow: the multiple, the
exponent of its unit, inexactness, and tininess after rounding (R46). -/
structure Rounded where
  k : Nat
  q : Int
  inexact : Bool
  tiny : Bool
  deriving DecidableEq, Repr

/-- Round a magnitude to a format's precision (R43, R46). -/
def roundMag (f : Fmt) (r : Rnd) (m : Nat) (e : Int) : Rounded :=
  let top : Int := e + (bitLen m : Int)
  let qU : Int := top - ((f.mw : Int) + 1)
  let q : Int := max qU (fmtMinExp f)
  let (k, ix) := roundAt r m e q
  let (kU, _) := roundAt r m e qU
  { k := k, q := q, inexact := ix,
    tiny := decide (m ≠ 0) && magLt kU qU (2 ^ f.mw) (fmtMinExp f) }

/-- The magnitude bits of a kept multiple k × 2^q that lies within a format's range. -/
def packMag (f : Fmt) (k : Nat) (q : Int) : Nat :=
  if k < 2 ^ f.mw then k
  else if k = 2 ^ (f.mw + 1) then ((q + 1 - fmtMinExp f).toNat + 1) * 2 ^ f.mw
  else ((q - fmtMinExp f).toNat + 1) * 2 ^ f.mw + (k - 2 ^ f.mw)

/-- Magnitude and exponent of a format's largest finite value. -/
def maxMag (f : Fmt) : Nat × Int :=
  match decodeFmt f (fmtMaxBits f) with
  | .fin _ m e => (m, e)
  | _ => (0, 0)

/-- The IEEE 754 overflow threshold of round to nearest: the largest finite value plus half a unit. -/
def ovfThreshold (f : Fmt) : Nat × Int :=
  let (m, e) := maxMag f
  (2 * m + 1, e - 1)

/-- IEEE 754 rounding of a finite value into FP32 or any IEEE-like format, with its flags (R46, R48). -/
def roundIeee (f : Fmt) (neg : Bool) (m : Nat) (e : Int) : Nat × Flags5 :=
  if m = 0 then (signBits f neg, flNone)
  else
    let (tm, te) := ovfThreshold f
    if magLe tm te m e then (infBits f neg, flOF ||| flNX)
    else
      let r := roundMag f .rne m e
      (signBits f neg + packMag f r.k r.q,
        (if r.tiny ∧ r.inexact then flUF else flNone) ||| (if r.inexact then flNX else flNone))

/-- Conversion of a value into a target element format (R27, R43, R44, R46). `sat` is the SAT bit of the
format byte. A NaN for FP4 or FP6 writes element field 0 (R34 step 2). -/
def convertTo (f : Fmt) (sat : Bool) (r : Rnd) : FV → Nat × Flags5
  | .nan neg =>
    match f.sp with
    | .none => (0, flNone)
    | _ => (canonNaN f neg, flNone)
  | .inf neg =>
    if f = fmtFP32 ∨ ((f = fmtE5M2 ∨ f = fmtBF16) ∧ !sat) then (infBits f neg, flNone)
    else (maxBits f neg, flOF ||| flNX)
  | .fin neg m e =>
    if m = 0 then (signBits f neg, flNone)
    else if f = fmtFP32 then roundIeee f neg m e
    else
      let (xm, xe) := maxMag f
      if magLt xm xe m e then
        let (tm, te) := ovfThreshold f
        (if (f = fmtE5M2 ∨ f = fmtBF16) ∧ !sat ∧ magLe tm te m e then infBits f neg else maxBits f neg,
          flOF ||| flNX)
      else
        let k := roundMag f r m e
        (signBits f neg + packMag f k.k k.q,
          (if k.tiny ∧ k.inexact then flUF else flNone) ||| (if k.inexact then flNX else flNone))

/-! ## Exact arithmetic on values -/

/-- A finite value as a signed multiple of 2^q, for q no greater than its exponent. -/
def toIntAt (neg : Bool) (m : Nat) (e q : Int) : Int :=
  let a : Int := (m <<< (e - q).toNat : Nat)
  if neg then -a else a

/-- The value multiplied by 2^x. -/
def scaleFV (x : Int) : FV → FV
  | .fin n m e => .fin n m (e + x)
  | v => v

/-- Exact product; an invalid product is a NaN with IV, a NaN operand gives a NaN without (R27, R46). -/
def mulFV : FV → FV → FV × Flags5
  | .nan _, _ => (.nan false, flNone)
  | _, .nan _ => (.nan false, flNone)
  | .inf a, .inf b => (.inf (a != b), flNone)
  | .inf a, .fin b m _ => if m = 0 then (.nan false, flIV) else (.inf (a != b), flNone)
  | .fin a m _, .inf b => if m = 0 then (.nan false, flIV) else (.inf (a != b), flNone)
  | .fin a m e, .fin b n x => (.fin (a != b) (m * n) (e + x), flNone)

/-- Exact sum; when the exact sum is zero it is −0.0 only if both terms are −0.0 (R46, R47 step 2). -/
def addFV : FV → FV → FV × Flags5
  | .nan _, _ => (.nan false, flNone)
  | _, .nan _ => (.nan false, flNone)
  | .inf a, .inf b => if a = b then (.inf a, flNone) else (.nan false, flIV)
  | .inf a, .fin _ _ _ => (.inf a, flNone)
  | .fin _ _ _, .inf b => (.inf b, flNone)
  | .fin a m e, .fin b n x =>
    let q := min e x
    let s := toIntAt a m e q + toIntAt b n x q
    if s = 0 then (.fin (a && b && decide (m = 0) && decide (n = 0)) 0 q, flNone)
    else (.fin (decide (s < 0)) s.natAbs q, flNone)

/-- Round an exact value to FP32; a NaN result is the canonical NaN with sign 0 (R27). -/
def toFP32 : FV → Nat × Flags5
  | .nan _ => (0x7FC00000, flNone)
  | .inf n => (infBits fmtFP32 n, flNone)
  | .fin n m e => roundIeee fmtFP32 n m e

/-- The value of an FP32 word. -/
def fvOf32 (w : Nat) : FV := decodeFmt fmtFP32 w

/-- FP32 addition, rounded once. -/
def fAdd (a b : Nat) : Nat × Flags5 :=
  let (v, f) := addFV (fvOf32 a) (fvOf32 b)
  let (r, g) := toFP32 v
  (r, f ||| g)

/-- Sign inverted (subtraction is addition of the negated operand). -/
def negFV : FV → FV
  | .fin n m e => .fin (!n) m e
  | .inf n => .inf (!n)
  | .nan n => .nan (!n)

/-- FP32 subtraction, rounded once. -/
def fSub (a b : Nat) : Nat × Flags5 :=
  let (v, f) := addFV (fvOf32 a) (negFV (fvOf32 b))
  let (r, g) := toFP32 v
  (r, f ||| g)

/-- FP32 multiplication, rounded once. -/
def fMul (a b : Nat) : Nat × Flags5 :=
  let (v, f) := mulFV (fvOf32 a) (fvOf32 b)
  let (r, g) := toFP32 v
  (r, f ||| g)

/-- Fused multiply-add a × b + c, rounded once (R48). -/
def fFma (a b c : Nat) : Nat × Flags5 :=
  let (p, f) := mulFV (fvOf32 a) (fvOf32 b)
  let (v, g) := addFV p (fvOf32 c)
  let (r, h) := toFP32 v
  (r, f ||| g ||| h)

/-- Fold an inexact remainder into a magnitude as a sticky bit below every bit that rounding looks at. -/
def stickyMag (q : Nat) (e : Int) (sticky : Bool) : Nat × Int :=
  if sticky then (4 * q + 1, e - 2) else (q, e)

/-- FP32 division, rounded once; DZ for a finite non-zero value over zero (R46). -/
def fDiv (a b : Nat) : Nat × Flags5 :=
  match fvOf32 a, fvOf32 b with
  | .nan _, _ => (0x7FC00000, flNone)
  | _, .nan _ => (0x7FC00000, flNone)
  | .inf _, .inf _ => (0x7FC00000, flIV)
  | .inf s, .fin t _ _ => (infBits fmtFP32 (s != t), flNone)
  | .fin s _ _, .inf t => (signBits fmtFP32 (s != t), flNone)
  | .fin s m e, .fin t n x =>
    if n = 0 then (if m = 0 then (0x7FC00000, flIV) else (infBits fmtFP32 (s != t), flDZ))
    else if m = 0 then (signBits fmtFP32 (s != t), flNone)
    else
      let num := m <<< 64
      let (k, ke) := stickyMag (num / n) (e - x - 64) (decide (num % n ≠ 0))
      roundIeee fmtFP32 (s != t) k ke

/-- Integer square root by the digit method, `steps` bits. -/
def isqrtAux : Nat → Nat → Nat → Nat
  | 0, _, r => r
  | i + 1, n, r =>
    let c := r + 2 ^ i
    if c * c ≤ n then isqrtAux i n c else isqrtAux i n r

/-- Integer square root. -/
def isqrtN (n : Nat) : Nat := isqrtAux (bitLen n / 2 + 1) n 0

/-- FP32 square root, rounded once; of −0.0 is −0.0, of a negative value is a NaN with IV. -/
def fSqrt (a : Nat) : Nat × Flags5 :=
  match fvOf32 a with
  | .nan _ => (0x7FC00000, flNone)
  | .inf s => if s then (0x7FC00000, flIV) else (infBits fmtFP32 false, flNone)
  | .fin s m e =>
    if m = 0 then (signBits fmtFP32 s, flNone)
    else if s then (0x7FC00000, flIV)
    else
      let (n, x) := if e % 2 = 0 then (m <<< 64, e - 64) else (m <<< 65, e - 65)
      let r := isqrtN n
      let (k, ke) := stickyMag r (x / 2) (decide (r * r ≠ n))
      roundIeee fmtFP32 false k ke

/-- A less-than-or-equal comparison of two values that are not NaN (−0.0 equals +0.0). -/
def fvLe : FV → FV → Bool
  | .nan _, _ => false
  | _, .nan _ => false
  | .inf true, _ => true
  | _, .inf false => true
  | .inf false, _ => false
  | _, .inf true => false
  | .fin a m e, .fin b n x =>
    let q := min e x
    decide (toIntAt a m e q ≤ toIntAt b n x q)

/-- Strictly less. -/
def fvLt (a b : FV) : Bool := fvLe a b && !fvLe b a

/-- Equal as numbers. -/
def fvEq (a b : FV) : Bool := fvLe a b && fvLe b a

/-- Whether a value is a NaN. -/
def fvIsNaN : FV → Bool
  | .nan _ => true
  | _ => false

/-! ## The format byte -/

/-- The format byte of R22. -/
structure FormatByte where
  elem : BitVec 4
  scl : BitVec 2
  sat : Bool
  rnd : Bool
  deriving DecidableEq, Repr

/-- The fields of a format byte (R22). -/
def formatByteOf (b : BitVec 8) : FormatByte :=
  { elem := b.extractLsb' 0 4, scl := b.extractLsb' 4 2, sat := b.getLsbD 6, rnd := b.getLsbD 7 }

/-- The combinations of ELEM and SCL that R23 permits. -/
def formatOk (b : FormatByte) : Bool :=
  match b.elem.toNat, b.scl.toNat with
  | 0, 0 => true
  | 1, 0 => true
  | 1, 1 => true
  | 2, _ => true
  | 3, _ => true
  | 4, 2 => true
  | 4, 3 => true
  | 5, 2 => true
  | 5, 3 => true
  | 6, 2 => true
  | 6, 3 => true
  | _, _ => false

/-- Bytes that a block of 32 elements occupies (R29); also used as bits per element × 4. -/
def blockBytes (elem : BitVec 4) : Nat :=
  match fmtOfElem elem with
  | some f => fmtWidth f * 4
  | none => 0

/-- Bytes that `n` elements occupy when packed from a byte boundary (R29). -/
def elemBytes (elem : BitVec 4) (n : Nat) : Nat :=
  match fmtOfElem elem with
  | some f => (fmtWidth f * n + 7) / 8
  | none => 0

/-- Element `i` of packed data held as one little-endian number (R29). -/
def packedElem (elem : BitVec 4) (data i : Nat) : Nat :=
  match fmtOfElem elem with
  | some f => natField data (i * fmtWidth f) (fmtWidth f)
  | none => 0

/-- Elements packed into one little-endian number, element 0 lowest (R29). -/
def packElems (elem : BitVec 4) : List Nat → Nat
  | [] => 0
  | x :: r =>
    match fmtOfElem elem with
    | some f => x % 2 ^ fmtWidth f + (packElems elem r) <<< fmtWidth f
    | none => 0

/-! ## Scales -/

/-- The nudge factor c of R33 as an FP32 value. -/
def nudgeC : FV := fvOf32 0x3F3504F3

/-- The encoding factor d of R34 as an FP32 value. -/
def nudgeD : FV := fvOf32 0x3FB504F3

/-- Decode one element under its scale (R33): `scale` is the scale byte or word, `sub` the sub-block of the
element. The result is exact. -/
def decodeElem (elem : BitVec 4) (scl : BitVec 2) (scale sub bits : Nat) : FV :=
  match fmtOfElem elem with
  | none => .nan false
  | some f =>
    let v := decodeFmt f bits
    if scl = 0 then v
    else if scale % 256 = 0xFF then .nan (bits.testBit (f.ew + f.mw))
    else
      let w := scaleFV ((scale % 256 : Nat) - 127) v
      if scl = 3 ∧ scale.testBit (8 + sub) then
        match w with
        | .fin _ _ _ => (mulFV w nudgeC).1
        | x => x
      else w

/-- The largest finite magnitude of a list of values; zero when there is none (R34 step 1). -/
def maxFiniteMag : List FV → Nat × Int
  | [] => (0, 0)
  | .fin _ m e :: r =>
    let (n, x) := maxFiniteMag r
    if magLe n x m e then (m, e) else (n, x)
  | _ :: r => maxFiniteMag r

/-- ⌊log₂⌋ of a non-zero magnitude. -/
def magLog2 (m : Nat) (e : Int) : Int := (Nat.log2 m : Int) + e

/-- The block exponent X of R34 steps 3 and 4. -/
def blockExp (f : Fmt) (vs : List FV) : Int :=
  let (m, e) := maxFiniteMag vs
  if m = 0 then -127 else max (-127) (min 127 (magLog2 m e - f.emax))

/-- Whether the clamp of the block exponent to -127 applies (R35). -/
def clampLow (f : Fmt) (vs : List FV) : Bool :=
  let (m, e) := maxFiniteMag vs
  m != 0 && decide (magLog2 m e - f.emax < -127)

/-- Under that clamp a finite element that loses precision raises UF beside NX (R35). -/
def clampFlags (low : Bool) (v : FV) (x : Nat × Flags5) : Nat × Flags5 :=
  match v with
  | .fin _ _ _ => if low && x.2 &&& flNX != flNone then (x.1, x.2 ||| flUF) else x
  | _ => x

/-- Encode one element of a block with exponent X, nudged or not (R34 steps 6 to 8). -/
def encodeScaled (f : Fmt) (sat : Bool) (r : Rnd) (x : Int) (nudge : Bool) (v : FV) : Nat × Flags5 :=
  match v with
  | .fin n m e =>
    let w := scaleFV (-x) (.fin n m e)
    convertTo f sat r (if nudge then (mulFV w nudgeD).1 else w)
  | v => convertTo f sat r v

/-- |v − decoded| for a finite element under round to nearest, as a dyadic magnitude, or none for an
infinite error (R38 test 2). -/
def encodeError (f : Fmt) (sat : Bool) (x : Int) (nudge : Bool) (v : FV) : Option (Nat × Int) :=
  match v with
  | .fin _ _ _ =>
    let q := decodeFmt f (encodeScaled f sat .rne x nudge v).1
    let d := scaleFV x (if nudge then (mulFV q nudgeC).1 else q)
    match addFV v (negFV d) with
    | (.fin _ m e, _) => some (m, e)
    | _ => none
  | _ => some (0, 0)

/-- Exact sum of dyadic magnitudes; none when a term is infinite. -/
def sumMags : List (Option (Nat × Int)) → Option (Nat × Int)
  | [] => some (0, 0)
  | none :: _ => none
  | some (m, e) :: r =>
    match sumMags r with
    | none => none
    | some (n, x) =>
      let q := min e x
      some (m <<< (e - q).toNat + n <<< (x - q).toNat, q)

/-- Whether a sub-block of 8 elements is nudged (R38). -/
def nudgeWanted (f : Fmt) (sat : Bool) (x : Int) (vs : List FV) : Bool :=
  if vs.any (fun v => match v with | .fin _ _ _ => false | _ => true) then false
  else
    let (m, e) := maxFiniteMag vs
    let (xm, xe) := maxMag f
    match (mulFV (.fin false xm (xe + x)) nudgeC).1 with
    | .fin _ lm le =>
      magLe m e lm le &&
      (match sumMags (vs.map (encodeError f sat x true)), sumMags (vs.map (encodeError f sat x false)) with
       | some (a, ae), some (b, be) => magLt a ae b be
       | some _, none => true
       | none, _ => false)
    | _ => false

/-- The result of encoding one block of 32 values: scale byte or word, element fields, flags. -/
structure EncBlock where
  scale : Nat
  elems : List Nat
  flags : Flags5
  deriving DecidableEq, Repr

/-- Encode elements, each with its own rounding, collecting flags. -/
def encodeEach (enc : Nat → Rnd → FV → Nat × Flags5) (i : Nat) :
    List FV → List Rnd → List Nat × Flags5
  | [], _ => ([], flNone)
  | v :: vs, rs =>
    let (b, f) := enc i (rs.headD .rne) v
    let (bs, g) := encodeEach enc (i + 1) vs (rs.tailD [])
    (b :: bs, f ||| g)

/-- Encode one block of 32 values under SCL 0b10 or 0b11 (R34, R35, R38). -/
def encodeBlock (elem : BitVec 4) (scl : BitVec 2) (sat : Bool) (vs : List FV) (rs : List Rnd) : EncBlock :=
  match fmtOfElem elem with
  | none => { scale := 0, elems := [], flags := flNone }
  | some f =>
    if f.sp = .none ∧ vs.any fvIsNaN then { scale := 0xFF, elems := vs.map (fun _ => 0), flags := flNone }
    else
      let x := blockExp f vs
      let sub (j : Nat) : List FV := (vs.drop (8 * j)).take 8
      let nud (j : Nat) : Bool := decide (scl = 3) && nudgeWanted f sat x (sub j)
      let word := (x + 127).toNat + (if nud 0 then 256 else 0) + (if nud 1 then 512 else 0)
        + (if nud 2 then 1024 else 0) + (if nud 3 then 2048 else 0)
      let low := clampLow f vs
      let (es, fl) := encodeEach (fun i r v => clampFlags low v (encodeScaled f sat r x (nud (i / 8)) v)) 0 vs rs
      { scale := word, elems := es, flags := fl }

/-- Encode values without a block scale: SCL 0b00, or SCL 0b01 with the entry's exponent K (R40). -/
def encodeFlat (elem : BitVec 4) (sat : Bool) (k : Int) (vs : List FV) (rs : List Rnd) : List Nat × Flags5 :=
  match fmtOfElem elem with
  | none => ([], flNone)
  | some f => encodeEach (fun _ r v => convertTo f sat r (scaleFV k v)) 0 vs rs

/-! ## The fixed accumulation order of the array (R47) -/

/-- Exact sum of a list of terms, with IEEE rules for infinities and NaN; the exact zero sum is −0.0 only if
every term is −0.0 (R47 step 2). -/
def sumTerms : List FV → FV × Flags5
  | [] => (.fin false 0 0, flNone)
  | [v] => (v, flNone)
  | v :: r =>
    let (s, f) := sumTerms r
    let (t, g) := addFV v s
    (t, f ||| g)

/-- The products of two operand lists, with their flags. -/
def products : List FV → List FV → List FV × Flags5
  | a :: as, b :: bs =>
    let (p, f) := mulFV a b
    let (ps, g) := products as bs
    (p :: ps, f ||| g)
  | _, _ => ([], flNone)

/-- One group sum G_j, rounded once to FP32. -/
def groupSum (as bs : List FV) : Nat × Flags5 :=
  let (ps, f) := products as bs
  let (s, g) := sumTerms ps
  let (r, h) := toFP32 s
  (r, f ||| g ||| h)

/-- Accumulate a contraction in groups of 8 indices in ascending order (R47 steps 1 to 3); `n` bounds the
number of groups. -/
def dotAcc : Nat → Nat → List FV → List FV → Nat × Flags5
  | 0, acc, _, _ => (acc, flNone)
  | n + 1, acc, as, bs =>
    if as.isEmpty then (acc, flNone)
    else
      let (g, f) := groupSum (as.take 8) (bs.take 8)
      let (a, h) := fAdd acc g
      let (r, i) := dotAcc n a (as.drop 8) (bs.drop 8)
      (r, f ||| h ||| i)

end Sys2Proof.Machine
end

