-- ==== Sys2Proof/Machine/CoreState.lean ====
section
/-!
DEFINITION. The state of one physical core beside its register pages: sequencer, register files, matrix
array, scratchpad, staging of the Saddlebag, stream engine and Courier (R52 to R185, R194). Register fields
that the spec's tables name are held in the register file of the module (State.regs).
-/
namespace Sys2Proof.Machine

/-- The four slots of a bundle (R153). -/
inductive SlotKind where
  | seq | arr | vec | str
  deriving DecidableEq, Repr

/-- A Ledger handle as an access or a pass takes it (R59, R96, R98). -/
structure Handle where
  base : Nat := 0
  size : Nat := 0
  clsW : Bool := false
  mode : Nat := 0
  deriving DecidableEq, Repr

/-- What a landing does when its cycle comes: a register result (R157), an arm or a completion of a delivery
(R99, R100), a flag (R171), a scale-table update (R39, R178), or a fault detected in its cycle. -/
inductive LandEv where
  | sreg (r : Nat) (v : DWord)
  | pred (q : Nat) (v : Bool)
  | vreg (r : Nat) (bits : BitVec 4096) (v : BitVec 4096)
  | mreg (m : Nat) (bits : BitVec 128) (v : BitVec 128)
  | flags (ctx : Nat) (f : Flags5)
  | arm (h n : Nat) (ctx : Nat)
  | complete (h : Nat)
  | rmax (entry : Nat) (mag : Nat) (nan : Bool)
  | scaleK (entry : Nat) (k : Int)
  | spadUe (ctx bank row port : Nat)
  deriving DecidableEq, Repr

/-- A landing: the cycle from which it is seen, its class in that cycle (0 completions, 1 results, 2 arms) and
its order within the class (R100, R157). -/
structure Landing where
  at_ : Nat
  cls : Nat
  ord : Nat
  ev : LandEv
  deriving DecidableEq, Repr

/-- The scheduled ports of the scratchpad (R82). -/
inductive Port where
  | ar | aw | sr | sw | nv
  deriving DecidableEq, Repr

/-- What a scratchpad access does with its data: a write of bytes; a scalar or a vector load; an outbound chunk;
the first half of a copy within the scratchpad (R106, R169); the local bytes of a Courier PUT; a record pushed
into a staging slot, whose write-out is then queued; an operand row of a pass (R522). -/
inductive AccAct where
  | write (data : List Byte)
  | lds (rd : Nat) (off : Nat)
  | vld (vd : Nat) (wid : Bool) (ord : Nat)
  | chunk (id : Nat)
  | move (dst : Nat) (clsW : Bool)
  | put (id : Nat)
  | cap (part which pass idx : Nat)
  deriving DecidableEq, Repr

/-- A scheduled access of one core that has issued and whose bank cycle has not come (R82 to R85). `bank` is
the bank cycle of a wide access and the first candidate of a narrow one; `ord` orders accesses of one issue
cycle. -/
structure Access where
  issue : Nat
  bank : Nat
  port : Port
  part : Nat
  kind : Nat
  ord : Nat
  ctx : Nat
  pieces : List (Nat × Nat)
  clsW : Bool
  act : AccAct
  deriving DecidableEq, Repr

/-- A tile held by a partition: the descriptor of the pass that loaded it and the rows and scales captured so
far (R60). -/
structure Tile where
  desc : BitVec 512
  rows : SMap Nat := []
  scales : SMap Nat := []
  deriving DecidableEq, Repr

/-- A pass held by a partition (R57): its number, its copied descriptor (R54), its cycles (R58), whether its
tile load and its latch have happened, the tile it uses, the handles it has taken (R59), the operand rows
captured, the next row that needs Philox words (R168), the rows drained and the flags its rows raised. -/
structure Pass where
  id : Nat
  desc : BitVec 512
  a : Nat
  t : Nat
  s : Nat
  loading : Bool := false
  latched : Bool := false
  tileId : Nat
  tileH : Handle := {}
  feedH : Handle := {}
  scaleH : Handle := {}
  initH : Handle := {}
  drainH : Handle := {}
  feed : SMap Nat := []
  fscale : SMap Nat := []
  init : SMap Nat := []
  phx : Nat := 0
  drained : Nat := 0
  deriving DecidableEq, Repr

/-- One partition of the array (R61, R65): its passes, the number of the resident tile, the last pass's
cycles for R58, and whether it is in FAULT (R69). -/
structure Part where
  q : List Pass := []
  tiles : List (Nat × Tile) := []
  nextId : Nat := 1
  resident : Option Nat := none
  lastS : Option Nat := none
  lastE : Option Nat := none
  lastT : Option Nat := none
  fault : Bool := false
  deriving DecidableEq, Repr

/-- A scale-table entry (R39): exponent K, running maximum, sixteen history maxima h0 first, NAN_SEEN. -/
structure ScaleEnt where
  k : Int := 0
  rmax : Nat := 0
  hist : List Nat := List.replicate 16 0
  nan : Bool := false
  deriving DecidableEq, Repr

/-- Errors present in one scratchpad row (R87 to R91): per quarter a correctable or an uncorrectable error
(class W uses quarter 0), and a class-tag bit in error. -/
structure RowMark where
  ce : BitVec 4 := 0
  ue : BitVec 4 := 0
  tag : Bool := false
  deriving DecidableEq, Repr

/-- An open loop of a core program or an Itinerary: first body index, END, iterations left after this one. -/
structure LoopLvl where
  first : Nat
  last : Nat
  left : Nat
  deriving DecidableEq, Repr

/-- What the sequencer is doing (R142, R152, R160). -/
inductive RunState where
  | idle
  | issuing
  | muster (fence kind scope : Nat) (arrived : Bool)
  | waitt (qd h limit : Nat)
  | ended
  deriving DecidableEq, Repr

/-- States of an Itinerary slot (R117, R120, STREAM_ISTAT). -/
inductive SlotState where
  | idle | run | stopping | done
  deriving DecidableEq, Repr

/-- One Itinerary slot (R117): `readyAt` is the first cycle in which it may execute its next instruction, and
`fresh` lists credits with the first cycle in which a waiting LOAD may use them (R121). -/
structure Itin where
  st : SlotState := .idle
  waitWhy : Nat := 1
  a : SMap DWord := []
  pc : Nat := 0
  loops : List LoopLvl := []
  credits : Nat := 0
  ereg : Nat := 0
  mfmt : BitVec 8 := 0
  lfmt : BitVec 8 := 0
  tid : BitVec 32 := 0
  module : BitVec 20 := 0
  epoch : BitVec 16 := 0
  ctx : Nat := 0
  readyAt : Nat := 0
  fresh : List (Nat × Nat) := []
  deriving DecidableEq, Repr

/-- One chunk entry of the outbound queue (R119): its slot, its length and its bytes once read. -/
structure Chunk where
  id : Nat
  slot : Nat
  len : Nat
  data : Option (List Byte)
  deriving DecidableEq, Repr

/-- Where a request reads from or writes to (R124). -/
inductive Target where
  | hbm (addr : Nat)
  | spad (lcore : Nat) (handle off : Nat)
  | window (win off : Nat) (module : BitVec 20) (epoch : BitVec 16)
  deriving DecidableEq, Repr

/-- The kinds of outstanding request of a core: Itinerary requests and Courier operations (R125, R127, R137). -/
inductive ReqKind where
  | load | store | gather | put | get | add
  deriving DecidableEq, Repr

/-- Conversion of a request in flight (R126). -/
structure Conv where
  mfmt : BitVec 8 := 0
  lfmt : BitVec 8 := 0
  tid : BitVec 32 := 0
  elem : Nat := 0
  deriving DecidableEq, Repr

/-- An outstanding request: who issued it, its target, its bytes on their way, where they land, and how far it
has come; `hd` is the local handle as it stood at issue (R98); `sent` tells that its message, if it needs one, has left
(R267). `status` is the completion code once known (0 success); `words` Philox words still to be taken (R168). -/
structure Req where
  id : Nat
  kind : ReqKind
  slot : Nat
  pc : Nat
  ctx : Nat
  tgt : Target
  bytes : Nat
  lbytes : Nat
  conv : Conv
  h : Nat
  off : Nat
  data : List Byte
  idx : List Nat
  operand : DWord
  issued : Nat
  seq : Nat
  status : Option Nat
  ue : Bool
  words : Nat
  afterMuster : Bool
  hd : Handle := {}
  sent : Bool := true
  deriving DecidableEq, Repr

/-- One staging slot of a Saddlebag stack (R108): the record it holds, a pending write-out with its bytes, a
prefetch in progress. -/
structure Stage where
  rec_ : Option Nat := none
  wout : Bool := false
  pref : Option Nat := none
  readyAt : Nat := 0
  deriving DecidableEq, Repr

/-- A stochastic VEC operation waiting for its Philox words (R168). -/
structure PhxReq where
  issue : Nat
  ctx : Nat
  op : Nat
  pc : Nat
  part : Nat
  deriving DecidableEq, Repr

/-- One physical core: what it holds beside its register pages. Cycle fields named ...At hold the cycle plus
one, with 0 for never. -/
structure Core where
  -- mapping (R349, R152)
  lcore : Option Nat := none
  bank : Nat := 0
  segment : Nat := 0
  switchPc : Option Nat := none
  segWait : Bool := false
  -- power-gated in P2 (R383)
  parked : Bool := false
  -- sequencer (R152 to R161, R174, R181)
  run : RunState := .idle
  haltCtx : BitVec 16 := 0
  pc : Nat := 0
  lastPc : Nat := 0
  lastIssueAt : Nat := 0
  nextIssue : Nat := 0
  slotAt : SMap Nat := []
  loops : List LoopLvl := []
  imem : SMap (BitVec 256) := []
  yieldReqAt : Nat := 0
  taskCyc : Nat := 0
  waitFrom : Nat := 0
  waitEsc : Nat := 0
  since : Nat := 0
  downAt : SMap Nat := []
  -- registers (R155, R171)
  sregs : SMap DWord := []
  preds : BitVec 8 := 1
  vregs : SMap (BitVec 4096) := []
  mregs : SMap (BitVec 128) := []
  flags : SMap Flags5 := []
  -- results, arms and completions under way
  land : List Landing := []
  -- array (R54, R57 to R69)
  desc : SMap (BitVec 512) := []
  parts : SMap Part := []
  scale : SMap ScaleEnt := []
  -- scratchpad (R80 to R95)
  spad : Memory := []
  rowW : SMap Bool := []
  marks : SMap RowMark := []
  acc : List Access := []
  zeroUntil : Option Nat := none
  scrubAt : Nat := 0
  -- Philox generators (R168, R184)
  katUntil : Option Nat := none
  phxVec : List PhxReq := []
  fltAt : SMap Nat := []
  -- stream engine and Courier (R117 to R141)
  slots : SMap Itin := []
  lastSlot : Nat := 7
  lastReqAt : Nat := 0
  nextId : Nat := 1
  outq : List Chunk := []
  reqs : List Req := []
  -- Saddlebag staging (R107, R108), index 16 k + j
  stage : SMap Stage := []
  -- prefetch fall-back (R296): slots whose next CREDIT is absorbed, records already acted on at this Muster
  absorb : List Nat := []
  prefDone : List Nat := []
  -- trace (R194 to R199)
  traceOn : Bool := false
  traceMask : BitVec 16 := 0
  traceMarks : List (Nat × Nat × Nat) := []
  trace : List (List Byte) := []
  traceSeq : Nat := 0
  traceDrops : Nat := 0
  digest : SMap Nat := []
  digestRows : SMap Nat := []
  -- HBM bytes the contexts stored since their last Muster (R148): context, first byte, length
  stored : List (Nat × Nat × Nat) := []
  -- the context (plus one) whose suppressed requests made the poison range of a handle (R133, R148)
  poisonCtx : SMap Nat := []
  deriving DecidableEq, Repr

/-- A core as its reset leaves it. -/
def Core.reset : Core := {}

end Sys2Proof.Machine
end

