-- ==== Sys2Proof/Machine/FabState.lean ====
section
/-!
DEFINITION. The state of the fabric beside its register pages: links, their flits and lane maps (R228 to R241), Craul
messages, queues and credits (R249 to R259), the window table (R260) and the route tables (R265).
-/
namespace Sys2Proof.Machine

/-- A Craul message (R249): the header's fields and the payload. `bad` says that its stored CRC does not fit it. -/
structure Msg where
  dst : Nat
  src : Nat
  cls : Nat
  op : Nat
  win : Nat := 0
  wepoch : Nat := 0
  offset : Nat := 0
  len : Nat := 0
  step : Nat := 0
  lepoch : Nat := 0
  seq : Nat := 0
  pool : Nat := 0
  hops : Nat := 0
  express : Bool := false
  crc : Nat := 0
  data : List Byte := []
  deriving DecidableEq, Repr

/-- A message in the module: the link and credit pool whose receive buffer holds it (R255), the job, core and context
that originated it here, the link on which it is queued or, while an adaptive message waits for credit, the links it may
take (R266), and whether Caravan marked it as crossing its ring's dateline (R257). -/
structure QMsg where
  msg : Msg
  inb : Option (Nat × Nat) := none
  origin : Option (Nat × Nat × Nat) := none
  link : Option Nat := none
  cands : List Nat := []
  deriving DecidableEq, Repr

/-- A flit in a retry buffer (R229, R233). -/
structure Flit where
  fseq : Nat
  ctrl : Bool
  fill : Nat
  credit : Nat
  body : List Byte
  deriving DecidableEq, Repr

/-- A message sent on a link of which a flit may be unacknowledged: its last flit (R240). -/
structure Sent where
  q : QMsg
  last : Nat
  deriving DecidableEq, Repr

/-- A link (R230 to R241). Lane maps are lists of lanes in ascending order; 16 + l stands for the spare in the place of
lane l. Times named ...At hold the event stamp plus one, 0 for never. -/
structure Link where
  txMap : List Nat := []
  rxMap : List Nat := []
  rxNext : Option (Nat × List Nat) := none
  txSeq : Nat := 0
  rxSeq : Nat := 0
  nak : Bool := false
  retry : List Flit := []
  sent : List Sent := []
  credit : SMap Nat := []
  owed : SMap Nat := []
  stream : List Byte := []
  ctrlIn : List (List Byte) := []
  closeAt : Nat := 0
  downAt : Nat := 0
  goodAt : Nat := 0
  held : List Sent := []
  awaitLast : Bool := false
  deriving DecidableEq, Repr

/-- A spare switch of a port in progress (R237): at the receiving end the link, lane and fibre asked for; at the
transmitting end the same, being tuned; and whether SPARE_REQ has been sent. -/
structure SpareSw where
  rxSent : Bool := false
  rx : Option (Nat × Nat × Nat) := none
  tx : Option (Nat × Nat × Nat) := none
  deriving DecidableEq, Repr

/-- A window entry (R260). `live` says that a message has committed against it since it opened; `busy` that one
committed before its close has not landed (R262). -/
structure Win where
  base : Nat := 0
  size : Nat := 0
  epoch : Nat := 0
  r : Bool := false
  w : Bool := false
  a : Bool := false
  opened : Bool := false
  ctx : Nat := 0
  job : Bool := false
  bank : Nat := 0
  srcId : Nat := 0
  srcMask : Nat := 0
  live : Bool := false
  busy : Bool := false
  deriving DecidableEq, Repr

/-- The fabric. Route entries are keyed 2048 for the member table plus the index, LO + HI · 2^32. `outq` holds messages
for other modules in the order in which they became whole; `commitq`, `rspq`, `mgmtq` and `collq` messages for this
module, by class; `advAt` the event stamp at which the head of a class queue last advanced (key 8 · link + class, link 64 the local delivery queue). -/
structure Fab where
  links : SMap Link := []
  spares : SMap SpareSw := []
  laneWin : SMap Nat := []
  dark : SMap Bool := []
  hot : SMap Bool := []
  routes : SMap Nat := []
  wins : SMap Win := []
  seq : Nat := 0
  outq : List QMsg := []
  commitq : List QMsg := []
  rspq : List QMsg := []
  mgmtq : List QMsg := []
  collq : List QMsg := []
  advAt : SMap Nat := []
  deriving DecidableEq, Repr

end Sys2Proof.Machine
end

