-- ==== Sys2Proof/Machine/HbmState.lean ====
section
/-!
DEFINITION. The state of stacked memory beside its register pages (R200 to R225).
-/
namespace Sys2Proof.Machine

/-- A live map-out of channel `ch` made when the domain's capacity was `cap` granules (R214). -/
structure MapOut where
  ch : Nat
  cap : Nat
  deriving DecidableEq, Repr

/-- An interleave domain (R201, R214, R218): the channels left out at the last rebuild, the live map-outs in the order
they were made, the relocation in progress with the number of redirects active, and the channels waiting to relocate
in the order they entered FAILING (R213). -/
structure Domain where
  out : List Nat := []
  maps : List MapOut := []
  rel : Option (MapOut × Nat) := none
  failing : List Nat := []
  deriving DecidableEq, Repr

/-- Errors held in a burst (R204, R207): a symbol in error that a read corrects, or an uncorrectable burst. -/
structure BurstMark where
  sym : Option Nat := none
  ue : Bool := false
  deriving DecidableEq, Repr

/-- Counts of a channel's error window (R212): the window's number, corrected and uncorrectable bursts. -/
structure ErrWin where
  win : Nat := 0
  ce : Nat := 0
  ue : Nat := 0
  deriving DecidableEq, Repr

/-- Stacked memory: bytes by physical place (channel, slot, byte; R201), error marks by burst, domains, error
windows, the next burst of each patrol scrubber (key 2 n + pseudo-channel) and the mapped-out list in flash (R214,
R219). -/
structure Hbm where
  mem : List Host.Cell := []
  marks : SMap BurstMark := []
  doms : SMap Domain := []
  wins : SMap ErrWin := []
  patrol : SMap Nat := []
  mapped : List Nat := []
  deriving DecidableEq, Repr

/-- A grant entry of a context (R339, R346): the region [base, limit) in 2 KiB granules of the local address. -/
structure Grant where
  base : Nat := 0
  limit : Nat := 0
  r : Bool := false
  w : Bool := false
  valid : Bool := false
  trimmed : Bool := false
  deriving DecidableEq, Repr

end Sys2Proof.Machine
end

