-- ==== Sys2Proof/Machine/HubState.lean ====
section
/-!
DEFINITION. The state of the hub beside its register pages: the host's queue pairs, regions and commands (R303 to R333),
clocks, power and heat (R374 to R398), the Innkeeper (R400 to R416), Passport (R417 to R439), bring-up and self-test (R440
to R461), and insertion and removal (R462 to R477).
-/
namespace Sys2Proof.Machine

/-- What the module sends to the host, to the management controller, or on a network port, in order. -/
inductive Out where
  | arp (port mac ip : Nat)
  | neighbour (port mac : Nat) (ip : Nat)
  | pause (port prio quanta : Nat)
  | ack (qp psn : Nat)
  | nak (qp psn synd : Nat)
  | readResp (qp psn : Nat) (data : List Byte)
  | cnp (qp : Nat)
  | send (qp psn : Nat) (data : List Byte)
  | i3c (msg : List Byte)
  | tdo (bits : Nat)
  deriving DecidableEq, Repr

/-- Where the answer to a command or message goes: nowhere; to a started command; to an I3C message of a type and TAG; to the
Craul MGMT request of a module (its ID, the OP of the response, its message type and TAG); or into the response buffer of
an ATTEST command (queue, number, message type, TAG, address, space). -/
inductive Reply where
  | none
  | cmd (q n : Nat)
  | i3c (ty tag : Nat)
  | fabric (dst op ty tag : Nat)
  | attest (q n ty tag addr space : Nat)
  deriving DecidableEq, Repr

/-- A queue pair (R310 to R313, R331). The rate is rate / 16 ^ rateExp Gbit/s. `sent` holds the SENDs not yet acknowledged,
oldest first, with their PSN; `wr...` the RDMA WRITE of several packets in progress. Times named ...At hold the event stamp
plus one, 0 for never. -/
structure Qp where
  state : Nat := 0
  port : Nat := 0
  ipv6 : Bool := false
  reg : Bool := false
  db : Bool := false
  mtu : Nat := 2
  dqpn : Nat := 0
  spsn : Nat := 0
  rpsn : Nat := 0
  dmac : Nat := 0
  dip : Nat := 0
  timeout : Nat := 14
  retry : Nat := 7
  rnr : Nat := 7
  sport : Nat := 0xC000
  rate : Nat := 400
  rateExp : Nat := 0
  cutAt : Nat := 0
  raiseAt : Nat := 0
  synd : Nat := 0
  dir : Bool := false
  cnpAt : Nat := 0
  sent : List (Nat × List Byte) := []
  sentAt : Nat := 0
  tries : Nat := 0
  rnrTries : Nat := 0
  wrOpen : Bool := false
  wrKey : Nat := 0
  wrAddr : Nat := 0
  wrLeft : Nat := 0
  deriving DecidableEq, Repr

/-- A memory region (R314): BASE and SIZE in 4 KiB units. -/
structure Mr where
  base : Nat := 0
  size : Nat := 0
  tag : Nat := 0
  r : Bool := false
  w : Bool := false
  valid : Bool := false
  deriving DecidableEq, Repr

/-- A started command (R323, R324): its queue (4 for one that an I3C message brought, with its TAG as `n`), its number, its
64 bytes as a number, and its status, DETAIL and RESULT once it has completed. `stage` tells how far a long command has
come. -/
structure Cmd where
  q : Nat
  n : Nat
  bytes : Nat
  stage : Nat := 0
  done : Option (Nat × Nat × Nat) := none
  deriving DecidableEq, Repr

/-- What SNAPSHOT copies of a core (R326): its number, its state, and the register words of its pages (keys relative to the
core's first page). -/
structure SnapCore where
  n : Nat
  core : Core
  words : List (Nat × Word)
  deriving DecidableEq, Repr

/-- A snapshot and its destination. -/
structure Snap where
  dst : Nat
  cores : List SnapCore
  deriving DecidableEq, Repr

/-- The host interface. `paused` holds, per port and priority (key 8 · port + priority), the event stamp plus one until
which a received pause holds; `xoffAt` the time of the last pause frame sent on a port, 0 when none is in force; `latches`
and `loHeld` the word latches of R488 and R489 as (source, page, offset of _HI or _LO, value); `resets` the queues whose
RESET waits for their started commands (R327); `txq` the frames of a port that a received pause holds back (R306); `snaps`
the snapshots taken (R326). -/
structure HostIf where
  qps : SMap Qp := []
  mrs : SMap Mr := []
  cmds : List Cmd := []
  evLost : Nat := 0
  dark : Bool := false
  paused : SMap Nat := []
  xoffAt : SMap Nat := []
  rxFree : SMap Nat := []
  out : List Out := []
  latches : List (Nat × Nat × Nat × Word) := []
  loHeld : List (Nat × Nat × Nat × Word) := []
  resets : List Nat := []
  txq : SMap (List Out) := []
  snaps : List Snap := []
  deriving DecidableEq, Repr

/-- Clocks, power and heat. Per die: `cap` the cap demand, `thermAt` the last thermal step, `curAt` the start of a current
demand, `pend` the divider code plus one that is to take effect at the next switch edge, `edgeAt` the root
tick of the last CCLK edge, `coolAt` the stamp plus one since which every unit that demands of the die is 3 °C below its
threshold, `evAt` the last THROTTLE_ON (key 2
d) and THROTTLE_OFF (2 d + 1) events, key 8 the last INPUT_RANGE. `sens` holds the latest samples and `snap` the
Innkeeper's snapshot (key 1024 · class + index). `cmd` is the POWER_STATE command that waits for the transition. -/
structure Power where
  lostAt : Nat := 0
  cap : SMap Nat := []
  upAt : Nat := 0
  throtAt : Nat := 0
  leakIn : Bool := false
  thermAt : SMap Nat := []
  curAt : SMap Nat := []
  pend : SMap Nat := []
  edgeAt : SMap Nat := []
  coolAt : SMap Nat := []
  samples : List Nat := []
  eFrac : Nat := 0
  evAt : SMap Nat := []
  sens : SMap Nat := []
  snap : SMap Nat := []
  snapEsc : Nat := 0
  trip : Bool := false
  forced : Bool := false
  cmd : Option (Nat × Nat) := none
  restart : Bool := false
  deriving DecidableEq, Repr

/-- A record of the event log (R410). -/
structure LogRec where
  seq : Nat
  stamp : Nat
  boot : Nat
  cls : Nat
  code : Nat
  status : Nat
  data : Nat
  deriving DecidableEq, Repr

/-- A firmware component in an image slot (R403, R412, R419): its type, version, hash, bytes, and the SECVER and signing
key slot of the header with which it arrived. -/
structure Comp where
  ty : Nat
  ver : Nat
  sha : Nat
  data : List Byte
  secver : Nat
  key : Nat
  deriving DecidableEq, Repr

/-- An image slot (R403, R419). -/
structure ISlot where
  comps : List Comp := []
  secver : Nat := 0
  key : Nat := 0
  valid : Bool := false
  deriving DecidableEq, Repr

/-- The latest self-test record of a unit (R453, R456, R460, R461). -/
structure Bist where
  state : Nat := 0
  valid : Bool := false
  powerup : Bool := false
  logic : Bool := false
  mem : Bool := false
  segment : Nat := 0
  nseg : Nat := 0
  ms : Nat := 0
  memId : Nat := 0
  nrows : Nat := 0
  row : Nat := 0
  bitNo : Nat := 0
  expect : Bool := false
  boot : Nat := 0
  startAt : Nat := 0
  deriving DecidableEq, Repr

/-- A repair (R453, R458): the page of the unit, the element as a FUSE record codes it, what it repairs, and whether it is
fused. -/
structure Repair where
  page : Nat
  element : Nat
  target : Nat
  fused : Bool
  deriving DecidableEq, Repr

/-- An update in progress (R413): who waits for it, the types applied and pending, and the deadline of step 8 (event
stamp plus one). -/
structure Update where
  who : Reply := .none
  len : Nat := 0
  slot : Nat := 0
  types : List Nat := []
  pending : List Nat := []
  secver : Nat := 0
  phase : Nat := 0
  healthAt : Nat := 0
  deriving DecidableEq, Repr

/-- The Innkeeper. Its event log in flash stands oldest first. Self-test records are keyed by unit: core n, 256 + d die
common, 260 hub memories, 261 hub logic. `pendComp` holds, per die, the types pending a job boundary as a bitmap; `badSpares` the spare elements found unusable
(page, element); `loadFail` that a component failed its check (R422). The active slot is INNK_STATE.SLOT; slot 2 of `slots` holds the staged bundle once it has been checked. -/
structure Innk where
  logNext : Nat := 1
  buf : List LogRec := []
  log : List LogRec := []
  slots : SMap ISlot := []
  stage : SMap Byte := []
  upd : Option Update := none
  restarts : List Nat := []
  serviced : Nat := 0
  semHeld : Bool := false
  semWaitAt : Nat := 0
  pendComp : SMap Nat := []
  bist : SMap Bist := []
  loadFail : Bool := false
  repairs : List Repair := []
  badSpares : List (Nat × Nat) := []
  trained : SMap Nat := []
  fuseCnt : SMap Nat := []
  deriving DecidableEq, Repr

/-- A zeroization in progress (R434): the level or the lifecycle state to reach, the memory ranges still to zero, and who
waits for it. -/
structure Zero where
  level : Nat
  life : Option Nat := none
  tslot : Nat := 0xFF
  ranges : List (Nat × Nat) := []
  who : Reply := .none
  deriving DecidableEq, Repr

/-- Passport (R417 to R437): measurement registers as numbers of 384 bits, their counts, the measurement log (index, type,
version, stamp, digest), a zeroization, whether the key area is erased, and the stamp plus one at which a lifecycle transition answered. -/
structure Passport where
  meas : SMap Nat := []
  cnt : SMap Nat := []
  log : List (Nat × Nat × Nat × Nat × Nat) := []
  overflow : Bool := false
  zero : Option Zero := none
  pendZero : Option Zero := none
  keyErased : Bool := false
  lifeAt : Nat := 0
  deriving DecidableEq, Repr

/-- Bring-up, insertion and removal. `up` counts the steps of R440 done; `fromP3` tells that the latest start left P3, and
`fromEsc` when it began; `quick` that every stack trains from stored values; `tested` that a power-up test ran; `off` that the
module is without power; `precharged` R464's precharge; `enWait` that PWR_EN is asserted and waits for it; `lowIn` that the
input was lost by its voltage; `p4` that an entry to P4 is in progress, `p4Wait` that one waits for an update or a zeroization
(R470), and `done` the units whose test ended in it; `jtag` the instruction in the TAP, none in Test-Logic-Reset. -/
structure Boot where
  up : Nat := 0
  fromP3 : Bool := false
  fromEsc : Nat := 0
  quick : Bool := true
  tested : Bool := false
  off : Bool := false
  precharged : Bool := true
  enWait : Bool := false
  lowIn : Bool := false
  p4 : Bool := false
  p4Wait : Bool := false
  done : List Nat := []
  jtag : Option Nat := none
  deriving DecidableEq, Repr

end Sys2Proof.Machine
end

