-- ==== Sys2Proof/Machine/JobState.lean ====
section
/-!
DEFINITION. The state of the held jobs beside the JOB and STEWARD pages (R334 to R358).
-/
namespace Sys2Proof.Machine

/-- A logical core of a held job (R338, R349 to R351): its LCORE entry; where it is resident; when it was saved out; the
arrival it has made at the Muster in progress (KIND, SCOPE); whether its part of the task has ended; and, while it is
saved out after having run, its state and the register words of its pages (keys relative to the core's first page). -/
structure LCore where
  die : Nat := 0
  mode : Nat := 0
  ctxs : Nat := 0
  seg : Nat := 0
  pcore : Option Nat := none
  outAt : Nat := 0
  inAt : Nat := 0
  outCyc : Nat := 0
  atMuster : Bool := false
  arrived : Option (Nat × Nat) := none
  ended : Bool := false
  saved : Option Core := none
  savedRegs : List (Nat × Word) := []
  deriving DecidableEq, Repr

/-- A Curfew milestone (R357). -/
structure Mile where
  kind : Nat := 0
  valid : Bool := false
  fallback : Bool := false
  value : Nat := 0
  opens : Nat := 0
  closes : Nat := 0
  deriving DecidableEq, Repr

/-- What a torn-down context reports (R347, STEWARD_CTX_STAT). -/
structure Down where
  status : Nat := 0
  pcore : Nat := 0
  lcore : Nat := 0
  deriving DecidableEq, Repr

/-- The trace descriptor in use (R195) and the counts of each die's ring (R196). -/
structure TraceCfg where
  base : Nat := 0
  records : Nat := 0
  stop : Bool := false
  mask : BitVec 16 := 0
  marks : List (Nat × Nat × Nat) := []
  total : SMap Nat := []
  lost : SMap Nat := []
  deriving DecidableEq, Repr

/-- A held job (R334, R335): what its image's header and tables say, its logical cores, the Muster in progress (R144), the Muster position of the last
release (R278) and the step-start Musters released,
whether the module's arrival at a SCOPE 1 Muster has gone to Caravan (R292), the command that waits for it, and, when it
is being ended by JOB_STOP at yield points, the command that asked (queue, slot). `cause` is the status of R345 under
which it is ending. -/
structure Job where
  num : Nat := 0
  image : Nat := 0
  len : Nat := 0
  saveBase : Nat := 0
  fbAddr : Nat := 0
  fbLen : Nat := 0
  nl : Nat := 0
  nctx : Nat := 0
  stepGate : Bool := false
  isFb : Bool := false
  seed : Nat := 0
  valid : BitVec 16 := 0
  fatal : BitVec 16 := 0
  lcores : SMap LCore := []
  miles : SMap Mile := []
  downs : SMap Down := []
  mseq : Nat := 1
  mpos : Option Nat := none
  steps : Nat := 0
  permitTaken : Bool := false
  sentUp : Bool := false
  trace : Option TraceCfg := none
  prefetch : List Nat := []
  startCmd : Option (Nat × Nat) := none
  stopCmd : Option (Nat × Nat) := none
  cause : Option Nat := none
  switchAt : Nat := 0
  deriving DecidableEq, Repr

end Sys2Proof.Machine
end

