-- ==== Sys2Proof/Machine/RegTable.lean ====
section
/-!
DEFINITION. The register map: every field of the register tables of the spec (R78, R79, R113 to R116,
R149 to R151, R181 to R185, R223 to R225, R247, R248, R272, R273, R301, R302, R330 to R333, R359 to R361,
R396 to R399, R415, R416, R437, R460, R461, R477, R481, R498 to R502), one definition a field, under the
spec's own name REGISTER.FIELD. Reserved fields have no entry: they read zero and ignore writes (R10). A reset
the spec gives as HW holds the number the spec states, or the value that log entry 5 names; a reset U holds
zero (log entry 4).
-/
namespace Sys2Proof.Machine

/-- The access types of R9. -/
inductive RegTy where
  | rw | ro | wo | w1c | w1s | rc | rwl
  deriving DecidableEq, Repr

/-- The kinds of block that hold a page (R479); `hdr` is the common header of every page (R481). -/
inductive Blk where
  | hdr
  | array
  | spad
  | ledger
  | stream
  | noc
  | seq
  | vec
  | scale
  | rng
  | hbmStk
  | hbmCh
  | fabPort
  | fabRtr
  | caravan
  | hostEth
  | roce
  | cmdq
  | job
  | steward
  | clk
  | pwr
  | therm
  | innk
  | sec
  | sys
  | bridge
  deriving DecidableEq, Repr

/-- One field of a register or of an array of registers: the block, the byte offset of element 0, its lowest
bit and width, its access type, its reset value, whether its Meaning says wrapping or saturating (R481,
CNT_CLR), and up to two index dimensions with their byte strides. -/
structure Fld where
  blk : Blk
  off : Nat
  lsb : Nat
  width : Nat
  ty : RegTy
  rst : Nat
  cnt : Bool
  n1 : Nat
  s1 : Nat
  n2 : Nat
  s2 : Nat
  deriving DecidableEq, Repr

def F.BLK_ID.TYPE : Fld := ⟨.hdr, 0x0, 0, 8, .ro, 0x0, false, 1, 0x0, 1, 0x0⟩
def F.BLK_ID.INSTANCE : Fld := ⟨.hdr, 0x0, 8, 12, .ro, 0x0, false, 1, 0x0, 1, 0x0⟩
def F.BLK_ID.DIE : Fld := ⟨.hdr, 0x0, 20, 3, .ro, 0x0, false, 1, 0x0, 1, 0x0⟩
def F.BLK_VER.BLKREV : Fld := ⟨.hdr, 0x4, 0, 8, .ro, 0x0, false, 1, 0x0, 1, 0x0⟩
def F.BLK_VER.SIDIGIT : Fld := ⟨.hdr, 0x4, 8, 4, .ro, 0x1, false, 1, 0x0, 1, 0x0⟩
def F.BLK_VER.SILETTER : Fld := ⟨.hdr, 0x4, 12, 4, .ro, 0x1, false, 1, 0x0, 1, 0x0⟩
def F.BLK_VER.HDRVER : Fld := ⟨.hdr, 0x4, 16, 8, .ro, 0x1, false, 1, 0x0, 1, 0x0⟩
def F.BLK_STATE.STATE : Fld := ⟨.hdr, 0x8, 0, 3, .ro, 0x0, false, 1, 0x0, 1, 0x0⟩
def F.BLK_STATE.RDY : Fld := ⟨.hdr, 0x8, 3, 1, .ro, 0x0, false, 1, 0x0, 1, 0x0⟩
def F.BLK_CTRL.ERR_CLR : Fld := ⟨.hdr, 0xc, 0, 1, .wo, 0x0, false, 1, 0x0, 1, 0x0⟩
def F.BLK_CTRL.CNT_CLR : Fld := ⟨.hdr, 0xc, 1, 1, .wo, 0x0, true, 1, 0x0, 1, 0x0⟩
def F.BLK_CTRL.HOST_WP : Fld := ⟨.hdr, 0xc, 4, 1, .rwl, 0x0, false, 1, 0x0, 1, 0x0⟩
def F.ERR_STATUS.BITS : Fld := ⟨.hdr, 0x10, 0, 32, .w1c, 0x0, false, 1, 0x0, 1, 0x0⟩
def F.ERR_MASK.MASK : Fld := ⟨.hdr, 0x14, 0, 32, .rw, 0x0, false, 1, 0x0, 1, 0x0⟩
def F.INT_STATUS.INT : Fld := ⟨.hdr, 0x18, 0, 32, .ro, 0x0, false, 1, 0x0, 1, 0x0⟩
def F.INT_ENABLE.EN : Fld := ⟨.hdr, 0x1c, 0, 32, .rw, 0x0, false, 1, 0x0, 1, 0x0⟩
def F.SEC_ATTR.HAS_RWL : Fld := ⟨.hdr, 0x20, 0, 1, .ro, 0x0, false, 1, 0x0, 1, 0x0⟩
def F.SEC_ATTR.LOCKED : Fld := ⟨.hdr, 0x20, 1, 1, .ro, 0x0, false, 1, 0x0, 1, 0x0⟩
def F.SEC_ATTR.HOST_WP : Fld := ⟨.hdr, 0x20, 2, 1, .ro, 0x0, false, 1, 0x0, 1, 0x0⟩
def F.SEC_ATTR.DBG : Fld := ⟨.hdr, 0x20, 4, 2, .ro, 0x0, false, 1, 0x0, 1, 0x0⟩
def F.PWR_STATE.DOMAIN : Fld := ⟨.hdr, 0x24, 0, 2, .ro, 0x0, false, 1, 0x0, 1, 0x0⟩
def F.PWR_STATE.TESTCLK : Fld := ⟨.hdr, 0x24, 2, 1, .ro, 0x0, false, 1, 0x0, 1, 0x0⟩
def F.PWR_STATE.DIV : Fld := ⟨.hdr, 0x24, 4, 2, .ro, 0x0, false, 1, 0x0, 1, 0x0⟩
def F.PWR_STATE.MODULE : Fld := ⟨.hdr, 0x24, 8, 3, .ro, 0x0, false, 1, 0x0, 1, 0x0⟩
def F.BIST_STATUS.STATE : Fld := ⟨.hdr, 0x28, 0, 3, .ro, 0x0, false, 1, 0x0, 1, 0x0⟩
def F.BIST_STATUS.VALID : Fld := ⟨.hdr, 0x28, 3, 1, .ro, 0x0, false, 1, 0x0, 1, 0x0⟩
def F.BIST_STATUS.POWERUP : Fld := ⟨.hdr, 0x28, 4, 1, .ro, 0x0, false, 1, 0x0, 1, 0x0⟩
def F.BIST_STATUS.LOGIC : Fld := ⟨.hdr, 0x28, 5, 1, .ro, 0x0, false, 1, 0x0, 1, 0x0⟩
def F.BIST_STATUS.MEM : Fld := ⟨.hdr, 0x28, 6, 1, .ro, 0x0, false, 1, 0x0, 1, 0x0⟩
def F.BIST_STATUS.SEGMENT : Fld := ⟨.hdr, 0x28, 8, 8, .ro, 0xff, false, 1, 0x0, 1, 0x0⟩
def F.BIST_STATUS.NSEG : Fld := ⟨.hdr, 0x28, 16, 8, .ro, 0x0, false, 1, 0x0, 1, 0x0⟩
def F.BIST_STATUS.MS : Fld := ⟨.hdr, 0x28, 24, 8, .ro, 0x0, true, 1, 0x0, 1, 0x0⟩
def F.REPAIR_COUNT.USED : Fld := ⟨.hdr, 0x2c, 0, 9, .ro, 0x0, false, 1, 0x0, 1, 0x0⟩
def F.REPAIR_COUNT.FUSED : Fld := ⟨.hdr, 0x2c, 16, 9, .ro, 0x0, false, 1, 0x0, 1, 0x0⟩
def F.REPAIR_COUNT.FULL : Fld := ⟨.hdr, 0x2c, 31, 1, .ro, 0x0, false, 1, 0x0, 1, 0x0⟩
def F.ARRAY_PART.MODE : Fld := ⟨.array, 0x100, 0, 2, .rw, 0x0, false, 1, 0x0, 1, 0x0⟩
def F.ARRAY_PART.CTX0 : Fld := ⟨.array, 0x100, 8, 4, .rw, 0x0, false, 1, 0x0, 1, 0x0⟩
def F.ARRAY_PART.CTX1 : Fld := ⟨.array, 0x100, 12, 4, .rw, 0x0, false, 1, 0x0, 1, 0x0⟩
def F.ARRAY_PART.CTX2 : Fld := ⟨.array, 0x100, 16, 4, .rw, 0x0, false, 1, 0x0, 1, 0x0⟩
def F.ARRAY_PART.CTX3 : Fld := ⟨.array, 0x100, 20, 4, .rw, 0x0, false, 1, 0x0, 1, 0x0⟩
def F.ARRAY_PSTATE.P0 : Fld := ⟨.array, 0x104, 0, 2, .ro, 0x0, false, 1, 0x0, 1, 0x0⟩
def F.ARRAY_PSTATE.P1 : Fld := ⟨.array, 0x104, 2, 2, .ro, 0x0, false, 1, 0x0, 1, 0x0⟩
def F.ARRAY_PSTATE.P2 : Fld := ⟨.array, 0x104, 4, 2, .ro, 0x0, false, 1, 0x0, 1, 0x0⟩
def F.ARRAY_PSTATE.P3 : Fld := ⟨.array, 0x104, 6, 2, .ro, 0x0, false, 1, 0x0, 1, 0x0⟩
def F.ARRAY_FAULT.CODE : Fld := ⟨.array, 0x108, 0, 8, .ro, 0x0, false, 4, 0x4, 1, 0x0⟩
def F.ARRAY_FAULT.HANDLE : Fld := ⟨.array, 0x108, 8, 8, .ro, 0xff, false, 4, 0x4, 1, 0x0⟩
def F.ARRAY_FAULT.CYCLE : Fld := ⟨.array, 0x108, 16, 16, .ro, 0x0, true, 4, 0x4, 1, 0x0⟩
def F.ARRAY_CTRL.GATE_DIS : Fld := ⟨.array, 0x118, 0, 1, .rw, 0x0, false, 1, 0x0, 1, 0x0⟩
def F.ARRAY_CTRL.PCLR : Fld := ⟨.array, 0x118, 4, 4, .wo, 0x0, false, 1, 0x0, 1, 0x0⟩
def F.ARRAY_REPAIR_ROW.IDX_A : Fld := ⟨.array, 0x11c, 0, 8, .rw, 0x0, false, 1, 0x0, 1, 0x0⟩
def F.ARRAY_REPAIR_ROW.VAL_A : Fld := ⟨.array, 0x11c, 8, 1, .rw, 0x0, false, 1, 0x0, 1, 0x0⟩
def F.ARRAY_REPAIR_ROW.FUSED_A : Fld := ⟨.array, 0x11c, 9, 1, .ro, 0x0, false, 1, 0x0, 1, 0x0⟩
def F.ARRAY_REPAIR_ROW.IDX_B : Fld := ⟨.array, 0x11c, 16, 8, .rw, 0x0, false, 1, 0x0, 1, 0x0⟩
def F.ARRAY_REPAIR_ROW.VAL_B : Fld := ⟨.array, 0x11c, 24, 1, .rw, 0x0, false, 1, 0x0, 1, 0x0⟩
def F.ARRAY_REPAIR_ROW.FUSED_B : Fld := ⟨.array, 0x11c, 25, 1, .ro, 0x0, false, 1, 0x0, 1, 0x0⟩
def F.ARRAY_REPAIR_COL.IDX_A : Fld := ⟨.array, 0x120, 0, 8, .rw, 0x0, false, 1, 0x0, 1, 0x0⟩
def F.ARRAY_REPAIR_COL.VAL_A : Fld := ⟨.array, 0x120, 8, 1, .rw, 0x0, false, 1, 0x0, 1, 0x0⟩
def F.ARRAY_REPAIR_COL.FUSED_A : Fld := ⟨.array, 0x120, 9, 1, .ro, 0x0, false, 1, 0x0, 1, 0x0⟩
def F.ARRAY_REPAIR_COL.IDX_B : Fld := ⟨.array, 0x120, 16, 8, .rw, 0x0, false, 1, 0x0, 1, 0x0⟩
def F.ARRAY_REPAIR_COL.VAL_B : Fld := ⟨.array, 0x120, 24, 1, .rw, 0x0, false, 1, 0x0, 1, 0x0⟩
def F.ARRAY_REPAIR_COL.FUSED_B : Fld := ⟨.array, 0x120, 25, 1, .ro, 0x0, false, 1, 0x0, 1, 0x0⟩
def F.ARRAY_ERR_LOC.PROW : Fld := ⟨.array, 0x124, 0, 8, .ro, 0x0, false, 1, 0x0, 1, 0x0⟩
def F.ARRAY_ERR_LOC.PCOL : Fld := ⟨.array, 0x124, 8, 8, .ro, 0x0, false, 1, 0x0, 1, 0x0⟩
def F.ARRAY_ERR_LOC.KIND : Fld := ⟨.array, 0x124, 16, 4, .ro, 0x0, false, 1, 0x0, 1, 0x0⟩
def F.ARRAY_ERR_CNT.COUNT : Fld := ⟨.array, 0x128, 0, 32, .rc, 0x0, true, 1, 0x0, 1, 0x0⟩
def F.ARRAY_GATED_LO.COUNT : Fld := ⟨.array, 0x12c, 0, 32, .ro, 0x0, true, 1, 0x0, 1, 0x0⟩
def F.ARRAY_GATED_HI.COUNT : Fld := ⟨.array, 0x130, 0, 32, .ro, 0x0, true, 1, 0x0, 1, 0x0⟩
def F.ARRAY_BUSY_LO.COUNT : Fld := ⟨.array, 0x134, 0, 32, .ro, 0x0, true, 1, 0x0, 1, 0x0⟩
def F.ARRAY_BUSY_HI.COUNT : Fld := ⟨.array, 0x138, 0, 32, .ro, 0x0, true, 1, 0x0, 1, 0x0⟩
def F.ARRAY_PASS_CNT.COUNT : Fld := ⟨.array, 0x13c, 0, 32, .ro, 0x0, true, 1, 0x0, 1, 0x0⟩
def F.ARRAY_FRONT_CNT.COUNT : Fld := ⟨.array, 0x140, 0, 32, .ro, 0x0, true, 1, 0x0, 1, 0x0⟩
def F.ARRAY_QCNT.Q : Fld := ⟨.array, 0x144, 0, 8, .ro, 0x0, false, 1, 0x0, 1, 0x0⟩
def F.SPAD_CTRL.SCRUB_EN : Fld := ⟨.spad, 0x100, 0, 1, .rw, 0x1, false, 1, 0x0, 1, 0x0⟩
def F.SPAD_CTRL.SCRUB_SHIFT : Fld := ⟨.spad, 0x100, 4, 4, .rw, 0xc, false, 1, 0x0, 1, 0x0⟩
def F.SPAD_CTRL.ZERO : Fld := ⟨.spad, 0x100, 8, 1, .wo, 0x0, false, 1, 0x0, 1, 0x0⟩
def F.SPAD_CTRL.ZERO_BUSY : Fld := ⟨.spad, 0x100, 9, 1, .ro, 0x0, false, 1, 0x0, 1, 0x0⟩
def F.SPAD_FAULT.CODE : Fld := ⟨.spad, 0x108, 0, 8, .ro, 0x0, false, 4, 0x4, 1, 0x0⟩
def F.SPAD_FAULT.PORT : Fld := ⟨.spad, 0x108, 8, 3, .ro, 0x0, false, 4, 0x4, 1, 0x0⟩
def F.SPAD_FAULT.BANK : Fld := ⟨.spad, 0x108, 11, 5, .ro, 0x0, false, 4, 0x4, 1, 0x0⟩
def F.SPAD_FAULT.ROW : Fld := ⟨.spad, 0x108, 16, 11, .ro, 0x0, false, 4, 0x4, 1, 0x0⟩
def F.SPAD_CE_LOC.BANK : Fld := ⟨.spad, 0x11c, 0, 5, .ro, 0x0, false, 1, 0x0, 1, 0x0⟩
def F.SPAD_CE_LOC.ROW : Fld := ⟨.spad, 0x11c, 5, 11, .ro, 0x0, false, 1, 0x0, 1, 0x0⟩
def F.SPAD_CE_LOC.QUARTER : Fld := ⟨.spad, 0x11c, 16, 2, .ro, 0x0, false, 1, 0x0, 1, 0x0⟩
def F.SPAD_CE_LOC.CLASS : Fld := ⟨.spad, 0x11c, 18, 1, .ro, 0x0, false, 1, 0x0, 1, 0x0⟩
def F.SPAD_CE_LOC.TAG : Fld := ⟨.spad, 0x11c, 19, 1, .ro, 0x0, false, 1, 0x0, 1, 0x0⟩
def F.SPAD_CE_LOC.VALID : Fld := ⟨.spad, 0x11c, 20, 1, .ro, 0x0, false, 1, 0x0, 1, 0x0⟩
def F.SPAD_UE_LOC.BANK : Fld := ⟨.spad, 0x120, 0, 5, .ro, 0x0, false, 1, 0x0, 1, 0x0⟩
def F.SPAD_UE_LOC.ROW : Fld := ⟨.spad, 0x120, 5, 11, .ro, 0x0, false, 1, 0x0, 1, 0x0⟩
def F.SPAD_UE_LOC.QUARTER : Fld := ⟨.spad, 0x120, 16, 2, .ro, 0x0, false, 1, 0x0, 1, 0x0⟩
def F.SPAD_UE_LOC.CLASS : Fld := ⟨.spad, 0x120, 18, 1, .ro, 0x0, false, 1, 0x0, 1, 0x0⟩
def F.SPAD_UE_LOC.TAG : Fld := ⟨.spad, 0x120, 19, 1, .ro, 0x0, false, 1, 0x0, 1, 0x0⟩
def F.SPAD_UE_LOC.VALID : Fld := ⟨.spad, 0x120, 20, 1, .ro, 0x0, false, 1, 0x0, 1, 0x0⟩
def F.SPAD_SCRUB_POS.ROW : Fld := ⟨.spad, 0x104, 0, 16, .ro, 0x0, false, 1, 0x0, 1, 0x0⟩
def F.SPAD_CE_CNT.COUNT : Fld := ⟨.spad, 0x118, 0, 32, .rc, 0x0, true, 1, 0x0, 1, 0x0⟩
def F.SPAD_DEFER.COUNT : Fld := ⟨.spad, 0x124, 0, 32, .ro, 0x0, true, 4, 0x4, 1, 0x0⟩
def F.SPAD_SCRUB_CNT.COUNT : Fld := ⟨.spad, 0x134, 0, 32, .rc, 0x0, true, 1, 0x0, 1, 0x0⟩
def F.SB_SLOT.FIRST : Fld := ⟨.ledger, 0x100, 0, 13, .rw, 0x0, false, 8, 0x20, 1, 0x0⟩
def F.SB_SLOT.CAP : Fld := ⟨.ledger, 0x100, 16, 13, .rw, 0x0, false, 8, 0x20, 1, 0x0⟩
def F.SB_SLOT.EN : Fld := ⟨.ledger, 0x100, 31, 1, .rw, 0x0, false, 8, 0x20, 1, 0x0⟩
def F.SB_SPILL_LO.ADDR_LO : Fld := ⟨.ledger, 0x104, 0, 32, .rw, 0x0, false, 8, 0x20, 1, 0x0⟩
def F.SB_SPILL_HI.ADDR_HI : Fld := ⟨.ledger, 0x108, 0, 2, .rw, 0x0, false, 8, 0x20, 1, 0x0⟩
def F.SB_SPILL_CAP.SPILL : Fld := ⟨.ledger, 0x10c, 0, 19, .rw, 0x0, false, 8, 0x20, 1, 0x0⟩
def F.SB_SPILL_CAP.CTX : Fld := ⟨.ledger, 0x10c, 20, 4, .rw, 0x0, false, 8, 0x20, 1, 0x0⟩
def F.SB_DEPTH.DEPTH : Fld := ⟨.ledger, 0x110, 0, 19, .ro, 0x0, false, 8, 0x20, 1, 0x0⟩
def F.SB_HWM.HWM : Fld := ⟨.ledger, 0x114, 0, 19, .rc, 0x0, false, 8, 0x20, 1, 0x0⟩
def F.SB_STAGE.HELD : Fld := ⟨.ledger, 0x118, 0, 16, .ro, 0x0, false, 8, 0x20, 1, 0x0⟩
def F.SB_STAGE.WOUT : Fld := ⟨.ledger, 0x118, 16, 16, .ro, 0x0, false, 8, 0x20, 1, 0x0⟩
def F.LEDGER_STRAY_CNT.COUNT : Fld := ⟨.ledger, 0x200, 0, 32, .rc, 0x0, true, 1, 0x0, 1, 0x0⟩
def F.SB_WOUT_CNT.COUNT : Fld := ⟨.ledger, 0x204, 0, 32, .ro, 0x0, true, 1, 0x0, 1, 0x0⟩
def F.SB_PREF_CNT.COUNT : Fld := ⟨.ledger, 0x208, 0, 32, .ro, 0x0, true, 1, 0x0, 1, 0x0⟩
def F.LEDGER_HBASE.BASE : Fld := ⟨.ledger, 0x800, 0, 17, .rw, 0x0, false, 64, 0x20, 1, 0x0⟩
def F.LEDGER_HBASE.CLASS : Fld := ⟨.ledger, 0x800, 17, 1, .rw, 0x0, false, 64, 0x20, 1, 0x0⟩
def F.LEDGER_HBASE.MODE : Fld := ⟨.ledger, 0x800, 18, 2, .rw, 0x0, false, 64, 0x20, 1, 0x0⟩
def F.LEDGER_HSIZE.SIZE : Fld := ⟨.ledger, 0x804, 0, 18, .rw, 0x0, false, 64, 0x20, 1, 0x0⟩
def F.LEDGER_HTOK.TOK : Fld := ⟨.ledger, 0x808, 0, 1, .rw, 0x0, false, 64, 0x20, 1, 0x0⟩
def F.LEDGER_HTOK.PEND : Fld := ⟨.ledger, 0x808, 4, 12, .rw, 0x0, false, 64, 0x20, 1, 0x0⟩
def F.LEDGER_HTOK.DELIV : Fld := ⟨.ledger, 0x808, 16, 16, .ro, 0x0, true, 64, 0x20, 1, 0x0⟩
def F.LEDGER_HHEAD.HEAD : Fld := ⟨.ledger, 0x80c, 0, 18, .rw, 0x0, false, 64, 0x20, 1, 0x0⟩
def F.LEDGER_HTAIL.TAIL : Fld := ⟨.ledger, 0x810, 0, 18, .rw, 0x0, false, 64, 0x20, 1, 0x0⟩
def F.STREAM_CTRL.STOP : Fld := ⟨.stream, 0x100, 0, 8, .wo, 0x0, false, 1, 0x0, 1, 0x0⟩
def F.STREAM_OUT.REQ : Fld := ⟨.stream, 0x104, 0, 6, .ro, 0x0, false, 1, 0x0, 1, 0x0⟩
def F.STREAM_OUT.REQ_MAX : Fld := ⟨.stream, 0x104, 8, 6, .rc, 0x0, false, 1, 0x0, 1, 0x0⟩
def F.STREAM_OUT.CRR : Fld := ⟨.stream, 0x104, 16, 5, .ro, 0x0, false, 1, 0x0, 1, 0x0⟩
def F.STREAM_OUT.CRR_MAX : Fld := ⟨.stream, 0x104, 24, 5, .rc, 0x0, false, 1, 0x0, 1, 0x0⟩
def F.STREAM_FAULT.CODE : Fld := ⟨.stream, 0x108, 0, 8, .ro, 0x0, false, 4, 0x4, 1, 0x0⟩
def F.STREAM_FAULT.SLOT : Fld := ⟨.stream, 0x108, 8, 3, .ro, 0x0, false, 4, 0x4, 1, 0x0⟩
def F.STREAM_FAULT.CRR : Fld := ⟨.stream, 0x108, 11, 1, .ro, 0x0, false, 4, 0x4, 1, 0x0⟩
def F.STREAM_FAULT.PC : Fld := ⟨.stream, 0x108, 12, 5, .ro, 0x0, false, 4, 0x4, 1, 0x0⟩
def F.STREAM_FAULT.HANDLE : Fld := ⟨.stream, 0x108, 24, 6, .ro, 0x0, false, 4, 0x4, 1, 0x0⟩
def F.STREAM_SUPPRESSED.COUNT : Fld := ⟨.stream, 0x118, 0, 32, .rc, 0x0, true, 1, 0x0, 1, 0x0⟩
def F.STREAM_REQ_CNT.COUNT : Fld := ⟨.stream, 0x11c, 0, 32, .ro, 0x0, true, 1, 0x0, 1, 0x0⟩
def F.STREAM_BYTES_LO.COUNT : Fld := ⟨.stream, 0x120, 0, 32, .ro, 0x0, true, 1, 0x0, 1, 0x0⟩
def F.STREAM_BYTES_HI.COUNT : Fld := ⟨.stream, 0x124, 0, 32, .ro, 0x0, true, 1, 0x0, 1, 0x0⟩
def F.STREAM_GATHER_CNT.COUNT : Fld := ⟨.stream, 0x128, 0, 32, .ro, 0x0, true, 1, 0x0, 1, 0x0⟩
def F.STREAM_WAITQ.COUNT : Fld := ⟨.stream, 0x12c, 0, 32, .ro, 0x0, true, 1, 0x0, 1, 0x0⟩
def F.COURIER_ISSUED.COUNT : Fld := ⟨.stream, 0x130, 0, 32, .ro, 0x0, true, 1, 0x0, 1, 0x0⟩
def F.COURIER_REFUSED.COUNT : Fld := ⟨.stream, 0x134, 0, 32, .rc, 0x0, true, 1, 0x0, 1, 0x0⟩
def F.MUSTER_SEQ.SEQ : Fld := ⟨.stream, 0x138, 0, 16, .ro, 0x1, false, 1, 0x0, 1, 0x0⟩
def F.MUSTER_STAT.LAST : Fld := ⟨.stream, 0x13c, 0, 2, .ro, 0x0, false, 1, 0x0, 1, 0x0⟩
def F.MUSTER_STAT.WAIT : Fld := ⟨.stream, 0x13c, 2, 1, .ro, 0x0, false, 1, 0x0, 1, 0x0⟩
def F.STREAM_ISTAT.STATE : Fld := ⟨.stream, 0x140, 0, 3, .ro, 0x0, false, 8, 0x4, 1, 0x0⟩
def F.STREAM_ISTAT.PC : Fld := ⟨.stream, 0x140, 3, 5, .ro, 0x0, false, 8, 0x4, 1, 0x0⟩
def F.STREAM_ISTAT.DEPTH : Fld := ⟨.stream, 0x140, 8, 3, .ro, 0x0, false, 8, 0x4, 1, 0x0⟩
def F.STREAM_ISTAT.CTX : Fld := ⟨.stream, 0x140, 12, 4, .ro, 0x0, false, 8, 0x4, 1, 0x0⟩
def F.STREAM_ISTAT.CRED : Fld := ⟨.stream, 0x140, 16, 12, .ro, 0x0, false, 8, 0x4, 1, 0x0⟩
def F.STREAM_POISON_LO.FIRST : Fld := ⟨.stream, 0x400, 0, 18, .ro, 0x0, false, 64, 0x8, 1, 0x0⟩
def F.STREAM_POISON_LO.VALID : Fld := ⟨.stream, 0x400, 31, 1, .ro, 0x0, false, 64, 0x8, 1, 0x0⟩
def F.STREAM_POISON_HI.LAST : Fld := ⟨.stream, 0x404, 0, 18, .ro, 0x0, false, 64, 0x8, 1, 0x0⟩
def F.STREAM_IMEM_LO.INSN : Fld := ⟨.stream, 0x800, 0, 32, .rw, 0x0, false, 8, 0x100, 32, 0x8⟩
def F.STREAM_IMEM_HI.INSN : Fld := ⟨.stream, 0x804, 0, 32, .rw, 0x0, false, 8, 0x100, 32, 0x8⟩
def F.NOC_HAZ_BASE.BASE : Fld := ⟨.noc, 0x400, 0, 31, .rw, 0x0, false, 4, 0x20, 1, 0x0⟩
def F.NOC_HAZ_LIMIT.LIMIT : Fld := ⟨.noc, 0x404, 0, 31, .rw, 0x0, false, 4, 0x20, 1, 0x0⟩
def F.NOC_HAZ_CTRL.EN : Fld := ⟨.noc, 0x408, 0, 1, .rw, 0x0, false, 4, 0x20, 1, 0x0⟩
def F.NOC_HAZ_CTRL.HIT : Fld := ⟨.noc, 0x408, 1, 1, .w1c, 0x0, false, 4, 0x20, 1, 0x0⟩
def F.NOC_HAZ_CTRL.OVER : Fld := ⟨.noc, 0x408, 2, 1, .w1c, 0x0, false, 4, 0x20, 1, 0x0⟩
def F.NOC_HAZ_ADDR_LO.ADDR : Fld := ⟨.noc, 0x40c, 0, 32, .ro, 0x0, false, 4, 0x20, 1, 0x0⟩
def F.NOC_HAZ_ADDR_HI.ADDR : Fld := ⟨.noc, 0x410, 0, 10, .ro, 0x0, false, 4, 0x20, 1, 0x0⟩
def F.NOC_HAZ_SRC.KIND : Fld := ⟨.noc, 0x414, 0, 3, .ro, 0x0, false, 4, 0x20, 1, 0x0⟩
def F.NOC_HAZ_SRC.CORE : Fld := ⟨.noc, 0x414, 8, 8, .ro, 0x0, false, 4, 0x20, 1, 0x0⟩
def F.NOC_HAZ_SRC.CTX : Fld := ⟨.noc, 0x414, 16, 4, .ro, 0x0, false, 4, 0x20, 1, 0x0⟩
def F.NOC_HAZ_CNT.COUNT : Fld := ⟨.noc, 0x418, 0, 32, .rc, 0x0, true, 4, 0x20, 1, 0x0⟩
def F.SEQ_CTRL.HALT : Fld := ⟨.seq, 0x100, 0, 1, .rw, 0x0, false, 1, 0x0, 1, 0x0⟩
def F.SEQ_CTRL.STEP : Fld := ⟨.seq, 0x100, 1, 1, .wo, 0x0, false, 1, 0x0, 1, 0x0⟩
def F.SEQ_STATE.RUN : Fld := ⟨.seq, 0x104, 0, 2, .ro, 0x0, false, 1, 0x0, 1, 0x0⟩
def F.SEQ_STATE.YREQ : Fld := ⟨.seq, 0x104, 2, 1, .ro, 0x0, false, 1, 0x0, 1, 0x0⟩
def F.SEQ_STATE.PC : Fld := ⟨.seq, 0x104, 4, 12, .ro, 0x0, false, 1, 0x0, 1, 0x0⟩
def F.SEQ_STATE.LOOPS : Fld := ⟨.seq, 0x104, 16, 3, .ro, 0x0, false, 1, 0x0, 1, 0x0⟩
def F.SEQ_FLAGS.FLAGS : Fld := ⟨.seq, 0x108, 0, 5, .ro, 0x0, false, 4, 0x4, 1, 0x0⟩
def F.SEQ_FLAGS.CTX : Fld := ⟨.seq, 0x108, 8, 4, .ro, 0x0, false, 4, 0x4, 1, 0x0⟩
def F.SEQ_FAULT.CODE : Fld := ⟨.seq, 0x118, 0, 8, .ro, 0x0, false, 4, 0x4, 1, 0x0⟩
def F.SEQ_FAULT.SLOT : Fld := ⟨.seq, 0x118, 8, 2, .ro, 0x0, false, 4, 0x4, 1, 0x0⟩
def F.SEQ_FAULT.PC : Fld := ⟨.seq, 0x118, 12, 12, .ro, 0x0, false, 4, 0x4, 1, 0x0⟩
def F.SEQ_IMEM_ADDR.WORD : Fld := ⟨.seq, 0x128, 0, 3, .rw, 0x0, false, 1, 0x0, 1, 0x0⟩
def F.SEQ_IMEM_ADDR.BUNDLE : Fld := ⟨.seq, 0x128, 3, 12, .rw, 0x0, false, 1, 0x0, 1, 0x0⟩
def F.SEQ_IMEM_ADDR.AINC : Fld := ⟨.seq, 0x128, 15, 1, .rw, 0x0, false, 1, 0x0, 1, 0x0⟩
def F.SEQ_IMEM_DATA.DATA : Fld := ⟨.seq, 0x12c, 0, 32, .rw, 0x0, false, 1, 0x0, 1, 0x0⟩
def F.SEQ_CYCLE_LO.COUNT : Fld := ⟨.seq, 0x130, 0, 32, .ro, 0x0, false, 1, 0x0, 1, 0x0⟩
def F.SEQ_CYCLE_HI.COUNT : Fld := ⟨.seq, 0x134, 0, 32, .ro, 0x0, false, 1, 0x0, 1, 0x0⟩
def F.SEQ_YIELD_CNT.COUNT : Fld := ⟨.seq, 0x138, 0, 32, .ro, 0x0, true, 1, 0x0, 1, 0x0⟩
def F.SEQ_WAIT_CNT.COUNT : Fld := ⟨.seq, 0x13c, 0, 32, .ro, 0x0, true, 1, 0x0, 1, 0x0⟩
def F.VEC_FAULT.CODE : Fld := ⟨.vec, 0x100, 0, 8, .ro, 0x0, false, 4, 0x4, 1, 0x0⟩
def F.VEC_FAULT.OP : Fld := ⟨.vec, 0x100, 8, 8, .ro, 0x0, false, 4, 0x4, 1, 0x0⟩
def F.VEC_FAULT.PC : Fld := ⟨.vec, 0x100, 16, 12, .ro, 0x0, false, 4, 0x4, 1, 0x0⟩
def F.VEC_OPS_LO.COUNT : Fld := ⟨.vec, 0x110, 0, 32, .ro, 0x0, true, 1, 0x0, 1, 0x0⟩
def F.VEC_OPS_HI.COUNT : Fld := ⟨.vec, 0x114, 0, 32, .ro, 0x0, true, 1, 0x0, 1, 0x0⟩
def F.SCALE_SEL.ENTRY : Fld := ⟨.scale, 0x100, 0, 8, .rw, 0x0, false, 1, 0x0, 1, 0x0⟩
def F.SCALE_K.K : Fld := ⟨.scale, 0x104, 0, 8, .rw, 0x0, false, 1, 0x0, 1, 0x0⟩
def F.SCALE_RMAX.RMAX : Fld := ⟨.scale, 0x108, 0, 32, .rw, 0x0, false, 1, 0x0, 1, 0x0⟩
def F.SCALE_STAT.NAN_SEEN : Fld := ⟨.scale, 0x10c, 0, 1, .w1c, 0x0, false, 1, 0x0, 1, 0x0⟩
def F.SCALE_HIST.H : Fld := ⟨.scale, 0x140, 0, 32, .rw, 0x0, false, 16, 0x4, 1, 0x0⟩
def F.RNG_SEED_LO.SEED : Fld := ⟨.rng, 0x100, 0, 32, .rw, 0x0, false, 1, 0x0, 1, 0x0⟩
def F.RNG_SEED_HI.SEED : Fld := ⟨.rng, 0x104, 0, 32, .rw, 0x0, false, 1, 0x0, 1, 0x0⟩
def F.RNG_CTRL.KAT : Fld := ⟨.rng, 0x108, 0, 1, .wo, 0x0, false, 1, 0x0, 1, 0x0⟩
def F.RNG_CTRL.KAT_BUSY : Fld := ⟨.rng, 0x108, 1, 1, .ro, 0x0, false, 1, 0x0, 1, 0x0⟩
def F.RNG_CTRL.KAT_DONE : Fld := ⟨.rng, 0x108, 2, 1, .ro, 0x0, false, 1, 0x0, 1, 0x0⟩
def F.RNG_CTRL.KAT_PASS : Fld := ⟨.rng, 0x108, 3, 1, .ro, 0x0, false, 1, 0x0, 1, 0x0⟩
def F.RNG_WORDS_LO.COUNT : Fld := ⟨.rng, 0x10c, 0, 32, .ro, 0x0, true, 1, 0x0, 1, 0x0⟩
def F.RNG_WORDS_HI.COUNT : Fld := ⟨.rng, 0x110, 0, 32, .ro, 0x0, true, 1, 0x0, 1, 0x0⟩
def F.HBM_STK_STATE.TRAIN : Fld := ⟨.hbmStk, 0x100, 0, 2, .ro, 0x0, false, 1, 0x0, 1, 0x0⟩
def F.HBM_STK_STATE.SREF : Fld := ⟨.hbmStk, 0x100, 2, 1, .ro, 0x0, false, 1, 0x0, 1, 0x0⟩
def F.HBM_STK_STATE.REF2X : Fld := ⟨.hbmStk, 0x100, 3, 1, .ro, 0x0, false, 1, 0x0, 1, 0x0⟩
def F.HBM_STK_STATE.TEMP : Fld := ⟨.hbmStk, 0x100, 8, 8, .ro, 0x0, false, 1, 0x0, 1, 0x0⟩
def F.HBM_STK_STATE.TEMP_MAX : Fld := ⟨.hbmStk, 0x100, 16, 8, .rc, 0x0, false, 1, 0x0, 1, 0x0⟩
def F.HBM_STK_ID.HEIGHT : Fld := ⟨.hbmStk, 0x104, 0, 8, .ro, 0x10, false, 1, 0x0, 1, 0x0⟩
def F.HBM_STK_ID.DENSITY : Fld := ⟨.hbmStk, 0x104, 8, 8, .ro, 0x30, false, 1, 0x0, 1, 0x0⟩
def F.HBM_STK_ID.MFR : Fld := ⟨.hbmStk, 0x104, 16, 16, .ro, 0x0, false, 1, 0x0, 1, 0x0⟩
def F.HBM_STK_ODECC.COUNT : Fld := ⟨.hbmStk, 0x108, 0, 32, .rc, 0x0, true, 1, 0x0, 1, 0x0⟩
def F.HBM_STK_LANES.REPAIRED : Fld := ⟨.hbmStk, 0x10c, 0, 8, .ro, 0x0, false, 1, 0x0, 1, 0x0⟩
def F.HBM_MAP_CTRL.MODE : Fld := ⟨.hbmStk, 0x180, 0, 1, .rw, 0x0, false, 1, 0x0, 1, 0x0⟩
def F.HBM_MAP_CTRL.REBUILD : Fld := ⟨.hbmStk, 0x180, 1, 1, .wo, 0x0, false, 1, 0x0, 1, 0x0⟩
def F.HBM_MAP_CTRL.BUSY : Fld := ⟨.hbmStk, 0x180, 2, 1, .ro, 0x0, false, 1, 0x0, 1, 0x0⟩
def F.HBM_MAP_CTRL.NREDIR : Fld := ⟨.hbmStk, 0x180, 8, 4, .ro, 0x0, false, 1, 0x0, 1, 0x0⟩
def F.HBM_MAP_CTRL.NBASE : Fld := ⟨.hbmStk, 0x180, 16, 10, .ro, 0x0, false, 1, 0x0, 1, 0x0⟩
def F.HBM_CAP.GIB : Fld := ⟨.hbmStk, 0x184, 0, 12, .ro, 0x0, false, 1, 0x0, 1, 0x0⟩
def F.HBM_HEADROOM.GIB : Fld := ⟨.hbmStk, 0x188, 0, 12, .rw, 0x0, false, 1, 0x0, 1, 0x0⟩
def F.HBM_RELOC.RATE : Fld := ⟨.hbmStk, 0x18c, 0, 3, .rw, 0x4, false, 1, 0x0, 1, 0x0⟩
def F.HBM_RELOC.BUSY : Fld := ⟨.hbmStk, 0x18c, 3, 1, .ro, 0x0, false, 1, 0x0, 1, 0x0⟩
def F.HBM_RELOC.CH : Fld := ⟨.hbmStk, 0x18c, 4, 9, .ro, 0x0, false, 1, 0x0, 1, 0x0⟩
def F.HBM_RELOC_DONE.GRANULES : Fld := ⟨.hbmStk, 0x190, 0, 22, .ro, 0x0, false, 1, 0x0, 1, 0x0⟩
def F.HBM_XLATE_LO.ADDR : Fld := ⟨.hbmStk, 0x194, 0, 32, .rw, 0x0, false, 1, 0x0, 1, 0x0⟩
def F.HBM_XLATE_HI.ADDR : Fld := ⟨.hbmStk, 0x198, 0, 10, .rw, 0x0, false, 1, 0x0, 1, 0x0⟩
def F.HBM_XLATE_RES.SLOT : Fld := ⟨.hbmStk, 0x19c, 0, 22, .ro, 0x0, false, 1, 0x0, 1, 0x0⟩
def F.HBM_XLATE_RES.CH : Fld := ⟨.hbmStk, 0x19c, 22, 9, .ro, 0x0, false, 1, 0x0, 1, 0x0⟩
def F.HBM_XLATE_RES.VALID : Fld := ⟨.hbmStk, 0x19c, 31, 1, .ro, 0x0, false, 1, 0x0, 1, 0x0⟩
def F.HBM_CH_STATE.STATE : Fld := ⟨.hbmCh, 0x100, 0, 3, .ro, 0x0, false, 1, 0x0, 1, 0x0⟩
def F.HBM_CH_STATE.CAUSE : Fld := ⟨.hbmCh, 0x100, 4, 3, .ro, 0x0, false, 1, 0x0, 1, 0x0⟩
def F.HBM_CH_STATE.PRIOR : Fld := ⟨.hbmCh, 0x100, 8, 3, .ro, 0x0, false, 1, 0x0, 1, 0x0⟩
def F.HBM_CH_CMD.FAIL : Fld := ⟨.hbmCh, 0x104, 0, 1, .wo, 0x0, false, 1, 0x0, 1, 0x0⟩
def F.HBM_CH_CMD.TEST_ENTER : Fld := ⟨.hbmCh, 0x104, 1, 1, .wo, 0x0, false, 1, 0x0, 1, 0x0⟩
def F.HBM_CH_CMD.TEST_EXIT : Fld := ⟨.hbmCh, 0x104, 2, 1, .wo, 0x0, false, 1, 0x0, 1, 0x0⟩
def F.HBM_CH_ERR_COUNT.COUNT : Fld := ⟨.hbmCh, 0x108, 0, 32, .rc, 0x0, true, 1, 0x0, 1, 0x0⟩
def F.HBM_CH_UE_COUNT.COUNT : Fld := ⟨.hbmCh, 0x10c, 0, 32, .rc, 0x0, true, 1, 0x0, 1, 0x0⟩
def F.HBM_CH_ERR_THR.CE_THR : Fld := ⟨.hbmCh, 0x110, 0, 16, .rw, 0x400, false, 1, 0x0, 1, 0x0⟩
def F.HBM_CH_ERR_THR.UE_THR : Fld := ⟨.hbmCh, 0x110, 16, 8, .rw, 0x1, false, 1, 0x0, 1, 0x0⟩
def F.HBM_CH_ERR_LOC_LO.ADDR : Fld := ⟨.hbmCh, 0x114, 0, 32, .ro, 0x0, false, 1, 0x0, 1, 0x0⟩
def F.HBM_CH_ERR_LOC_HI.ADDR : Fld := ⟨.hbmCh, 0x118, 0, 10, .ro, 0x0, false, 1, 0x0, 1, 0x0⟩
def F.HBM_CH_ERR_LOC_HI.SYMBOL : Fld := ⟨.hbmCh, 0x118, 10, 5, .ro, 0x0, false, 1, 0x0, 1, 0x0⟩
def F.HBM_CH_ERR_LOC_HI.UE : Fld := ⟨.hbmCh, 0x118, 15, 1, .ro, 0x0, false, 1, 0x0, 1, 0x0⟩
def F.HBM_CH_ERR_LOC_HI.VALID : Fld := ⟨.hbmCh, 0x118, 16, 1, .ro, 0x0, false, 1, 0x0, 1, 0x0⟩
def F.HBM_CH_SCRUB.HOURS : Fld := ⟨.hbmCh, 0x11c, 0, 8, .rw, 0x18, false, 1, 0x0, 1, 0x0⟩
def F.HBM_CH_BYTES_LO.COUNT : Fld := ⟨.hbmCh, 0x120, 0, 32, .ro, 0x0, true, 1, 0x0, 1, 0x0⟩
def F.HBM_CH_BYTES_HI.COUNT : Fld := ⟨.hbmCh, 0x124, 0, 32, .ro, 0x0, true, 1, 0x0, 1, 0x0⟩
def F.HBM_TG_CTRL.START : Fld := ⟨.hbmCh, 0x200, 0, 1, .wo, 0x0, false, 2, 0x40, 1, 0x0⟩
def F.HBM_TG_CTRL.STOP : Fld := ⟨.hbmCh, 0x200, 1, 1, .wo, 0x0, false, 2, 0x40, 1, 0x0⟩
def F.HBM_TG_CTRL.BUSY : Fld := ⟨.hbmCh, 0x200, 2, 1, .ro, 0x0, false, 2, 0x40, 1, 0x0⟩
def F.HBM_TG_CTRL.STOP_ON_FAIL : Fld := ⟨.hbmCh, 0x200, 3, 1, .rw, 0x0, false, 2, 0x40, 1, 0x0⟩
def F.HBM_TG_CTRL.PATTERN : Fld := ⟨.hbmCh, 0x200, 4, 2, .rw, 0x0, false, 2, 0x40, 1, 0x0⟩
def F.HBM_TG_CTRL.OPS : Fld := ⟨.hbmCh, 0x200, 6, 2, .rw, 0x0, false, 2, 0x40, 1, 0x0⟩
def F.HBM_TG_CTRL.RATE : Fld := ⟨.hbmCh, 0x200, 8, 7, .rw, 0x64, false, 2, 0x40, 1, 0x0⟩
def F.HBM_TG_SEED.SEED : Fld := ⟨.hbmCh, 0x204, 0, 31, .rw, 0x1, false, 2, 0x40, 1, 0x0⟩
def F.HBM_TG_FIRST.SLOT : Fld := ⟨.hbmCh, 0x208, 0, 22, .rw, 0x0, false, 2, 0x40, 1, 0x0⟩
def F.HBM_TG_LAST.SLOT : Fld := ⟨.hbmCh, 0x20c, 0, 22, .rw, 0x2fffff, false, 2, 0x40, 1, 0x0⟩
def F.HBM_TG_PASSES.PASSES : Fld := ⟨.hbmCh, 0x210, 0, 16, .rw, 0x1, false, 2, 0x40, 1, 0x0⟩
def F.HBM_TG_PASSES.DONE : Fld := ⟨.hbmCh, 0x210, 16, 16, .ro, 0x0, false, 2, 0x40, 1, 0x0⟩
def F.HBM_TG_FAIL_CNT.COUNT : Fld := ⟨.hbmCh, 0x214, 0, 32, .rc, 0x0, true, 2, 0x40, 1, 0x0⟩
def F.HBM_TG_FAIL_ADDR.SLOT : Fld := ⟨.hbmCh, 0x218, 0, 22, .ro, 0x0, false, 2, 0x40, 1, 0x0⟩
def F.HBM_TG_FAIL_ADDR.BURST : Fld := ⟨.hbmCh, 0x218, 22, 5, .ro, 0x0, false, 2, 0x40, 1, 0x0⟩
def F.HBM_TG_FAIL_ADDR.VALID : Fld := ⟨.hbmCh, 0x218, 31, 1, .ro, 0x0, false, 2, 0x40, 1, 0x0⟩
def F.HBM_TG_FAIL_BIT.BIT : Fld := ⟨.hbmCh, 0x21c, 0, 8, .ro, 0x0, false, 2, 0x40, 1, 0x0⟩
def F.HBM_TG_FAIL_BIT.EXPECT : Fld := ⟨.hbmCh, 0x21c, 8, 1, .ro, 0x0, false, 2, 0x40, 1, 0x0⟩
def F.HBM_TG_FAIL_BIT.NBITS : Fld := ⟨.hbmCh, 0x21c, 9, 9, .ro, 0x0, false, 2, 0x40, 1, 0x0⟩
def F.HBM_TG_BURSTS_LO.COUNT : Fld := ⟨.hbmCh, 0x220, 0, 32, .ro, 0x0, true, 2, 0x40, 1, 0x0⟩
def F.HBM_TG_BURSTS_HI.COUNT : Fld := ⟨.hbmCh, 0x224, 0, 32, .ro, 0x0, true, 2, 0x40, 1, 0x0⟩
def F.FAB_PORT_CFG.SPLIT : Fld := ⟨.fabPort, 0x100, 0, 2, .rw, 0x0, false, 1, 0x0, 1, 0x0⟩
def F.FAB_PORT_CFG.EN : Fld := ⟨.fabPort, 0x100, 2, 1, .rw, 0x1, false, 1, 0x0, 1, 0x0⟩
def F.FAB_PORT_CFG.SPARE_EN : Fld := ⟨.fabPort, 0x100, 3, 1, .rw, 0x1, false, 1, 0x0, 1, 0x0⟩
def F.FAB_PORT_CMD.RETRAIN : Fld := ⟨.fabPort, 0x104, 0, 4, .wo, 0x0, false, 1, 0x0, 1, 0x0⟩
def F.FAB_PORT_CMD.CLOSE : Fld := ⟨.fabPort, 0x104, 4, 4, .wo, 0x0, false, 1, 0x0, 1, 0x0⟩
def F.FAB_PORT_CMD.FEED_SWAP : Fld := ⟨.fabPort, 0x104, 8, 1, .wo, 0x0, false, 1, 0x0, 1, 0x0⟩
def F.FAB_PORT_LINK.STATE : Fld := ⟨.fabPort, 0x108, 0, 3, .ro, 0x0, false, 4, 0x4, 1, 0x0⟩
def F.FAB_PORT_LINK.LANES : Fld := ⟨.fabPort, 0x108, 4, 5, .ro, 0x0, false, 4, 0x4, 1, 0x0⟩
def F.FAB_PORT_LINK.CAUSE : Fld := ⟨.fabPort, 0x108, 12, 4, .ro, 0x0, false, 4, 0x4, 1, 0x0⟩
def F.FAB_PORT_LINK.LOOP : Fld := ⟨.fabPort, 0x108, 16, 12, .ro, 0x0, false, 4, 0x4, 1, 0x0⟩
def F.FAB_PORT_PEER.MODULE : Fld := ⟨.fabPort, 0x118, 0, 20, .ro, 0x0, false, 4, 0x4, 1, 0x0⟩
def F.FAB_PORT_PEER.PORT : Fld := ⟨.fabPort, 0x118, 20, 4, .ro, 0x0, false, 4, 0x4, 1, 0x0⟩
def F.FAB_PORT_PEER.LINK : Fld := ⟨.fabPort, 0x118, 24, 2, .ro, 0x0, false, 4, 0x4, 1, 0x0⟩
def F.FAB_PORT_PEER.VALID : Fld := ⟨.fabPort, 0x118, 31, 1, .ro, 0x0, false, 4, 0x4, 1, 0x0⟩
def F.FAB_PORT_RETRY.NAKS : Fld := ⟨.fabPort, 0x128, 0, 16, .rc, 0x0, true, 4, 0x4, 1, 0x0⟩
def F.FAB_PORT_RETRY.DOWNS : Fld := ⟨.fabPort, 0x128, 16, 16, .ro, 0x0, true, 4, 0x4, 1, 0x0⟩
def F.FAB_PORT_SPARE.TX_USED : Fld := ⟨.fabPort, 0x138, 0, 1, .ro, 0x0, false, 1, 0x0, 1, 0x0⟩
def F.FAB_PORT_SPARE.TX_LANE : Fld := ⟨.fabPort, 0x138, 1, 4, .ro, 0x0, false, 1, 0x0, 1, 0x0⟩
def F.FAB_PORT_SPARE.TX_FIBRE : Fld := ⟨.fabPort, 0x138, 5, 3, .ro, 0x0, false, 1, 0x0, 1, 0x0⟩
def F.FAB_PORT_SPARE.RX_USED : Fld := ⟨.fabPort, 0x138, 8, 1, .ro, 0x0, false, 1, 0x0, 1, 0x0⟩
def F.FAB_PORT_SPARE.RX_LANE : Fld := ⟨.fabPort, 0x138, 9, 4, .ro, 0x0, false, 1, 0x0, 1, 0x0⟩
def F.FAB_PORT_SPARE.RX_FIBRE : Fld := ⟨.fabPort, 0x138, 13, 3, .ro, 0x0, false, 1, 0x0, 1, 0x0⟩
def F.FAB_PORT_SPARE.BUSY : Fld := ⟨.fabPort, 0x138, 16, 1, .ro, 0x0, false, 1, 0x0, 1, 0x0⟩
def F.FAB_PORT_FEED.SEL : Fld := ⟨.fabPort, 0x13c, 0, 1, .ro, 0x0, false, 1, 0x0, 1, 0x0⟩
def F.FAB_PORT_FEED.A_OK : Fld := ⟨.fabPort, 0x13c, 1, 1, .ro, 0x0, false, 1, 0x0, 1, 0x0⟩
def F.FAB_PORT_FEED.B_OK : Fld := ⟨.fabPort, 0x13c, 2, 1, .ro, 0x0, false, 1, 0x0, 1, 0x0⟩
def F.FAB_PORT_FEED.A_LOW : Fld := ⟨.fabPort, 0x13c, 3, 1, .ro, 0x0, false, 1, 0x0, 1, 0x0⟩
def F.FAB_PORT_FEED.B_LOW : Fld := ⟨.fabPort, 0x13c, 4, 1, .ro, 0x0, false, 1, 0x0, 1, 0x0⟩
def F.FAB_PORT_FEED.SWITCHES : Fld := ⟨.fabPort, 0x13c, 8, 8, .ro, 0x0, true, 1, 0x0, 1, 0x0⟩
def F.FAB_PORT_FEED_PWR_A.L0 : Fld := ⟨.fabPort, 0x140, 0, 10, .ro, 0x200, false, 1, 0x0, 1, 0x0⟩
def F.FAB_PORT_FEED_PWR_A.L1 : Fld := ⟨.fabPort, 0x140, 10, 10, .ro, 0x200, false, 1, 0x0, 1, 0x0⟩
def F.FAB_PORT_FEED_PWR_A.L2 : Fld := ⟨.fabPort, 0x140, 20, 10, .ro, 0x200, false, 1, 0x0, 1, 0x0⟩
def F.FAB_PORT_FEED_PWR_B.L0 : Fld := ⟨.fabPort, 0x144, 0, 10, .ro, 0x200, false, 1, 0x0, 1, 0x0⟩
def F.FAB_PORT_FEED_PWR_B.L1 : Fld := ⟨.fabPort, 0x144, 10, 10, .ro, 0x200, false, 1, 0x0, 1, 0x0⟩
def F.FAB_PORT_FEED_PWR_B.L2 : Fld := ⟨.fabPort, 0x144, 20, 10, .ro, 0x200, false, 1, 0x0, 1, 0x0⟩
def F.FAB_PORT_CSYM_THR.THR : Fld := ⟨.fabPort, 0x148, 0, 32, .rw, 0x400000, false, 1, 0x0, 1, 0x0⟩
def F.FAB_PORT_UCW_THR.THR : Fld := ⟨.fabPort, 0x14c, 0, 16, .rw, 0x10, false, 1, 0x0, 1, 0x0⟩
def F.FAB_PORT_TEMP.TEMP : Fld := ⟨.fabPort, 0x150, 0, 8, .ro, 0x0, false, 1, 0x0, 1, 0x0⟩
def F.FAB_PORT_TEMP.TEMP_MAX : Fld := ⟨.fabPort, 0x150, 8, 8, .rc, 0x0, false, 1, 0x0, 1, 0x0⟩
def F.FAB_LANE_STATE.STATE : Fld := ⟨.fabPort, 0x400, 0, 3, .ro, 0x0, false, 17, 0x20, 1, 0x0⟩
def F.FAB_LANE_STATE.LOS : Fld := ⟨.fabPort, 0x400, 3, 1, .ro, 0x0, false, 17, 0x20, 1, 0x0⟩
def F.FAB_LANE_STATE.LOCK : Fld := ⟨.fabPort, 0x400, 4, 1, .ro, 0x0, false, 17, 0x20, 1, 0x0⟩
def F.FAB_LANE_STATE.FIBRE : Fld := ⟨.fabPort, 0x400, 8, 3, .ro, 0x0, false, 17, 0x20, 1, 0x0⟩
def F.FAB_LANE_STATE.WL : Fld := ⟨.fabPort, 0x400, 11, 2, .ro, 0x0, false, 17, 0x20, 1, 0x0⟩
def F.FAB_LANE_STATE.LINK : Fld := ⟨.fabPort, 0x400, 13, 2, .ro, 0x0, false, 17, 0x20, 1, 0x0⟩
def F.FAB_LANE_RXPWR.PWR : Fld := ⟨.fabPort, 0x404, 0, 10, .ro, 0x200, false, 17, 0x20, 1, 0x0⟩
def F.FAB_LANE_RXPWR.PMIN : Fld := ⟨.fabPort, 0x404, 16, 10, .rc, 0x1ff, false, 17, 0x20, 1, 0x0⟩
def F.FAB_LANE_CSYM.COUNT : Fld := ⟨.fabPort, 0x408, 0, 32, .ro, 0x0, false, 17, 0x20, 1, 0x0⟩
def F.FAB_LANE_UCW.COUNT : Fld := ⟨.fabPort, 0x40c, 0, 32, .rc, 0x0, true, 17, 0x20, 1, 0x0⟩
def F.FAB_LANE_SNR.SNR : Fld := ⟨.fabPort, 0x410, 0, 8, .ro, 0x0, false, 17, 0x20, 1, 0x0⟩
def F.FAB_RTR_ID.ID : Fld := ⟨.fabRtr, 0x100, 0, 20, .rw, 0x0, false, 1, 0x0, 1, 0x0⟩
def F.FAB_RTR_STALL_LIM.PCLK : Fld := ⟨.fabRtr, 0x104, 0, 32, .rw, 0x9eb10, false, 1, 0x0, 1, 0x0⟩
def F.FAB_RTR_RSP_LIM.PCLK : Fld := ⟨.fabRtr, 0x108, 0, 32, .rw, 0x200000, false, 1, 0x0, 1, 0x0⟩
def F.FAB_RTR_RT_SEL.IDX : Fld := ⟨.fabRtr, 0x10c, 0, 10, .rw, 0x0, false, 1, 0x0, 1, 0x0⟩
def F.FAB_RTR_RT_SEL.TBL : Fld := ⟨.fabRtr, 0x10c, 10, 1, .rw, 0x0, false, 1, 0x0, 1, 0x0⟩
def F.FAB_RTR_RT_SEL.WRITE : Fld := ⟨.fabRtr, 0x10c, 11, 1, .wo, 0x0, false, 1, 0x0, 1, 0x0⟩
def F.FAB_RTR_RT_LO.C0 : Fld := ⟨.fabRtr, 0x110, 0, 6, .rw, 0x0, false, 1, 0x0, 1, 0x0⟩
def F.FAB_RTR_RT_LO.C1 : Fld := ⟨.fabRtr, 0x110, 8, 6, .rw, 0x0, false, 1, 0x0, 1, 0x0⟩
def F.FAB_RTR_RT_LO.C2 : Fld := ⟨.fabRtr, 0x110, 16, 6, .rw, 0x0, false, 1, 0x0, 1, 0x0⟩
def F.FAB_RTR_RT_LO.C3 : Fld := ⟨.fabRtr, 0x110, 24, 6, .rw, 0x0, false, 1, 0x0, 1, 0x0⟩
def F.FAB_RTR_RT_LO.V0 : Fld := ⟨.fabRtr, 0x110, 6, 1, .rw, 0x0, false, 1, 0x0, 1, 0x0⟩
def F.FAB_RTR_RT_LO.V1 : Fld := ⟨.fabRtr, 0x110, 14, 1, .rw, 0x0, false, 1, 0x0, 1, 0x0⟩
def F.FAB_RTR_RT_LO.V2 : Fld := ⟨.fabRtr, 0x110, 22, 1, .rw, 0x0, false, 1, 0x0, 1, 0x0⟩
def F.FAB_RTR_RT_LO.V3 : Fld := ⟨.fabRtr, 0x110, 30, 1, .rw, 0x0, false, 1, 0x0, 1, 0x0⟩
def F.FAB_RTR_RT_HI.FIX : Fld := ⟨.fabRtr, 0x114, 0, 6, .rw, 0x0, false, 1, 0x0, 1, 0x0⟩
def F.FAB_RTR_RT_HI.FIXV : Fld := ⟨.fabRtr, 0x114, 6, 1, .rw, 0x0, false, 1, 0x0, 1, 0x0⟩
def F.FAB_RTR_RT_HI.ALT : Fld := ⟨.fabRtr, 0x114, 8, 6, .rw, 0x0, false, 1, 0x0, 1, 0x0⟩
def F.FAB_RTR_RT_HI.ALTV : Fld := ⟨.fabRtr, 0x114, 14, 1, .rw, 0x0, false, 1, 0x0, 1, 0x0⟩
def F.FAB_RTR_RT_HI.DATELINE : Fld := ⟨.fabRtr, 0x114, 15, 1, .rw, 0x0, false, 1, 0x0, 1, 0x0⟩
def F.FAB_RTR_RT_HI.DROP : Fld := ⟨.fabRtr, 0x114, 16, 1, .rw, 0x1, false, 1, 0x0, 1, 0x0⟩
def F.FAB_WIN_SEL.IDX : Fld := ⟨.fabRtr, 0x118, 0, 12, .rw, 0x0, false, 1, 0x0, 1, 0x0⟩
def F.FAB_WIN_BASE.BASE : Fld := ⟨.fabRtr, 0x11c, 0, 30, .rw, 0x0, false, 1, 0x0, 1, 0x0⟩
def F.FAB_WIN_SIZE.SIZE : Fld := ⟨.fabRtr, 0x120, 0, 31, .rw, 0x0, false, 1, 0x0, 1, 0x0⟩
def F.FAB_WIN_ATTR.EPOCH : Fld := ⟨.fabRtr, 0x124, 0, 16, .rw, 0x0, false, 1, 0x0, 1, 0x0⟩
def F.FAB_WIN_ATTR.R : Fld := ⟨.fabRtr, 0x124, 16, 1, .rw, 0x0, false, 1, 0x0, 1, 0x0⟩
def F.FAB_WIN_ATTR.W : Fld := ⟨.fabRtr, 0x124, 17, 1, .rw, 0x0, false, 1, 0x0, 1, 0x0⟩
def F.FAB_WIN_ATTR.A : Fld := ⟨.fabRtr, 0x124, 18, 1, .rw, 0x0, false, 1, 0x0, 1, 0x0⟩
def F.FAB_WIN_ATTR.OPEN : Fld := ⟨.fabRtr, 0x124, 19, 1, .ro, 0x0, false, 1, 0x0, 1, 0x0⟩
def F.FAB_WIN_ATTR.CTX : Fld := ⟨.fabRtr, 0x124, 20, 4, .rw, 0x0, false, 1, 0x0, 1, 0x0⟩
def F.FAB_WIN_ATTR.JOB : Fld := ⟨.fabRtr, 0x124, 24, 1, .rw, 0x0, false, 1, 0x0, 1, 0x0⟩
def F.FAB_WIN_SRC.SRC_ID : Fld := ⟨.fabRtr, 0x128, 0, 20, .rw, 0x0, false, 1, 0x0, 1, 0x0⟩
def F.FAB_WIN_SRCMASK.MASK : Fld := ⟨.fabRtr, 0x12c, 0, 20, .rw, 0x0, false, 1, 0x0, 1, 0x0⟩
def F.FAB_WIN_CMD.OPEN : Fld := ⟨.fabRtr, 0x130, 0, 1, .wo, 0x0, false, 1, 0x0, 1, 0x0⟩
def F.FAB_WIN_CMD.CLOSE : Fld := ⟨.fabRtr, 0x130, 1, 1, .wo, 0x0, false, 1, 0x0, 1, 0x0⟩
def F.FAB_WIN_CMD.BUSY : Fld := ⟨.fabRtr, 0x130, 2, 1, .ro, 0x0, false, 1, 0x0, 1, 0x0⟩
def F.FAB_RTR_STALL_INFO.LINK : Fld := ⟨.fabRtr, 0x134, 0, 6, .ro, 0x0, false, 1, 0x0, 1, 0x0⟩
def F.FAB_RTR_STALL_INFO.CLASS : Fld := ⟨.fabRtr, 0x134, 6, 3, .ro, 0x0, false, 1, 0x0, 1, 0x0⟩
def F.FAB_RTR_STALL_INFO.CTX : Fld := ⟨.fabRtr, 0x134, 12, 4, .ro, 0x0, false, 1, 0x0, 1, 0x0⟩
def F.FAB_RTR_STALL_INFO.VALID : Fld := ⟨.fabRtr, 0x134, 16, 1, .ro, 0x0, false, 1, 0x0, 1, 0x0⟩
def F.FAB_RTR_CRC_ERR.COUNT : Fld := ⟨.fabRtr, 0x138, 0, 32, .rc, 0x0, true, 1, 0x0, 1, 0x0⟩
def F.FAB_RTR_REJ_CNT.COUNT : Fld := ⟨.fabRtr, 0x13c, 0, 32, .rc, 0x0, true, 1, 0x0, 1, 0x0⟩
def F.FAB_RTR_LOST_CNT.COUNT : Fld := ⟨.fabRtr, 0x140, 0, 32, .rc, 0x0, true, 1, 0x0, 1, 0x0⟩
def F.FAB_RTR_DROP_CNT.COUNT : Fld := ⟨.fabRtr, 0x144, 0, 32, .rc, 0x0, true, 1, 0x0, 1, 0x0⟩
def F.FAB_RTR_MSG_LO.COUNT : Fld := ⟨.fabRtr, 0x148, 0, 32, .ro, 0x0, true, 1, 0x0, 1, 0x0⟩
def F.FAB_RTR_MSG_HI.COUNT : Fld := ⟨.fabRtr, 0x14c, 0, 32, .ro, 0x0, true, 1, 0x0, 1, 0x0⟩
def F.FAB_RTR_INDOUBT_CNT.COUNT : Fld := ⟨.fabRtr, 0x150, 0, 32, .rc, 0x0, true, 1, 0x0, 1, 0x0⟩
def F.CARAVAN_STATE.ACTIVE : Fld := ⟨.caravan, 0x100, 0, 6, .ro, 0x0, false, 1, 0x0, 1, 0x0⟩
def F.CARAVAN_STATE.QUEUED : Fld := ⟨.caravan, 0x100, 8, 11, .ro, 0x0, false, 1, 0x0, 1, 0x0⟩
def F.CARAVAN_STATE.FENCE : Fld := ⟨.caravan, 0x100, 19, 1, .ro, 0x0, false, 1, 0x0, 1, 0x0⟩
def F.CARAVAN_LEPOCH.EPOCH : Fld := ⟨.caravan, 0x104, 0, 16, .rw, 0x0, false, 1, 0x0, 1, 0x0⟩
def F.CARAVAN_RESHARD.ENTRY : Fld := ⟨.caravan, 0x108, 0, 10, .rw, 0x0, false, 1, 0x0, 1, 0x0⟩
def F.CARAVAN_RESHARD.ARM : Fld := ⟨.caravan, 0x108, 10, 1, .wo, 0x0, false, 1, 0x0, 1, 0x0⟩
def F.CARAVAN_RESHARD.PEND : Fld := ⟨.caravan, 0x108, 11, 1, .ro, 0x0, false, 1, 0x0, 1, 0x0⟩
def F.CARAVAN_RESHARD.BUSY : Fld := ⟨.caravan, 0x108, 12, 1, .ro, 0x0, false, 1, 0x0, 1, 0x0⟩
def F.CARAVAN_TMO.PCLK : Fld := ⟨.caravan, 0x10c, 0, 32, .rw, 0x40000000, false, 1, 0x0, 1, 0x0⟩
def F.CARAVAN_PREF_THR.PCLK : Fld := ⟨.caravan, 0x110, 0, 32, .rw, 0xcb2, false, 1, 0x0, 1, 0x0⟩
def F.CARAVAN_MUSTER_GRP.GROUP : Fld := ⟨.caravan, 0x114, 0, 6, .rw, 0x0, false, 1, 0x0, 1, 0x0⟩
def F.CARAVAN_MUSTER_GRP.VALID : Fld := ⟨.caravan, 0x114, 6, 1, .rw, 0x0, false, 1, 0x0, 1, 0x0⟩
def F.CARAVAN_GRP_SEL.GROUP : Fld := ⟨.caravan, 0x118, 0, 6, .rw, 0x0, false, 1, 0x0, 1, 0x0⟩
def F.CARAVAN_GRP_BASE.BASE : Fld := ⟨.caravan, 0x11c, 0, 18, .rw, 0x0, false, 1, 0x0, 1, 0x0⟩
def F.CARAVAN_GRP_SIZE.SIZE : Fld := ⟨.caravan, 0x120, 0, 19, .rw, 0x0, false, 1, 0x0, 1, 0x0⟩
def F.CARAVAN_GRP_RANK.RANK : Fld := ⟨.caravan, 0x124, 0, 18, .ro, 0x0, false, 1, 0x0, 1, 0x0⟩
def F.CARAVAN_GRP_RANK.DUP : Fld := ⟨.caravan, 0x124, 30, 1, .ro, 0x0, false, 1, 0x0, 1, 0x0⟩
def F.CARAVAN_GRP_RANK.PRESENT : Fld := ⟨.caravan, 0x124, 31, 1, .ro, 0x0, false, 1, 0x0, 1, 0x0⟩
def F.CARAVAN_RANK_ADDR.INDEX : Fld := ⟨.caravan, 0x128, 0, 18, .rw, 0x0, false, 1, 0x0, 1, 0x0⟩
def F.CARAVAN_RANK_ADDR.AINC : Fld := ⟨.caravan, 0x128, 31, 1, .rw, 0x0, false, 1, 0x0, 1, 0x0⟩
def F.CARAVAN_RANK_DATA.ID : Fld := ⟨.caravan, 0x12c, 0, 20, .rw, 0x0, false, 1, 0x0, 1, 0x0⟩
def F.CARAVAN_PLAN_ADDR.WORD : Fld := ⟨.caravan, 0x130, 0, 14, .rw, 0x0, false, 1, 0x0, 1, 0x0⟩
def F.CARAVAN_PLAN_ADDR.AINC : Fld := ⟨.caravan, 0x130, 31, 1, .rw, 0x0, false, 1, 0x0, 1, 0x0⟩
def F.CARAVAN_PLAN_DATA.DATA : Fld := ⟨.caravan, 0x134, 0, 32, .rw, 0x0, false, 1, 0x0, 1, 0x0⟩
def F.CARAVAN_LAST.ENTRY : Fld := ⟨.caravan, 0x138, 0, 10, .ro, 0x0, false, 1, 0x0, 1, 0x0⟩
def F.CARAVAN_LAST.STATUS : Fld := ⟨.caravan, 0x138, 16, 8, .ro, 0x0, false, 1, 0x0, 1, 0x0⟩
def F.CARAVAN_DONE_CNT.COUNT : Fld := ⟨.caravan, 0x13c, 0, 32, .ro, 0x0, true, 1, 0x0, 1, 0x0⟩
def F.CARAVAN_SMM_CNT.COUNT : Fld := ⟨.caravan, 0x140, 0, 32, .rc, 0x0, true, 1, 0x0, 1, 0x0⟩
def F.CARAVAN_EMM_CNT.COUNT : Fld := ⟨.caravan, 0x144, 0, 32, .rc, 0x0, true, 1, 0x0, 1, 0x0⟩
def F.CARAVAN_BYTES_LO.COUNT : Fld := ⟨.caravan, 0x148, 0, 32, .ro, 0x0, true, 1, 0x0, 1, 0x0⟩
def F.CARAVAN_BYTES_HI.COUNT : Fld := ⟨.caravan, 0x14c, 0, 32, .ro, 0x0, true, 1, 0x0, 1, 0x0⟩
def F.CARAVAN_PREF_CNT.COUNT : Fld := ⟨.caravan, 0x150, 0, 32, .ro, 0x0, true, 1, 0x0, 1, 0x0⟩
def F.CARAVAN_PREF_SKIP.COUNT : Fld := ⟨.caravan, 0x154, 0, 32, .rc, 0x0, true, 1, 0x0, 1, 0x0⟩
def F.CARAVAN_IDLE_SEL.LCORE : Fld := ⟨.caravan, 0x158, 0, 8, .rw, 0xff, false, 1, 0x0, 1, 0x0⟩
def F.CARAVAN_IDLE_LO.COUNT : Fld := ⟨.caravan, 0x160, 0, 32, .ro, 0x0, true, 8, 0x8, 1, 0x0⟩
def F.CARAVAN_IDLE_HI.COUNT : Fld := ⟨.caravan, 0x164, 0, 32, .ro, 0x0, true, 8, 0x8, 1, 0x0⟩
def F.HOSTETH_CFG.EN : Fld := ⟨.hostEth, 0x100, 0, 1, .rw, 0x1, false, 1, 0x0, 1, 0x0⟩
def F.HOSTETH_CFG.VLAN_EN : Fld := ⟨.hostEth, 0x100, 1, 1, .rw, 0x0, false, 1, 0x0, 1, 0x0⟩
def F.HOSTETH_CFG.PFC_EN : Fld := ⟨.hostEth, 0x100, 2, 1, .rw, 0x1, false, 1, 0x0, 1, 0x0⟩
def F.HOSTETH_STATE.LINK : Fld := ⟨.hostEth, 0x104, 0, 1, .ro, 0x0, false, 1, 0x0, 1, 0x0⟩
def F.HOSTETH_STATE.LFAULT : Fld := ⟨.hostEth, 0x104, 1, 1, .ro, 0x0, false, 1, 0x0, 1, 0x0⟩
def F.HOSTETH_STATE.RFAULT : Fld := ⟨.hostEth, 0x104, 2, 1, .ro, 0x0, false, 1, 0x0, 1, 0x0⟩
def F.HOSTETH_STATE.FEC_LOCK : Fld := ⟨.hostEth, 0x104, 3, 4, .ro, 0x0, false, 1, 0x0, 1, 0x0⟩
def F.HOSTETH_MAC_LO.MAC : Fld := ⟨.hostEth, 0x108, 0, 32, .ro, 0x0, false, 1, 0x0, 1, 0x0⟩
def F.HOSTETH_MAC_HI.MAC : Fld := ⟨.hostEth, 0x10c, 0, 16, .ro, 0x0, false, 1, 0x0, 1, 0x0⟩
def F.HOSTETH_IPV4.ADDR : Fld := ⟨.hostEth, 0x110, 0, 32, .rw, 0x0, false, 1, 0x0, 1, 0x0⟩
def F.HOSTETH_IPV6.ADDR : Fld := ⟨.hostEth, 0x114, 0, 32, .rw, 0x0, false, 4, 0x4, 1, 0x0⟩
def F.HOSTETH_VLAN.VID : Fld := ⟨.hostEth, 0x124, 0, 12, .rw, 0x0, false, 1, 0x0, 1, 0x0⟩
def F.HOSTETH_VLAN.PCP : Fld := ⟨.hostEth, 0x124, 12, 3, .rw, 0x3, false, 1, 0x0, 1, 0x0⟩
def F.HOSTETH_VLAN.DSCP : Fld := ⟨.hostEth, 0x124, 16, 6, .rw, 0x1a, false, 1, 0x0, 1, 0x0⟩
def F.HOSTETH_PFC.XOFF : Fld := ⟨.hostEth, 0x128, 0, 12, .rw, 0x100, false, 1, 0x0, 1, 0x0⟩
def F.HOSTETH_PFC.XON : Fld := ⟨.hostEth, 0x128, 12, 12, .rw, 0x200, false, 1, 0x0, 1, 0x0⟩
def F.HOSTETH_FEED.PWR : Fld := ⟨.hostEth, 0x12c, 0, 10, .ro, 0x200, false, 1, 0x0, 1, 0x0⟩
def F.HOSTETH_FEED.OK : Fld := ⟨.hostEth, 0x12c, 10, 1, .ro, 0x0, false, 1, 0x0, 1, 0x0⟩
def F.HOSTETH_FEED.LOW : Fld := ⟨.hostEth, 0x12c, 11, 1, .ro, 0x0, false, 1, 0x0, 1, 0x0⟩
def F.HOSTETH_RX_FRAMES_LO.COUNT : Fld := ⟨.hostEth, 0x130, 0, 32, .ro, 0x0, true, 1, 0x0, 1, 0x0⟩
def F.HOSTETH_RX_FRAMES_HI.COUNT : Fld := ⟨.hostEth, 0x134, 0, 32, .ro, 0x0, true, 1, 0x0, 1, 0x0⟩
def F.HOSTETH_TX_FRAMES_LO.COUNT : Fld := ⟨.hostEth, 0x138, 0, 32, .ro, 0x0, true, 1, 0x0, 1, 0x0⟩
def F.HOSTETH_TX_FRAMES_HI.COUNT : Fld := ⟨.hostEth, 0x13c, 0, 32, .ro, 0x0, true, 1, 0x0, 1, 0x0⟩
def F.HOSTETH_RX_DROP.COUNT : Fld := ⟨.hostEth, 0x140, 0, 32, .rc, 0x0, true, 1, 0x0, 1, 0x0⟩
def F.HOSTETH_FEC_CORR.COUNT : Fld := ⟨.hostEth, 0x144, 0, 32, .rc, 0x0, true, 1, 0x0, 1, 0x0⟩
def F.HOSTETH_FEC_UNCORR.COUNT : Fld := ⟨.hostEth, 0x148, 0, 32, .rc, 0x0, true, 1, 0x0, 1, 0x0⟩
def F.HOSTETH_PFC_RX.COUNT : Fld := ⟨.hostEth, 0x14c, 0, 32, .ro, 0x0, true, 1, 0x0, 1, 0x0⟩
def F.HOSTETH_PFC_TX.COUNT : Fld := ⟨.hostEth, 0x150, 0, 32, .ro, 0x0, true, 1, 0x0, 1, 0x0⟩
def F.ROCE_CC.CUT : Fld := ⟨.roce, 0x100, 0, 4, .rw, 0x4, false, 1, 0x0, 1, 0x0⟩
def F.ROCE_CC.STEP : Fld := ⟨.roce, 0x100, 8, 8, .rw, 0xa, false, 1, 0x0, 1, 0x0⟩
def F.ROCE_CC.INTERVAL : Fld := ⟨.roce, 0x100, 16, 12, .rw, 0x37, false, 1, 0x0, 1, 0x0⟩
def F.ROCE_CNP_GAP.GAP : Fld := ⟨.roce, 0x104, 0, 12, .rw, 0x32, false, 1, 0x0, 1, 0x0⟩
def F.ROCE_QP_SEL.IDX : Fld := ⟨.roce, 0x108, 0, 11, .rw, 0x0, false, 1, 0x0, 1, 0x0⟩
def F.ROCE_QP_SEL.WRITE : Fld := ⟨.roce, 0x108, 11, 1, .wo, 0x0, false, 1, 0x0, 1, 0x0⟩
def F.ROCE_QP_CTX.STATE : Fld := ⟨.roce, 0x10c, 0, 2, .rw, 0x0, false, 1, 0x0, 1, 0x0⟩
def F.ROCE_QP_CTX.PORT : Fld := ⟨.roce, 0x10c, 2, 2, .rw, 0x0, false, 1, 0x0, 1, 0x0⟩
def F.ROCE_QP_CTX.IPV6 : Fld := ⟨.roce, 0x10c, 4, 1, .rw, 0x0, false, 1, 0x0, 1, 0x0⟩
def F.ROCE_QP_CTX.REG : Fld := ⟨.roce, 0x10c, 5, 1, .rw, 0x0, false, 1, 0x0, 1, 0x0⟩
def F.ROCE_QP_CTX.DB : Fld := ⟨.roce, 0x10c, 6, 1, .rw, 0x0, false, 1, 0x0, 1, 0x0⟩
def F.ROCE_QP_CTX.MTU : Fld := ⟨.roce, 0x10c, 7, 2, .rw, 0x2, false, 1, 0x0, 1, 0x0⟩
def F.ROCE_QP_DQPN.QPN : Fld := ⟨.roce, 0x110, 0, 24, .rw, 0x0, false, 1, 0x0, 1, 0x0⟩
def F.ROCE_QP_SPSN.PSN : Fld := ⟨.roce, 0x114, 0, 24, .rw, 0x0, false, 1, 0x0, 1, 0x0⟩
def F.ROCE_QP_RPSN.PSN : Fld := ⟨.roce, 0x118, 0, 24, .rw, 0x0, false, 1, 0x0, 1, 0x0⟩
def F.ROCE_QP_DMAC_LO.MAC : Fld := ⟨.roce, 0x11c, 0, 32, .rw, 0x0, false, 1, 0x0, 1, 0x0⟩
def F.ROCE_QP_DMAC_HI.MAC : Fld := ⟨.roce, 0x120, 0, 16, .rw, 0x0, false, 1, 0x0, 1, 0x0⟩
def F.ROCE_QP_DIP.ADDR : Fld := ⟨.roce, 0x124, 0, 32, .rw, 0x0, false, 4, 0x4, 1, 0x0⟩
def F.ROCE_QP_TIMER.TIMEOUT : Fld := ⟨.roce, 0x134, 0, 5, .rw, 0xe, false, 1, 0x0, 1, 0x0⟩
def F.ROCE_QP_TIMER.RETRY : Fld := ⟨.roce, 0x134, 5, 3, .rw, 0x7, false, 1, 0x0, 1, 0x0⟩
def F.ROCE_QP_TIMER.RNR : Fld := ⟨.roce, 0x134, 8, 3, .rw, 0x7, false, 1, 0x0, 1, 0x0⟩
def F.ROCE_QP_TIMER.SPORT : Fld := ⟨.roce, 0x134, 16, 16, .rw, 0xc000, false, 1, 0x0, 1, 0x0⟩
def F.ROCE_QP_RATE.RATE : Fld := ⟨.roce, 0x138, 0, 9, .ro, 0x190, false, 1, 0x0, 1, 0x0⟩
def F.ROCE_QP_ERR.SYND : Fld := ⟨.roce, 0x13c, 0, 8, .ro, 0x0, false, 1, 0x0, 1, 0x0⟩
def F.ROCE_QP_ERR.DIR : Fld := ⟨.roce, 0x13c, 8, 1, .ro, 0x0, false, 1, 0x0, 1, 0x0⟩
def F.ROCE_MR_SEL.IDX : Fld := ⟨.roce, 0x140, 0, 6, .rw, 0x0, false, 1, 0x0, 1, 0x0⟩
def F.ROCE_MR_SEL.WRITE : Fld := ⟨.roce, 0x140, 6, 1, .wo, 0x0, false, 1, 0x0, 1, 0x0⟩
def F.ROCE_MR_BASE.BASE : Fld := ⟨.roce, 0x144, 0, 30, .rw, 0x0, false, 1, 0x0, 1, 0x0⟩
def F.ROCE_MR_SIZE.SIZE : Fld := ⟨.roce, 0x148, 0, 31, .rw, 0x0, false, 1, 0x0, 1, 0x0⟩
def F.ROCE_MR_KEY.TAG : Fld := ⟨.roce, 0x14c, 0, 26, .rw, 0x0, false, 1, 0x0, 1, 0x0⟩
def F.ROCE_MR_KEY.R : Fld := ⟨.roce, 0x14c, 26, 1, .rw, 0x0, false, 1, 0x0, 1, 0x0⟩
def F.ROCE_MR_KEY.W : Fld := ⟨.roce, 0x14c, 27, 1, .rw, 0x0, false, 1, 0x0, 1, 0x0⟩
def F.ROCE_MR_KEY.VALID : Fld := ⟨.roce, 0x14c, 28, 1, .rw, 0x0, false, 1, 0x0, 1, 0x0⟩
def F.ROCE_CNP_RX.COUNT : Fld := ⟨.roce, 0x150, 0, 32, .ro, 0x0, true, 1, 0x0, 1, 0x0⟩
def F.ROCE_CNP_TX.COUNT : Fld := ⟨.roce, 0x154, 0, 32, .ro, 0x0, true, 1, 0x0, 1, 0x0⟩
def F.ROCE_NAK_TX.COUNT : Fld := ⟨.roce, 0x158, 0, 32, .rc, 0x0, true, 1, 0x0, 1, 0x0⟩
def F.ROCE_RETRANS.COUNT : Fld := ⟨.roce, 0x15c, 0, 32, .rc, 0x0, true, 1, 0x0, 1, 0x0⟩
def F.ROCE_BADQP.COUNT : Fld := ⟨.roce, 0x160, 0, 32, .rc, 0x0, true, 1, 0x0, 1, 0x0⟩
def F.ROCE_NOTIFY_SKIP.COUNT : Fld := ⟨.roce, 0x164, 0, 32, .rc, 0x0, true, 1, 0x0, 1, 0x0⟩
def F.CMDQ_CTRL.EN : Fld := ⟨.cmdq, 0x100, 0, 1, .rw, 0x0, false, 4, 0x40, 1, 0x0⟩
def F.CMDQ_CTRL.RESET : Fld := ⟨.cmdq, 0x100, 1, 1, .wo, 0x0, false, 4, 0x40, 1, 0x0⟩
def F.CMDQ_CTRL.NOTIFY_EN : Fld := ⟨.cmdq, 0x100, 2, 1, .rw, 0x0, false, 4, 0x40, 1, 0x0⟩
def F.CMDQ_CTRL.LOG2SIZE : Fld := ⟨.cmdq, 0x100, 4, 5, .rw, 0x4, false, 4, 0x40, 1, 0x0⟩
def F.CMDQ_CTRL.QP : Fld := ⟨.cmdq, 0x100, 9, 11, .rw, 0x0, false, 4, 0x40, 1, 0x0⟩
def F.CMDQ_CTRL.NQP : Fld := ⟨.cmdq, 0x100, 20, 11, .rw, 0x0, false, 4, 0x40, 1, 0x0⟩
def F.CMDQ_SQ_BASE.BASE : Fld := ⟨.cmdq, 0x104, 0, 30, .rw, 0x0, false, 4, 0x40, 1, 0x0⟩
def F.CMDQ_CQ_BASE.BASE : Fld := ⟨.cmdq, 0x108, 0, 30, .rw, 0x0, false, 4, 0x40, 1, 0x0⟩
def F.CMDQ_SQ_PI.PI : Fld := ⟨.cmdq, 0x10c, 0, 32, .ro, 0x0, false, 4, 0x40, 1, 0x0⟩
def F.CMDQ_SQ_CI.CI : Fld := ⟨.cmdq, 0x110, 0, 32, .ro, 0x0, false, 4, 0x40, 1, 0x0⟩
def F.CMDQ_CQ_PI.PI : Fld := ⟨.cmdq, 0x114, 0, 32, .ro, 0x0, false, 4, 0x40, 1, 0x0⟩
def F.CMDQ_CQ_CI.CI : Fld := ⟨.cmdq, 0x118, 0, 32, .ro, 0x0, false, 4, 0x40, 1, 0x0⟩
def F.CMDQ_STAT.ACTIVE : Fld := ⟨.cmdq, 0x11c, 0, 8, .ro, 0x0, false, 4, 0x40, 1, 0x0⟩
def F.CMDQ_STAT.LAST : Fld := ⟨.cmdq, 0x11c, 8, 8, .ro, 0x0, false, 4, 0x40, 1, 0x0⟩
def F.CMDQ_STAT.DB_REJ : Fld := ⟨.cmdq, 0x11c, 16, 16, .rc, 0x0, true, 4, 0x40, 1, 0x0⟩
def F.CMDQ_EVQ.HELD : Fld := ⟨.cmdq, 0x200, 0, 9, .ro, 0x0, false, 1, 0x0, 1, 0x0⟩
def F.CMDQ_EVQ.LOST : Fld := ⟨.cmdq, 0x200, 16, 16, .rc, 0x0, true, 1, 0x0, 1, 0x0⟩
def F.JOB_STATE.STATE : Fld := ⟨.job, 0x100, 0, 3, .ro, 0x0, false, 2, 0x80, 1, 0x0⟩
def F.JOB_NUM.NUM : Fld := ⟨.job, 0x104, 0, 32, .ro, 0x0, false, 2, 0x80, 1, 0x0⟩
def F.JOB_STEPSZ.SZ : Fld := ⟨.job, 0x108, 0, 32, .rw, 0x0, false, 2, 0x80, 1, 0x0⟩
def F.JOB_STEPNUM_LO.NUM : Fld := ⟨.job, 0x10c, 0, 32, .rw, 0x0, false, 2, 0x80, 1, 0x0⟩
def F.JOB_STEPNUM_HI.NUM : Fld := ⟨.job, 0x110, 0, 32, .rw, 0x0, false, 2, 0x80, 1, 0x0⟩
def F.JOB_STEPSZ_L.SZ : Fld := ⟨.job, 0x114, 0, 32, .ro, 0x0, false, 2, 0x80, 1, 0x0⟩
def F.JOB_STEPNUM_L_LO.NUM : Fld := ⟨.job, 0x118, 0, 32, .ro, 0x0, false, 2, 0x80, 1, 0x0⟩
def F.JOB_STEPNUM_L_HI.NUM : Fld := ⟨.job, 0x11c, 0, 32, .ro, 0x0, false, 2, 0x80, 1, 0x0⟩
def F.JOB_GO.PERMITS : Fld := ⟨.job, 0x120, 0, 16, .ro, 0x0, false, 2, 0x80, 1, 0x0⟩
def F.JOB_ESC0_LO.ESC : Fld := ⟨.job, 0x124, 0, 32, .ro, 0x0, false, 2, 0x80, 1, 0x0⟩
def F.JOB_ESC0_HI.ESC : Fld := ⟨.job, 0x128, 0, 32, .ro, 0x0, false, 2, 0x80, 1, 0x0⟩
def F.JOB_CTX.UP : Fld := ⟨.job, 0x12c, 0, 16, .ro, 0x0, false, 2, 0x80, 1, 0x0⟩
def F.JOB_CTX.DOWN : Fld := ⟨.job, 0x12c, 16, 16, .ro, 0x0, false, 2, 0x80, 1, 0x0⟩
def F.JOB_CURFEW_CTRL.EN : Fld := ⟨.job, 0x130, 0, 1, .rw, 0x1, false, 2, 0x80, 1, 0x0⟩
def F.JOB_CURFEW_CTRL.FB_PEND : Fld := ⟨.job, 0x130, 1, 1, .ro, 0x0, false, 2, 0x80, 1, 0x0⟩
def F.JOB_CURFEW_CTRL.LAST : Fld := ⟨.job, 0x130, 8, 6, .ro, 0x0, false, 2, 0x80, 1, 0x0⟩
def F.JOB_CURFEW_STAT.M : Fld := ⟨.job, 0x134, 0, 32, .ro, 0x0, false, 2, 0x80, 4, 0x4⟩
def F.JOB_IMAGE_LO.ADDR : Fld := ⟨.job, 0x144, 0, 32, .ro, 0x0, false, 2, 0x80, 1, 0x0⟩
def F.JOB_IMAGE_HI.ADDR : Fld := ⟨.job, 0x148, 0, 10, .ro, 0x0, false, 2, 0x80, 1, 0x0⟩
def F.JOB_FB.VALID : Fld := ⟨.job, 0x14c, 0, 1, .ro, 0x0, false, 2, 0x80, 1, 0x0⟩
def F.STEWARD_STATE.MODE : Fld := ⟨.steward, 0x100, 0, 2, .ro, 0x0, false, 1, 0x0, 1, 0x0⟩
def F.STEWARD_STATE.HEALTHY : Fld := ⟨.steward, 0x100, 8, 8, .ro, 0x0, false, 1, 0x0, 1, 0x0⟩
def F.STEWARD_STATE.LCORES : Fld := ⟨.steward, 0x100, 16, 8, .ro, 0x0, false, 1, 0x0, 1, 0x0⟩
def F.STEWARD_TS.QUANTUM : Fld := ⟨.steward, 0x104, 0, 16, .rw, 0x3e8, false, 1, 0x0, 1, 0x0⟩
def F.STEWARD_TS_CNT.COUNT : Fld := ⟨.steward, 0x108, 0, 32, .ro, 0x0, true, 1, 0x0, 1, 0x0⟩
def F.STEWARD_MAP_SEL.LCORE : Fld := ⟨.steward, 0x10c, 0, 8, .rw, 0x0, false, 1, 0x0, 1, 0x0⟩
def F.STEWARD_MAP.PCORE : Fld := ⟨.steward, 0x110, 0, 8, .ro, 0xff, false, 1, 0x0, 1, 0x0⟩
def F.STEWARD_MAP.ONDIE : Fld := ⟨.steward, 0x110, 8, 1, .ro, 0x0, false, 1, 0x0, 1, 0x0⟩
def F.STEWARD_INUSE_LO.MASK : Fld := ⟨.steward, 0x114, 0, 32, .ro, 0x0, false, 1, 0x0, 1, 0x0⟩
def F.STEWARD_INUSE_HI.MASK : Fld := ⟨.steward, 0x118, 0, 32, .ro, 0x0, false, 1, 0x0, 1, 0x0⟩
def F.STEWARD_GRANT_SEL.CTX : Fld := ⟨.steward, 0x11c, 0, 4, .rw, 0x0, false, 1, 0x0, 1, 0x0⟩
def F.STEWARD_GRANT_SEL.IDX : Fld := ⟨.steward, 0x11c, 4, 6, .rw, 0x0, false, 1, 0x0, 1, 0x0⟩
def F.STEWARD_GRANT_BASE.BASE : Fld := ⟨.steward, 0x120, 0, 31, .ro, 0x0, false, 1, 0x0, 1, 0x0⟩
def F.STEWARD_GRANT_LIMIT.LIMIT : Fld := ⟨.steward, 0x124, 0, 31, .ro, 0x0, false, 1, 0x0, 1, 0x0⟩
def F.STEWARD_GRANT_ATTR.R : Fld := ⟨.steward, 0x128, 0, 1, .ro, 0x0, false, 1, 0x0, 1, 0x0⟩
def F.STEWARD_GRANT_ATTR.W : Fld := ⟨.steward, 0x128, 1, 1, .ro, 0x0, false, 1, 0x0, 1, 0x0⟩
def F.STEWARD_GRANT_ATTR.VALID : Fld := ⟨.steward, 0x128, 2, 1, .ro, 0x0, false, 1, 0x0, 1, 0x0⟩
def F.STEWARD_GRANT_ATTR.TRIMMED : Fld := ⟨.steward, 0x128, 3, 1, .ro, 0x0, false, 1, 0x0, 1, 0x0⟩
def F.STEWARD_CTX_SEL.CTX : Fld := ⟨.steward, 0x12c, 0, 4, .rw, 0x0, false, 1, 0x0, 1, 0x0⟩
def F.STEWARD_CTX_STAT.STATUS : Fld := ⟨.steward, 0x130, 0, 8, .ro, 0x0, false, 1, 0x0, 1, 0x0⟩
def F.STEWARD_CTX_STAT.DOWN : Fld := ⟨.steward, 0x130, 8, 1, .ro, 0x0, false, 1, 0x0, 1, 0x0⟩
def F.STEWARD_CTX_STAT.PCORE : Fld := ⟨.steward, 0x130, 16, 8, .ro, 0x0, false, 1, 0x0, 1, 0x0⟩
def F.STEWARD_CTX_STAT.LCORE : Fld := ⟨.steward, 0x130, 24, 8, .ro, 0x0, false, 1, 0x0, 1, 0x0⟩
def F.STEWARD_SWITCH.LAST : Fld := ⟨.steward, 0x134, 0, 16, .ro, 0x0, false, 1, 0x0, 1, 0x0⟩
def F.STEWARD_SWITCH.MAX : Fld := ⟨.steward, 0x134, 16, 16, .rc, 0x0, false, 1, 0x0, 1, 0x0⟩
def F.STEWARD_PREEMPT_CNT.COUNT : Fld := ⟨.steward, 0x138, 0, 32, .ro, 0x0, true, 1, 0x0, 1, 0x0⟩
def F.STEWARD_FB_CNT.COUNT : Fld := ⟨.steward, 0x13c, 0, 32, .ro, 0x0, true, 1, 0x0, 1, 0x0⟩
def F.CLK_STATE.REF_OK : Fld := ⟨.clk, 0x100, 0, 1, .ro, 0x0, false, 1, 0x0, 1, 0x0⟩
def F.CLK_STATE.HOLDOVER : Fld := ⟨.clk, 0x100, 1, 1, .ro, 0x0, false, 1, 0x0, 1, 0x0⟩
def F.CLK_STATE.LOCK : Fld := ⟨.clk, 0x100, 2, 5, .ro, 0x0, false, 1, 0x0, 1, 0x0⟩
def F.CLK_STATE.OSC : Fld := ⟨.clk, 0x100, 7, 1, .ro, 0x0, false, 1, 0x0, 1, 0x0⟩
def F.CLK_DIV.DIV : Fld := ⟨.clk, 0x104, 0, 8, .ro, 0x0, false, 1, 0x0, 1, 0x0⟩
def F.CLK_ESC_LO.ESC : Fld := ⟨.clk, 0x108, 0, 32, .ro, 0x0, false, 1, 0x0, 1, 0x0⟩
def F.CLK_ESC_HI.ESC : Fld := ⟨.clk, 0x10c, 0, 32, .ro, 0x0, false, 1, 0x0, 1, 0x0⟩
def F.CLK_ESC_CHK.COUNT : Fld := ⟨.clk, 0x110, 0, 32, .rc, 0x0, true, 1, 0x0, 1, 0x0⟩
def F.CLK_REF_LOSS.COUNT : Fld := ⟨.clk, 0x114, 0, 16, .ro, 0x0, true, 1, 0x0, 1, 0x0⟩
def F.CLK_DIVCHG.COUNT : Fld := ⟨.clk, 0x118, 0, 32, .ro, 0x0, true, 4, 0x4, 1, 0x0⟩
def F.PWR_MODSTATE.STATE : Fld := ⟨.pwr, 0x100, 0, 3, .ro, 0x0, false, 1, 0x0, 1, 0x0⟩
def F.PWR_MODSTATE.TARGET : Fld := ⟨.pwr, 0x100, 3, 3, .ro, 0x0, false, 1, 0x0, 1, 0x0⟩
def F.PWR_MODSTATE.BUSY : Fld := ⟨.pwr, 0x100, 6, 1, .ro, 0x0, false, 1, 0x0, 1, 0x0⟩
def F.PWR_MODSTATE.CAUSE : Fld := ⟨.pwr, 0x100, 8, 4, .ro, 0x0, false, 1, 0x0, 1, 0x0⟩
def F.PWR_MODSTATE.LEAK_LATCH : Fld := ⟨.pwr, 0x100, 12, 1, .ro, 0x0, false, 1, 0x0, 1, 0x0⟩
def F.PWR_CTRL.LEAK_CLR : Fld := ⟨.pwr, 0x104, 0, 1, .wo, 0x0, false, 1, 0x0, 1, 0x0⟩
def F.PWR_LIMIT.W : Fld := ⟨.pwr, 0x108, 0, 13, .ro, 0x1900, false, 1, 0x0, 1, 0x0⟩
def F.PWR_PLMAX.W : Fld := ⟨.pwr, 0x10c, 0, 13, .ro, 0x1900, false, 1, 0x0, 1, 0x0⟩
def F.PWR_P1_LIMIT.W : Fld := ⟨.pwr, 0x110, 0, 13, .rw, 0x1450, false, 1, 0x0, 1, 0x0⟩
def F.PWR_INST.W : Fld := ⟨.pwr, 0x114, 0, 13, .ro, 0x0, false, 1, 0x0, 1, 0x0⟩
def F.PWR_AVG.W : Fld := ⟨.pwr, 0x118, 0, 13, .ro, 0x0, false, 1, 0x0, 1, 0x0⟩
def F.PWR_PEAK.W : Fld := ⟨.pwr, 0x11c, 0, 13, .rc, 0x0, false, 1, 0x0, 1, 0x0⟩
def F.PWR_THROT.CAUSE : Fld := ⟨.pwr, 0x120, 0, 16, .ro, 0x0, false, 1, 0x0, 1, 0x0⟩
def F.PWR_THROT.THROT_IN : Fld := ⟨.pwr, 0x120, 16, 1, .ro, 0x0, false, 1, 0x0, 1, 0x0⟩
def F.PWR_THROT.THROT_STUCK : Fld := ⟨.pwr, 0x120, 17, 1, .ro, 0x0, false, 1, 0x0, 1, 0x0⟩
def F.PWR_THROT.LEAK_IN : Fld := ⟨.pwr, 0x120, 18, 1, .ro, 0x0, false, 1, 0x0, 1, 0x0⟩
def F.PWR_DIE.W : Fld := ⟨.pwr, 0x124, 0, 12, .ro, 0x0, false, 4, 0x4, 1, 0x0⟩
def F.PWR_DIE.PARKED : Fld := ⟨.pwr, 0x124, 16, 7, .ro, 0x0, false, 4, 0x4, 1, 0x0⟩
def F.PWR_THROT_TIME_LO.COUNT : Fld := ⟨.pwr, 0x134, 0, 32, .ro, 0x0, true, 1, 0x0, 1, 0x0⟩
def F.PWR_THROT_TIME_HI.COUNT : Fld := ⟨.pwr, 0x138, 0, 32, .ro, 0x0, true, 1, 0x0, 1, 0x0⟩
def F.PWR_ENERGY_LO.COUNT : Fld := ⟨.pwr, 0x13c, 0, 32, .ro, 0x0, true, 1, 0x0, 1, 0x0⟩
def F.PWR_ENERGY_HI.COUNT : Fld := ⟨.pwr, 0x140, 0, 32, .ro, 0x0, true, 1, 0x0, 1, 0x0⟩
def F.PWR_MON_SEL.IDX : Fld := ⟨.pwr, 0x144, 0, 7, .rw, 0x0, false, 1, 0x0, 1, 0x0⟩
def F.PWR_MON.VALUE : Fld := ⟨.pwr, 0x148, 0, 16, .ro, 0x0, false, 1, 0x0, 1, 0x0⟩
def F.PWR_EVT_SUPP.COUNT : Fld := ⟨.pwr, 0x14c, 0, 32, .rc, 0x0, true, 1, 0x0, 1, 0x0⟩
def F.THERM_STATE.DIE_MAX : Fld := ⟨.therm, 0x100, 0, 8, .ro, 0x0, false, 1, 0x0, 1, 0x0⟩
def F.THERM_STATE.HUB_MAX : Fld := ⟨.therm, 0x100, 8, 8, .ro, 0x0, false, 1, 0x0, 1, 0x0⟩
def F.THERM_STATE.HBM_MAX : Fld := ⟨.therm, 0x100, 16, 8, .ro, 0x0, false, 1, 0x0, 1, 0x0⟩
def F.THERM_STATE.HOT : Fld := ⟨.therm, 0x100, 24, 1, .ro, 0x0, false, 1, 0x0, 1, 0x0⟩
def F.THERM_COOLANT.INLET : Fld := ⟨.therm, 0x104, 0, 8, .ro, 0x0, false, 1, 0x0, 1, 0x0⟩
def F.THERM_COOLANT.OUTLET : Fld := ⟨.therm, 0x104, 8, 8, .ro, 0x0, false, 1, 0x0, 1, 0x0⟩
def F.THERM_COOLANT.INLET_HOT : Fld := ⟨.therm, 0x104, 16, 1, .ro, 0x0, false, 1, 0x0, 1, 0x0⟩
def F.THERM_COOLANT.FLOW_LOW : Fld := ⟨.therm, 0x104, 17, 1, .ro, 0x0, false, 1, 0x0, 1, 0x0⟩
def F.THERM_SEL.IDX : Fld := ⟨.therm, 0x108, 0, 7, .rw, 0x0, false, 1, 0x0, 1, 0x0⟩
def F.THERM_VAL.TEMP : Fld := ⟨.therm, 0x10c, 0, 10, .ro, 0x0, false, 1, 0x0, 1, 0x0⟩
def F.THERM_VAL.MAX : Fld := ⟨.therm, 0x10c, 16, 10, .rc, 0x0, false, 1, 0x0, 1, 0x0⟩
def F.THERM_TRIP.SENSOR : Fld := ⟨.therm, 0x110, 0, 7, .ro, 0x0, false, 1, 0x0, 1, 0x0⟩
def F.THERM_TRIP.STACK : Fld := ⟨.therm, 0x110, 7, 5, .ro, 0x0, false, 1, 0x0, 1, 0x0⟩
def F.THERM_TRIP.VALID : Fld := ⟨.therm, 0x110, 31, 1, .ro, 0x0, false, 1, 0x0, 1, 0x0⟩
def F.THERM_DEMAND.DIV : Fld := ⟨.therm, 0x114, 0, 8, .ro, 0x0, false, 1, 0x0, 1, 0x0⟩
def F.THERM_THROT_CNT.COUNT : Fld := ⟨.therm, 0x118, 0, 32, .ro, 0x0, true, 1, 0x0, 1, 0x0⟩
def F.INNK_STATE.STATE : Fld := ⟨.innk, 0x100, 0, 3, .ro, 0x0, false, 1, 0x0, 1, 0x0⟩
def F.INNK_STATE.SLOT : Fld := ⟨.innk, 0x100, 3, 1, .ro, 0x0, false, 1, 0x0, 1, 0x0⟩
def F.INNK_STATE.HEALTHY : Fld := ⟨.innk, 0x100, 4, 1, .ro, 0x0, false, 1, 0x0, 1, 0x0⟩
def F.INNK_STATE.ROLLED : Fld := ⟨.innk, 0x100, 5, 1, .ro, 0x0, false, 1, 0x0, 1, 0x0⟩
def F.INNK_FW_A.VER : Fld := ⟨.innk, 0x104, 0, 32, .ro, 0x0, false, 1, 0x0, 1, 0x0⟩
def F.INNK_FW_B.VER : Fld := ⟨.innk, 0x108, 0, 32, .ro, 0x0, false, 1, 0x0, 1, 0x0⟩
def F.INNK_WDOG.COUNT : Fld := ⟨.innk, 0x10c, 0, 8, .ro, 0x0, true, 1, 0x0, 1, 0x0⟩
def F.INNK_WDOG.CAUSE : Fld := ⟨.innk, 0x10c, 8, 4, .ro, 0x0, false, 1, 0x0, 1, 0x0⟩
def F.INNK_UPD.PHASE : Fld := ⟨.innk, 0x110, 0, 3, .ro, 0x0, false, 1, 0x0, 1, 0x0⟩
def F.INNK_UPD.DONE : Fld := ⟨.innk, 0x110, 3, 5, .ro, 0x0, false, 1, 0x0, 1, 0x0⟩
def F.INNK_UPD.PEND : Fld := ⟨.innk, 0x110, 8, 5, .ro, 0x0, false, 1, 0x0, 1, 0x0⟩
def F.INNK_UPD.LAST : Fld := ⟨.innk, 0x110, 16, 8, .ro, 0x0, false, 1, 0x0, 1, 0x0⟩
def F.INNK_STAGE.BYTES : Fld := ⟨.innk, 0x114, 0, 26, .ro, 0x0, false, 1, 0x0, 1, 0x0⟩
def F.INNK_LOG_NEW_LO.SEQ : Fld := ⟨.innk, 0x118, 0, 32, .ro, 0x0, false, 1, 0x0, 1, 0x0⟩
def F.INNK_LOG_NEW_HI.SEQ : Fld := ⟨.innk, 0x11c, 0, 32, .ro, 0x0, false, 1, 0x0, 1, 0x0⟩
def F.INNK_LOG_OLD_LO.SEQ : Fld := ⟨.innk, 0x120, 0, 32, .ro, 0x0, false, 1, 0x0, 1, 0x0⟩
def F.INNK_LOG_OLD_HI.SEQ : Fld := ⟨.innk, 0x124, 0, 32, .ro, 0x0, false, 1, 0x0, 1, 0x0⟩
def F.INNK_LOG_DROP.COUNT : Fld := ⟨.innk, 0x128, 0, 32, .rc, 0x0, true, 1, 0x0, 1, 0x0⟩
def F.INNK_BOOTCNT.COUNT : Fld := ⟨.innk, 0x12c, 0, 32, .ro, 0x0, false, 1, 0x0, 1, 0x0⟩
def F.INNK_I3C.DADDR : Fld := ⟨.innk, 0x130, 0, 7, .ro, 0x0, false, 1, 0x0, 1, 0x0⟩
def F.INNK_I3C.DVALID : Fld := ⟨.innk, 0x130, 7, 1, .ro, 0x0, false, 1, 0x0, 1, 0x0⟩
def F.INNK_I3C.EN : Fld := ⟨.innk, 0x130, 8, 1, .rw, 0x1, false, 1, 0x0, 1, 0x0⟩
def F.INNK_I3C.EID : Fld := ⟨.innk, 0x130, 16, 8, .ro, 0x0, false, 1, 0x0, 1, 0x0⟩
def F.INNK_CFG.FAB_MGMT : Fld := ⟨.innk, 0x134, 0, 1, .rwl, 0x0, false, 1, 0x0, 1, 0x0⟩
def F.INNK_SRAM_CE.COUNT : Fld := ⟨.innk, 0x138, 0, 32, .rc, 0x0, true, 1, 0x0, 1, 0x0⟩
def F.INNK_FLASH_CE.COUNT : Fld := ⟨.innk, 0x13c, 0, 32, .rc, 0x0, true, 1, 0x0, 1, 0x0⟩
def F.SEC_LIFECYCLE.STATE : Fld := ⟨.sec, 0x100, 0, 3, .ro, 0x0, false, 1, 0x0, 1, 0x0⟩
def F.SEC_LIFECYCLE.ID_READY : Fld := ⟨.sec, 0x100, 3, 1, .ro, 0x0, false, 1, 0x0, 1, 0x0⟩
def F.SEC_LIFECYCLE.ID_FAIL : Fld := ⟨.sec, 0x100, 4, 1, .ro, 0x0, false, 1, 0x0, 1, 0x0⟩
def F.SEC_LIFECYCLE.TRANSIT : Fld := ⟨.sec, 0x100, 5, 1, .ro, 0x0, false, 1, 0x0, 1, 0x0⟩
def F.SEC_DEBUG.LEVEL : Fld := ⟨.sec, 0x104, 0, 2, .ro, 0x0, false, 1, 0x0, 1, 0x0⟩
def F.SEC_DEBUG.MAX : Fld := ⟨.sec, 0x104, 2, 2, .ro, 0x0, false, 1, 0x0, 1, 0x0⟩
def F.SEC_DEBUG.ZERO_BUSY : Fld := ⟨.sec, 0x104, 4, 1, .ro, 0x0, false, 1, 0x0, 1, 0x0⟩
def F.SEC_DEBUG.ZERO_PEND : Fld := ⟨.sec, 0x104, 5, 1, .ro, 0x0, false, 1, 0x0, 1, 0x0⟩
def F.SEC_DEBUG.TSLOT : Fld := ⟨.sec, 0x104, 6, 2, .ro, 0x0, false, 1, 0x0, 1, 0x0⟩
def F.SEC_DEBUG.TVALID : Fld := ⟨.sec, 0x104, 8, 1, .ro, 0x0, false, 1, 0x0, 1, 0x0⟩
def F.SEC_LOCK.LOCK : Fld := ⟨.sec, 0x108, 0, 1, .w1s, 0x0, false, 1, 0x0, 1, 0x0⟩
def F.SEC_KEYSLOT.FUSED : Fld := ⟨.sec, 0x10c, 0, 3, .ro, 0x0, false, 1, 0x0, 1, 0x0⟩
def F.SEC_KEYSLOT.REVOKED : Fld := ⟨.sec, 0x10c, 4, 3, .ro, 0x0, false, 1, 0x0, 1, 0x0⟩
def F.SEC_KEYSLOT.FWSLOT : Fld := ⟨.sec, 0x10c, 8, 2, .ro, 0x0, false, 1, 0x0, 1, 0x0⟩
def F.SEC_ARB.COUNT : Fld := ⟨.sec, 0x110, 0, 7, .ro, 0x0, false, 1, 0x0, 1, 0x0⟩
def F.SEC_ARB.SECVER_A : Fld := ⟨.sec, 0x110, 8, 7, .ro, 0x0, false, 1, 0x0, 1, 0x0⟩
def F.SEC_ARB.SECVER_B : Fld := ⟨.sec, 0x110, 16, 7, .ro, 0x0, false, 1, 0x0, 1, 0x0⟩
def F.SEC_UID_LO.UID : Fld := ⟨.sec, 0x114, 0, 32, .ro, 0x0, false, 1, 0x0, 1, 0x0⟩
def F.SEC_UID_HI.UID : Fld := ⟨.sec, 0x118, 0, 32, .ro, 0x0, false, 1, 0x0, 1, 0x0⟩
def F.SEC_MEAS_SEL.IDX : Fld := ⟨.sec, 0x11c, 0, 3, .rw, 0x0, false, 1, 0x0, 1, 0x0⟩
def F.SEC_MEAS_SEL.WORD : Fld := ⟨.sec, 0x11c, 4, 4, .rw, 0x0, false, 1, 0x0, 1, 0x0⟩
def F.SEC_MEAS_DATA.DATA : Fld := ⟨.sec, 0x120, 0, 32, .ro, 0x0, false, 1, 0x0, 1, 0x0⟩
def F.SEC_MEAS_CNT.COUNT : Fld := ⟨.sec, 0x124, 0, 8, .ro, 0x0, true, 1, 0x0, 1, 0x0⟩
def F.SEC_MEAS_CNT.OVERFLOW : Fld := ⟨.sec, 0x124, 8, 1, .ro, 0x0, false, 1, 0x0, 1, 0x0⟩
def F.SEC_TOKEN_REJ.COUNT : Fld := ⟨.sec, 0x128, 0, 16, .rc, 0x0, true, 1, 0x0, 1, 0x0⟩
def F.SEC_TOKEN_REJ.LAST : Fld := ⟨.sec, 0x128, 16, 8, .ro, 0x0, false, 1, 0x0, 1, 0x0⟩
def F.SEC_NONCE.NONCE : Fld := ⟨.sec, 0x140, 0, 32, .ro, 0x0, false, 8, 0x4, 1, 0x0⟩
def F.SYS_READY_SUMMARY.HUB : Fld := ⟨.sys, 0x100, 0, 1, .ro, 0x0, false, 1, 0x0, 1, 0x0⟩
def F.SYS_READY_SUMMARY.DIE : Fld := ⟨.sys, 0x100, 1, 4, .ro, 0x0, false, 1, 0x0, 1, 0x0⟩
def F.SYS_READY_SUMMARY.FABRIC : Fld := ⟨.sys, 0x100, 5, 1, .ro, 0x0, false, 1, 0x0, 1, 0x0⟩
def F.SYS_READY_SUMMARY.HOST : Fld := ⟨.sys, 0x100, 6, 1, .ro, 0x0, false, 1, 0x0, 1, 0x0⟩
def F.SYS_READY_SUMMARY.ALL : Fld := ⟨.sys, 0x100, 7, 1, .ro, 0x0, false, 1, 0x0, 1, 0x0⟩
def F.SYS_READY_SUMMARY.CORES : Fld := ⟨.sys, 0x100, 8, 9, .ro, 0x0, false, 1, 0x0, 1, 0x0⟩
def F.SYS_READY_HUB.SYS : Fld := ⟨.sys, 0x104, 0, 1, .ro, 0x0, false, 1, 0x0, 1, 0x0⟩
def F.SYS_READY_HUB.JOB : Fld := ⟨.sys, 0x104, 1, 1, .ro, 0x0, false, 1, 0x0, 1, 0x0⟩
def F.SYS_READY_HUB.CMDQ : Fld := ⟨.sys, 0x104, 2, 1, .ro, 0x0, false, 1, 0x0, 1, 0x0⟩
def F.SYS_READY_HUB.HOSTETH : Fld := ⟨.sys, 0x104, 3, 4, .ro, 0x0, false, 1, 0x0, 1, 0x0⟩
def F.SYS_READY_HUB.ROCE : Fld := ⟨.sys, 0x104, 7, 1, .ro, 0x0, false, 1, 0x0, 1, 0x0⟩
def F.SYS_READY_HUB.FAB_PORT : Fld := ⟨.sys, 0x104, 8, 16, .ro, 0x0, false, 1, 0x0, 1, 0x0⟩
def F.SYS_READY_HUB.FAB_RTR : Fld := ⟨.sys, 0x104, 24, 1, .ro, 0x0, false, 1, 0x0, 1, 0x0⟩
def F.SYS_READY_HUB.CARAVAN : Fld := ⟨.sys, 0x104, 25, 1, .ro, 0x0, false, 1, 0x0, 1, 0x0⟩
def F.SYS_READY_HUB.SEC : Fld := ⟨.sys, 0x104, 26, 1, .ro, 0x0, false, 1, 0x0, 1, 0x0⟩
def F.SYS_READY_HUB.INNK : Fld := ⟨.sys, 0x104, 27, 1, .ro, 0x0, false, 1, 0x0, 1, 0x0⟩
def F.SYS_READY_HUB.CLK : Fld := ⟨.sys, 0x104, 28, 1, .ro, 0x0, false, 1, 0x0, 1, 0x0⟩
def F.SYS_READY_HUB.PWR : Fld := ⟨.sys, 0x104, 29, 1, .ro, 0x0, false, 1, 0x0, 1, 0x0⟩
def F.SYS_READY_HUB.THERM : Fld := ⟨.sys, 0x104, 30, 1, .ro, 0x0, false, 1, 0x0, 1, 0x0⟩
def F.SYS_READY_DIE.STEWARD : Fld := ⟨.sys, 0x108, 0, 1, .ro, 0x0, false, 4, 0x4, 1, 0x0⟩
def F.SYS_READY_DIE.NOC : Fld := ⟨.sys, 0x108, 1, 1, .ro, 0x0, false, 4, 0x4, 1, 0x0⟩
def F.SYS_READY_DIE.BRIDGE : Fld := ⟨.sys, 0x108, 2, 1, .ro, 0x0, false, 4, 0x4, 1, 0x0⟩
def F.SYS_READY_DIE.STK : Fld := ⟨.sys, 0x108, 3, 8, .ro, 0x0, false, 4, 0x4, 1, 0x0⟩
def F.SYS_READY_DIE.DOMAIN : Fld := ⟨.sys, 0x108, 11, 1, .ro, 0x0, false, 4, 0x4, 1, 0x0⟩
def F.SYS_READY_DIE.CH : Fld := ⟨.sys, 0x108, 16, 8, .ro, 0x0, false, 4, 0x4, 1, 0x0⟩
def F.SYS_READY_CORE.CORE : Fld := ⟨.sys, 0x118, 0, 32, .ro, 0x0, false, 8, 0x4, 1, 0x0⟩
def F.SYS_CORE_ROLE.ROLE : Fld := ⟨.sys, 0x138, 0, 32, .ro, 0x0, false, 16, 0x4, 1, 0x0⟩
def F.SYS_START.KIND : Fld := ⟨.sys, 0x178, 0, 2, .ro, 0x0, false, 1, 0x0, 1, 0x0⟩
def F.SYS_START.DONE : Fld := ⟨.sys, 0x178, 2, 1, .ro, 0x0, false, 1, 0x0, 1, 0x0⟩
def F.SYS_START.TESTED : Fld := ⟨.sys, 0x178, 3, 1, .ro, 0x0, false, 1, 0x0, 1, 0x0⟩
def F.SYS_START.MS : Fld := ⟨.sys, 0x178, 16, 16, .ro, 0x0, true, 1, 0x0, 1, 0x0⟩
def F.SYS_BIST_SEL.PAGE : Fld := ⟨.sys, 0x17c, 0, 14, .rw, 0x0, false, 1, 0x0, 1, 0x0⟩
def F.SYS_BIST_RES0.STATE : Fld := ⟨.sys, 0x180, 0, 3, .ro, 0x0, false, 1, 0x0, 1, 0x0⟩
def F.SYS_BIST_RES0.MEM : Fld := ⟨.sys, 0x180, 8, 8, .ro, 0x0, false, 1, 0x0, 1, 0x0⟩
def F.SYS_BIST_RES0.NROWS : Fld := ⟨.sys, 0x180, 16, 16, .ro, 0x0, true, 1, 0x0, 1, 0x0⟩
def F.SYS_BIST_RES1.ROW : Fld := ⟨.sys, 0x184, 0, 24, .ro, 0x0, false, 1, 0x0, 1, 0x0⟩
def F.SYS_BIST_RES2.BIT : Fld := ⟨.sys, 0x188, 0, 11, .ro, 0x0, false, 1, 0x0, 1, 0x0⟩
def F.SYS_BIST_RES2.EXPECT : Fld := ⟨.sys, 0x188, 16, 1, .ro, 0x0, false, 1, 0x0, 1, 0x0⟩
def F.SYS_BIST_RES3.BOOT : Fld := ⟨.sys, 0x18c, 0, 32, .ro, 0x0, false, 1, 0x0, 1, 0x0⟩
def F.SYS_REPAIR_CTRL.FUSE_EN : Fld := ⟨.sys, 0x190, 0, 1, .rwl, 0x1, false, 1, 0x0, 1, 0x0⟩
def F.SYS_REPAIR_CTRL.PEND : Fld := ⟨.sys, 0x190, 16, 9, .ro, 0x0, true, 1, 0x0, 1, 0x0⟩
def F.SYS_REMOVE.PEND : Fld := ⟨.sys, 0x1a0, 0, 1, .ro, 0x0, false, 1, 0x0, 1, 0x0⟩
def F.SYS_REMOVE.READY : Fld := ⟨.sys, 0x1a0, 1, 1, .ro, 0x0, false, 1, 0x0, 1, 0x0⟩
def F.SYS_REMOVE.PHASE : Fld := ⟨.sys, 0x1a0, 2, 3, .ro, 0x0, false, 1, 0x0, 1, 0x0⟩
def F.SYS_REMOVE.EJECT_IN : Fld := ⟨.sys, 0x1a0, 5, 1, .ro, 0x0, false, 1, 0x0, 1, 0x0⟩
def F.SYS_REMOVE.EJECT_STUCK : Fld := ⟨.sys, 0x1a0, 6, 1, .ro, 0x0, false, 1, 0x0, 1, 0x0⟩
def F.SYS_REMOVE.RTR : Fld := ⟨.sys, 0x1a0, 7, 1, .ro, 0x0, false, 1, 0x0, 1, 0x0⟩
def F.SYS_HOTPLUG_CNT.POWERUPS : Fld := ⟨.sys, 0x1a4, 0, 16, .ro, 0x0, true, 1, 0x0, 1, 0x0⟩
def F.SYS_HOTPLUG_CNT.LOSSES : Fld := ⟨.sys, 0x1a4, 16, 16, .ro, 0x0, true, 1, 0x0, 1, 0x0⟩
def F.SYS_LIFE.HOURS : Fld := ⟨.sys, 0x1a8, 0, 32, .ro, 0x0, false, 1, 0x0, 1, 0x0⟩
def F.SYS_PREV.CAUSE : Fld := ⟨.sys, 0x1ac, 0, 3, .ro, 0x0, false, 1, 0x0, 1, 0x0⟩
def F.SYS_PREV.DONE : Fld := ⟨.sys, 0x1ac, 16, 16, .ro, 0x0, true, 1, 0x0, 1, 0x0⟩
def F.SYS_PART.NUMBER : Fld := ⟨.sys, 0x1b0, 0, 16, .ro, 0x3240, false, 1, 0x0, 1, 0x0⟩
def F.SYS_PART.SUFFIX : Fld := ⟨.sys, 0x1b0, 16, 8, .ro, 0x41, false, 1, 0x0, 1, 0x0⟩
def F.SYS_PINS.SLOT_ID : Fld := ⟨.sys, 0x1b4, 0, 8, .ro, 0x0, false, 1, 0x0, 1, 0x0⟩
def F.SYS_PINS.PRSNT_A_N : Fld := ⟨.sys, 0x1b4, 8, 1, .ro, 0x0, false, 1, 0x0, 1, 0x0⟩
def F.SYS_PINS.PRSNT_B_N : Fld := ⟨.sys, 0x1b4, 9, 1, .ro, 0x0, false, 1, 0x0, 1, 0x0⟩
def F.SYS_PINS.PWR_EN : Fld := ⟨.sys, 0x1b4, 10, 1, .ro, 0x0, false, 1, 0x0, 1, 0x0⟩
def F.SYS_PINS.RESET_N : Fld := ⟨.sys, 0x1b4, 11, 1, .ro, 0x0, false, 1, 0x0, 1, 0x0⟩
def F.SYS_PINS.THROT_N : Fld := ⟨.sys, 0x1b4, 12, 1, .ro, 0x0, false, 1, 0x0, 1, 0x0⟩
def F.SYS_PINS.EJECT_N : Fld := ⟨.sys, 0x1b4, 13, 1, .ro, 0x0, false, 1, 0x0, 1, 0x0⟩
def F.SYS_PINS.LEAK_N : Fld := ⟨.sys, 0x1b4, 14, 1, .ro, 0x0, false, 1, 0x0, 1, 0x0⟩
def F.SYS_PINS.PWR_GOOD : Fld := ⟨.sys, 0x1b4, 16, 1, .ro, 0x0, false, 1, 0x0, 1, 0x0⟩
def F.SYS_PINS.ALERT_N : Fld := ⟨.sys, 0x1b4, 17, 1, .ro, 0x1, false, 1, 0x0, 1, 0x0⟩
def F.SYS_PINS.FAULT_LED_N : Fld := ⟨.sys, 0x1b4, 18, 1, .ro, 0x1, false, 1, 0x0, 1, 0x0⟩
def F.SYS_PINS.RTR_LED_N : Fld := ⟨.sys, 0x1b4, 19, 1, .ro, 0x1, false, 1, 0x0, 1, 0x0⟩
def F.SYS_PINS.SLOT_LATCH : Fld := ⟨.sys, 0x1b4, 24, 8, .ro, 0x0, false, 1, 0x0, 1, 0x0⟩
def F.SYS_ALERT.EN : Fld := ⟨.sys, 0x1b8, 0, 1, .rw, 0x1, false, 1, 0x0, 1, 0x0⟩
def F.SYS_ALERT.LED : Fld := ⟨.sys, 0x1b8, 1, 1, .rw, 0x0, false, 1, 0x0, 1, 0x0⟩
def F.SYS_ACC.PAGE : Fld := ⟨.sys, 0x1bc, 0, 14, .rc, 0x0, false, 1, 0x0, 1, 0x0⟩
def F.SYS_ACC.WORD : Fld := ⟨.sys, 0x1bc, 14, 10, .rc, 0x0, false, 1, 0x0, 1, 0x0⟩
def F.SYS_ACC.CAUSE : Fld := ⟨.sys, 0x1bc, 24, 3, .rc, 0x0, false, 1, 0x0, 1, 0x0⟩
def F.SYS_ACC.SRC : Fld := ⟨.sys, 0x1bc, 27, 2, .rc, 0x0, false, 1, 0x0, 1, 0x0⟩
def F.SYS_ACC.VALID : Fld := ⟨.sys, 0x1bc, 31, 1, .rc, 0x0, false, 1, 0x0, 1, 0x0⟩
def F.SYS_SEM_REL.REL : Fld := ⟨.sys, 0x1c4, 0, 16, .wo, 0x0, false, 1, 0x0, 1, 0x0⟩
def F.SYS_SEM.FREE : Fld := ⟨.sys, 0x1c8, 0, 1, .rc, 0x1, false, 16, 0x4, 1, 0x0⟩
def F.SYS_ACC_CNT.COUNT : Fld := ⟨.sys, 0x208, 0, 32, .rc, 0x0, true, 1, 0x0, 1, 0x0⟩
def F.SYS_INT_SUMMARY.HUB : Fld := ⟨.sys, 0x210, 0, 1, .ro, 0x0, false, 1, 0x0, 1, 0x0⟩
def F.SYS_INT_SUMMARY.DIE : Fld := ⟨.sys, 0x210, 1, 4, .ro, 0x0, false, 1, 0x0, 1, 0x0⟩
def F.SYS_INT_SUMMARY.ANY : Fld := ⟨.sys, 0x210, 5, 1, .ro, 0x0, false, 1, 0x0, 1, 0x0⟩
def F.SYS_INT_HUB.PAGE : Fld := ⟨.sys, 0x214, 0, 31, .ro, 0x0, false, 1, 0x0, 1, 0x0⟩
def F.SYS_INT_DIE.STEWARD : Fld := ⟨.sys, 0x218, 0, 1, .ro, 0x0, false, 4, 0x4, 1, 0x0⟩
def F.SYS_INT_DIE.NOC : Fld := ⟨.sys, 0x218, 1, 1, .ro, 0x0, false, 4, 0x4, 1, 0x0⟩
def F.SYS_INT_DIE.BRIDGE : Fld := ⟨.sys, 0x218, 2, 1, .ro, 0x0, false, 4, 0x4, 1, 0x0⟩
def F.SYS_INT_DIE.STK : Fld := ⟨.sys, 0x218, 3, 8, .ro, 0x0, false, 4, 0x4, 1, 0x0⟩
def F.SYS_INT_DIE.CH : Fld := ⟨.sys, 0x218, 11, 1, .ro, 0x0, false, 4, 0x4, 1, 0x0⟩
def F.SYS_INT_DIE.CORE : Fld := ⟨.sys, 0x218, 12, 1, .ro, 0x0, false, 4, 0x4, 1, 0x0⟩
def F.SYS_INT_CORE.CORE : Fld := ⟨.sys, 0x228, 0, 32, .ro, 0x0, false, 8, 0x4, 1, 0x0⟩
def F.SYS_INT_CH.CH : Fld := ⟨.sys, 0x248, 0, 32, .ro, 0x0, false, 16, 0x4, 1, 0x0⟩
def F.NOC_BYTES_LO.COUNT : Fld := ⟨.noc, 0x100, 0, 32, .ro, 0x0, true, 1, 0x0, 1, 0x0⟩
def F.NOC_BYTES_HI.COUNT : Fld := ⟨.noc, 0x104, 0, 32, .ro, 0x0, true, 1, 0x0, 1, 0x0⟩
def F.NOC_CE_CNT.COUNT : Fld := ⟨.noc, 0x108, 0, 32, .rc, 0x0, true, 1, 0x0, 1, 0x0⟩
def F.NOC_FABQ.HELD : Fld := ⟨.noc, 0x10c, 0, 10, .ro, 0x0, false, 1, 0x0, 1, 0x0⟩
def F.NOC_FABQ.MAX : Fld := ⟨.noc, 0x10c, 16, 10, .rc, 0x0, false, 1, 0x0, 1, 0x0⟩
def F.BRG_STATE.HUB_UP : Fld := ⟨.bridge, 0x100, 0, 1, .ro, 0x0, false, 1, 0x0, 1, 0x0⟩
def F.BRG_STATE.RING_UP : Fld := ⟨.bridge, 0x100, 1, 1, .ro, 0x0, false, 1, 0x0, 1, 0x0⟩
def F.BRG_STATE.HUB_REP : Fld := ⟨.bridge, 0x100, 4, 4, .ro, 0x0, false, 1, 0x0, 1, 0x0⟩
def F.BRG_STATE.RING_REP : Fld := ⟨.bridge, 0x100, 8, 4, .ro, 0x0, false, 1, 0x0, 1, 0x0⟩
def F.BRG_HUB_TX_LO.COUNT : Fld := ⟨.bridge, 0x104, 0, 32, .ro, 0x0, true, 1, 0x0, 1, 0x0⟩
def F.BRG_HUB_TX_HI.COUNT : Fld := ⟨.bridge, 0x108, 0, 32, .ro, 0x0, true, 1, 0x0, 1, 0x0⟩
def F.BRG_HUB_RX_LO.COUNT : Fld := ⟨.bridge, 0x10c, 0, 32, .ro, 0x0, true, 1, 0x0, 1, 0x0⟩
def F.BRG_HUB_RX_HI.COUNT : Fld := ⟨.bridge, 0x110, 0, 32, .ro, 0x0, true, 1, 0x0, 1, 0x0⟩
def F.BRG_RING_TX_LO.COUNT : Fld := ⟨.bridge, 0x114, 0, 32, .ro, 0x0, true, 1, 0x0, 1, 0x0⟩
def F.BRG_RING_TX_HI.COUNT : Fld := ⟨.bridge, 0x118, 0, 32, .ro, 0x0, true, 1, 0x0, 1, 0x0⟩
def F.BRG_RING_RX_LO.COUNT : Fld := ⟨.bridge, 0x11c, 0, 32, .ro, 0x0, true, 1, 0x0, 1, 0x0⟩
def F.BRG_RING_RX_HI.COUNT : Fld := ⟨.bridge, 0x120, 0, 32, .ro, 0x0, true, 1, 0x0, 1, 0x0⟩
def F.BRG_CE_CNT.COUNT : Fld := ⟨.bridge, 0x124, 0, 32, .rc, 0x0, true, 1, 0x0, 1, 0x0⟩

/-- The fields of the common header (R481, R460). -/
def fieldsOfHdr : List Fld :=
  [F.BLK_ID.TYPE, F.BLK_ID.INSTANCE, F.BLK_ID.DIE,
    F.BLK_VER.BLKREV, F.BLK_VER.SIDIGIT, F.BLK_VER.SILETTER,
    F.BLK_VER.HDRVER, F.BLK_STATE.STATE, F.BLK_STATE.RDY,
    F.BLK_CTRL.ERR_CLR, F.BLK_CTRL.CNT_CLR, F.BLK_CTRL.HOST_WP] ++
  [F.ERR_STATUS.BITS, F.ERR_MASK.MASK, F.INT_STATUS.INT,
    F.INT_ENABLE.EN, F.SEC_ATTR.HAS_RWL, F.SEC_ATTR.LOCKED,
    F.SEC_ATTR.HOST_WP, F.SEC_ATTR.DBG, F.PWR_STATE.DOMAIN,
    F.PWR_STATE.TESTCLK, F.PWR_STATE.DIV, F.PWR_STATE.MODULE] ++
  [F.BIST_STATUS.STATE, F.BIST_STATUS.VALID, F.BIST_STATUS.POWERUP,
    F.BIST_STATUS.LOGIC, F.BIST_STATUS.MEM, F.BIST_STATUS.SEGMENT,
    F.BIST_STATUS.NSEG, F.BIST_STATUS.MS, F.REPAIR_COUNT.USED,
    F.REPAIR_COUNT.FUSED, F.REPAIR_COUNT.FULL]

/-- The fields of a array page beyond the common header. -/
def fieldsOfArray : List Fld :=
  [F.ARRAY_PART.MODE, F.ARRAY_PART.CTX0, F.ARRAY_PART.CTX1,
    F.ARRAY_PART.CTX2, F.ARRAY_PART.CTX3, F.ARRAY_PSTATE.P0,
    F.ARRAY_PSTATE.P1, F.ARRAY_PSTATE.P2, F.ARRAY_PSTATE.P3,
    F.ARRAY_FAULT.CODE, F.ARRAY_FAULT.HANDLE, F.ARRAY_FAULT.CYCLE] ++
  [F.ARRAY_CTRL.GATE_DIS, F.ARRAY_CTRL.PCLR, F.ARRAY_REPAIR_ROW.IDX_A,
    F.ARRAY_REPAIR_ROW.VAL_A, F.ARRAY_REPAIR_ROW.FUSED_A, F.ARRAY_REPAIR_ROW.IDX_B,
    F.ARRAY_REPAIR_ROW.VAL_B, F.ARRAY_REPAIR_ROW.FUSED_B, F.ARRAY_REPAIR_COL.IDX_A,
    F.ARRAY_REPAIR_COL.VAL_A, F.ARRAY_REPAIR_COL.FUSED_A, F.ARRAY_REPAIR_COL.IDX_B] ++
  [F.ARRAY_REPAIR_COL.VAL_B, F.ARRAY_REPAIR_COL.FUSED_B, F.ARRAY_ERR_LOC.PROW,
    F.ARRAY_ERR_LOC.PCOL, F.ARRAY_ERR_LOC.KIND, F.ARRAY_ERR_CNT.COUNT,
    F.ARRAY_GATED_LO.COUNT, F.ARRAY_GATED_HI.COUNT, F.ARRAY_BUSY_LO.COUNT,
    F.ARRAY_BUSY_HI.COUNT, F.ARRAY_PASS_CNT.COUNT, F.ARRAY_FRONT_CNT.COUNT] ++
  [F.ARRAY_QCNT.Q]

/-- The fields of a spad page beyond the common header. -/
def fieldsOfSpad : List Fld :=
  [F.SPAD_CTRL.SCRUB_EN, F.SPAD_CTRL.SCRUB_SHIFT, F.SPAD_CTRL.ZERO,
    F.SPAD_CTRL.ZERO_BUSY, F.SPAD_FAULT.CODE, F.SPAD_FAULT.PORT,
    F.SPAD_FAULT.BANK, F.SPAD_FAULT.ROW, F.SPAD_CE_LOC.BANK,
    F.SPAD_CE_LOC.ROW, F.SPAD_CE_LOC.QUARTER, F.SPAD_CE_LOC.CLASS] ++
  [F.SPAD_CE_LOC.TAG, F.SPAD_CE_LOC.VALID, F.SPAD_UE_LOC.BANK,
    F.SPAD_UE_LOC.ROW, F.SPAD_UE_LOC.QUARTER, F.SPAD_UE_LOC.CLASS,
    F.SPAD_UE_LOC.TAG, F.SPAD_UE_LOC.VALID, F.SPAD_SCRUB_POS.ROW,
    F.SPAD_CE_CNT.COUNT, F.SPAD_DEFER.COUNT, F.SPAD_SCRUB_CNT.COUNT]

/-- The fields of a ledger page beyond the common header. -/
def fieldsOfLedger : List Fld :=
  [F.SB_SLOT.FIRST, F.SB_SLOT.CAP, F.SB_SLOT.EN,
    F.SB_SPILL_LO.ADDR_LO, F.SB_SPILL_HI.ADDR_HI, F.SB_SPILL_CAP.SPILL,
    F.SB_SPILL_CAP.CTX, F.SB_DEPTH.DEPTH, F.SB_HWM.HWM,
    F.SB_STAGE.HELD, F.SB_STAGE.WOUT, F.LEDGER_STRAY_CNT.COUNT] ++
  [F.SB_WOUT_CNT.COUNT, F.SB_PREF_CNT.COUNT, F.LEDGER_HBASE.BASE,
    F.LEDGER_HBASE.CLASS, F.LEDGER_HBASE.MODE, F.LEDGER_HSIZE.SIZE,
    F.LEDGER_HTOK.TOK, F.LEDGER_HTOK.PEND, F.LEDGER_HTOK.DELIV,
    F.LEDGER_HHEAD.HEAD, F.LEDGER_HTAIL.TAIL]

/-- The fields of a stream page beyond the common header. -/
def fieldsOfStream : List Fld :=
  [F.STREAM_CTRL.STOP, F.STREAM_OUT.REQ, F.STREAM_OUT.REQ_MAX,
    F.STREAM_OUT.CRR, F.STREAM_OUT.CRR_MAX, F.STREAM_FAULT.CODE,
    F.STREAM_FAULT.SLOT, F.STREAM_FAULT.CRR, F.STREAM_FAULT.PC,
    F.STREAM_FAULT.HANDLE, F.STREAM_SUPPRESSED.COUNT, F.STREAM_REQ_CNT.COUNT] ++
  [F.STREAM_BYTES_LO.COUNT, F.STREAM_BYTES_HI.COUNT, F.STREAM_GATHER_CNT.COUNT,
    F.STREAM_WAITQ.COUNT, F.COURIER_ISSUED.COUNT, F.COURIER_REFUSED.COUNT,
    F.MUSTER_SEQ.SEQ, F.MUSTER_STAT.LAST, F.MUSTER_STAT.WAIT,
    F.STREAM_ISTAT.STATE, F.STREAM_ISTAT.PC, F.STREAM_ISTAT.DEPTH] ++
  [F.STREAM_ISTAT.CTX, F.STREAM_ISTAT.CRED, F.STREAM_POISON_LO.FIRST,
    F.STREAM_POISON_LO.VALID, F.STREAM_POISON_HI.LAST, F.STREAM_IMEM_LO.INSN,
    F.STREAM_IMEM_HI.INSN]

/-- The fields of a noc page beyond the common header. -/
def fieldsOfNoc : List Fld :=
  [F.NOC_HAZ_BASE.BASE, F.NOC_HAZ_LIMIT.LIMIT, F.NOC_HAZ_CTRL.EN,
    F.NOC_HAZ_CTRL.HIT, F.NOC_HAZ_CTRL.OVER, F.NOC_HAZ_ADDR_LO.ADDR,
    F.NOC_HAZ_ADDR_HI.ADDR, F.NOC_HAZ_SRC.KIND, F.NOC_HAZ_SRC.CORE,
    F.NOC_HAZ_SRC.CTX, F.NOC_HAZ_CNT.COUNT, F.NOC_BYTES_LO.COUNT] ++
  [F.NOC_BYTES_HI.COUNT, F.NOC_CE_CNT.COUNT, F.NOC_FABQ.HELD,
    F.NOC_FABQ.MAX]

/-- The fields of a seq page beyond the common header. -/
def fieldsOfSeq : List Fld :=
  [F.SEQ_CTRL.HALT, F.SEQ_CTRL.STEP, F.SEQ_STATE.RUN,
    F.SEQ_STATE.YREQ, F.SEQ_STATE.PC, F.SEQ_STATE.LOOPS,
    F.SEQ_FLAGS.FLAGS, F.SEQ_FLAGS.CTX, F.SEQ_FAULT.CODE,
    F.SEQ_FAULT.SLOT, F.SEQ_FAULT.PC, F.SEQ_IMEM_ADDR.WORD] ++
  [F.SEQ_IMEM_ADDR.BUNDLE, F.SEQ_IMEM_ADDR.AINC, F.SEQ_IMEM_DATA.DATA,
    F.SEQ_CYCLE_LO.COUNT, F.SEQ_CYCLE_HI.COUNT, F.SEQ_YIELD_CNT.COUNT,
    F.SEQ_WAIT_CNT.COUNT]

/-- The fields of a vec page beyond the common header. -/
def fieldsOfVec : List Fld :=
  [F.VEC_FAULT.CODE, F.VEC_FAULT.OP, F.VEC_FAULT.PC,
    F.VEC_OPS_LO.COUNT, F.VEC_OPS_HI.COUNT]

/-- The fields of a scale page beyond the common header. -/
def fieldsOfScale : List Fld :=
  [F.SCALE_SEL.ENTRY, F.SCALE_K.K, F.SCALE_RMAX.RMAX,
    F.SCALE_STAT.NAN_SEEN, F.SCALE_HIST.H]

/-- The fields of a rng page beyond the common header. -/
def fieldsOfRng : List Fld :=
  [F.RNG_SEED_LO.SEED, F.RNG_SEED_HI.SEED, F.RNG_CTRL.KAT,
    F.RNG_CTRL.KAT_BUSY, F.RNG_CTRL.KAT_DONE, F.RNG_CTRL.KAT_PASS,
    F.RNG_WORDS_LO.COUNT, F.RNG_WORDS_HI.COUNT]

/-- The fields of a hbmStk page beyond the common header. -/
def fieldsOfHbmStk : List Fld :=
  [F.HBM_STK_STATE.TRAIN, F.HBM_STK_STATE.SREF, F.HBM_STK_STATE.REF2X,
    F.HBM_STK_STATE.TEMP, F.HBM_STK_STATE.TEMP_MAX, F.HBM_STK_ID.HEIGHT,
    F.HBM_STK_ID.DENSITY, F.HBM_STK_ID.MFR, F.HBM_STK_ODECC.COUNT,
    F.HBM_STK_LANES.REPAIRED, F.HBM_MAP_CTRL.MODE, F.HBM_MAP_CTRL.REBUILD] ++
  [F.HBM_MAP_CTRL.BUSY, F.HBM_MAP_CTRL.NREDIR, F.HBM_MAP_CTRL.NBASE,
    F.HBM_CAP.GIB, F.HBM_HEADROOM.GIB, F.HBM_RELOC.RATE,
    F.HBM_RELOC.BUSY, F.HBM_RELOC.CH, F.HBM_RELOC_DONE.GRANULES,
    F.HBM_XLATE_LO.ADDR, F.HBM_XLATE_HI.ADDR, F.HBM_XLATE_RES.SLOT] ++
  [F.HBM_XLATE_RES.CH, F.HBM_XLATE_RES.VALID]

/-- The fields of a hbmCh page beyond the common header. -/
def fieldsOfHbmCh : List Fld :=
  [F.HBM_CH_STATE.STATE, F.HBM_CH_STATE.CAUSE, F.HBM_CH_STATE.PRIOR,
    F.HBM_CH_CMD.FAIL, F.HBM_CH_CMD.TEST_ENTER, F.HBM_CH_CMD.TEST_EXIT,
    F.HBM_CH_ERR_COUNT.COUNT, F.HBM_CH_UE_COUNT.COUNT, F.HBM_CH_ERR_THR.CE_THR,
    F.HBM_CH_ERR_THR.UE_THR, F.HBM_CH_ERR_LOC_LO.ADDR, F.HBM_CH_ERR_LOC_HI.ADDR] ++
  [F.HBM_CH_ERR_LOC_HI.SYMBOL, F.HBM_CH_ERR_LOC_HI.UE, F.HBM_CH_ERR_LOC_HI.VALID,
    F.HBM_CH_SCRUB.HOURS, F.HBM_CH_BYTES_LO.COUNT, F.HBM_CH_BYTES_HI.COUNT,
    F.HBM_TG_CTRL.START, F.HBM_TG_CTRL.STOP, F.HBM_TG_CTRL.BUSY,
    F.HBM_TG_CTRL.STOP_ON_FAIL, F.HBM_TG_CTRL.PATTERN, F.HBM_TG_CTRL.OPS] ++
  [F.HBM_TG_CTRL.RATE, F.HBM_TG_SEED.SEED, F.HBM_TG_FIRST.SLOT,
    F.HBM_TG_LAST.SLOT, F.HBM_TG_PASSES.PASSES, F.HBM_TG_PASSES.DONE,
    F.HBM_TG_FAIL_CNT.COUNT, F.HBM_TG_FAIL_ADDR.SLOT, F.HBM_TG_FAIL_ADDR.BURST,
    F.HBM_TG_FAIL_ADDR.VALID, F.HBM_TG_FAIL_BIT.BIT, F.HBM_TG_FAIL_BIT.EXPECT] ++
  [F.HBM_TG_FAIL_BIT.NBITS, F.HBM_TG_BURSTS_LO.COUNT, F.HBM_TG_BURSTS_HI.COUNT]

/-- The fields of a fabPort page beyond the common header. -/
def fieldsOfFabPort : List Fld :=
  [F.FAB_PORT_CFG.SPLIT, F.FAB_PORT_CFG.EN, F.FAB_PORT_CFG.SPARE_EN,
    F.FAB_PORT_CMD.RETRAIN, F.FAB_PORT_CMD.CLOSE, F.FAB_PORT_CMD.FEED_SWAP,
    F.FAB_PORT_LINK.STATE, F.FAB_PORT_LINK.LANES, F.FAB_PORT_LINK.CAUSE,
    F.FAB_PORT_LINK.LOOP, F.FAB_PORT_PEER.MODULE, F.FAB_PORT_PEER.PORT] ++
  [F.FAB_PORT_PEER.LINK, F.FAB_PORT_PEER.VALID, F.FAB_PORT_RETRY.NAKS,
    F.FAB_PORT_RETRY.DOWNS, F.FAB_PORT_SPARE.TX_USED, F.FAB_PORT_SPARE.TX_LANE,
    F.FAB_PORT_SPARE.TX_FIBRE, F.FAB_PORT_SPARE.RX_USED, F.FAB_PORT_SPARE.RX_LANE,
    F.FAB_PORT_SPARE.RX_FIBRE, F.FAB_PORT_SPARE.BUSY, F.FAB_PORT_FEED.SEL] ++
  [F.FAB_PORT_FEED.A_OK, F.FAB_PORT_FEED.B_OK, F.FAB_PORT_FEED.A_LOW,
    F.FAB_PORT_FEED.B_LOW, F.FAB_PORT_FEED.SWITCHES, F.FAB_PORT_FEED_PWR_A.L0,
    F.FAB_PORT_FEED_PWR_A.L1, F.FAB_PORT_FEED_PWR_A.L2, F.FAB_PORT_FEED_PWR_B.L0,
    F.FAB_PORT_FEED_PWR_B.L1, F.FAB_PORT_FEED_PWR_B.L2, F.FAB_PORT_CSYM_THR.THR] ++
  [F.FAB_PORT_UCW_THR.THR, F.FAB_PORT_TEMP.TEMP, F.FAB_PORT_TEMP.TEMP_MAX,
    F.FAB_LANE_STATE.STATE, F.FAB_LANE_STATE.LOS, F.FAB_LANE_STATE.LOCK,
    F.FAB_LANE_STATE.FIBRE, F.FAB_LANE_STATE.WL, F.FAB_LANE_STATE.LINK,
    F.FAB_LANE_RXPWR.PWR, F.FAB_LANE_RXPWR.PMIN, F.FAB_LANE_CSYM.COUNT] ++
  [F.FAB_LANE_UCW.COUNT, F.FAB_LANE_SNR.SNR]

/-- The fields of a fabRtr page beyond the common header. -/
def fieldsOfFabRtr : List Fld :=
  [F.FAB_RTR_ID.ID, F.FAB_RTR_STALL_LIM.PCLK, F.FAB_RTR_RSP_LIM.PCLK,
    F.FAB_RTR_RT_SEL.IDX, F.FAB_RTR_RT_SEL.TBL, F.FAB_RTR_RT_SEL.WRITE,
    F.FAB_RTR_RT_LO.C0, F.FAB_RTR_RT_LO.C1, F.FAB_RTR_RT_LO.C2,
    F.FAB_RTR_RT_LO.C3, F.FAB_RTR_RT_LO.V0, F.FAB_RTR_RT_LO.V1] ++
  [F.FAB_RTR_RT_LO.V2, F.FAB_RTR_RT_LO.V3, F.FAB_RTR_RT_HI.FIX,
    F.FAB_RTR_RT_HI.FIXV, F.FAB_RTR_RT_HI.ALT, F.FAB_RTR_RT_HI.ALTV,
    F.FAB_RTR_RT_HI.DATELINE, F.FAB_RTR_RT_HI.DROP, F.FAB_WIN_SEL.IDX,
    F.FAB_WIN_BASE.BASE, F.FAB_WIN_SIZE.SIZE, F.FAB_WIN_ATTR.EPOCH] ++
  [F.FAB_WIN_ATTR.R, F.FAB_WIN_ATTR.W, F.FAB_WIN_ATTR.A,
    F.FAB_WIN_ATTR.OPEN, F.FAB_WIN_ATTR.CTX, F.FAB_WIN_ATTR.JOB,
    F.FAB_WIN_SRC.SRC_ID, F.FAB_WIN_SRCMASK.MASK, F.FAB_WIN_CMD.OPEN,
    F.FAB_WIN_CMD.CLOSE, F.FAB_WIN_CMD.BUSY, F.FAB_RTR_STALL_INFO.LINK] ++
  [F.FAB_RTR_STALL_INFO.CLASS, F.FAB_RTR_STALL_INFO.CTX, F.FAB_RTR_STALL_INFO.VALID,
    F.FAB_RTR_CRC_ERR.COUNT, F.FAB_RTR_REJ_CNT.COUNT, F.FAB_RTR_LOST_CNT.COUNT,
    F.FAB_RTR_DROP_CNT.COUNT, F.FAB_RTR_MSG_LO.COUNT, F.FAB_RTR_MSG_HI.COUNT,
    F.FAB_RTR_INDOUBT_CNT.COUNT]

/-- The fields of a caravan page beyond the common header. -/
def fieldsOfCaravan : List Fld :=
  [F.CARAVAN_STATE.ACTIVE, F.CARAVAN_STATE.QUEUED, F.CARAVAN_STATE.FENCE,
    F.CARAVAN_LEPOCH.EPOCH, F.CARAVAN_RESHARD.ENTRY, F.CARAVAN_RESHARD.ARM,
    F.CARAVAN_RESHARD.PEND, F.CARAVAN_RESHARD.BUSY, F.CARAVAN_TMO.PCLK,
    F.CARAVAN_PREF_THR.PCLK, F.CARAVAN_MUSTER_GRP.GROUP, F.CARAVAN_MUSTER_GRP.VALID] ++
  [F.CARAVAN_GRP_SEL.GROUP, F.CARAVAN_GRP_BASE.BASE, F.CARAVAN_GRP_SIZE.SIZE,
    F.CARAVAN_GRP_RANK.RANK, F.CARAVAN_GRP_RANK.DUP, F.CARAVAN_GRP_RANK.PRESENT,
    F.CARAVAN_RANK_ADDR.INDEX, F.CARAVAN_RANK_ADDR.AINC, F.CARAVAN_RANK_DATA.ID,
    F.CARAVAN_PLAN_ADDR.WORD, F.CARAVAN_PLAN_ADDR.AINC, F.CARAVAN_PLAN_DATA.DATA] ++
  [F.CARAVAN_LAST.ENTRY, F.CARAVAN_LAST.STATUS, F.CARAVAN_DONE_CNT.COUNT,
    F.CARAVAN_SMM_CNT.COUNT, F.CARAVAN_EMM_CNT.COUNT, F.CARAVAN_BYTES_LO.COUNT,
    F.CARAVAN_BYTES_HI.COUNT, F.CARAVAN_PREF_CNT.COUNT, F.CARAVAN_PREF_SKIP.COUNT,
    F.CARAVAN_IDLE_SEL.LCORE, F.CARAVAN_IDLE_LO.COUNT, F.CARAVAN_IDLE_HI.COUNT]

/-- The fields of a hostEth page beyond the common header. -/
def fieldsOfHostEth : List Fld :=
  [F.HOSTETH_CFG.EN, F.HOSTETH_CFG.VLAN_EN, F.HOSTETH_CFG.PFC_EN,
    F.HOSTETH_STATE.LINK, F.HOSTETH_STATE.LFAULT, F.HOSTETH_STATE.RFAULT,
    F.HOSTETH_STATE.FEC_LOCK, F.HOSTETH_MAC_LO.MAC, F.HOSTETH_MAC_HI.MAC,
    F.HOSTETH_IPV4.ADDR, F.HOSTETH_IPV6.ADDR, F.HOSTETH_VLAN.VID] ++
  [F.HOSTETH_VLAN.PCP, F.HOSTETH_VLAN.DSCP, F.HOSTETH_PFC.XOFF,
    F.HOSTETH_PFC.XON, F.HOSTETH_FEED.PWR, F.HOSTETH_FEED.OK,
    F.HOSTETH_FEED.LOW, F.HOSTETH_RX_FRAMES_LO.COUNT, F.HOSTETH_RX_FRAMES_HI.COUNT,
    F.HOSTETH_TX_FRAMES_LO.COUNT, F.HOSTETH_TX_FRAMES_HI.COUNT, F.HOSTETH_RX_DROP.COUNT] ++
  [F.HOSTETH_FEC_CORR.COUNT, F.HOSTETH_FEC_UNCORR.COUNT, F.HOSTETH_PFC_RX.COUNT,
    F.HOSTETH_PFC_TX.COUNT]

/-- The fields of a roce page beyond the common header. -/
def fieldsOfRoce : List Fld :=
  [F.ROCE_CC.CUT, F.ROCE_CC.STEP, F.ROCE_CC.INTERVAL,
    F.ROCE_CNP_GAP.GAP, F.ROCE_QP_SEL.IDX, F.ROCE_QP_SEL.WRITE,
    F.ROCE_QP_CTX.STATE, F.ROCE_QP_CTX.PORT, F.ROCE_QP_CTX.IPV6,
    F.ROCE_QP_CTX.REG, F.ROCE_QP_CTX.DB, F.ROCE_QP_CTX.MTU] ++
  [F.ROCE_QP_DQPN.QPN, F.ROCE_QP_SPSN.PSN, F.ROCE_QP_RPSN.PSN,
    F.ROCE_QP_DMAC_LO.MAC, F.ROCE_QP_DMAC_HI.MAC, F.ROCE_QP_DIP.ADDR,
    F.ROCE_QP_TIMER.TIMEOUT, F.ROCE_QP_TIMER.RETRY, F.ROCE_QP_TIMER.RNR,
    F.ROCE_QP_TIMER.SPORT, F.ROCE_QP_RATE.RATE, F.ROCE_QP_ERR.SYND] ++
  [F.ROCE_QP_ERR.DIR, F.ROCE_MR_SEL.IDX, F.ROCE_MR_SEL.WRITE,
    F.ROCE_MR_BASE.BASE, F.ROCE_MR_SIZE.SIZE, F.ROCE_MR_KEY.TAG,
    F.ROCE_MR_KEY.R, F.ROCE_MR_KEY.W, F.ROCE_MR_KEY.VALID,
    F.ROCE_CNP_RX.COUNT, F.ROCE_CNP_TX.COUNT, F.ROCE_NAK_TX.COUNT] ++
  [F.ROCE_RETRANS.COUNT, F.ROCE_BADQP.COUNT, F.ROCE_NOTIFY_SKIP.COUNT]

/-- The fields of a cmdq page beyond the common header. -/
def fieldsOfCmdq : List Fld :=
  [F.CMDQ_CTRL.EN, F.CMDQ_CTRL.RESET, F.CMDQ_CTRL.NOTIFY_EN,
    F.CMDQ_CTRL.LOG2SIZE, F.CMDQ_CTRL.QP, F.CMDQ_CTRL.NQP,
    F.CMDQ_SQ_BASE.BASE, F.CMDQ_CQ_BASE.BASE, F.CMDQ_SQ_PI.PI,
    F.CMDQ_SQ_CI.CI, F.CMDQ_CQ_PI.PI, F.CMDQ_CQ_CI.CI] ++
  [F.CMDQ_STAT.ACTIVE, F.CMDQ_STAT.LAST, F.CMDQ_STAT.DB_REJ,
    F.CMDQ_EVQ.HELD, F.CMDQ_EVQ.LOST]

/-- The fields of a job page beyond the common header. -/
def fieldsOfJob : List Fld :=
  [F.JOB_STATE.STATE, F.JOB_NUM.NUM, F.JOB_STEPSZ.SZ,
    F.JOB_STEPNUM_LO.NUM, F.JOB_STEPNUM_HI.NUM, F.JOB_STEPSZ_L.SZ,
    F.JOB_STEPNUM_L_LO.NUM, F.JOB_STEPNUM_L_HI.NUM, F.JOB_GO.PERMITS,
    F.JOB_ESC0_LO.ESC, F.JOB_ESC0_HI.ESC, F.JOB_CTX.UP] ++
  [F.JOB_CTX.DOWN, F.JOB_CURFEW_CTRL.EN, F.JOB_CURFEW_CTRL.FB_PEND,
    F.JOB_CURFEW_CTRL.LAST, F.JOB_CURFEW_STAT.M, F.JOB_IMAGE_LO.ADDR,
    F.JOB_IMAGE_HI.ADDR, F.JOB_FB.VALID]

/-- The fields of a steward page beyond the common header. -/
def fieldsOfSteward : List Fld :=
  [F.STEWARD_STATE.MODE, F.STEWARD_STATE.HEALTHY, F.STEWARD_STATE.LCORES,
    F.STEWARD_TS.QUANTUM, F.STEWARD_TS_CNT.COUNT, F.STEWARD_MAP_SEL.LCORE,
    F.STEWARD_MAP.PCORE, F.STEWARD_MAP.ONDIE, F.STEWARD_INUSE_LO.MASK,
    F.STEWARD_INUSE_HI.MASK, F.STEWARD_GRANT_SEL.CTX, F.STEWARD_GRANT_SEL.IDX] ++
  [F.STEWARD_GRANT_BASE.BASE, F.STEWARD_GRANT_LIMIT.LIMIT, F.STEWARD_GRANT_ATTR.R,
    F.STEWARD_GRANT_ATTR.W, F.STEWARD_GRANT_ATTR.VALID, F.STEWARD_GRANT_ATTR.TRIMMED,
    F.STEWARD_CTX_SEL.CTX, F.STEWARD_CTX_STAT.STATUS, F.STEWARD_CTX_STAT.DOWN,
    F.STEWARD_CTX_STAT.PCORE, F.STEWARD_CTX_STAT.LCORE, F.STEWARD_SWITCH.LAST] ++
  [F.STEWARD_SWITCH.MAX, F.STEWARD_PREEMPT_CNT.COUNT, F.STEWARD_FB_CNT.COUNT]

/-- The fields of a clk page beyond the common header. -/
def fieldsOfClk : List Fld :=
  [F.CLK_STATE.REF_OK, F.CLK_STATE.HOLDOVER, F.CLK_STATE.LOCK,
    F.CLK_STATE.OSC, F.CLK_DIV.DIV, F.CLK_ESC_LO.ESC,
    F.CLK_ESC_HI.ESC, F.CLK_ESC_CHK.COUNT, F.CLK_REF_LOSS.COUNT,
    F.CLK_DIVCHG.COUNT]

/-- The fields of a pwr page beyond the common header. -/
def fieldsOfPwr : List Fld :=
  [F.PWR_MODSTATE.STATE, F.PWR_MODSTATE.TARGET, F.PWR_MODSTATE.BUSY,
    F.PWR_MODSTATE.CAUSE, F.PWR_MODSTATE.LEAK_LATCH, F.PWR_CTRL.LEAK_CLR,
    F.PWR_LIMIT.W, F.PWR_PLMAX.W, F.PWR_P1_LIMIT.W,
    F.PWR_INST.W, F.PWR_AVG.W, F.PWR_PEAK.W] ++
  [F.PWR_THROT.CAUSE, F.PWR_THROT.THROT_IN, F.PWR_THROT.THROT_STUCK,
    F.PWR_THROT.LEAK_IN, F.PWR_DIE.W, F.PWR_DIE.PARKED,
    F.PWR_THROT_TIME_LO.COUNT, F.PWR_THROT_TIME_HI.COUNT, F.PWR_ENERGY_LO.COUNT,
    F.PWR_ENERGY_HI.COUNT, F.PWR_MON_SEL.IDX, F.PWR_MON.VALUE] ++
  [F.PWR_EVT_SUPP.COUNT]

/-- The fields of a therm page beyond the common header. -/
def fieldsOfTherm : List Fld :=
  [F.THERM_STATE.DIE_MAX, F.THERM_STATE.HUB_MAX, F.THERM_STATE.HBM_MAX,
    F.THERM_STATE.HOT, F.THERM_COOLANT.INLET, F.THERM_COOLANT.OUTLET,
    F.THERM_COOLANT.INLET_HOT, F.THERM_COOLANT.FLOW_LOW, F.THERM_SEL.IDX,
    F.THERM_VAL.TEMP, F.THERM_VAL.MAX, F.THERM_TRIP.SENSOR] ++
  [F.THERM_TRIP.STACK, F.THERM_TRIP.VALID, F.THERM_DEMAND.DIV,
    F.THERM_THROT_CNT.COUNT]

/-- The fields of a innk page beyond the common header. -/
def fieldsOfInnk : List Fld :=
  [F.INNK_STATE.STATE, F.INNK_STATE.SLOT, F.INNK_STATE.HEALTHY,
    F.INNK_STATE.ROLLED, F.INNK_FW_A.VER, F.INNK_FW_B.VER,
    F.INNK_WDOG.COUNT, F.INNK_WDOG.CAUSE, F.INNK_UPD.PHASE,
    F.INNK_UPD.DONE, F.INNK_UPD.PEND, F.INNK_UPD.LAST] ++
  [F.INNK_STAGE.BYTES, F.INNK_LOG_NEW_LO.SEQ, F.INNK_LOG_NEW_HI.SEQ,
    F.INNK_LOG_OLD_LO.SEQ, F.INNK_LOG_OLD_HI.SEQ, F.INNK_LOG_DROP.COUNT,
    F.INNK_BOOTCNT.COUNT, F.INNK_I3C.DADDR, F.INNK_I3C.DVALID,
    F.INNK_I3C.EN, F.INNK_I3C.EID, F.INNK_CFG.FAB_MGMT] ++
  [F.INNK_SRAM_CE.COUNT, F.INNK_FLASH_CE.COUNT]

/-- The fields of a sec page beyond the common header. -/
def fieldsOfSec : List Fld :=
  [F.SEC_LIFECYCLE.STATE, F.SEC_LIFECYCLE.ID_READY, F.SEC_LIFECYCLE.ID_FAIL,
    F.SEC_LIFECYCLE.TRANSIT, F.SEC_DEBUG.LEVEL, F.SEC_DEBUG.MAX,
    F.SEC_DEBUG.ZERO_BUSY, F.SEC_DEBUG.ZERO_PEND, F.SEC_DEBUG.TSLOT,
    F.SEC_DEBUG.TVALID, F.SEC_LOCK.LOCK, F.SEC_KEYSLOT.FUSED] ++
  [F.SEC_KEYSLOT.REVOKED, F.SEC_KEYSLOT.FWSLOT, F.SEC_ARB.COUNT,
    F.SEC_ARB.SECVER_A, F.SEC_ARB.SECVER_B, F.SEC_UID_LO.UID,
    F.SEC_UID_HI.UID, F.SEC_MEAS_SEL.IDX, F.SEC_MEAS_SEL.WORD,
    F.SEC_MEAS_DATA.DATA, F.SEC_MEAS_CNT.COUNT, F.SEC_MEAS_CNT.OVERFLOW] ++
  [F.SEC_TOKEN_REJ.COUNT, F.SEC_TOKEN_REJ.LAST, F.SEC_NONCE.NONCE]

/-- The fields of a sys page beyond the common header. -/
def fieldsOfSys : List Fld :=
  [F.SYS_READY_SUMMARY.HUB, F.SYS_READY_SUMMARY.DIE, F.SYS_READY_SUMMARY.FABRIC,
    F.SYS_READY_SUMMARY.HOST, F.SYS_READY_SUMMARY.ALL, F.SYS_READY_SUMMARY.CORES,
    F.SYS_READY_HUB.SYS, F.SYS_READY_HUB.JOB, F.SYS_READY_HUB.CMDQ,
    F.SYS_READY_HUB.HOSTETH, F.SYS_READY_HUB.ROCE, F.SYS_READY_HUB.FAB_PORT] ++
  [F.SYS_READY_HUB.FAB_RTR, F.SYS_READY_HUB.CARAVAN, F.SYS_READY_HUB.SEC,
    F.SYS_READY_HUB.INNK, F.SYS_READY_HUB.CLK, F.SYS_READY_HUB.PWR,
    F.SYS_READY_HUB.THERM, F.SYS_READY_DIE.STEWARD, F.SYS_READY_DIE.NOC,
    F.SYS_READY_DIE.BRIDGE, F.SYS_READY_DIE.STK, F.SYS_READY_DIE.DOMAIN] ++
  [F.SYS_READY_DIE.CH, F.SYS_READY_CORE.CORE, F.SYS_CORE_ROLE.ROLE,
    F.SYS_START.KIND, F.SYS_START.DONE, F.SYS_START.TESTED,
    F.SYS_START.MS, F.SYS_BIST_SEL.PAGE, F.SYS_BIST_RES0.STATE,
    F.SYS_BIST_RES0.MEM, F.SYS_BIST_RES0.NROWS, F.SYS_BIST_RES1.ROW] ++
  [F.SYS_BIST_RES2.BIT, F.SYS_BIST_RES2.EXPECT, F.SYS_BIST_RES3.BOOT,
    F.SYS_REPAIR_CTRL.FUSE_EN, F.SYS_REPAIR_CTRL.PEND, F.SYS_REMOVE.PEND,
    F.SYS_REMOVE.READY, F.SYS_REMOVE.PHASE, F.SYS_REMOVE.EJECT_IN,
    F.SYS_REMOVE.EJECT_STUCK, F.SYS_REMOVE.RTR, F.SYS_HOTPLUG_CNT.POWERUPS] ++
  [F.SYS_HOTPLUG_CNT.LOSSES, F.SYS_LIFE.HOURS, F.SYS_PREV.CAUSE,
    F.SYS_PREV.DONE, F.SYS_PART.NUMBER, F.SYS_PART.SUFFIX,
    F.SYS_PINS.SLOT_ID, F.SYS_PINS.PRSNT_A_N, F.SYS_PINS.PRSNT_B_N,
    F.SYS_PINS.PWR_EN, F.SYS_PINS.RESET_N, F.SYS_PINS.THROT_N] ++
  [F.SYS_PINS.EJECT_N, F.SYS_PINS.LEAK_N, F.SYS_PINS.PWR_GOOD,
    F.SYS_PINS.ALERT_N, F.SYS_PINS.FAULT_LED_N, F.SYS_PINS.RTR_LED_N,
    F.SYS_PINS.SLOT_LATCH, F.SYS_ALERT.EN, F.SYS_ALERT.LED,
    F.SYS_ACC.PAGE, F.SYS_ACC.WORD, F.SYS_ACC.CAUSE] ++
  [F.SYS_ACC.SRC, F.SYS_ACC.VALID, F.SYS_SEM_REL.REL,
    F.SYS_SEM.FREE, F.SYS_ACC_CNT.COUNT, F.SYS_INT_SUMMARY.HUB,
    F.SYS_INT_SUMMARY.DIE, F.SYS_INT_SUMMARY.ANY, F.SYS_INT_HUB.PAGE,
    F.SYS_INT_DIE.STEWARD, F.SYS_INT_DIE.NOC, F.SYS_INT_DIE.BRIDGE] ++
  [F.SYS_INT_DIE.STK, F.SYS_INT_DIE.CH, F.SYS_INT_DIE.CORE,
    F.SYS_INT_CORE.CORE, F.SYS_INT_CH.CH]

/-- The fields of a bridge page beyond the common header. -/
def fieldsOfBridge : List Fld :=
  [F.BRG_STATE.HUB_UP, F.BRG_STATE.RING_UP, F.BRG_STATE.HUB_REP,
    F.BRG_STATE.RING_REP, F.BRG_HUB_TX_LO.COUNT, F.BRG_HUB_TX_HI.COUNT,
    F.BRG_HUB_RX_LO.COUNT, F.BRG_HUB_RX_HI.COUNT, F.BRG_RING_TX_LO.COUNT,
    F.BRG_RING_TX_HI.COUNT, F.BRG_RING_RX_LO.COUNT, F.BRG_RING_RX_HI.COUNT] ++
  [F.BRG_CE_CNT.COUNT]

/-- The fields of a block's own page area. -/
def fieldsOf : Blk → List Fld
  | .hdr => fieldsOfHdr
  | .array => fieldsOfArray
  | .spad => fieldsOfSpad
  | .ledger => fieldsOfLedger
  | .stream => fieldsOfStream
  | .noc => fieldsOfNoc
  | .seq => fieldsOfSeq
  | .vec => fieldsOfVec
  | .scale => fieldsOfScale
  | .rng => fieldsOfRng
  | .hbmStk => fieldsOfHbmStk
  | .hbmCh => fieldsOfHbmCh
  | .fabPort => fieldsOfFabPort
  | .fabRtr => fieldsOfFabRtr
  | .caravan => fieldsOfCaravan
  | .hostEth => fieldsOfHostEth
  | .roce => fieldsOfRoce
  | .cmdq => fieldsOfCmdq
  | .job => fieldsOfJob
  | .steward => fieldsOfSteward
  | .clk => fieldsOfClk
  | .pwr => fieldsOfPwr
  | .therm => fieldsOfTherm
  | .innk => fieldsOfInnk
  | .sec => fieldsOfSec
  | .sys => fieldsOfSys
  | .bridge => fieldsOfBridge

/-! ## ERR_STATUS bits, by page (the bit number; a group of several bits by its lowest) -/

def E.ARRAY.PFAULT : Nat := 0
def E.ARRAY.ARRAY_ERR : Nat := 4
def E.ARRAY.PART_BUSY : Nat := 5
def E.ARRAY.REPAIR_IGN : Nat := 6
def E.SPAD.PFAULT : Nat := 0
def E.SPAD.CE : Nat := 4
def E.SPAD.UE_BG : Nat := 5
def E.SPAD.SVC_IGN : Nat := 6
def E.LEDGER.RING_IGN : Nat := 0
def E.LEDGER.BUSY_IGN : Nat := 1
def E.LEDGER.STRAY : Nat := 2
def E.STREAM.PFAULT : Nat := 0
def E.STREAM.SUPPR : Nat := 4
def E.STREAM.IMEM_IGN : Nat := 5
def E.STREAM.CRR_REF : Nat := 6
def E.STREAM.MUSTER_DEG : Nat := 7
def E.SEQ.PFAULT : Nat := 0
def E.SEQ.IMEM_IGN : Nat := 4
def E.SEQ.FLAG_RPT : Nat := 5
def E.VEC.PFAULT : Nat := 0
def E.SCALE.BUSY_IGN : Nat := 0
def E.RNG.SVC_IGN : Nat := 0
def E.RNG.KAT_FAIL : Nat := 1
def E.HBM_STK.TRAIN_FAIL : Nat := 0
def E.HBM_STK.REF2X : Nat := 1
def E.HBM_STK.MAP_IGN : Nat := 2
def E.HBM_STK.RELOC_DONE : Nat := 3
def E.HBM_STK.REBUILT : Nat := 4
def E.HBM_CH.CE_THR : Nat := 0
def E.HBM_CH.UE : Nat := 1
def E.HBM_CH.FAILING : Nat := 2
def E.HBM_CH.PENDING : Nat := 3
def E.HBM_CH.MAPPED : Nat := 4
def E.HBM_CH.TG_FAIL : Nat := 5
def E.HBM_CH.CMD_IGN : Nat := 7
def E.FAB_PORT.LINK_DOWN : Nat := 0
def E.FAB_PORT.LINK_UP : Nat := 4
def E.FAB_PORT.SPARED : Nat := 8
def E.FAB_PORT.NARROWED : Nat := 9
def E.FAB_PORT.FEED_SWITCH : Nat := 10
def E.FAB_PORT.FEED_LOW : Nat := 11
def E.FAB_PORT.MISMATCH : Nat := 12
def E.FAB_PORT.CFG_IGN : Nat := 13
def E.FAB_RTR.STALL : Nat := 0
def E.FAB_RTR.CRC_ERR : Nat := 1
def E.FAB_RTR.REJECT : Nat := 2
def E.FAB_RTR.PEER_LOST : Nat := 3
def E.FAB_RTR.IN_DOUBT : Nat := 4
def E.FAB_RTR.DROP : Nat := 5
def E.FAB_RTR.CFG_IGN : Nat := 6
def E.FAB_RTR.TIMEOUT : Nat := 7
def E.CARAVAN.STEP_MM : Nat := 0
def E.CARAVAN.EPOCH_MM : Nat := 1
def E.CARAVAN.LOST : Nat := 2
def E.CARAVAN.TIMEOUT : Nat := 3
def E.CARAVAN.TEARDOWN : Nat := 4
def E.CARAVAN.MUSTER_DEG : Nat := 5
def E.CARAVAN.PREF_SKIP : Nat := 6
def E.CARAVAN.CFG_IGN : Nat := 7
def E.HOSTETH.LINK_DOWN : Nat := 0
def E.HOSTETH.LINK_UP : Nat := 1
def E.HOSTETH.FEED_LOW : Nat := 2
def E.HOSTETH.FEED_LOST : Nat := 3
def E.HOSTETH.DROP : Nat := 4
def E.ROCE.QP_ERROR : Nat := 0
def E.ROCE.NAK : Nat := 1
def E.ROCE.BADQP : Nat := 2
def E.ROCE.NOTIFY_SKIP : Nat := 3
def E.ROCE.CFG_IGN : Nat := 4
def E.CMDQ.DB_REJ : Nat := 0
def E.CMDQ.CFG_IGN : Nat := 4
def E.CMDQ.EV_LOST : Nat := 8
def E.STEWARD.CTX_DOWN : Nat := 0
def E.STEWARD.TIMESLICE : Nat := 1
def E.STEWARD.TRIM : Nat := 2
def E.STEWARD.NO_YIELD : Nat := 3
def E.JOB.END : Nat := 0
def E.JOB.MISS : Nat := 2
def E.JOB.EARLY : Nat := 4
def E.JOB.FALLBACK : Nat := 6
def E.CLK.REF_LOST : Nat := 0
def E.CLK.ESC_MM : Nat := 1
def E.PWR.THROTTLE : Nat := 0
def E.PWR.THROT_N : Nat := 1
def E.PWR.LEAK : Nat := 2
def E.PWR.STATE : Nat := 3
def E.PWR.CFG_IGN : Nat := 4
def E.THERM.HOT : Nat := 0
def E.THERM.TRIP : Nat := 1
def E.THERM.COOLANT : Nat := 2
def E.THERM.ENGINE_HOT : Nat := 3
def E.INNK.RESTART : Nat := 0
def E.INNK.ROLLBACK : Nat := 1
def E.INNK.UPD_FAIL : Nat := 2
def E.INNK.LOG_DROP : Nat := 3
def E.INNK.SRAM_CE : Nat := 4
def E.INNK.FLASH_CE : Nat := 5
def E.SEC.LEVEL : Nat := 0
def E.SEC.TOKEN_REJ : Nat := 1
def E.SEC.ZERO_DONE : Nat := 2
def E.SEC.ZERO_ABORT : Nat := 3
def E.SEC.ID_FAIL : Nat := 4
def E.SEC.BOOT_REJ : Nat := 5
def E.SEC.REVOKE : Nat := 6
def E.SEC.ARB : Nat := 7
def E.SYS.ACC_IGN : Nat := 0
def E.SYS.SEM_BREAK : Nat := 1
def E.SYS.CORE_FAIL : Nat := 2
def E.SYS.REMOVE : Nat := 3
def E.SYS.START : Nat := 4
def E.NOC.HAZ : Nat := 0
def E.NOC.CE : Nat := 4
def E.BRIDGE.CE : Nat := 0
def E.BRIDGE.REP : Nat := 1

end Sys2Proof.Machine
end

