-- ==== Sys2Proof/Machine/State.lean ====
section
/-!
DEFINITION. The whole state of the module as plain data.
-/
namespace Sys2Proof.Machine

/-- A recorded context fault (R347). -/
structure FaultRec where
  bank : Nat
  ctx : Nat
  status : Nat
  page : Nat
  code : Nat
  detail : Nat
  core : Nat
  lcore : Nat
  part : Nat
  craul : Nat
  at_ : Nat
  deriving DecidableEq, Repr

/-- An event to the host (R328, R329) that has been raised and not yet recorded: code, status, the three
DETAIL bytes and the sixteen RESULT bytes as little-endian numbers. -/
structure Event where
  code : Nat
  status : Nat
  detail : Nat
  result : Nat
  seq : Nat
  deriving DecidableEq, Repr

/-- Faults of a step. The block has none of its own: every stop the spec describes is a register record, an event
or a torn-down context of State. -/
inductive Fault where
  /-- No command and no tick raises it (safe: no run ends by it). -/
  | noFault
  deriving DecidableEq, Repr

/-- Why a command has no meaning. -/
inductive Refusal where
  /-- An arm of the dispatcher that has no meaning yet, by mnemonic (safe: the model stops). -/
  | notModelled (mnemonic : String)
  deriving DecidableEq, Repr

/-- The module (00_scope to 21_connector_package): the queue of commands that wait, the register words that differ from their
reset values, the cores, the CCLK cycles of each die, the event-stamp counter, stacked memory, grants, the fabric, held jobs
and their count, Caravan, the host interface, power, the Innkeeper, Passport, bring-up, the root-clock ticks since reset,
recorded faults, events not yet written, and the counter of free values (log entry 2). -/
structure State where
  pending : List Instr
  regs : SMap Word
  cores : SMap Core
  dieCyc : SMap Nat
  esc : Nat
  hbm : Hbm
  grants : SMap Grant
  fab : Fab
  jobs : SMap Job
  jobNum : Nat
  car : Caravan
  host : HostIf
  pow : Power
  innk : Innk
  psp : Passport
  boot : Boot
  tick : Nat
  faults : List FaultRec
  events : List Event
  free : Nat
  deriving DecidableEq, Repr

/-- The firmware set of a module as shipped (log entry 20): each component empty, version 1, with its hash. -/
def shippedSlot : ISlot :=
  { comps := [1, 2, 3, 4, 5].map (fun t =>
      { ty := t, ver := 1, sha := 0x5bb99848f1d21ad5fb656fe7bfde4e27dae1f663bfc70c4c4307be1411b7fd216ae3b1b17e32d94c3896ac51a760b038, data := [], secver := 0, key := 0 }),
    secver := 0, key := 0, valid := true }

/-- The machine right after module reset (R441): step 2 of R440 is complete, no command waits, every register reads its
reset value, every block is OFF, and no memory holds anything. -/
def State.reset : State :=
  { pending := [], regs := [], cores := [], dieCyc := [], esc := 0, hbm := {}, grants := [], fab := {}, jobs := [],
    jobNum := 0, car := {}, host := {}, pow := {}, innk := { slots := [(0, shippedSlot)] }, psp := {},
    boot := { up := 2 }, tick := 0, faults := [], events := [], free := 0 }

end Sys2Proof.Machine
end

