-- ==== Sys2Proof/Machine/Ops.lean ====
section
/-!
DEFINITION. The named operations over the register pages and the state they share: page indexes (R479),
fields of registers (R9 to R11), error bits (R485), context faults (R347), events (R328) and free values.
-/
namespace Sys2Proof.Machine

/-! ## The page index (R479) -/

def pgSYS : Nat := 0x0000
def pgJOB : Nat := 0x0001
def pgCMDQ : Nat := 0x0002
def pgROCE : Nat := 0x0003
def pgHOSTETH (i : Nat) : Nat := 0x0004 + i
def pgRTR : Nat := 0x0008
def pgCAR : Nat := 0x0009
def pgSEC : Nat := 0x000A
def pgINNK : Nat := 0x000B
def pgCLK : Nat := 0x000C
def pgPWR : Nat := 0x000D
def pgTHERM : Nat := 0x000E
def pgPORT (p : Nat) : Nat := 0x0010 + p
def pgSTEWARD (d : Nat) : Nat := 0x0040 + 0x10 * d
def pgNOC (d : Nat) : Nat := 0x0041 + 0x10 * d
def pgBRIDGE (d : Nat) : Nat := 0x0042 + 0x10 * d
def pgCore (n k : Nat) : Nat := 0x0800 + 8 * n + k
def pgSEQ (n : Nat) : Nat := pgCore n 0
def pgARRAY (n : Nat) : Nat := pgCore n 1
def pgSPAD (n : Nat) : Nat := pgCore n 2
def pgLEDGER (n : Nat) : Nat := pgCore n 3
def pgSTREAM (n : Nat) : Nat := pgCore n 4
def pgVEC (n : Nat) : Nat := pgCore n 5
def pgSCALE (n : Nat) : Nat := pgCore n 6
def pgRNG (n : Nat) : Nat := pgCore n 7
def pgSTK (s : Nat) : Nat := 0x1000 + s
def pgCH (n : Nat) : Nat := 0x1200 + n

/-- The kind of block of a page and its instance; none for a reserved page (R479, R480). -/
def pageBlk (p : Nat) : Option (Blk × Nat) :=
  if p = 0 then some (.sys, 0)
  else if p = 1 then some (.job, 0)
  else if p = 2 then some (.cmdq, 0)
  else if p = 3 then some (.roce, 0)
  else if p < 8 then some (.hostEth, p - 4)
  else if p = 8 then some (.fabRtr, 0)
  else if p = 9 then some (.caravan, 0)
  else if p = 10 then some (.sec, 0)
  else if p = 11 then some (.innk, 0)
  else if p = 12 then some (.clk, 0)
  else if p = 13 then some (.pwr, 0)
  else if p = 14 then some (.therm, 0)
  else if 0x10 ≤ p ∧ p < 0x20 then some (.fabPort, p - 0x10)
  else if 0x40 ≤ p ∧ p < 0x80 then
    match p % 0x10 with
    | 0 => some (.steward, (p - 0x40) / 0x10)
    | 1 => some (.noc, (p - 0x40) / 0x10)
    | 2 => some (.bridge, (p - 0x40) / 0x10)
    | _ => none
  else if 0x800 ≤ p ∧ p < 0x1000 then
    match p % 8 with
    | 0 => some (.seq, (p - 0x800) / 8)
    | 1 => some (.array, (p - 0x800) / 8)
    | 2 => some (.spad, (p - 0x800) / 8)
    | 3 => some (.ledger, (p - 0x800) / 8)
    | 4 => some (.stream, (p - 0x800) / 8)
    | 5 => some (.vec, (p - 0x800) / 8)
    | 6 => some (.scale, (p - 0x800) / 8)
    | _ => some (.rng, (p - 0x800) / 8)
  else if 0x1000 ≤ p ∧ p < 0x1020 then some (.hbmStk, p - 0x1000)
  else if 0x1200 ≤ p ∧ p < 0x1400 then some (.hbmCh, p - 0x1200)
  else none

/-- BLK_ID.TYPE of a kind of block (R479). -/
def blkType : Blk → Nat
  | .sys => 0x01 | .job => 0x02 | .cmdq => 0x03 | .hostEth => 0x04 | .roce => 0x05 | .fabPort => 0x06
  | .fabRtr => 0x07 | .caravan => 0x08 | .sec => 0x09 | .innk => 0x0A | .clk => 0x0B | .pwr => 0x0C
  | .therm => 0x0D | .steward => 0x10 | .noc => 0x11 | .bridge => 0x12 | .seq => 0x20 | .array => 0x21
  | .spad => 0x22 | .ledger => 0x23 | .stream => 0x24 | .vec => 0x25 | .scale => 0x26 | .rng => 0x27
  | .hbmStk => 0x30 | .hbmCh => 0x31 | .hdr => 0

/-- BLK_ID.DIE of a page: the compute die that holds the block, 4 for the hub (R481). -/
def pageDie (b : Blk) (i : Nat) : Nat :=
  match b with
  | .steward | .noc | .bridge => i
  | .seq | .array | .spad | .ledger | .stream | .vec | .scale | .rng => i / 64
  | .hbmStk => i / 8
  | .hbmCh => i / 128
  | _ => 4

/-! ## Register words and fields -/

/-- Key of the word at a byte offset of a page in the register file. -/
def regKey (page off : Nat) : Nat := page * 1024 + off / 4

/-- Byte offset of element (i, j) of a field's register. -/
def fldOff (f : Fld) (i j : Nat) : Nat := f.off + f.s1 * i + f.s2 * j

/-- Whether a field lies in the register at a byte offset. -/
def fldAt (f : Fld) (off : Nat) : Bool :=
  if off < f.off then false
  else if f.n1 = 1 then decide (off = f.off)
  else
    let d := off - f.off
    let i := d / f.s1
    let r := d % f.s1
    if f.n2 = 1 then decide (i < f.n1 ∧ r = 0)
    else decide (i < f.n1 ∧ r % f.s2 = 0 ∧ r / f.s2 < f.n2)

/-- The fields of a page's register at a byte offset. -/
def fieldsAt (b : Blk) (off : Nat) : List Fld :=
  if off < 0x100 then fieldsOfHdr.filter (fldAt · off) else (fieldsOf b).filter (fldAt · off)

/-- The word that the resets of a list of fields make. -/
def rstWord (fs : List Fld) : Nat := fs.foldl (fun w f => w + f.rst <<< f.lsb) 0

/-- What a register word that nothing has written since reset reads as (R11): the resets of its fields, with
the values that depend on the instance (BLK_ID by R479, handle 63's MODE by R105, HBM base channels by R223, SECURED with three key slots fused by R417, the four spare cores of a die by R454 and log entry 5, a lane's fibre and wavelength by R226). -/
def regDefault (key : Nat) : Word :=
  let page := key / 1024
  let off := key % 1024 * 4
  match pageBlk page with
  | none => 0
  | some (b, i) =>
    if off = 0 then BitVec.ofNat 32 (blkType b + i <<< 8 + (pageDie b i) <<< 20)
    else
      let w := rstWord (fieldsAt b off)
      let extra :=
        if b = .ledger ∧ off = 0x800 + 0x20 * 63 then 2 <<< 18
        else if b = .hbmStk ∧ i % 8 = 0 ∧ off = 0x180 then 128 <<< 16
        else if b = .hbmStk ∧ i % 8 = 0 ∧ off = 0x184 then 768
        else if b = .sec ∧ off = 0x100 then 2
        else if b = .sec ∧ off = 0x10C then 7
        else if b = .sys ∧ 0x138 ≤ off ∧ off < 0x178 ∧ off / 4 % 4 = 1 then 0x55 <<< 24
        else if b = .fabPort ∧ 0x400 ≤ off ∧ off < 0x620 ∧ off % 0x20 = 0 then
          let l := (off - 0x400) / 0x20
          if l < 16 then (l / 2) <<< 8 + (l % 2) <<< 11 else 2 <<< 11
        else 0
      BitVec.ofNat 32 (w + extra)

/-- A register word as held. -/
def rdW (s : State) (page off : Nat) : Nat := (smGet regDefault s.regs (regKey page off)).toNat

/-- Replace a register word. -/
def wrW (s : State) (page off v : Nat) : State :=
  { s with regs := smPut regDefault s.regs (regKey page off) (BitVec.ofNat 32 v) }

/-- Field `f` of element (i, j) on a page, as held. -/
def rd2 (s : State) (page : Nat) (f : Fld) (i j : Nat) : Nat :=
  natField (rdW s page (fldOff f i j)) f.lsb f.width

/-- Replace that field. -/
def wr2 (s : State) (page : Nat) (f : Fld) (i j v : Nat) : State :=
  wrW s page (fldOff f i j) (natSetField (rdW s page (fldOff f i j)) f.lsb f.width v)

/-- Field of element `i`. -/
def rd1 (s : State) (page : Nat) (f : Fld) (i : Nat) : Nat := rd2 s page f i 0

/-- Replace the field of element `i`. -/
def wr1 (s : State) (page : Nat) (f : Fld) (i v : Nat) : State := wr2 s page f i 0 v

/-- A field of a single register. -/
def rd (s : State) (page : Nat) (f : Fld) : Nat := rd2 s page f 0 0

/-- Replace a field of a single register. -/
def wr (s : State) (page : Nat) (f : Fld) (v : Nat) : State := wr2 s page f 0 0 v

/-- A one-bit field as a truth value. -/
def rdB (s : State) (page : Nat) (f : Fld) : Bool := rd s page f != 0

/-- A truth value as a bit. -/
def bit (b : Bool) : Nat := if b then 1 else 0

/-- Add to a wrapping count. -/
def addWrap1 (s : State) (page : Nat) (f : Fld) (i n : Nat) : State :=
  wr1 s page f i ((rd1 s page f i + n) % 2 ^ f.width)

/-- Add to a saturating count. -/
def addSat1 (s : State) (page : Nat) (f : Fld) (i n : Nat) : State :=
  wr1 s page f i (min (rd1 s page f i + n) (2 ^ f.width - 1))

/-- Add to a wrapping count of a single register. -/
def addWrap (s : State) (page : Nat) (f : Fld) (n : Nat) : State := addWrap1 s page f 0 n

/-- Add to a saturating count of a single register. -/
def addSat (s : State) (page : Nat) (f : Fld) (n : Nat) : State := addSat1 s page f 0 n

/-- Raise a field that holds a maximum. -/
def raiseMax (s : State) (page : Nat) (f : Fld) (i v : Nat) : State :=
  if rd1 s page f i < v then wr1 s page f i v else s

/-- A 64-bit value held in a pair of registers named _LO and _HI. -/
def rd64 (s : State) (page : Nat) (lo hi : Fld) (i : Nat) : Nat :=
  rd1 s page lo i + (rd1 s page hi i) <<< 32

/-- Replace such a 64-bit value. -/
def wr64 (s : State) (page : Nat) (lo hi : Fld) (i v : Nat) : State :=
  wr1 (wr1 s page lo i (v % 2 ^ 32)) page hi i (natField v 32 32)

/-- Add to such a 64-bit wrapping count. -/
def add64 (s : State) (page : Nat) (lo hi : Fld) (i n : Nat) : State :=
  wr64 s page lo hi i ((rd64 s page lo hi i + n) % 2 ^ 64)

/-- Set bit `n` of a page's ERR_STATUS, unless its ERR_MASK bit is 1 (R485). -/
def setErr (s : State) (page n : Nat) : State :=
  if (rdW s page 0x14).testBit n then s
  else wrW s page 0x10 (rdW s page 0x10 ||| 2 ^ n)

/-- Clear every register of a page, so that each reads its reset value. -/
def resetPage (s : State) (page : Nat) : State :=
  { s with regs := tabDrop (fun k => k / 1024 == page) s.regs }

/-! ## Block states (R481, R483) -/

def stOFF : Nat := 0
def stREADY : Nat := 1
def stBUSY : Nat := 2
def stFAULT : Nat := 3
def stISOLATED : Nat := 4
def stSERVICE : Nat := 5

/-- The page on which a block's state is held: the SEQ page for the eight pages of a core (R483). -/
def statePage (page : Nat) : Nat :=
  if 0x800 ≤ page ∧ page < 0x1000 then page - page % 8 else page

/-- BLK_STATE.STATE of a page. -/
def blkState (s : State) (page : Nat) : Nat := rd s (statePage page) F.BLK_STATE.STATE

/-- Enter a block state; RDY follows it (R443). -/
def setBlk (s : State) (page st : Nat) : State :=
  let p := statePage page
  wr (wr s p F.BLK_STATE.STATE st) p F.BLK_STATE.RDY (bit (st == stREADY || st == stBUSY))

/-- Whether a block is ready: STATE is READY or BUSY (R443). -/
def blkReady (s : State) (page : Nat) : Bool :=
  blkState s page == stREADY || blkState s page == stBUSY

/-- BLK_STATE of a core. -/
def coreState (s : State) (n : Nat) : Nat := blkState s (pgSEQ n)

/-- Whether writes that rules confine to READY and SERVICE take effect on a core (R98, R149, R181, R183). -/
def coreOpen (s : State) (n : Nat) : Bool := coreState s n == stREADY || coreState s n == stSERVICE

/-! ## Cores, cycles, free values -/

/-- Core `n`. -/
def core (s : State) (n : Nat) : Core := tabGet Core.reset s.cores n

/-- Replace core `n`. -/
def setCore (s : State) (n : Nat) (c : Core) : State := { s with cores := tabPut Core.reset s.cores n c }

/-- Apply a function to core `n`. -/
def updCore (s : State) (n : Nat) (f : Core → Core) : State := setCore s n (f (core s n))

/-- The die of a core (R13). -/
def dieOf (n : Nat) : Nat := n / 64

/-- CCLK cycles of a die since reset. -/
def cycOf (s : State) (d : Nat) : Nat := tabGet 0 s.dieCyc d

/-- The CCLK cycle of a core. -/
def now (s : State) (n : Nat) : Nat := cycOf s (dieOf n)

/-- Draw one number for a free value. -/
def drawFree (s : State) : State := { s with free := s.free + 1 }

/-- `k` free bytes and the state after drawing them (log entry 2). -/
def freeBytes (s : State) (k : Nat) : List Byte × State :=
  ((List.range k).map (fun i => Config.freeByte (s.free + i)), { s with free := s.free + k })

/-! ## Events and context faults -/

/-- Place numbers at byte positions of a RESULT or DETAIL field. -/
def packBytes : List (Nat × Nat) → Nat
  | [] => 0
  | (b, v) :: r => v <<< (8 * b) + packBytes r

/-- Enter a record in the event log (R409): it takes the next sequence number, and waits in the hub buffer of 512 records
or is dropped. -/
def logRec (s : State) (cls code status data : Nat) : State :=
  let i := s.innk
  let r : LogRec := { seq := i.logNext, stamp := s.esc, boot := rd s pgINNK F.INNK_BOOTCNT.COUNT, cls := cls, code := code,
                      status := status, data := data % 2 ^ 32 }
  let s1 := { s with innk := { i with logNext := i.logNext + 1, buf := if i.buf.length < 512 then i.buf ++ [r] else i.buf } }
  if i.buf.length < 512 then s1 else setErr (addSat s1 pgINNK F.INNK_LOG_DROP.COUNT 1) pgINNK E.INNK.LOG_DROP

/-- Raise an event to the host (R328): it enters the log, and waits for the EVENT command to record it; beyond 256 that wait
it is counted in CMDQ_EVQ.LOST. `res` gives RESULT bytes 1 to 15 by position. -/
def raiseEvent (s : State) (code status detail : Nat) (res : List (Nat × Nat)) : State :=
  let r := code + packBytes res
  let s1 := logRec s 1 code status (r / 256)
  if s1.events.length < 256 then
    { s1 with events := s1.events ++ [{ code := code, status := status, detail := detail, result := r,
                                        seq := s.innk.logNext }] }
  else
    let s2 := setErr (addSat s1 pgCMDQ F.CMDQ_EVQ.LOST 1) pgCMDQ E.CMDQ.EV_LOST
    { s2 with host := { s2.host with evLost := s2.host.evLost + 1 } }

end Sys2Proof.Machine
end

