-- ==== Sys2Proof/Machine/CoreOps.lean ====
section
/-!
DEFINITION. The operations that every slot of a core shares: partitions and contexts (R65 to R68), context
faults and their records (R69, R77, R111, R112, R147, R180, R347), trace records (R194 to R198), registers and
their landings (R155, R157), the Ledger (R96 to R101) and issue of bundles (R152 to R154, R174).
-/
namespace Sys2Proof.Machine

/-! ## Partitions (R65, R68) -/

/-- Shape and timing of a partition of a mode (R65): rows, columns, tile load time L, drain depth Δ. -/
structure PartDim where
  rows : Nat
  cols : Nat
  load : Nat
  delta : Nat
  deriving DecidableEq, Repr

/-- ARRAY_PART.MODE of a core. -/
def partMode (s : State) (n : Nat) : Nat := rd s (pgARRAY n) F.ARRAY_PART.MODE

/-- Partitions of a mode; the reserved encoding acts as WHOLE (log entry 6). -/
def partCount (mode : Nat) : Nat := if mode = 1 then 2 else if mode = 2 then 4 else 1

/-- The table of R65. -/
def partDim (mode : Nat) : PartDim :=
  if mode = 1 then ⟨128, 64, 128, 204⟩ else if mode = 2 then ⟨64, 64, 64, 140⟩ else ⟨128, 128, 128, 268⟩

/-- Shape of the partitions of a core. -/
def coreDim (s : State) (n : Nat) : PartDim := partDim (partMode s n)

/-- Context of partition `p` (ARRAY_PART). -/
def partCtx (s : State) (n p : Nat) : Nat :=
  rd s (pgARRAY n) (match p with
    | 0 => F.ARRAY_PART.CTX0 | 1 => F.ARRAY_PART.CTX1 | 2 => F.ARRAY_PART.CTX2 | _ => F.ARRAY_PART.CTX3)

/-- The partitions of the current mode. -/
def corePartList (s : State) (n : Nat) : List Nat := List.range (partCount (partMode s n))

/-- The contexts that have a partition on the core. -/
def coreCtxs (s : State) (n : Nat) : List Nat := ((corePartList s n).map (partCtx s n)).eraseDups

/-- The partition under which a context's faults are recorded: its first one, 0 in WHOLE (R111, R147). -/
def ctxPart (s : State) (n ctx : Nat) : Nat := ((corePartList s n).find? (fun p => partCtx s n p == ctx)).getD 0

/-- Whether a context is down on a core: from the cycle after its first fault (R68, R69). -/
def ctxDown (s : State) (n ctx : Nat) : Bool :=
  let v := tabGet 0 (core s n).downAt ctx
  v != 0 && decide (v ≤ now s n + 1)

/-! ## Trace records (R194 to R198) -/

/-- A trace record (R197) with its sequence number. -/
def traceBytes (s : State) (n ev ctx part arg : Nat) : List Byte :=
  let c := core s n
  let mseq := (rd s (pgSTREAM n) F.MUSTER_SEQ.SEQ + 0xFFFF) % 0x10000
  natToBytes 8 s.esc ++ natToBytes 1 ev ++ natToBytes 1 n ++ natToBytes 1 (c.lcore.getD 0xFF)
    ++ natToBytes 1 (ctx % 16 + 16 * (part % 4)) ++ natToBytes 4 c.traceSeq
    ++ natToBytes 4 (rd1 s pgJOB F.JOB_STEPNUM_L_LO.NUM c.bank) ++ natToBytes 4 mseq ++ natToBytes 8 arg

/-- Append one record, or count a drop when the buffer holds 512 (R194). -/
def tracePush (s : State) (n ev ctx part arg : Nat) : State :=
  let c := core s n
  if 512 ≤ c.trace.length then setCore s n { c with traceDrops := c.traceDrops + 1 }
  else setCore s n { c with trace := c.trace ++ [traceBytes s n ev ctx part arg], traceSeq := c.traceSeq + 1 }

/-- Write a trace record: only while the job is traced and its EVENT_MASK names the code; after drops a LOST
record comes first (R194, R195). -/
def traceRec (s : State) (n ev ctx part arg : Nat) : State :=
  let c := core s n
  if c.traceOn && c.traceMask.getLsbD ev then
    if c.traceDrops ≠ 0 ∧ c.trace.length < 512 then
      let s1 := tracePush s n 0x0F ctx part c.traceDrops
      tracePush (updCore s1 n (fun c => { c with traceDrops := 0 })) n ev ctx part arg
    else tracePush s n ev ctx part arg
  else s

/-! ## Faults -/

/-- A context fault as it is detected on a core: the context is down there from the next cycle, and the tear-down
will report it (R68, R347). -/
def recordCtxFault (s : State) (n p ctx status page code craul : Nat) : State :=
  let c := core s n
  let c := if tabGet 0 c.downAt ctx = 0 then { c with downAt := tabPut 0 c.downAt ctx (now s n + 2) } else c
  let s := { setCore s n c with
             faults := s.faults ++ [{ bank := c.bank, ctx := ctx, status := status, page := page, code := code,
                                      detail := 0, core := n, lcore := c.lcore.getD 0xFF, part := p,
                                      craul := craul, at_ := s.esc }] }
  if page ≤ 4 then traceRec s n 0x09 ctx p (code + page <<< 8) else s

/-- Whether a fault may be recorded in a page's FAULT[p]: nothing is held there, or what is held was recorded in
this cycle with a higher code (R77, R112, R147, R180). -/
def faultFree (s : State) (n blk : Nat) (f : Fld) (p code : Nat) : Bool :=
  let cur := rd1 s (pgCore n blk) f p
  cur == 0 || (tabGet 0 (core s n).fltAt (4 * blk + p) == now s n + 1 && decide (code < cur))

/-- Note the cycle of a record and set the page's PFAULT bit. -/
def faultMark (s : State) (n blk p : Nat) : State :=
  let s := updCore s n (fun c => { c with fltAt := tabPut 0 c.fltAt (4 * blk + p) (now s n + 1) })
  setErr s (pgCore n blk) p

/-- Statuses of the SPAD codes (R111, R348). -/
def spadStatus (code : Nat) : Nat :=
  match code with
  | 1 => 0x48 | 2 => 0x49 | 3 => 0x4A | 4 => 0x42 | 5 => 0x45 | 6 => 0x4B | _ => 0x4C

/-- A scratchpad, Ledger or Saddlebag fault (R111, R112), against the context of partition `p`. -/
def recSpad (s : State) (n p ctx code port bank row : Nat) : State :=
  if ctxDown s n ctx then s
  else
    let pg := pgSPAD n
    let s1 := if faultFree s n 2 F.SPAD_FAULT.CODE p code then
        faultMark (wr1 (wr1 (wr1 (wr1 s pg F.SPAD_FAULT.CODE p code) pg F.SPAD_FAULT.PORT p port)
          pg F.SPAD_FAULT.BANK p bank) pg F.SPAD_FAULT.ROW p row) n 2 p
      else s
    recordCtxFault s1 n p ctx (spadStatus code) 2 code 0

/-- Statuses of the STREAM codes (R147, R348). -/
def streamStatus (code : Nat) : Nat :=
  match code with
  | 1 => 0x4D | 2 => 0x40 | 3 => 0x42 | 4 => 0x47 | 5 => 0x4E | 6 => 0x4F | 7 => 0x50 | _ => 0x51

/-- A stream, Courier or Muster fault (R147). `status` is given for REMOTE with status BOUNDS (R124, R141). -/
def recStreamAs (s : State) (n ctx code slot crr pc handle status craul : Nat) : State :=
  if ctxDown s n ctx then s
  else
    let pg := pgSTREAM n
    let p := ctxPart s n ctx
    let s1 := if faultFree s n 4 F.STREAM_FAULT.CODE p code then
        faultMark (wr1 (wr1 (wr1 (wr1 (wr1 s pg F.STREAM_FAULT.CODE p code) pg F.STREAM_FAULT.SLOT p slot)
          pg F.STREAM_FAULT.CRR p crr) pg F.STREAM_FAULT.PC p pc) pg F.STREAM_FAULT.HANDLE p handle) n 4 p
      else s
    recordCtxFault s1 n p ctx status 3 code craul

/-- A stream, Courier or Muster fault with its own status. -/
def recStream (s : State) (n ctx code slot crr pc handle : Nat) : State :=
  recStreamAs s n ctx code slot crr pc handle (streamStatus code) 0

/-- A core program fault recorded in SEQ_FAULT[p] (R180): ILLEGAL 0x01 or NO_YIELD 0x03. -/
def recSeq (s : State) (n p code slot pc : Nat) : State :=
  let ctx := partCtx s n p
  if ctxDown s n ctx then s
  else
    let pg := pgSEQ n
    let s1 := if faultFree s n 0 F.SEQ_FAULT.CODE p code then
        faultMark (wr1 (wr1 (wr1 s pg F.SEQ_FAULT.CODE p code) pg F.SEQ_FAULT.SLOT p slot)
          pg F.SEQ_FAULT.PC p pc) n 0 p
      else s
    recordCtxFault s1 n p ctx (if code = 3 then 0x52 else 0x4D) 0 code 0

/-- A SEQ fault against every context on the core (R68, R180). -/
def recSeqAll (s : State) (n code slot pc : Nat) : State :=
  (corePartList s n).foldl (fun s p => recSeq s n p code slot pc) s

/-- A VEC fault (R180): FORMAT 0x02 or CONFLICT 0x04. -/
def recVec (s : State) (n p code op pc : Nat) : State :=
  let ctx := partCtx s n p
  if ctxDown s n ctx then s
  else
    let pg := pgVEC n
    let s1 := if faultFree s n 5 F.VEC_FAULT.CODE p code then
        faultMark (wr1 (wr1 (wr1 s pg F.VEC_FAULT.CODE p code) pg F.VEC_FAULT.OP p op) pg F.VEC_FAULT.PC p pc) n 5 p
      else s
    recordCtxFault s1 n p ctx (if code = 2 then 0x40 else 0x48) 4 code 0

/-- Statuses of the ARRAY codes (R76, R348). -/
def arrayStatus (code : Nat) : Nat :=
  match code with
  | 1 => 0x40 | 2 => 0x41 | 3 => 0x42 | 4 => 0x43 | 5 => 0x44 | 6 => 0x45 | 7 => 0x46 | 8 => 0x47 | _ => 0x48

/-- Partition `p` of a core. -/
def getPart (c : Core) (p : Nat) : Part := tabGet {} c.parts p

/-- Replace partition `p` of a core. -/
def setPart (s : State) (n p : Nat) (v : Part) : State :=
  updCore s n (fun c => { c with parts := tabPut {} c.parts p v })

/-- A partition stops: no further feed, tile load, drain row or drain token; its tile is lost (R69, R61). -/
def stopPart (v : Part) (fault : Bool) : Part :=
  { v with q := [], tiles := [], resident := none, lastS := none, lastE := none, lastT := none, fault := fault }

/-- Cancel the scratchpad accesses of a partition's passes that have not been made. -/
def dropPassAccess (acc : List Access) (p : Nat) : List Access :=
  acc.filter (fun a => !((a.port == .aw) && a.part == p))

/-- A fault of the array (R69, R76, R77): recorded, and the partition enters FAULT. `latch` is the latch cycle of
the pass concerned when it has latched. -/
def recArray (s : State) (n p code handle : Nat) (latch : Option Nat) : State :=
  let ctx := partCtx s n p
  let pg := pgARRAY n
  let cyc := match latch with
    | some l => min (now s n - l) 0xFFFF
    | none => 0
  let s1 := if ctxDown s n ctx then s
    else if faultFree s n 1 F.ARRAY_FAULT.CODE p code then
      faultMark (wr1 (wr1 (wr1 s pg F.ARRAY_FAULT.CODE p code) pg F.ARRAY_FAULT.HANDLE p handle)
        pg F.ARRAY_FAULT.CYCLE p cyc) n 1 p
    else s
  let s2 := updCore s1 n (fun c =>
    { c with parts := tabPut {} c.parts p (stopPart (getPart c p) true), acc := dropPassAccess c.acc p })
  if ctxDown s n ctx then s2 else recordCtxFault s2 n p ctx (arrayStatus code) 1 code 0

/-! ## Registers and their landings (R155, R157) -/

/-- S[r]; S0 reads zero (R155). -/
def sreg (c : Core) (r : Nat) : DWord := if r = 0 then 0 else tabGet 0 c.sregs r

/-- Q[q]; Q0 reads 1 (R155). -/
def preg (c : Core) (q : Nat) : Bool := if q = 0 then true else c.preds.getLsbD q

/-- V[v]. -/
def vreg (c : Core) (v : Nat) : BitVec 4096 := tabGet 0 c.vregs v

/-- M[m]; M0 reads all ones (R155). -/
def mreg (c : Core) (m : Nat) : BitVec 128 := if m = 0 then BitVec.allOnes 128 else tabGet 0 c.mregs m

/-- Write S[r]; writes to S0 are ignored (R155). -/
def setSreg (c : Core) (r : Nat) (v : DWord) : Core :=
  if r = 0 then c else { c with sregs := tabPut 0 c.sregs r v }

/-- Write Q[q]; writes to Q0 are ignored (R155). -/
def setPreg (c : Core) (q : Nat) (v : Bool) : Core :=
  if q = 0 then c
  else { c with preds := if v then c.preds ||| (BitVec.ofNat 8 (2 ^ q)) else c.preds &&& ~~~(BitVec.ofNat 8 (2 ^ q)) }

/-- Write the bits of M[m] that `bits` names; writes to M0 are ignored (R155, R165). -/
def setMreg (c : Core) (m : Nat) (bits v : BitVec 128) : Core :=
  if m = 0 then c else { c with mregs := tabPut 0 c.mregs m ((mreg c m &&& ~~~bits) ||| (v &&& bits)) }

/-- Write the bits of V[v] that `bits` names; the others keep what they hold (R165). -/
def setVbits (c : Core) (r : Nat) (bits v : BitVec 4096) : Core :=
  { c with vregs := tabPut 0 c.vregs r ((vreg c r &&& ~~~bits) ||| (v &&& bits)) }

/-- Whether landing `a` comes before landing `b`: by cycle, class, then order of bundle and slot (R100, R157). -/
def landBefore (a b : Landing) : Bool :=
  decide (a.at_ < b.at_) || (a.at_ == b.at_ && (decide (a.cls < b.cls) || (a.cls == b.cls && decide (a.ord < b.ord))))

/-- Insert a landing after every landing that does not come after it. -/
def landInsert (x : Landing) : List Landing → List Landing
  | [] => [x]
  | y :: r => if landBefore x y then x :: y :: r else y :: landInsert x r

/-- Schedule a landing on a core. -/
def addLand (s : State) (n at_ cls ord : Nat) (ev : LandEv) : State :=
  updCore s n (fun c => { c with land := landInsert ⟨at_, cls, ord, ev⟩ c.land })

/-- A result of latency `lat` from slot `slot` of the bundle issued now (R157). -/
def addResult (s : State) (n lat slot : Nat) (ev : LandEv) : State :=
  addLand s n (now s n + lat) 1 (4 * now s n + slot) ev

/-! ## The Ledger (R96 to R101, R133) -/

/-- Handle `h` as it stands (R96, R98). -/
def handleOf (s : State) (n h : Nat) : Handle :=
  let pg := pgLEDGER n
  { base := rd1 s pg F.LEDGER_HBASE.BASE h, size := rd1 s pg F.LEDGER_HSIZE.SIZE h,
    clsW := rd1 s pg F.LEDGER_HBASE.CLASS h != 0,
    mode := if h = 63 then 2 else rd1 s pg F.LEDGER_HBASE.MODE h }

/-- The arrival token of a handle. -/
def tokOf (s : State) (n h : Nat) : Bool := rd1 s (pgLEDGER n) F.LEDGER_HTOK.TOK h != 0

/-- Whether a handle is one that no access may use (R97): no size, a region beyond the scratchpad, a reserved mode,
ring mode outside SERVICE, or handle 63. -/
def handleBad (s : State) (n h : Nat) (hd : Handle) : Bool :=
  hd.size == 0 || decide (131072 < hd.base + hd.size) || hd.mode == 3 || hd.mode == 2 || h == 63
    || (hd.mode == 1 && coreState s n != stSERVICE)

/-- Whether an access of `len` bytes at an offset raises BOUNDS (R97). -/
def boundsBad (s : State) (n h : Nat) (hd : Handle) (off len : Nat) : Bool :=
  handleBad s n h hd || decide (hd.size * 64 < off + len)

/-- First byte of an access in the scratchpad. -/
def handleAddr (hd : Handle) (off : Nat) : Nat := hd.base * 64 + off

/-- Whether a read or write of `len` bytes at byte `a` obeys the alignment of a wide read (R81). -/
def wideReadOk (a len : Nat) : Bool := a % 64 == 0 && len % 32 == 0 && decide (32 ≤ len) && decide (len ≤ 2048)

/-- Alignment of a write by the class of its handle (R81). -/
def writeOk (clsW : Bool) (a len : Nat) : Bool :=
  if clsW then a % 128 == 0 && len % 128 == 0 else a % 32 == 0 && len % 32 == 0

/-- Alignment of a narrow access (R81). -/
def narrowOk (a len : Nat) : Bool :=
  (len == 32 || len == 64 || len == 128 || len == 256 || len == 512) && a % len == 0

/-- Whether a read touches the poison range of a handle (R133), in 32-byte units of the handle. -/
def poisonHit (s : State) (n h off len : Nat) : Bool :=
  let pg := pgSTREAM n
  rd1 s pg F.STREAM_POISON_LO.VALID h != 0
    && decide (off / 32 ≤ rd1 s pg F.STREAM_POISON_HI.LAST h)
    && decide (rd1 s pg F.STREAM_POISON_LO.FIRST h ≤ (off + len - 1) / 32)

/-- Clear the poison range of a handle. -/
def clearPoison (s : State) (n h : Nat) : State :=
  let pg := pgSTREAM n
  wr1 (wr1 (wr1 s pg F.STREAM_POISON_LO.VALID h 0) pg F.STREAM_POISON_LO.FIRST h 0) pg F.STREAM_POISON_HI.LAST h 0

/-- Add a suppressed destination to the poison range of a handle (R131, R133). -/
def addPoison (s : State) (n ctx h off len : Nat) : State :=
  let s := updCore s n (fun c => { c with poisonCtx := tabPut 0 c.poisonCtx h (ctx + 1) })
  let pg := pgSTREAM n
  let a := off / 32
  let b := (off + len - 1) / 32
  if rd1 s pg F.STREAM_POISON_LO.VALID h = 0 then
    wr1 (wr1 (wr1 s pg F.STREAM_POISON_LO.VALID h 1) pg F.STREAM_POISON_LO.FIRST h a) pg F.STREAM_POISON_HI.LAST h b
  else
    wr1 (wr1 s pg F.STREAM_POISON_LO.FIRST h (min a (rd1 s pg F.STREAM_POISON_LO.FIRST h)))
      pg F.STREAM_POISON_HI.LAST h (max b (rd1 s pg F.STREAM_POISON_HI.LAST h))

/-- Apply an arm of `k` deliveries (R99, R133); above 4,095 it raises BOUNDS. -/
def applyArm (s : State) (n h k ctx : Nat) : State :=
  let pg := pgLEDGER n
  let pend := rd1 s pg F.LEDGER_HTOK.PEND h
  if 4095 < pend + k then recSpad s n (ctxPart s n ctx) ctx 4 5 0 0
  else clearPoison (wr1 (wr1 s pg F.LEDGER_HTOK.PEND h (pend + k)) pg F.LEDGER_HTOK.TOK h 0) n h

/-- Apply the completion of a delivery (R99, R101). -/
def applyComplete (s : State) (n h : Nat) : State :=
  let pg := pgLEDGER n
  let pend := rd1 s pg F.LEDGER_HTOK.PEND h
  let s := addWrap1 s pg F.LEDGER_HTOK.DELIV h 1
  if pend = 0 then setErr (addSat s pg F.LEDGER_STRAY_CNT.COUNT 1) pg E.LEDGER.STRAY
  else
    let s := wr1 s pg F.LEDGER_HTOK.PEND h (pend - 1)
    if pend = 1 then wr1 s pg F.LEDGER_HTOK.TOK h 1 else s

/-- Arm a handle in this cycle: seen from the next, after the completions of this cycle (R99, R100). -/
def armHandle (s : State) (n h k ctx : Nat) : State :=
  addLand s n (now s n + 1) 2 (now s n) (.arm h k ctx)

/-- A delivery into a handle completes in cycle `at_`: seen from the next (R99, R100). -/
def completeAt (s : State) (n at_ h : Nat) : State := addLand s n (at_ + 1) 0 at_ (.complete h)

/-- Apply one landing. -/
def applyLand (s : State) (n : Nat) (ev : LandEv) : State :=
  match ev with
  | .sreg r v => updCore s n (fun c => setSreg c r v)
  | .pred q v => updCore s n (fun c => setPreg c q v)
  | .vreg r bits v => updCore s n (fun c => setVbits c r bits v)
  | .mreg m bits v => updCore s n (fun c => setMreg c m bits v)
  | .flags ctx f => updCore s n (fun c => { c with flags := tabPut flNone c.flags ctx (tabGet flNone c.flags ctx ||| f) })
  | .arm h k ctx => applyArm s n h k ctx
  | .complete h => applyComplete s n h
  | .rmax e mag nan =>
    updCore s n (fun c =>
      let x := tabGet {} c.scale e
      { c with scale := tabPut {} c.scale e { x with rmax := max x.rmax mag, nan := x.nan || nan } })
  | .scaleK e k => updCore s n (fun c => { c with scale := tabPut {} c.scale e { tabGet {} c.scale e with k := k } })
  | .spadUe ctx bank row port => recSpad s n (ctxPart s n ctx) ctx 2 port bank row

/-- Apply every landing whose cycle has come, in order. The list is sorted, so they stand first. -/
def applyLands (s : State) (n : Nat) : List Landing → State
  | [] => s
  | l :: r =>
    if l.at_ ≤ now s n then
      applyLands (applyLand (updCore s n (fun c => { c with land := c.land.drop 1 })) n l.ev) n r
    else s

/-! ## Issue of bundles (R152 to R154, R174, R181) -/

/-- Whether the core issues no bundle for a halt: SEQ_CTRL.HALT or a HALT of one of its contexts (R181, R326). -/
def seqHalted (s : State) (n : Nat) : Bool :=
  (rdB s (pgSEQ n) F.SEQ_CTRL.HALT && decide (2 ≤ rd s pgSEC F.SEC_DEBUG.LEVEL)) || (core s n).haltCtx != 0

/-- Whether the last bundle was a yield point with a switch pending, after which none issues (R174). -/
def yieldStopped (c : Core) : Bool :=
  c.yieldReqAt != 0 && c.lastIssueAt != 0 && decide (c.yieldReqAt < c.lastIssueAt)
    && (tabGet 0 c.imem c.lastPc).getLsbD 0

/-- Whether a core waits at a MUSTER or a WAITT, which is a yield point for as long as it waits (R174). -/
def waiting (c : Core) : Bool :=
  match c.run with
  | .muster .. => true
  | .waitt .. => true
  | _ => false

/-- Whether a core with a switch pending has reached a yield point: nothing of its program or its Itineraries goes on
(R174). -/
def yieldPending (c : Core) : Bool := c.yieldReqAt != 0 && (yieldStopped c || waiting c || c.run == .ended)

/-- Whether every context of the core is down (R347). -/
def allDown (s : State) (n : Nat) : Bool := (coreCtxs s n).all (ctxDown s n)

/-- Whether the next bundle of a core may issue in this cycle. -/
def canIssue (s : State) (n : Nat) : Bool :=
  let c := core s n
  c.run == .issuing && !seqHalted s n && !c.segWait && !yieldStopped c && !allDown s n
    && decide (c.nextIssue ≤ now s n) && c.lastIssueAt != now s n + 1

/-- Whether a bundle has issued in this cycle. -/
def issuedNow (s : State) (n : Nat) : Bool := (core s n).lastIssueAt == now s n + 1

/-- Index of the bundle to which an operation of this cycle belongs. -/
def bundlePc (s : State) (n : Nat) : Nat := if issuedNow s n then (core s n).lastPc else (core s n).pc

/-- The bundle after index `pc`, with the return from END of the open loops, innermost first (R159). -/
def loopNext : List LoopLvl → Nat → Nat × List LoopLvl
  | [], pc => (pc + 1, [])
  | l :: r, pc =>
    if pc = l.last then
      if 0 < l.left then (l.first, { l with left := l.left - 1 } :: r) else loopNext r pc
    else (pc + 1, l :: r)

/-- Write the MARK records that name the bundle issuing now (R195, R198). -/
def traceMarks (s : State) (n pc : Nat) : State :=
  let c := core s n
  c.traceMarks.foldl (fun s m =>
    if m.2.1 = pc ∧ (m.2.2 = 0xFF ∨ some m.2.2 = c.lcore) then traceRec s n 0x06 (partCtx s n 0) 0 (pc + m.1 <<< 12)
    else s) s

/-- The bundle's SEQ operation issues: the bundle is the one at pc, and the next one follows in the next cycle
unless the operation says otherwise (R152, R159). -/
def openBundle (s : State) (n : Nat) : State :=
  let c := core s n
  let nx := loopNext c.loops c.pc
  traceMarks (setCore s n { c with lastPc := c.pc, lastIssueAt := now s n + 1, nextIssue := now s n + 1,
                                   segWait := c.switchPc == some c.pc && (tabGet 0 c.imem c.pc).getLsbD 0,
                                   pc := nx.1, loops := nx.2 }) n c.pc

/-- A program counter past 4,095 raises ILLEGAL (R159). -/
def checkPc (s : State) (n : Nat) : State :=
  let c := core s n
  if 4095 < c.pc ∧ c.run ≠ .ended then recSeqAll s n 1 0 c.lastPc else s

/-- A SEQ slot operation issues with its bundle: `f` gets the core as it stood before the bundle. -/
def issueSeq (s : State) (n : Nat) (f : Core → State → State) : State :=
  if canIssue s n then checkPc (f (core s n) (openBundle s n)) n else s

/-- Whether an ARR (1), VEC (2) or STR (3) operation may issue in this cycle: with a bundle that issues or has
issued in it, once a slot. -/
def slotOk (s : State) (n idx : Nat) : Bool :=
  (issuedNow s n || canIssue s n) && tabGet 0 (core s n).slotAt idx != now s n + 1

/-- Note that a slot has issued in this cycle. -/
def markSlot (s : State) (n idx : Nat) : State :=
  updCore s n (fun c => { c with slotAt := tabPut 0 c.slotAt idx (now s n + 1) })

/-- An ARR, VEC or STR operation issues, attributed to the context of its tag's partition (R68, R154): a tag that
names an absent partition raises ILLEGAL against every context; under a context that is down it retires without
effect. `f` gets the partition and the context. -/
def issueSlot (s : State) (i : Issue) (idx : Nat) (f : Nat → Nat → State → State) : State :=
  let n := i.core.val
  let p := i.tag.val
  if slotOk s n idx then
    let s1 := markSlot s n idx
    if p < partCount (partMode s n) then
      if ctxDown s n (partCtx s n p) then s1 else f p (partCtx s n p) s1
    else recSeqAll s1 n 1 idx (bundlePc s n)
  else s

/-- ILLEGAL against the context of a slot operation (R180). -/
def illegalSlot (s : State) (n p idx : Nat) : State := recSeq s n p 1 idx (bundlePc s n)

/-! ## Scheduled accesses -/

/-- Queue a scheduled access of the scratchpad (R82). -/
def addAccess (s : State) (n : Nat) (a : Access) : State := updCore s n (fun c => { c with acc := c.acc ++ [a] })

/-- Bank and row of a byte (R80). -/
def bankOf (a : Nat) : Nat := a / 128 % 32

/-- Row within its bank of a byte (R80). -/
def rowOf (a : Nat) : Nat := a / 4096 % 2048

/-- A wide access issued now with bank cycle `bank`. -/
def wideAccess (s : State) (n ctx bank : Nat) (port : Port) (pieces : List (Nat × Nat)) (clsW : Bool) (act : AccAct) :
    State :=
  addAccess s n { issue := now s n, bank := bank, port := port, part := 0, kind := 0, ord := 3, ctx := ctx,
                  pieces := pieces, clsW := clsW, act := act }

/-- A narrow access issued now, first candidate bank cycle x + 2; the SEQ slot's is first in its cycle (R82). -/
def narrowAccess (s : State) (n ctx slot addr len : Nat) (clsW : Bool) (act : AccAct) : State :=
  addAccess s n { issue := now s n, bank := now s n + 2, port := .nv, part := 0, kind := 0, ord := slot, ctx := ctx,
                  pieces := [(addr, len)], clsW := clsW, act := act }

/-- Bytes of a number as bytes of a vector register or memory, lowest first. -/
def bvBytes (v : BitVec 4096) (k : Nat) : List Byte := natToBytes k v.toNat

end Sys2Proof.Machine
end

