-- ==== Sys2Proof/Machine/Flags.lean ====
section
/-!
DEFINITION. Conditions, predicates and flags of the core program: the comparisons of CMP (R158) and VCMP (R164),
the predicate functions of QOP (R158).
-/
namespace Sys2Proof.Machine

/-- CMP's condition on two scalars (R158); none for the reserved codes 6 and 7. -/
def scalarCond (cond : BitVec 3) (a b : BitVec 64) : Option Bool :=
  match cond.toNat with
  | 0 => some (a == b)
  | 1 => some (a != b)
  | 2 => some (a.slt b)
  | 3 => some (!a.slt b)
  | 4 => some (a.ult b)
  | 5 => some (!a.ult b)
  | _ => none

/-- QOP's function of two predicates (R158). -/
def predOp (fn : BitVec 2) (a b : Bool) : Bool :=
  match fn.toNat with
  | 0 => a && b
  | 1 => a || b
  | 2 => xor a b
  | _ => a && !b

/-- VCMP's condition on two FP32 values with its flags (R164): conditions 2 to 5 raise IV on a NaN operand; none for
the reserved code 7. -/
def floatCond (cond : BitVec 3) (a b : FV) : Option (Bool × Flags5) :=
  let un := fvIsNaN a || fvIsNaN b
  let iv := if un then flIV else flNone
  match cond.toNat with
  | 0 => some (!un && fvEq a b, flNone)
  | 1 => some (un || !fvEq a b, flNone)
  | 2 => some (!un && fvLt a b, iv)
  | 3 => some (!un && fvLe a b, iv)
  | 4 => some (!un && fvLt b a, iv)
  | 5 => some (!un && fvLe b a, iv)
  | 6 => some (un, flNone)
  | _ => none

/-- VCMP's condition on two INT32 lanes, compared unsigned (R164); unordered never holds for integers. -/
def intCond (cond : BitVec 3) (a b : Nat) : Option Bool :=
  match cond.toNat with
  | 0 => some (a == b)
  | 1 => some (a != b)
  | 2 => some (decide (a < b))
  | 3 => some (decide (a ≤ b))
  | 4 => some (decide (b < a))
  | 5 => some (decide (b ≤ a))
  | 6 => some false
  | _ => none

end Sys2Proof.Machine
end

