-- ==== Sys2Proof/Machine/Philox.lean ====
section
/-!
DEFINITION. The Philox-4x32-10 generators of a core (R45): ten rounds over a 128-bit counter with a 64-bit
key, and the word that serves one element of a tensor.
-/
namespace Sys2Proof.Machine

/-- The four 32-bit words of a counter or an output, word 0 first. -/
structure Philox4 where
  w0 : Nat
  w1 : Nat
  w2 : Nat
  w3 : Nat
  deriving DecidableEq, Repr

/-- One round under the round key (R45's multipliers). -/
def philoxRound (k0 k1 : Nat) (c : Philox4) : Philox4 :=
  let p0 := 0xD2511F53 * c.w0
  let p1 := 0xCD9E8D57 * c.w2
  { w0 := ((p1 >>> 32) ^^^ c.w1) ^^^ k0
    w1 := p1 % 2 ^ 32
    w2 := ((p0 >>> 32) ^^^ c.w3) ^^^ k1
    w3 := p0 % 2 ^ 32 }

/-- `n` rounds, the key incremented between rounds (R45). -/
def philoxRounds : Nat → Nat → Nat → Philox4 → Philox4
  | 0, _, _, c => c
  | n + 1, k0, k1, c =>
    philoxRounds n ((k0 + 0x9E3779B9) % 2 ^ 32) ((k1 + 0xBB67AE85) % 2 ^ 32) (philoxRound k0 k1 c)

/-- Philox-4x32-10 of a 64-bit key and a 128-bit counter (R45). -/
def philox10 (key counter : Nat) : Philox4 :=
  philoxRounds 10 (key % 2 ^ 32) (natField key 32 32)
    { w0 := counter % 2 ^ 32, w1 := natField counter 32 32, w2 := natField counter 64 32, w3 := natField counter 96 32 }

/-- Output word `i` mod 4. -/
def philoxPick (c : Philox4) (i : Nat) : Nat :=
  match i % 4 with
  | 0 => c.w0
  | 1 => c.w1
  | 2 => c.w2
  | _ => c.w3

/-- The word of element `e` of tensor `tid` at a step, under the job seed (R45). -/
def philoxWord (seed step tid e : Nat) : Nat :=
  let g := e / 4
  philoxPick (philox10 seed (g % 2 ^ 64 + (step % 2 ^ 32) <<< 64 + (tid % 2 ^ 32) <<< 96)) e

/-- The 24 random bits of stochastic rounding of an element (R43 step 4). -/
def philoxU (seed step tid e : Nat) : Nat := philoxWord seed step tid e % 2 ^ 24

end Sys2Proof.Machine
end

