-- ==== Sys2Proof/Machine/VecMath.lean ====
section
/-!
DEFINITION. Lane arithmetic of the vector unit (R164): operations of FP32 and BF16 lanes rounded once, the integer
conversions, and 2^x and log₂ x correctly rounded by exact integer arithmetic of high precision.
-/
namespace Sys2Proof.Machine

/-- Round an exact value to a lane format; a NaN result is the canonical NaN with sign 0 (R27). -/
def toFmt (f : Fmt) : FV → Nat × Flags5
  | .nan _ => (canonNaN f false, flNone)
  | .inf n => (infBits f n, flNone)
  | .fin n m e => roundIeee f n m e

/-- Sum of two lanes, rounded once. -/
def laneAdd (f : Fmt) (a b : Nat) : Nat × Flags5 :=
  let (v, g) := addFV (decodeFmt f a) (decodeFmt f b)
  let (r, h) := toFmt f v
  (r, g ||| h)

/-- Difference of two lanes, rounded once. -/
def laneSub (f : Fmt) (a b : Nat) : Nat × Flags5 :=
  let (v, g) := addFV (decodeFmt f a) (negFV (decodeFmt f b))
  let (r, h) := toFmt f v
  (r, g ||| h)

/-- Product of two lanes, rounded once. -/
def laneMul (f : Fmt) (a b : Nat) : Nat × Flags5 :=
  let (v, g) := mulFV (decodeFmt f a) (decodeFmt f b)
  let (r, h) := toFmt f v
  (r, g ||| h)

/-- a × b + c, rounded once (R48). -/
def laneFma (f : Fmt) (a b c : Nat) : Nat × Flags5 :=
  let (p, g) := mulFV (decodeFmt f a) (decodeFmt f b)
  let (v, h) := addFV p (decodeFmt f c)
  let (r, k) := toFmt f v
  (r, g ||| h ||| k)

/-- Sign of a value. -/
def fvSign : FV → Bool
  | .fin n _ _ => n
  | .inf n => n
  | .nan n => n

/-- Whether a value is zero. -/
def fvZero : FV → Bool
  | .fin _ m _ => m == 0
  | _ => false

/-- The larger of two lanes: the canonical NaN when either is NaN, +0 above −0 (R164). -/
def laneMax (f : Fmt) (a b : Nat) : Nat × Flags5 :=
  let x := decodeFmt f a
  let y := decodeFmt f b
  if fvIsNaN x || fvIsNaN y then (canonNaN f false, flNone)
  else if fvZero x && fvZero y then (if fvSign x then b else a, flNone)
  else (if fvLe y x then a else b, flNone)

/-- The smaller of two lanes, with the rules of the larger (R164). -/
def laneMin (f : Fmt) (a b : Nat) : Nat × Flags5 :=
  let x := decodeFmt f a
  let y := decodeFmt f b
  if fvIsNaN x || fvIsNaN y then (canonNaN f false, flNone)
  else if fvZero x && fvZero y then (if fvSign x then a else b, flNone)
  else (if fvLe x y then a else b, flNone)

/-- Weight of the sign bit of a format. -/
def signWeight (f : Fmt) : Nat := 2 ^ (f.ew + f.mw)

/-- Magnitude of a lane (R164, R27). -/
def laneAbs (f : Fmt) (a : Nat) : Nat × Flags5 :=
  if fvIsNaN (decodeFmt f a) then (canonNaN f false, flNone) else (a % signWeight f, flNone)

/-- Sign inverted (R164, R27). -/
def laneNeg (f : Fmt) (a : Nat) : Nat × Flags5 :=
  if fvIsNaN (decodeFmt f a) then (canonNaN f false, flNone)
  else (if a < signWeight f then a + signWeight f else a - signWeight f, flNone)

/-- Encoding of 1.0. -/
def oneBits (f : Fmt) : Nat := f.bias * 2 ^ f.mw

/-- Sign function (R164). -/
def laneSgn (f : Fmt) (a : Nat) : Nat × Flags5 :=
  let x := decodeFmt f a
  if fvIsNaN x then (canonNaN f false, flNone)
  else if fvZero x then (a, flNone)
  else (signBits f (fvSign x) + oneBits f, flNone)

/-! ## Powers and logarithms of two -/

/-- Fraction bits of the fixed-point numbers used here. -/
def fxBits : Nat := 256

/-- 2^f for a fraction f of `n` bits (most significant first), times the fixed-point factor `acc`: each set bit
multiplies by the next square root of two. -/
def exp2Frac : Nat → Nat → Nat → Nat → Nat
  | 0, _, _, acc => acc
  | n + 1, root, f, acc =>
    let acc' := if f.testBit n then (acc * root) >>> fxBits else acc
    exp2Frac n (isqrtN (root <<< fxBits)) f acc'

/-- The square root of two in fixed point. -/
def fxSqrt2 : Nat := isqrtN (2 <<< (2 * fxBits))

/-- 2^x correctly rounded to FP32 (R164). -/
def fExp2 (a : Nat) : Nat × Flags5 :=
  match fvOf32 a with
  | .nan _ => (0x7FC00000, flNone)
  | .inf s => if s then (0, flNone) else (infBits fmtFP32 false, flNone)
  | .fin s m e =>
    if m = 0 then (oneBits fmtFP32, flNone)
    else if magLe 1 10 m e then
      if s then (0, flUF ||| flNX) else (infBits fmtFP32 false, flOF ||| flNX)
    else if magLt m e 1 (-27) then (oneBits fmtFP32, flNX)
    else
      let x := toIntAt s m e (-64)
      let ip := x / (2 ^ 64 : Int)
      let fr := (x % (2 ^ 64 : Int)).toNat
      if fr = 0 then roundIeee fmtFP32 false 1 ip
      else
        let r := exp2Frac 64 fxSqrt2 fr (1 <<< fxBits)
        let (k, ke) := stickyMag (r >>> 128) (ip - 128) true
        roundIeee fmtFP32 false k ke

/-- `n` bits of the fraction of log₂ y for a fixed-point y in [1, 2), appended to `acc`, by repeated squaring. -/
def log2Frac : Nat → Nat → Nat → Nat
  | 0, _, acc => acc
  | n + 1, y, acc =>
    let q := (y * y) >>> fxBits
    if q.testBit (fxBits + 1) then log2Frac n (q / 2) (2 * acc + 1) else log2Frac n q (2 * acc)

/-- log₂ x correctly rounded to FP32; −∞ with DZ for ±0, the canonical NaN with IV below zero (R164). -/
def fLog2 (a : Nat) : Nat × Flags5 :=
  match fvOf32 a with
  | .nan _ => (0x7FC00000, flNone)
  | .inf s => if s then (0x7FC00000, flIV) else (infBits fmtFP32 false, flNone)
  | .fin s m e =>
    if m = 0 then (infBits fmtFP32 true, flDZ)
    else if s then (0x7FC00000, flIV)
    else
      let l := Nat.log2 m
      let ex : Int := (l : Int) + e
      if m = 2 ^ l then roundIeee fmtFP32 (decide (ex < 0)) ex.natAbs 0
      else
        let t : Int := ex * (2 ^ 110 : Int) + (log2Frac 110 (m <<< (fxBits - l)) 0 : Nat)
        if t < 0 then
          let (k, ke) := stickyMag (t.natAbs - 1) (-110) true
          roundIeee fmtFP32 true k ke
        else
          let (k, ke) := stickyMag t.natAbs (-110) true
          roundIeee fmtFP32 false k ke

/-! ## Integer conversions -/

/-- A value rounded to an integer, ties to even, and whether it was inexact. -/
def roundToInt (s : Bool) (m : Nat) (e : Int) : Int × Bool :=
  let (k, x) := roundAt .rne m e 0
  (if s then -(k : Int) else (k : Int), x)

/-- FP32 to INT32 (R164): ties to even, saturating; NaN gives 0. -/
def laneFtoi (a : Nat) : Nat × Flags5 :=
  match fvOf32 a with
  | .nan _ => (0, flIV)
  | .inf s => (if s then 0x80000000 else 0x7FFFFFFF, flIV)
  | .fin s m e =>
    let (i, x) := roundToInt s m e
    if i < -(2 ^ 31 : Int) then (0x80000000, flIV)
    else if (2 ^ 31 : Int) ≤ i then (0x7FFFFFFF, flIV)
    else (intToNat 32 i, if x then flNX else flNone)

/-- INT32 to FP32, ties to even (R164). -/
def laneItof (a : Nat) : Nat × Flags5 :=
  let i := natToSigned 32 a
  roundIeee fmtFP32 (decide (i < 0)) i.natAbs 0

/-- A value times 2^x, rounded once (R164); beyond ±1,000 the exponent no longer changes the result. -/
def laneScaleb (a b : Nat) : Nat × Flags5 :=
  let x := max (-1000) (min 1000 (natToSigned 32 b))
  toFmt fmtFP32 (scaleFV x (fvOf32 a))

/-- The pairwise tree of R48 over FP32 words; `n` levels halve the list each time. -/
def treeSum : Nat → List Nat → Nat × Flags5
  | _, [] => (0, flNone)
  | _, [x] => (x, flNone)
  | 0, x :: _ => (x, flNone)
  | n + 1, xs =>
    let (ys, f) := pairSums xs
    let (r, g) := treeSum n ys
    (r, f ||| g)
where
  /-- One level of the tree. -/
  pairSums : List Nat → List Nat × Flags5
    | a :: b :: r =>
      let (x, f) := fAdd a b
      let (ys, g) := pairSums r
      (x :: ys, f ||| g)
    | r => (r, flNone)

end Sys2Proof.Machine
end

