-- ==== Sys2Proof/Machine/Vec.lean ====
section
/-!
DEFINITION. The VEC slot operations (R156, R163 to R168, R178).
-/
namespace Sys2Proof.Machine

/-! ## Lanes and masks (R156, R165) -/

/-- Lane `i` of width `w` of a register value. -/
def lane (w v i : Nat) : Nat := natField v (w * i) w

/-- Lanes of width `w`, lane 0 lowest, as one number. -/
def packLanes (w : Nat) : List Nat → Nat
  | [] => 0
  | x :: r => x % 2 ^ w + (packLanes w r) <<< w

/-- The 4096-bit mask with the four bytes of each mask bit that is set; bit i governs FP32 or INT32 lane i and BF16
lanes 2i and 2i + 1 (R156). -/
def maskBits (m : BitVec 128) : BitVec 4096 :=
  BitVec.ofNat 4096 (packLanes 32 ((List.range 128).map (fun i => if m.getLsbD i then 0xFFFFFFFF else 0)))

/-- The bits of bytes 0 to k − 1. -/
def lowBytes (k : Nat) : BitVec 4096 := BitVec.ofNat 4096 (2 ^ (8 * k) - 1)

/-- Number of lanes of width `w`. -/
def laneCount (w : Nat) : Nat := 4096 / w

/-- Apply a lane operation to each active lane: the packed result and the flags of the active lanes. -/
def mapLanes (w : Nat) (m : BitVec 128) (vs : List Nat) (f : List Nat → Nat × Flags5) : Nat × Flags5 :=
  let rs := (List.range (laneCount w)).map (fun i =>
    if m.getLsbD (i * w / 32) then f (vs.map (fun v => lane w v i)) else (0, flNone))
  (packLanes w (rs.map (·.1)), rs.foldl (fun a r => a ||| r.2) flNone)

/-- Lane format of a float type code: 0b00 FP32, 0b01 BF16 (R156). -/
def laneFmt (ty : BitVec 2) : Fmt := if ty = 1 then fmtBF16 else fmtFP32

/-- Lane width of a type code. -/
def laneW (ty : BitVec 2) : Nat := if ty = 1 then 16 else 32

/-- FP32 or BF16 (column F of R164). -/
def tyF (ty : BitVec 2) : Bool := ty == 0 || ty == 1

/-! ## Issue -/

/-- A VEC operation issues: counted in VEC_OPS; one that R164 refuses raises ILLEGAL. -/
def vecIssue (s : State) (i : Issue) (ok : Bool) (f : Nat → Nat → State → State) : State :=
  issueSlot s i 2 (fun p ctx s =>
    let s := add64 s (pgVEC i.core.val) F.VEC_OPS_LO.COUNT F.VEC_OPS_HI.COUNT 0 1
    if ok then f p ctx s else illegalSlot s i.core.val p 2)

/-- Raise flags of a VEC operation of latency `lat` (R171). -/
def vecFlags (s : State) (n lat ctx : Nat) (f : Flags5) : State :=
  if f = flNone then s else addResult s n lat 2 (.flags ctx f)

/-- Result of latency `lat` into the bytes of V[vd] that `bits` names. -/
def vecResult (s : State) (n lat vd : Nat) (bits : BitVec 4096) (v : Nat) : State :=
  addResult s n lat 2 (.vreg vd bits (BitVec.ofNat 4096 v))

/-- A masked lane operation of V registers (R164, R165). -/
def vecLanes (s : State) (i : Issue) (lat : Nat) (ok : Bool) (w : Nat) (mk : Fin 8) (vd : Fin 32)
    (srcs : List Nat) (f : List Nat → Nat × Flags5) : State :=
  vecIssue s i ok (fun _ ctx s =>
    let n := i.core.val
    let c := core s n
    let m := mreg c mk.val
    let (v, fl) := mapLanes w m (srcs.map (fun r => (vreg c r).toNat)) f
    vecFlags (vecResult s n lat vd.val (maskBits m) v) n lat ctx fl)

/-- Lane operation of two operands. -/
def lane2 (f : Nat → Nat → Nat × Flags5) : List Nat → Nat × Flags5
  | [a, b] => f a b
  | _ => (0, flNone)

/-- Lane operation of one operand. -/
def lane1 (f : Nat → Nat × Flags5) : List Nat → Nat × Flags5
  | [a] => f a
  | _ => (0, flNone)

/-- Lane operation of three operands. -/
def lane3 (f : Nat → Nat → Nat → Nat × Flags5) : List Nat → Nat × Flags5
  | [a, b, c] => f a b c
  | _ => (0, flNone)

/-! ## Float lanes -/

/-- VADD (R164). -/
def execVadd (i : Issue) (ty : BitVec 2) (mk : Fin 8) (vd va vb : Fin 32) (s : State) :
    Host.Outcome State Fault Refusal :=
  .next (vecLanes s i 4 (tyF ty) (laneW ty) mk vd [va.val, vb.val] (lane2 (laneAdd (laneFmt ty))))

/-- VSUB (R164). -/
def execVsub (i : Issue) (ty : BitVec 2) (mk : Fin 8) (vd va vb : Fin 32) (s : State) :
    Host.Outcome State Fault Refusal :=
  .next (vecLanes s i 4 (tyF ty) (laneW ty) mk vd [va.val, vb.val] (lane2 (laneSub (laneFmt ty))))

/-- VMUL (R164). -/
def execVmul (i : Issue) (ty : BitVec 2) (mk : Fin 8) (vd va vb : Fin 32) (s : State) :
    Host.Outcome State Fault Refusal :=
  .next (vecLanes s i 4 (tyF ty) (laneW ty) mk vd [va.val, vb.val] (lane2 (laneMul (laneFmt ty))))

/-- VFMA (R164). -/
def execVfma (i : Issue) (ty : BitVec 2) (mk : Fin 8) (vd va vb vc : Fin 32) (s : State) :
    Host.Outcome State Fault Refusal :=
  .next (vecLanes s i 4 (tyF ty) (laneW ty) mk vd [va.val, vb.val, vc.val] (lane3 (laneFma (laneFmt ty))))

/-- Signed comparison of two INT32 lanes (R156). -/
def intLe (a b : Nat) : Bool := decide (natToSigned 32 a ≤ natToSigned 32 b)

/-- The larger lane of any of VMAX's types (R164). -/
def anyMax (ty : BitVec 2) (a b : Nat) : Nat × Flags5 :=
  if ty = 2 then (if intLe a b then b else a, flNone) else laneMax (laneFmt ty) a b

/-- The smaller lane of any of VMIN's types (R164). -/
def anyMin (ty : BitVec 2) (a b : Nat) : Nat × Flags5 :=
  if ty = 2 then (if intLe a b then a else b, flNone) else laneMin (laneFmt ty) a b

/-- VMAX (R164). -/
def execVmax (i : Issue) (ty : BitVec 2) (mk : Fin 8) (vd va vb : Fin 32) (s : State) :
    Host.Outcome State Fault Refusal :=
  .next (vecLanes s i 2 (ty != 3) (laneW ty) mk vd [va.val, vb.val] (lane2 (anyMax ty)))

/-- VMIN (R164). -/
def execVmin (i : Issue) (ty : BitVec 2) (mk : Fin 8) (vd va vb : Fin 32) (s : State) :
    Host.Outcome State Fault Refusal :=
  .next (vecLanes s i 2 (ty != 3) (laneW ty) mk vd [va.val, vb.val] (lane2 (anyMin ty)))

/-- VABS (R164). -/
def execVabs (i : Issue) (ty : BitVec 2) (mk : Fin 8) (vd va : Fin 32) (s : State) :
    Host.Outcome State Fault Refusal :=
  .next (vecLanes s i 2 (tyF ty) (laneW ty) mk vd [va.val] (lane1 (laneAbs (laneFmt ty))))

/-- VNEG (R164). -/
def execVneg (i : Issue) (ty : BitVec 2) (mk : Fin 8) (vd va : Fin 32) (s : State) :
    Host.Outcome State Fault Refusal :=
  .next (vecLanes s i 2 (tyF ty) (laneW ty) mk vd [va.val] (lane1 (laneNeg (laneFmt ty))))

/-- VSGN (R164). -/
def execVsgn (i : Issue) (ty : BitVec 2) (mk : Fin 8) (vd va : Fin 32) (s : State) :
    Host.Outcome State Fault Refusal :=
  .next (vecLanes s i 2 (tyF ty) (laneW ty) mk vd [va.val] (lane1 (laneSgn (laneFmt ty))))

/-- VDIV (R164), FP32. -/
def execVdiv (i : Issue) (ty : BitVec 2) (mk : Fin 8) (vd va vb : Fin 32) (s : State) :
    Host.Outcome State Fault Refusal :=
  .next (vecLanes s i 12 (ty == 0) 32 mk vd [va.val, vb.val] (lane2 fDiv))

/-- VSQRT (R164), FP32. -/
def execVsqrt (i : Issue) (ty : BitVec 2) (mk : Fin 8) (vd va : Fin 32) (s : State) :
    Host.Outcome State Fault Refusal :=
  .next (vecLanes s i 12 (ty == 0) 32 mk vd [va.val] (lane1 fSqrt))

/-- VEXP2 (R164), FP32. -/
def execVexp2 (i : Issue) (ty : BitVec 2) (mk : Fin 8) (vd va : Fin 32) (s : State) :
    Host.Outcome State Fault Refusal :=
  .next (vecLanes s i 8 (ty == 0) 32 mk vd [va.val] (lane1 fExp2))

/-- VLOG2 (R164), FP32. -/
def execVlog2 (i : Issue) (ty : BitVec 2) (mk : Fin 8) (vd va : Fin 32) (s : State) :
    Host.Outcome State Fault Refusal :=
  .next (vecLanes s i 8 (ty == 0) 32 mk vd [va.val] (lane1 fLog2))

/-- One lane of VCMP; the condition has been found not to be reserved. -/
def cmpLane (ty : BitVec 2) (cond : BitVec 3) (a b : Nat) : Bool × Flags5 :=
  if ty = 0 then (floatCond cond (fvOf32 a) (fvOf32 b)).getD (false, flNone)
  else ((intCond cond a b).getD false, flNone)

/-- VCMP (R164): FP32 or INT32, COND 7 reserved; mask bits of M[MK] govern which bits of M[MD] are written. -/
def execVcmp (i : Issue) (ty : BitVec 2) (mk md : Fin 8) (va vb : Fin 32) (cond : BitVec 3) (s : State) :
    Host.Outcome State Fault Refusal :=
  .next (vecIssue s i ((ty == 0 || ty == 2) && cond != 7) (fun _ ctx s =>
    let n := i.core.val
    let c := core s n
    let m := mreg c mk.val
    let a := (vreg c va.val).toNat
    let b := (vreg c vb.val).toNat
    let rs := (List.range 128).map (fun j =>
      if m.getLsbD j then cmpLane ty cond (lane 32 a j) (lane 32 b j) else (false, flNone))
    let v := packLanes 1 (rs.map (fun r => bit r.1))
    let fl := rs.foldl (fun f r => f ||| r.2) flNone
    vecFlags (addResult s n 2 2 (.mreg md.val m (BitVec.ofNat 128 v))) n 2 ctx fl))

/-- VSEL (R164, R165): every lane is written; M[MK] selects. -/
def execVsel (i : Issue) (ty : BitVec 2) (mk : Fin 8) (vd va vb : Fin 32) (s : State) :
    Host.Outcome State Fault Refusal :=
  .next (vecIssue s i (ty != 3) (fun _ _ s =>
    let n := i.core.val
    let c := core s n
    let b := maskBits (mreg c mk.val)
    addResult s n 2 2 (.vreg vd.val (BitVec.allOnes 4096) ((vreg c va.val &&& b) ||| (vreg c vb.val &&& ~~~b)))))

/-! ## Integer lanes -/

/-- An INT32 lane operation (R164). -/
def vecInt (s : State) (i : Issue) (ty : BitVec 2) (mk : Fin 8) (vd va vb : Fin 32)
    (f : BitVec 32 → BitVec 32 → BitVec 32) : State :=
  vecLanes s i 1 (ty == 2) 32 mk vd [va.val, vb.val]
    (lane2 (fun a b => ((f (BitVec.ofNat 32 a) (BitVec.ofNat 32 b)).toNat, flNone)))

/-- VIADD (R164). -/
def execViadd (i : Issue) (ty : BitVec 2) (mk : Fin 8) (vd va vb : Fin 32) (s : State) :
    Host.Outcome State Fault Refusal := .next (vecInt s i ty mk vd va vb (fun a b => a + b))

/-- VISUB (R164). -/
def execVisub (i : Issue) (ty : BitVec 2) (mk : Fin 8) (vd va vb : Fin 32) (s : State) :
    Host.Outcome State Fault Refusal := .next (vecInt s i ty mk vd va vb (fun a b => a - b))

/-- VIAND (R164). -/
def execViand (i : Issue) (ty : BitVec 2) (mk : Fin 8) (vd va vb : Fin 32) (s : State) :
    Host.Outcome State Fault Refusal := .next (vecInt s i ty mk vd va vb (fun a b => a &&& b))

/-- VIOR (R164). -/
def execVior (i : Issue) (ty : BitVec 2) (mk : Fin 8) (vd va vb : Fin 32) (s : State) :
    Host.Outcome State Fault Refusal := .next (vecInt s i ty mk vd va vb (fun a b => a ||| b))

/-- VIXOR (R164). -/
def execVixor (i : Issue) (ty : BitVec 2) (mk : Fin 8) (vd va vb : Fin 32) (s : State) :
    Host.Outcome State Fault Refusal := .next (vecInt s i ty mk vd va vb (fun a b => a ^^^ b))

/-- VISHL (R164): by VB[4:0]. -/
def execVishl (i : Issue) (ty : BitVec 2) (mk : Fin 8) (vd va vb : Fin 32) (s : State) :
    Host.Outcome State Fault Refusal := .next (vecInt s i ty mk vd va vb (fun a b => a <<< (b.toNat % 32)))

/-- VISHR, logical (R164): by VB[4:0]. -/
def execVishr (i : Issue) (ty : BitVec 2) (mk : Fin 8) (vd va vb : Fin 32) (s : State) :
    Host.Outcome State Fault Refusal := .next (vecInt s i ty mk vd va vb (fun a b => a >>> (b.toNat % 32)))

/-- VFTOI (R164). -/
def execVftoi (i : Issue) (ty : BitVec 2) (mk : Fin 8) (vd va : Fin 32) (s : State) :
    Host.Outcome State Fault Refusal :=
  .next (vecLanes s i 2 (ty == 0) 32 mk vd [va.val] (lane1 laneFtoi))

/-- VITOF (R164). -/
def execVitof (i : Issue) (ty : BitVec 2) (mk : Fin 8) (vd va : Fin 32) (s : State) :
    Host.Outcome State Fault Refusal :=
  .next (vecLanes s i 2 (ty == 2) 32 mk vd [va.val] (lane1 laneItof))

/-- VBCAST (R164): every lane takes the low bits of S[RA]. -/
def execVbcast (i : Issue) (ty : BitVec 2) (mk : Fin 8) (vd : Fin 32) (ra : Fin 32) (s : State) :
    Host.Outcome State Fault Refusal :=
  .next (vecIssue s i (ty != 3) (fun _ _ s =>
    let n := i.core.val
    let c := core s n
    let w := laneW ty
    let x := (sreg c ra.val).toNat % 2 ^ w
    vecResult s n 1 vd.val (maskBits (mreg c mk.val)) (packLanes w (List.replicate (laneCount w) x))))

/-! ## Reductions -/

/-- The lanes of a value that a mask includes. -/
def maskedLanes (m : BitVec 128) (v : Nat) : List Nat :=
  ((List.range 128).filter (fun j => m.getLsbD j)).map (lane 32 v)

/-- The maximum of FP32 words; +0.0 of none (R165). -/
def maxWords : List Nat → Nat
  | [] => 0
  | [a] => if fvIsNaN (fvOf32 a) then 0x7FC00000 else a
  | a :: r => (laneMax fmtFP32 a (maxWords r)).1

/-- VREDS's value and flags (R48, R164, R165). -/
def redsValue (fn : BitVec 2) (m : BitVec 128) (v : Nat) : Nat × Flags5 :=
  if fn = 0 then treeSum 7 ((List.range 128).map (fun j => if m.getLsbD j then lane 32 v j else 0))
  else if fn = 1 then (maxWords (maskedLanes m v), flNone)
  else (maxWords ((maskedLanes m v).map (fun x => (laneAbs fmtFP32 x).1)), flNone)

/-- VREDS (R164): into S[RD], bits [63:32] zero. FN 3 is reserved. -/
def execVreds (i : Issue) (ty : BitVec 2) (mk : Fin 8) (rd : Fin 32) (va : Fin 32) (fn : BitVec 2) (s : State) :
    Host.Outcome State Fault Refusal :=
  .next (vecIssue s i (ty == 0 && fn != 3) (fun _ ctx s =>
    let n := i.core.val
    let c := core s n
    let (r, fl) := redsValue fn (mreg c mk.val) (vreg c va.val).toNat
    vecFlags (addResult s n 6 2 (.sreg rd.val (BitVec.ofNat 64 r))) n 6 ctx fl))

/-- The largest finite magnitude among FP32 words as an FP32 word; +0.0 if none. -/
def maxFiniteWord (ws : List Nat) : Nat :=
  ws.foldl (fun a w => let x := w % 2 ^ 31; if x < 0x7F800000 then max a x else a) 0

/-- VBMAX (R164, R165). -/
def execVbmax (i : Issue) (ty : BitVec 2) (mk : Fin 8) (vd va : Fin 32) (s : State) :
    Host.Outcome State Fault Refusal :=
  .next (vecIssue s i (ty == 0) (fun _ _ s =>
    let n := i.core.val
    let c := core s n
    let m := mreg c mk.val
    let v := (vreg c va.val).toNat
    let block (b : Nat) : Nat :=
      maxFiniteWord (((List.range 32).filter (fun j => m.getLsbD (32 * b + j))).map (fun j => lane 32 v (32 * b + j)))
    vecResult s n 2 vd.val (maskBits m)
      (packLanes 32 ((List.range 4).flatMap (fun b => List.replicate 32 (block b))))))

/-- VSCALEB (R164). -/
def execVscaleb (i : Issue) (ty : BitVec 2) (mk : Fin 8) (vd va vb : Fin 32) (s : State) :
    Host.Outcome State Fault Refusal :=
  .next (vecLanes s i 2 (ty == 0) 32 mk vd [va.val, vb.val] (lane2 laneScaleb))

/-! ## Conversions (R166) and random words (R167) -/

/-- The job seed held by a core's generators. -/
def coreSeed (s : State) (n : Nat) : Nat := rd64 s (pgRNG n) F.RNG_SEED_LO.SEED F.RNG_SEED_HI.SEED 0

/-- The latched step number of the core's job (R177). -/
def coreStep (s : State) (n : Nat) : Nat := rd64 s pgJOB F.JOB_STEPNUM_L_LO.NUM F.JOB_STEPNUM_L_HI.NUM (core s n).bank

/-- The roundings of `k` elements from element index `e0`: RNE, or stochastic with the words of R45. -/
def roundings (s : State) (n : Nat) (rnd : Bool) (tid e0 k : Nat) : List Rnd :=
  if rnd then
    (List.range k).map (fun i => .sr (philoxU (coreSeed s n) (coreStep s n) tid ((e0 + i) % 2 ^ 64)))
  else List.replicate k .rne

/-- The running maximum that a conversion's source values give (R39): the largest magnitude other than NaN as an
FP32 word, and whether a NaN was met. -/
def rmaxOf (ws : List Nat) : Nat × Bool :=
  ws.foldl (fun a w => let x := w % 2 ^ 31; if 0x7F800000 < x then (a.1, true) else (max a.1 x, a.2)) (0, false)

/-- Scale-table entry `e`. -/
def scaleEnt (c : Core) (e : Nat) : ScaleEnt := tabGet {} c.scale e

/-- An encoded run of FP32 words: the element fields packed, the scale bytes or words packed, and the flags. -/
structure Encoded where
  data : Nat
  scales : Nat
  flags : Flags5
  deriving DecidableEq, Repr

/-- Encode blocks of 32 values each (R34). -/
def encodeBlocks (fb : FormatByte) : Nat → List FV → List Rnd → List EncBlock
  | 0, _, _ => []
  | k + 1, vs, rs =>
    encodeBlock fb.elem fb.scl fb.sat (vs.take 32) (rs.take 32) :: encodeBlocks fb k (vs.drop 32) (rs.drop 32)

/-- Encode FP32 words in a format byte with the exponent K of its tensor scale (R22, R29, R33 to R40). -/
def encodeWords (fb : FormatByte) (k : Int) (ws : List Nat) (rs : List Rnd) : Encoded :=
  let vs := ws.map fvOf32
  if fb.scl = 2 ∨ fb.scl = 3 then
    let bs := encodeBlocks fb (ws.length / 32) vs rs
    { data := packElems fb.elem (bs.flatMap (·.elems)),
      scales := packLanes (if fb.scl = 3 then 16 else 8) (bs.map (·.scale)),
      flags := bs.foldl (fun f b => f ||| b.flags) flNone }
  else
    let (es, fl) := encodeFlat fb.elem fb.sat (if fb.scl = 1 then k else 0) vs rs
    { data := packElems fb.elem es, scales := if fb.scl = 1 then (127 - k).toNat else 0, flags := fl }

/-- Bytes of 128 encoded elements (R166). -/
def groupBytes (fb : FormatByte) : Nat := elemBytes fb.elem 128

/-- Byte position and length of a group's scales in the scale register (R166). -/
def scalePlace (fb : FormatByte) (grp : Nat) : Nat × Nat :=
  match fb.scl.toNat with
  | 2 => (4 * grp, 4)
  | 3 => (8 * grp, 8)
  | 1 => (0, 1)
  | _ => (0, 0)

/-- The bits of `len` bytes from byte `pos`. -/
def byteBits (pos len : Nat) : BitVec 4096 := BitVec.ofNat 4096 ((2 ^ (8 * len) - 1) <<< (8 * pos))

/-- Queue the claim of a stochastic VEC operation on the generators (R168). -/
def claimWords (s : State) (n ctx p op : Nat) : State :=
  updCore s n (fun c => { c with phxVec := c.phxVec ++
    [{ issue := now s n, ctx := ctx, op := op, pc := bundlePc s n, part := p }] })

/-- VCVT (R166). -/
def execVcvt (i : Issue) (ty : BitVec 2) (vd va vc : Fin 32) (fmt : BitVec 8) (grp : Fin 8) (sct : BitVec 8)
    (sctEn : Bool) (re rt : Fin 32) (s : State) : Host.Outcome State Fault Refusal :=
  .next (vecIssue s i (ty == 0) (fun p ctx s =>
    let n := i.core.val
    let c := core s n
    let fb := formatByteOf fmt
    let gs := groupBytes fb
    if !formatOk fb || (fb.scl == 1 && !sctEn) then recVec s n p 2 0x20 (bundlePc s n)
    else if 512 / gs ≤ grp.val then illegalSlot s n p 2
    else
      let ws := (List.range 128).map (lane 32 (vreg c va.val).toNat)
      let e0 := (sreg c re.val).toNat
      let rs := roundings s n fb.rnd ((sreg c rt.val).toNat % 2 ^ 32) (e0 - e0 % 4) 128
      let k := (scaleEnt c sct.toNat).k
      let enc := encodeWords fb k ws rs
      let (sp, sl) := scalePlace fb grp.val
      let s1 := vecResult s n 6 vd.val (byteBits (gs * grp.val) gs) (enc.data <<< (8 * (gs * grp.val)))
      let s2 := if sl = 0 then s1 else vecResult s1 n 6 vc.val (byteBits sp sl) (enc.scales <<< (8 * sp))
      let s3 := vecFlags s2 n 6 ctx enc.flags
      let (mx, nn) := rmaxOf ws
      let s4 := if sctEn then addResult s3 n 7 2 (.rmax sct.toNat mx nn) else s3
      if fb.rnd then claimWords s4 n ctx p 0x20 else s4))

/-- Scale value of element `i` of a group: its byte, its word, or the tensor's byte. -/
def groupScale (fb : FormatByte) (scales i : Nat) : Nat :=
  match fb.scl.toNat with
  | 2 => natField scales (8 * (i / 32)) 8
  | 3 => natField scales (16 * (i / 32)) 16
  | _ => scales % 256

/-- A decoded element as an FP32 word (R28, R166): a NaN keeps its sign. -/
def decodedWord (v : FV) : Nat × Flags5 :=
  match v with
  | .nan sgn => (canonNaN fmtFP32 sgn, flNone)
  | v => toFP32 v

/-- VDEC (R166): SCT and SCTEN are ignored. -/
def execVdec (i : Issue) (vd va vb : Fin 32) (fmt : BitVec 8) (grp : Fin 8) (_sct : BitVec 8) (_sctEn : Bool)
    (s : State) : Host.Outcome State Fault Refusal :=
  .next (vecIssue s i true (fun p ctx s =>
    let n := i.core.val
    let c := core s n
    let fb := formatByteOf fmt
    let gs := groupBytes fb
    if !formatOk fb then recVec s n p 2 0x21 (bundlePc s n)
    else if 512 / gs ≤ grp.val then illegalSlot s n p 2
    else
      let data := natField (vreg c va.val).toNat (8 * (gs * grp.val)) (8 * gs)
      let (sp, sl) := scalePlace fb grp.val
      let scales := natField (vreg c vb.val).toNat (8 * sp) (8 * sl)
      let rs := (List.range 128).map (fun j =>
        decodedWord (decodeElem fb.elem fb.scl (groupScale fb scales j) (j % 32 / 8) (packedElem fb.elem data j)))
      let fl := rs.foldl (fun f r => f ||| r.2) flNone
      vecFlags (vecResult s n 4 vd.val (BitVec.allOnes 4096) (packLanes 32 (rs.map (·.1)))) n 4 ctx fl))

/-- VRNG (R167). -/
def execVrng (i : Issue) (vd : Fin 32) (re rt : Fin 32) (s : State) : Host.Outcome State Fault Refusal :=
  .next (vecIssue s i true (fun p ctx s =>
    let n := i.core.val
    let c := core s n
    let e := (sreg c re.val).toNat
    let e0 := e - e % 4
    let tid := (sreg c rt.val).toNat % 2 ^ 32
    let ws := (List.range 128).map (fun j => philoxWord (coreSeed s n) (coreStep s n) tid ((e0 + j) % 2 ^ 64))
    claimWords (vecResult s n 6 vd.val (BitVec.allOnes 4096) (packLanes 32 ws)) n ctx p 0x22))

/-! ## Loads and stores (R165) -/

/-- Byte length of LEN (R165). -/
def vlen (len : BitVec 3) : Nat := 32 * 2 ^ len.toNat

/-- Offset of a VLD or VST: S[RA] + IMM modulo 2⁶⁴ (R165). -/
def vecOff (c : Core) (ra : Nat) (imm : BitVec 24) : Nat := ((sreg c ra).toNat + imm.toNat) % 2 ^ 64

/-- VLD (R165). -/
def execVld (i : Issue) (vd : Fin 32) (h : Fin 64) (ra : Fin 32) (len : BitVec 3) (wid : Bool) (imm : BitVec 24)
    (s : State) : Host.Outcome State Fault Refusal :=
  .next (vecIssue s i (decide (len.toNat ≤ 4) && !(wid && len == 4)) (fun p ctx s =>
    let n := i.core.val
    let c := core s n
    let off := vecOff c ra.val imm
    let k := vlen len
    let hd := handleOf s n h.val
    let a := handleAddr hd off
    if !narrowOk a k then recSpad s n p ctx 3 4 (bankOf a) (rowOf a)
    else if boundsBad s n h.val hd off k then recSpad s n p ctx 4 4 (bankOf a) (rowOf a)
    else if !tokOf s n h.val then recSpad s n p ctx 5 4 (bankOf a) (rowOf a)
    else if poisonHit s n h.val off k then recStream s n ctx 4 0 1 0 h.val
    else narrowAccess s n ctx 2 a k hd.clsW (.vld vd.val wid (4 * now s n + 2))))

/-- VST (R165): with DLV it is one delivery, complete in cycle x + 10. -/
def execVst (i : Issue) (va : Fin 32) (h : Fin 64) (ra : Fin 32) (len : BitVec 3) (dlv : Bool) (imm : BitVec 24)
    (s : State) : Host.Outcome State Fault Refusal :=
  .next (vecIssue s i (decide (len.toNat ≤ 4)) (fun p ctx s =>
    let n := i.core.val
    let c := core s n
    let off := vecOff c ra.val imm
    let k := vlen len
    let hd := handleOf s n h.val
    let a := handleAddr hd off
    if !(narrowOk a k && writeOk hd.clsW a k) then recSpad s n p ctx 3 4 (bankOf a) (rowOf a)
    else if boundsBad s n h.val hd off k then recSpad s n p ctx 4 4 (bankOf a) (rowOf a)
    else
      let s1 := narrowAccess s n ctx 2 a k hd.clsW (.write (bvBytes (vreg c va.val) k))
      if dlv then completeAt s1 n (now s n + 10) h.val else s1))

/-- VMPACK (R164): bytes 0 to 15 of VD. -/
def execVmpack (i : Issue) (mk : Fin 8) (vd : Fin 32) (s : State) : Host.Outcome State Fault Refusal :=
  .next (vecIssue s i true (fun _ _ s =>
    vecResult s i.core.val 1 vd.val (lowBytes 16) (mreg (core s i.core.val) mk.val).toNat))

/-- VMUNPK (R164). -/
def execVmunpk (i : Issue) (md : Fin 8) (va : Fin 32) (s : State) : Host.Outcome State Fault Refusal :=
  .next (vecIssue s i true (fun _ _ s =>
    addResult s i.core.val 1 2 (.mreg md.val (BitVec.allOnes 128) ((vreg (core s i.core.val) va.val).extractLsb' 0 128))))

/-! ## The scale table (R178) -/

/-- K as an FP32 word; every K is exact. -/
def kWord (k : Int) : Nat := (roundIeee fmtFP32 (decide (k < 0)) k.natAbs 0).1

/-- The lanes of VSCRD. -/
def scaleLanes (x : ScaleEnt) : List Nat :=
  x.hist ++ [x.rmax, kWord x.k, if x.nan then oneBits fmtFP32 else 0]

/-- VSCRD (R178). -/
def execVscrd (i : Issue) (vd : Fin 32) (ra : Fin 32) (s : State) : Host.Outcome State Fault Refusal :=
  .next (vecIssue s i true (fun _ _ s =>
    let n := i.core.val
    let c := core s n
    vecResult s n 4 vd.val (BitVec.allOnes 4096)
      (packLanes 32 (scaleLanes (scaleEnt c ((sreg c ra.val).toNat % 256))))))

/-- The K that an FP32 word gives: rounded to an integer, ties to even, clamped to −127 to 127; none for a NaN. -/
def kOfWord (w : Nat) : Option Int :=
  match fvOf32 w with
  | .nan _ => none
  | .inf sgn => some (if sgn then -127 else 127)
  | .fin sgn m e => some (max (-127) (min 127 (roundToInt sgn m e).1))

/-- VSCWR (R178): K changes in cycle x + 1; a NaN leaves it and raises IV. -/
def execVscwr (i : Issue) (va : Fin 32) (ra : Fin 32) (s : State) : Host.Outcome State Fault Refusal :=
  .next (vecIssue s i true (fun _ ctx s =>
    let n := i.core.val
    let c := core s n
    match kOfWord (lane 32 (vreg c va.val).toNat 0) with
    | some k => addResult s n 1 2 (.scaleK ((sreg c ra.val).toNat % 256) k)
    | none => vecFlags s n 1 ctx flIV))

end Sys2Proof.Machine
end

