-- ==== Sys2Proof/Machine/ArrOps.lean ====
section
/-!
DEFINITION. The pass of the array: its descriptor (R54), the memory rows and scale arrays it names (R53, R55, R64),
its bank cycles (R522), and the arithmetic of one output row (R47, R62, R63).
-/
namespace Sys2Proof.Machine

/-! ## The pass descriptor (R54) -/

/-- Bits [lsb + w − 1 : lsb] of a descriptor. -/
def dBits (d : BitVec 512) (lsb w : Nat) : Nat := natField d.toNat lsb w

def dFeedFmt (d : BitVec 512) : FormatByte := formatByteOf (BitVec.ofNat 8 (dBits d 0 8))
def dTileFmt (d : BitVec 512) : FormatByte := formatByteOf (BitVec.ofNat 8 (dBits d 8 8))
def dDrainFmt (d : BitVec 512) : FormatByte := formatByteOf (BitVec.ofNat 8 (dBits d 16 8))
def dFeedH (d : BitVec 512) : Nat := dBits d 24 6
def dTileH (d : BitVec 512) : Nat := dBits d 30 6
def dDrainH (d : BitVec 512) : Nat := dBits d 36 6
def dInitH (d : BitVec 512) : Nat := dBits d 42 6
def dScaleH (d : BitVec 512) : Nat := dBits d 48 6
def dPart (d : BitVec 512) : Nat := dBits d 54 2
def dFeedOff (d : BitVec 512) : Nat := dBits d 64 17
def dTileOff (d : BitVec 512) : Nat := dBits d 81 17
def dDrainOff (d : BitVec 512) : Nat := dBits d 98 17
def dInitOff (d : BitVec 512) : Nat := dBits d 115 17
def dFeedSoff (d : BitVec 512) : Nat := dBits d 132 12
def dTileSoff (d : BitVec 512) : Nat := dBits d 144 12
def dDrainSoff (d : BitVec 512) : Nat := dBits d 156 12
def dM (d : BitVec 512) : Nat := dBits d 168 16
def dKlen (d : BitVec 512) : Nat := dBits d 184 10
def dNcol (d : BitVec 512) : Nat := dBits d 194 7
def dLoad (d : BitVec 512) : Bool := d.getLsbD 201
def dTT (d : BitVec 512) : Bool := d.getLsbD 202
def dFO (d : BitVec 512) : Bool := d.getLsbD 203
def dInit (d : BitVec 512) : Nat := dBits d 204 2
def dSct (d : BitVec 512) : Nat := dBits d 206 8
def dSctEn (d : BitVec 512) : Bool := d.getLsbD 214
def dTid (d : BitVec 512) : Nat := dBits d 256 32
def dEbase (d : BitVec 512) : Nat := dBits d 288 64
def dEstride (d : BitVec 512) : Nat := dBits d 352 32
def dFeedPitch (d : BitVec 512) : Nat := dBits d 384 12
def dTilePitch (d : BitVec 512) : Nat := dBits d 396 12
def dDrainPitch (d : BitVec 512) : Nat := dBits d 408 12
def dInitPitch (d : BitVec 512) : Nat := dBits d 420 12

/-- Extra cycles of column order before the first moving row (R56). -/
def dFo (d : BitVec 512) : Nat := if dFO d then 128 else 0

/-- Multiply-accumulates per cell and cycle for two element codes (R52, R47). -/
def cellRate (a b : BitVec 4) : Nat := if a = 1 ∨ b = 1 then 1 else if a = 6 ∧ b = 6 then 4 else 2

/-! ## Memory rows and scale arrays (R53, R55, R64) -/

/-- A strided range of scratchpad bytes: `count` rows of `width` bytes, `pitch` bytes apart. -/
structure Rows where
  base : Nat
  pitch : Nat
  count : Nat
  width : Nat
  deriving DecidableEq, Repr

/-- First byte of row `j`. -/
def Rows.at (r : Rows) (j : Nat) : Nat := r.base + j * r.pitch

/-- Bytes from the base to the end of the last row. -/
def Rows.span (r : Rows) : Nat := if r.count = 0 then 0 else (r.count - 1) * r.pitch + r.width

/-- Whether a byte belongs to a row. -/
def Rows.has (r : Rows) (a : Nat) : Bool :=
  if r.count = 0 ∨ a < r.base then false
  else
    let d := a - r.base
    let j := if r.pitch = 0 then 0 else min (d / r.pitch) (r.count - 1)
    decide (d - j * r.pitch < r.width)

/-- Bytes of the scales of `e` elements of one memory row under a block scaling (R30). -/
def scaleRowBytes (fb : FormatByte) (e : Nat) : Nat :=
  match fb.scl.toNat with
  | 2 => e / 32
  | 3 => 2 * (e / 32)
  | _ => 0

/-- The scale array of an operand with `rows` memory rows of `e` elements (R55). -/
def scaleRows (fb : FormatByte) (base rows e : Nat) : Rows :=
  match fb.scl.toNat with
  | 0 => ⟨base, 0, 0, 0⟩
  | 1 => ⟨base, 0, 1, 1⟩
  | _ => ⟨base, scaleRowBytes fb e, rows, scaleRowBytes fb e⟩

/-- Elements of a feed memory row (R55). -/
def feedElems (d : BitVec 512) : Nat := if dFO d then dM d else dKlen d + 1

/-- Number of feed memory rows. -/
def feedCount (d : BitVec 512) : Nat := if dFO d then dKlen d + 1 else dM d

/-- Elements of a tile memory row (R55). -/
def tileElems (d : BitVec 512) : Nat := if dTT d then dKlen d + 1 else dNcol d + 1

/-- Number of tile memory rows. -/
def tileCount (d : BitVec 512) : Nat := if dTT d then dNcol d + 1 else dKlen d + 1

/-- Feed rows under a handle. -/
def feedRows (d : BitVec 512) (h : Handle) : Rows :=
  ⟨64 * (h.base + dFeedOff d), 64 * dFeedPitch d, feedCount d, elemBytes (dFeedFmt d).elem (feedElems d)⟩

/-- Tile rows under a handle. -/
def tileRows (d : BitVec 512) (h : Handle) : Rows :=
  ⟨64 * (h.base + dTileOff d), 64 * dTilePitch d, tileCount d, elemBytes (dTileFmt d).elem (tileElems d)⟩

/-- Drain rows under a handle. -/
def drainRows (d : BitVec 512) (h : Handle) : Rows :=
  ⟨64 * (h.base + dDrainOff d), 64 * dDrainPitch d, dM d, elemBytes (dDrainFmt d).elem (dNcol d + 1)⟩

/-- INIT rows under a handle. -/
def initRows (d : BitVec 512) (h : Handle) : Rows :=
  ⟨64 * (h.base + dInitOff d), 64 * dInitPitch d, dM d, 4 * (dNcol d + 1)⟩

/-- Scale arrays under a handle. -/
def feedScales (d : BitVec 512) (h : Handle) : Rows :=
  scaleRows (dFeedFmt d) (64 * (h.base + dFeedSoff d)) (feedCount d) (feedElems d)
def tileScales (d : BitVec 512) (h : Handle) : Rows :=
  scaleRows (dTileFmt d) (64 * (h.base + dTileSoff d)) (tileCount d) (tileElems d)
def drainScales (d : BitVec 512) (h : Handle) : Rows :=
  scaleRows (dDrainFmt d) (64 * (h.base + dDrainSoff d)) (dM d) (dNcol d + 1)

/-- Whether a range lies within its handle (R59, R97). -/
def rowsIn (h : Handle) (r : Rows) : Bool :=
  r.count == 0 || decide (r.base + r.span ≤ 64 * (h.base + h.size))

/-! ## Checks at issue (R55, R56, R65) -/

/-- A block-scaled operand whose row is not a whole number of blocks (R55). -/
def blockBad (fb : FormatByte) (e : Nat) : Bool := (fb.scl == 2 || fb.scl == 3) && e % 32 != 0

/-- The FORMAT causes of a descriptor (R23, R31, R40, R47, R55). -/
def formatBad (d : BitVec 512) : Bool :=
  !formatOk (dFeedFmt d) || !formatOk (dDrainFmt d) || (dFeedFmt d).elem == 0
    || (dLoad d && (!formatOk (dTileFmt d) || (dTileFmt d).elem == 0))
    || blockBad (dFeedFmt d) (feedElems d) || (dLoad d && blockBad (dTileFmt d) (tileElems d))
    || blockBad (dDrainFmt d) (dNcol d + 1)
    || ((dDrainFmt d).scl == 1 && !dSctEn d)

/-- The descriptor that loaded the tile with a number. -/
def tileDesc (v : Part) (id : Nat) : Option (BitVec 512) := (v.tiles.find? (fun t => t.1 == id)).map (·.2.desc)

/-- The SHAPE causes of a descriptor in a mode (R56, R65): `tile` is the descriptor of the resident tile. -/
def shapeBad (mode : Nat) (d : BitVec 512) (tile : Option (BitVec 512)) : Bool :=
  let pd := partDim mode
  let te := if dLoad d then (dTileFmt d).elem else match tile with
    | some t => (dTileFmt t).elem
    | none => (dFeedFmt d).elem
  let depth := pd.rows * cellRate (dFeedFmt d).elem te
  decide (partCount mode ≤ dPart d) || decide (depth < dKlen d + 1) || decide (pd.cols < dNcol d + 1)
    || decide (dM d < 1) || decide (64512 < dM d) || decide (2 ≤ dInit d)
    || (dFO d && !((dFeedFmt d).elem == 1 && ((dFeedFmt d).scl == 0 || (dFeedFmt d).scl == 1)))
    || (!dLoad d && (match tile with
        | some t => decide (dKlen t < dKlen d) || decide (dNcol t < dNcol d)
        | none => false))

/-! ## Bank cycles (R522) -/

/-- Pieces of one access: consecutive rows from `j` to `k`. -/
def rowPieces (r : Rows) (j k : Nat) : List (Nat × Nat) :=
  ((List.range (k + 1 - j)).map (fun i => (r.at (j + i), r.width))).filter (fun p => p.2 != 0)

/-- The AR accesses of a pass in bank cycle `k`: what is read and under which kind (0 tile, 1 INIT, 2 scale, 3 feed;
R84). `which`: 0 tile rows, 1 their block scales, 2 the tile's tensor scale, 3 a feed row, 4 its block scales, 5 a
block of a feed memory row in column order, 6 the feed's tensor scale, 7 an INIT row. -/
def passReads (ctx part : Nat) (p : Pass) (k : Nat) : List Access :=
  let d := p.desc
  let mk (kind which idx : Nat) (pieces : List (Nat × Nat)) : List Access :=
    if pieces.isEmpty then []
    else [{ issue := p.a, bank := k, port := .ar, part := part, kind := kind, ord := p.id, ctx := ctx,
            pieces := pieces, clsW := false, act := .cap part which p.id idx }]
  let tile :=
    if p.loading ∧ dLoad d ∧ p.t ≤ k then
      let j := k - p.t
      let rate := cellRate (dFeedFmt d).elem (dTileFmt d).elem
      let lo := if dTT d then j else rate * j
      let hi := if dTT d then j else min (rate * j + rate - 1) (dKlen d)
      let tr := tileRows d p.tileH
      let ts := tileScales d p.scaleH
      (if lo < tr.count then mk 0 0 j (rowPieces tr lo hi) ++
          (if (dTileFmt d).scl = 2 ∨ (dTileFmt d).scl = 3 then mk 2 1 j (rowPieces ts lo hi) else []) else [])
      ++ (if j = 0 ∧ (dTileFmt d).scl = 1 then mk 2 2 0 (rowPieces ts 0 0) else [])
    else []
  let feed :=
    if p.latched ∧ p.s ≤ k then
      let m := k - p.s
      let fr := feedRows d p.feedH
      let fs := feedScales d p.scaleH
      (if dFO d then
        let b := m / 128
        let r := m % 128
        if r ≤ dKlen d ∧ 128 * b < dM d then
          mk 3 5 (r + 1024 * b) [(fr.at r + 256 * b, 2 * min 128 (dM d - 128 * b))]
        else []
      else if m < dM d then
        mk 3 3 m (rowPieces fr m m) ++
          (if (dFeedFmt d).scl = 2 ∨ (dFeedFmt d).scl = 3 then mk 2 4 m (rowPieces fs m m) else [])
      else [])
      ++ (if m = 0 ∧ (dFeedFmt d).scl = 1 then mk 2 6 0 (rowPieces fs 0 0) else [])
      ++ (if dInit d = 1 ∧ dFo d ≤ m ∧ m - dFo d < dM d then
            mk 1 7 (m - dFo d) (rowPieces (initRows d p.initH) (m - dFo d) (m - dFo d)) else [])
    else []
  tile ++ feed

/-- Store what one AR access of a pass has read. -/
def storeCapture (d : BitVec 512) (rate which idx : Nat) (t : Tile) (p : Pass) (vals : List Nat) : Tile × Pass :=
  let lo := if dTT d then idx else rate * idx
  let putAll (m : SMap Nat) (k : Nat) : SMap Nat :=
    (vals.zip (List.range vals.length)).foldl (fun m x => tabPut 0 m (k + x.2) x.1) m
  match which with
  | 0 => ({ t with rows := putAll t.rows lo }, p)
  | 1 => ({ t with scales := putAll t.scales lo }, p)
  | 2 => ({ t with scales := putAll t.scales 0 }, p)
  | 3 => (t, { p with feed := putAll p.feed idx })
  | 4 => (t, { p with fscale := putAll p.fscale idx })
  | 5 => (t, { p with feed := putAll p.feed idx })
  | 6 => (t, { p with fscale := putAll p.fscale 0 })
  | _ => (t, { p with init := putAll p.init idx })

/-! ## One output row (R47, R53, R62, R63) -/

/-- Scale of element `e` of memory row `j` from the captured scales. -/
def capScale (fb : FormatByte) (m : SMap Nat) (j e : Nat) : Nat :=
  match fb.scl.toNat with
  | 1 => tabGet 0 m 0
  | 2 => natField (tabGet 0 m j) (8 * (e / 32)) 8
  | 3 => natField (tabGet 0 m j) (16 * (e / 32)) 16
  | _ => 0

/-- A[m][k] of a pass (R53). -/
def feedElem (p : Pass) (m k : Nat) : FV :=
  let fb := dFeedFmt p.desc
  if dFO p.desc then
    decodeElem fb.elem fb.scl (capScale fb p.fscale k m) (m % 32 / 8)
      (packedElem fb.elem (tabGet 0 p.feed (k + 1024 * (m / 128))) (m % 128))
  else
    decodeElem fb.elem fb.scl (capScale fb p.fscale m k) (k % 32 / 8) (packedElem fb.elem (tabGet 0 p.feed m) k)

/-- T[k][c] of a tile (R53, R60). -/
def tileElem (t : Tile) (k c : Nat) : FV :=
  let fb := dTileFmt t.desc
  let j := if dTT t.desc then c else k
  let e := if dTT t.desc then k else c
  decodeElem fb.elem fb.scl (capScale fb t.scales j e) (e % 32 / 8) (packedElem fb.elem (tabGet 0 t.rows j) e)

/-- The FP32 results of row `m`, column 0 first, with their flags (R47, R62). -/
def rowResults (p : Pass) (t : Tile) (m : Nat) : List Nat × Flags5 :=
  let ks := List.range (dKlen p.desc + 1)
  let feed := ks.map (feedElem p m)
  let rs := (List.range (dNcol p.desc + 1)).map (fun c =>
    let i := if dInit p.desc = 1 then natField (tabGet 0 p.init m) (32 * c) 32 else 0
    dotAcc ((dKlen p.desc + 8) / 8) i feed (ks.map (fun k => tileElem t k c)))
  (rs.map (·.1), rs.foldl (fun f r => f ||| r.2) flNone)

/-- Whether a value gates a cell (R71): it is zero and the other operand is neither infinite nor NaN. -/
def gates (a b : FV) : Bool :=
  match a, b with
  | .fin _ x _, .fin _ y _ => x == 0 || y == 0
  | _, _ => false

/-- Gated cell-cycles of one moving row: cells all of whose products are gated (R71, log entry 7). -/
def gatedCells (p : Pass) (t : Tile) (m : Nat) : Nat :=
  let rate := cellRate (dFeedFmt p.desc).elem (dTileFmt t.desc).elem
  let cells := (dKlen p.desc + rate) / rate
  ((List.range cells).map (fun r => ((List.range (dNcol p.desc + 1)).filter (fun c =>
    ((List.range rate).filter (fun i => decide (rate * r + i ≤ dKlen p.desc))).all
      (fun i => gates (feedElem p m (rate * r + i)) (tileElem t (rate * r + i) c)))).length)).foldl (· + ·) 0

/-- A converted drain row: its element bytes, its scale bytes, its flags (R63). -/
structure DrainOut where
  bytes : List Byte
  scales : List Byte
  flags : Flags5
  deriving DecidableEq, Repr

/-- Convert the FP32 results of row `m` to DRAIN_FMT (R63). -/
def drainConvert (s : State) (n : Nat) (d : BitVec 512) (m : Nat) (ws : List Nat) : DrainOut :=
  let fb := dDrainFmt d
  let w := elemBytes fb.elem (dNcol d + 1)
  if fb.elem = 0 then { bytes := natToBytes w (packLanes 32 ws), scales := [], flags := flNone }
  else
    let rs := roundings s n fb.rnd (dTid d) ((dEbase d + m * dEstride d) % 2 ^ 64) ws.length
    let enc := encodeWords fb (scaleEnt (core s n) (dSct d)).k ws rs
    let sw := (drainScales d {}).width
    { bytes := natToBytes w enc.data, scales := natToBytes sw enc.scales, flags := enc.flags }

end Sys2Proof.Machine
end

