-- ==== Sys2Proof/Machine/Spad.lean ====
section
/-!
DEFINITION. The scratchpad: rows, classes and correction (R80, R87 to R91), the service of scheduled accesses in
their bank cycles (R82 to R86, R522), the sharing of Philox words (R168) and the end of a CCLK cycle of a core.
-/
namespace Sys2Proof.Machine

/-! ## Rows, classes and errors (R80, R87 to R90) -/

/-- Row index A[22:7] of a byte. -/
def rowIdx (a : Nat) : Nat := a / 128

/-- The rows that a piece touches. -/
def pieceRows (p : Nat × Nat) : List Nat :=
  if p.2 = 0 then [] else (List.range ((p.1 + p.2 - 1) / 128 + 1 - p.1 / 128)).map (fun i => p.1 / 128 + i)

/-- The banks that an access touches. -/
def accessBanks (ps : List (Nat × Nat)) : List Nat := ((ps.flatMap pieceRows).map (· % 32)).eraseDups

/-- Errors marked in a row. -/
def rowMark (c : Core) (r : Nat) : RowMark := tabGet {} c.marks r

/-- Quarters of row `r` that a piece touches. -/
def pieceQuarters (p : Nat × Nat) (r : Nat) : List Nat :=
  (List.range 4).filter (fun q => decide (p.1 < 128 * r + 32 * q + 32) && decide (128 * r + 32 * q < p.1 + p.2))

/-- An error found in a row: quarter, class, whether in the tag, whether uncorrectable. -/
structure RowErr where
  row : Nat
  quarter : Nat
  clsW : Bool
  tag : Bool
  ue : Bool
  deriving DecidableEq, Repr

/-- Errors that a read of a piece meets in row `r` (R87, R88): the row is decoded under the class of its tag. -/
def rowErrs (c : Core) (p : Nat × Nat) (r : Nat) : List RowErr :=
  let k := rowMark c r
  let w := tabGet false c.rowW r
  let qs := if w then [0] else pieceQuarters p r
  (if k.tag then [⟨r, 0, w, true, false⟩] else [])
    ++ (qs.filter (fun q => k.ue.getLsbD q)).map (fun q => ⟨r, q, w, false, true⟩)
    ++ (qs.filter (fun q => k.ce.getLsbD q && !k.ue.getLsbD q)).map (fun q => ⟨r, q, w, false, false⟩)

/-- Errors that a read of pieces meets. -/
def readErrs (c : Core) (ps : List (Nat × Nat)) : List RowErr :=
  ps.flatMap (fun p => (pieceRows p).flatMap (rowErrs c p))

/-- Fill SPAD_CE_LOC (R90). -/
def ceLoc (s : State) (n : Nat) (e : RowErr) : State :=
  let pg := pgSPAD n
  wr (wr (wr (wr (wr (wr s pg F.SPAD_CE_LOC.BANK (e.row % 32)) pg F.SPAD_CE_LOC.ROW (e.row / 32))
    pg F.SPAD_CE_LOC.QUARTER e.quarter) pg F.SPAD_CE_LOC.CLASS (bit e.clsW)) pg F.SPAD_CE_LOC.TAG (bit e.tag))
    pg F.SPAD_CE_LOC.VALID 1

/-- Fill SPAD_UE_LOC. -/
def ueLoc (s : State) (n : Nat) (e : RowErr) : State :=
  let pg := pgSPAD n
  wr (wr (wr (wr (wr (wr s pg F.SPAD_UE_LOC.BANK (e.row % 32)) pg F.SPAD_UE_LOC.ROW (e.row / 32))
    pg F.SPAD_UE_LOC.QUARTER e.quarter) pg F.SPAD_UE_LOC.CLASS (bit e.clsW)) pg F.SPAD_UE_LOC.TAG (bit e.tag))
    pg F.SPAD_UE_LOC.VALID 1

/-- Record the errors that a read met: each corrected one is counted and located (R90), an uncorrectable one is
located. -/
def noteErrs (s : State) (n : Nat) (es : List RowErr) : State :=
  es.foldl (fun s e =>
    if e.ue then ueLoc s n e
    else setErr (ceLoc (addSat s (pgSPAD n) F.SPAD_CE_CNT.COUNT 1) n e) (pgSPAD n) E.SPAD.CE) s

/-- Clear the error marks of quarter `q` of row `r`, or of the whole row. -/
def clearMark (c : Core) (r : Nat) (q : Option Nat) : Core :=
  let k := rowMark c r
  let k' : RowMark := match q with
    | none => {}
    | some q => { ce := k.ce &&& ~~~(BitVec.ofNat 4 (2 ^ q)), ue := k.ue &&& ~~~(BitVec.ofNat 4 (2 ^ q)), tag := false }
  { c with marks := tabPut {} c.marks r k' }

/-- A class A write into one row: into a row tagged W the other quarters become zero (R89). -/
def writeRowA (c : Core) (r : Nat) (a : Nat) (bs : List Byte) : Core :=
  let c1 := if tabGet false c.rowW r then
      clearMark { c with rowW := tabPut false c.rowW r false, spad := memWrite c.spad (128 * r) (zeros 128) } r none
    else (pieceQuarters (a, bs.length) r).foldl (fun c q => clearMark c r (some q)) c
  { c1 with spad := memWrite c1.spad a bs }

/-- A class W write of whole rows (R89). -/
def writeRowW (c : Core) (r : Nat) (a : Nat) (bs : List Byte) : Core :=
  clearMark { c with rowW := tabPut false c.rowW r true, spad := memWrite c.spad a bs } r none

/-- Write bytes at `a` row by row under a class (R87, R89); `fuel` bounds the rows. -/
def spadWriteRows : Nat → Core → Bool → Nat → List Byte → Core
  | 0, c, _, _, _ => c
  | fuel + 1, c, w, a, bs =>
    if bs.isEmpty then c
    else
      let k := 128 - a % 128
      let part := bs.take k
      let c1 := if w then writeRowW c (rowIdx a) a part else writeRowA c (rowIdx a) a part
      spadWriteRows fuel c1 w (a + k) (bs.drop k)

/-- Write bytes into the scratchpad under a class. -/
def spadWrite (c : Core) (w : Bool) (a : Nat) (bs : List Byte) : Core := spadWriteRows (bs.length / 128 + 2) c w a bs

/-! ## Undefined data (R64, R91, R102) -/

/-- Ranges of a core's scratchpad that passes read or write, with the pass and whether the range is that pass's
INIT rows (R64). Handles not yet taken are read as they stand. -/
def passRanges (s : State) (n : Nat) (p : Pass) : List (Nat × Bool × Rows) :=
  let d := p.desc
  let hh (taken : Bool) (h : Nat) (t : Handle) : Handle := if taken then t else handleOf s n h
  let feed := hh p.latched (dFeedH d) p.feedH
  let sc := hh (p.latched || p.loading) (dScaleH d) p.scaleH
  [(p.id, false, feedRows d feed), (p.id, false, feedScales d sc),
   (p.id, false, drainRows d (hh p.latched (dDrainH d) p.drainH)), (p.id, false, drainScales d sc)]
    ++ (if dLoad d then [(p.id, false, tileRows d (hh p.loading (dTileH d) p.tileH)), (p.id, false, tileScales d sc)] else [])
    ++ (if dInit d = 1 then [(p.id, true, initRows d (hh p.latched (dInitH d) p.initH))] else [])

/-- Ranges of every pass in progress or queued on a core. -/
def allRanges (s : State) (n : Nat) : List (Nat × Bool × Rows) :=
  (corePartList s n).flatMap (fun k => (getPart (core s n) k).q.flatMap (passRanges s n))

/-- Whether byte `a` of row `m` also lies in the row before it or the row after it. -/
def Rows.shared (r : Rows) (m a : Nat) : Bool :=
  (decide (m + 1 < r.count) && decide (r.at (m + 1) ≤ a)) || (decide (1 ≤ m) && decide (a < r.at (m - 1) + r.width))

/-- Whether byte `a`, written by row `m` of pass `p`'s drain, is also a byte of another range (R64): its own INIT row
may coincide exactly. -/
def overlapped (rs : List (Nat × Bool × Rows)) (p : Pass) (m : Nat) (own ownS : Rows) (a : Nat) : Bool :=
  rs.any (fun r =>
    if r.1 = p.id then
      if r.2.1 then !(r.2.2 == own) && r.2.2.has a
      else if r.2.2 == own then own.has a && own.shared m a && decide (own.at m ≤ a) && decide (a < own.at m + own.width)
      else r.2.2.has a && !(r.2.2 == ownS)
    else r.2.2.has a)

/-- Rows of a core into which a delivery is in progress (R102): destinations of its own outstanding requests. -/
def inFlight (c : Core) : List (Nat × Nat) :=
  (c.reqs.filter (fun r => r.kind != .store && r.kind != .put)).map (fun r => (handleAddr r.hd r.off, r.lbytes))

/-- Whether a read touches a row into which a delivery is in progress. -/
def readsInFlight (s : State) (n : Nat) (ps : List (Nat × Nat)) : Bool :=
  let fl := inFlight (core s n)
  !fl.isEmpty && (ps.flatMap pieceRows).any (fun r => (fl.flatMap pieceRows).contains r)

/-- The data of a scheduled read: free bytes where a delivery is in progress (R102) or a row is uncorrectable, and
the state after drawing them. -/
def readPieces (s : State) (n : Nat) (ps : List (Nat × Nat)) (es : List RowErr) : List Byte × State :=
  let k := (ps.map (·.2)).foldl (· + ·) 0
  if readsInFlight s n ps || es.any (·.ue) then freeBytes s k
  else (ps.flatMap (fun p => memRead (core s n).spad p.1 p.2), s)

/-! ## Service of one bank cycle (R82 to R86) -/

/-- SPAD_FAULT.PORT code of a port (R113). -/
def portCode : Port → Nat
  | .ar => 0 | .aw => 1 | .sr => 2 | .sw => 3 | .nv => 4

/-- Rank of a port among wide accesses (R84). -/
def portRank : Port → Nat
  | .aw => 0 | .ar => 1 | .sw => 2 | .sr => 3 | .nv => 4

/-- Whether access `a` is served before access `b` in a bank cycle (R84). -/
def accBefore (a b : Access) : Bool :=
  let k (x : Access) : List Nat := [portRank x.port, x.part, x.kind, x.issue, x.ord]
  decide (k a < k b)

/-- Insert an access in the order of R84. -/
def accInsert (x : Access) : List Access → List Access
  | [] => [x]
  | y :: r => if accBefore x y then x :: y :: r else y :: accInsert x r

/-- Bytes of an access. -/
def accessBytes (a : Access) : Nat := (a.pieces.map (·.2)).foldl (· + ·) 0

/-- Split wide accesses, in order, into those served and those not: a bank already taken, or a port over 2 KiB
(R84). -/
def wideServe : List Access → List Nat → List (Nat × Nat) → List Access × List Access
  | [], _, _ => ([], [])
  | a :: r, taken, used =>
    let bs := accessBanks a.pieces
    let u := tabGet 0 used (portRank a.port)
    if bs.any (taken.contains ·) || decide (2048 < u + accessBytes a) then
      let (x, y) := wideServe r taken used
      (x, a :: y)
    else
      let (x, y) := wideServe r (bs ++ taken) (tabPut 0 used (portRank a.port) (u + accessBytes a))
      (a :: x, y)

/-- Split narrow accesses, in issue order, into those served in this bank cycle and those that wait, under the banks
claimed (R82). -/
def narrowServe : List Access → List Nat → List Access × List Access
  | [], _ => ([], [])
  | a :: r, taken =>
    let bs := accessBanks a.pieces
    if bs.any (taken.contains ·) then
      let (x, y) := narrowServe r taken
      (x, a :: y)
    else
      let (x, y) := narrowServe r (bs ++ taken)
      (a :: x, y)

/-- Place a drain row's bytes (`kind` of the access is the row, `ord` the pass), with free bytes where R64 leaves
them undefined, and extend the partition's digest (R199). -/
def drainWrite (s : State) (n : Nat) (a : Access) (data : List Byte) : State :=
  let c := core s n
  let k := a.kind
  let v := getPart c a.part
  match v.q.find? (fun p => p.id == a.ord) with
  | none => s
  | some p =>
    let own := drainRows p.desc p.drainH
    let rs := allRanges s n
    let addrs := a.pieces.flatMap (fun q => (List.range q.2).map (q.1 + ·))
    let marks := addrs.map (overlapped rs p k own (drainScales p.desc p.scaleH))
    let bad := (marks.filter id).length
    let (fr, s1) := if bad = 0 then ([], s) else freeBytes s data.length
    let bytes := if bad = 0 then data
      else (List.range data.length).map (fun i => if marks.getD i false then fr.getD i 0 else data.getD i 0)
    let dg := crcRun (tabGet 0xFFFFFFFF c.digest a.part) bytes
    let s2 := updCore s1 n (fun c => { c with digest := tabPut 0xFFFFFFFF c.digest a.part dg,
                                              digestRows := tabPut 0 c.digestRows a.part (tabGet 0 c.digestRows a.part + 1) })
    let wr1 (x : Core) (w : Bool) (q : Nat × Nat) (bs : List Byte) : Core := spadWrite x w q.1 bs
    match a.pieces with
    | [] => s2
    | e :: sc =>
      let c1 := wr1 (core s2 n) a.clsW e (bytes.take e.2)
      setCore s2 n (sc.foldl (fun c q => wr1 c p.scaleH.clsW q (bytes.drop e.2)) c1)

/-- Split a list of bytes along pieces, each as a little-endian number. -/
def splitPieces : List (Nat × Nat) → List Byte → List Nat
  | [], _ => []
  | p :: r, bs => bytesToNat (bs.take p.2) :: splitPieces r (bs.drop p.2)

/-- Hand captured operand rows to their pass and tile (R60, R522). -/
def capture (s : State) (n part which pass idx : Nat) (vals : List Nat) : State :=
  let v := getPart (core s n) part
  match v.q.find? (fun p => p.id == pass) with
  | none => s
  | some p =>
    let t := ((v.tiles.find? (fun t => t.1 == p.tileId)).map (·.2)).getD { desc := p.desc }
    let rate := cellRate (dFeedFmt p.desc).elem (dTileFmt p.desc).elem
    let (t', p') := storeCapture p.desc rate which idx t p vals
    setPart s n part { v with q := v.q.map (fun x => if x.id = pass then p' else x),
                              tiles := v.tiles.map (fun x => if x.1 = p.tileId then (x.1, t') else x) }

/-- Bytes of a BF16 run widened into FP32 lanes (R165, R27). -/
def widen : List Byte → List Byte
  | a :: b :: r =>
    let x := a.toNat + 256 * b.toNat
    natToBytes 4 (if fvIsNaN (decodeFmt fmtBF16 x) then canonNaN fmtFP32 (x.testBit 15) else x * 65536) ++ widen r
  | _ => []

/-- Carry out one served access: its read or write, and what follows from its data. -/
def doAccess (s : State) (n : Nat) (a : Access) : State :=
  match a.act with
  | .write data =>
    if a.port = .aw then drainWrite s n a data
    else updCore s n (fun c => spadWrite c a.clsW ((a.pieces.headD (0, 0)).1) data)
  | act =>
    let es := readErrs (core s n) a.pieces
    let (data, s0) := readPieces s n a.pieces es
    let s1 := noteErrs s0 n es
    let del := if a.port = .nv then a.issue + 10 else a.bank + 4
    let s2 := match es.find? (·.ue) with
      | some e => addLand s1 n del 1 (4 * a.issue) (.spadUe a.ctx (e.row % 32) (e.row / 32) (portCode a.port))
      | none => s1
    match act with
    | .lds rd off =>
      addLand s2 n (a.issue + 10) 1 (4 * a.issue) (.sreg rd (BitVec.ofNat 64 (bytesToNat ((data.drop off).take 8))))
    | .vld vd wid ord =>
      let bs := if wid then widen data else data
      addLand s2 n (a.issue + 10) 1 ord (.vreg vd (lowBytes bs.length) (BitVec.ofNat 4096 (bytesToNat bs)))
    | .chunk id =>
      updCore s2 n (fun c => { c with outq := c.outq.map (fun k => if k.id = id then { k with data := some data } else k) })
    | .move dst clsW =>
      addAccess s2 n { issue := a.issue, bank := a.bank + 6, port := .sw, part := 0, kind := 0, ord := a.ord, ctx := a.ctx,
                       pieces := [(dst, data.length)], clsW := clsW, act := .write data }
    | .put id =>
      updCore s2 n (fun c => { c with reqs := c.reqs.map (fun r => if r.id = id then { r with data := data } else r) })
    | .cap part which pass idx => capture s2 n part which pass idx (splitPieces a.pieces data)
    | .write _ => s2

/-- An access that is not served raises CONFLICT against its context (R84, R85, R111). -/
def conflict (s : State) (n : Nat) (a : Access) : State :=
  let p := (a.pieces.headD (0, 0)).1
  recSpad s n (if a.port = .ar ∨ a.port = .aw then a.part else ctxPart s n a.ctx) a.ctx 1 (portCode a.port)
    (bankOf p) (rowOf p)

/-- Count a narrow access by its deferral (R82, SPAD_DEFER). -/
def countDefer (s : State) (n k : Nat) (a : Access) : State :=
  let d := k - (a.issue + 2)
  if 1 ≤ d ∧ d ≤ 4 then addWrap1 s (pgSPAD n) F.SPAD_DEFER.COUNT (d - 1) 1 else s

/-- Every AR access of the passes of a core in bank cycle `k` (R522). -/
def allPassReads (s : State) (n k : Nat) : List Access :=
  (corePartList s n).flatMap (fun p => (getPart (core s n) p).q.flatMap (fun x => passReads (partCtx s n p) p x k))

/-- The bank cycle `k` of a core: wide accesses by rank, then narrow ones in issue order; a narrow access still
waiting in x + 6 is not performed (R82 to R85). -/
def spadCycle (s : State) (n k : Nat) : State :=
  let c := core s n
  let wide := (c.acc.filter (fun a => a.port != .nv && a.bank == k) ++ allPassReads s n k).foldl (fun l a => accInsert a l) []
  let narrow := (c.acc.filter (fun a => a.port == .nv && decide (a.bank ≤ k))).foldl (fun l a => accInsert a l) []
  if wide.isEmpty && narrow.isEmpty then s
  else
    let (ok, bad) := wideServe wide [] []
    let claims := (wide.flatMap (fun a => accessBanks a.pieces)).eraseDups
    let (nok, wait) := narrowServe narrow claims
    let late := wait.filter (fun a => a.issue + 6 ≤ k)
    let s1 := updCore s n (fun c => { c with acc := c.acc.filter (fun a =>
      !((a.port != .nv && a.bank == k) || (a.port == .nv && decide (a.bank ≤ k) && (nok.contains a || late.contains a)))) })
    let s2 := ok.foldl (fun s a => doAccess s n a) s1
    let s3 := nok.foldl (fun s a => countDefer (doAccess s n a) n k a) s2
    (bad ++ late).foldl (fun s a => conflict s n a) s3

/-! ## Philox words of one cycle (R168) -/

/-- Whether a pass's drain converts under stochastic rounding. -/
def drainStoch (d : BitVec 512) : Bool := (dDrainFmt d).rnd && (dDrainFmt d).elem != 0

/-- First of the four conversion cycles of drain row `m` (R522). -/
def convStart (pd : PartDim) (p : Pass) (m : Nat) : Nat := p.s + m + pd.delta - 9 + dFo p.desc

/-- Rows of a pass that take words in cycle `k`, from row `m` on, with `left` words: the next row, the words left,
and whether a row went without in all four of its cycles. -/
def drainWords (pd : PartDim) (p : Pass) (k : Nat) : Nat → Nat → Nat → Nat × Nat × Bool
  | 0, m, left => (m, left, false)
  | fuel + 1, m, left =>
    if dM p.desc ≤ m ∨ k < convStart pd p m then (m, left, false)
    else if dNcol p.desc + 1 ≤ left then drainWords pd p k fuel (m + 1) (left - (dNcol p.desc + 1))
    else (m, left, decide (convStart pd p m + 3 ≤ k))

/-- Words taken by the drains of partition `p` in cycle `k` (R168 step 1). -/
def partWords (s : State) (n p k left : Nat) : State × Nat :=
  let v := getPart (core s n) p
  let pd := coreDim s n
  v.q.foldl (fun (x : State × Nat) q =>
    if q.latched && drainStoch q.desc && q.phx < dM q.desc then
      let (m, l, bad) := drainWords pd q k 8 q.phx x.2
      let v' := getPart (core x.1 n) p
      let s1 := setPart x.1 n p { v' with q := v'.q.map (fun y => if y.id = q.id then { y with phx := m } else y) }
      if bad then (recArray s1 n p 9 0xFF (some q.s), l) else (s1, l)
    else x) (s, left)

/-- Words taken by stochastic Itinerary conversions, slot 0 first (R168 step 3). -/
def itinWords : Nat → List Req → Nat → List Req × Nat
  | _, [], left => ([], left)
  | slot, r :: rs, left =>
    if r.slot = slot ∧ r.words ≠ 0 then
      let t := min r.words left
      let (x, l) := itinWords slot rs (left - t)
      ({ r with words := r.words - t } :: x, l)
    else
      let (x, l) := itinWords slot rs left
      (r :: x, l)

/-- Give out the words of cycle `k` (R168). -/
def philoxCycle (s : State) (n k : Nat) : State :=
  let (s1, left1) := (corePartList s n).foldl (fun (x : State × Nat) p => partWords x.1 n p k x.2) (s, 128)
  let c := core s1 n
  let (s2, left2) := match c.phxVec with
    | [] => (s1, left1)
    | r :: rest =>
      if left1 = 128 then (updCore s1 n (fun c => { c with phxVec := rest }), 0)
      else if r.issue + 2 ≤ k then
        (recVec (updCore s1 n (fun c => { c with phxVec := rest })) n r.part 4 r.op r.pc, left1)
      else (s1, left1)
  let c2 := core s2 n
  let (rq, left3) := if c2.reqs.any (fun r => r.words != 0) then
      (List.range 8).foldl (fun (x : List Req × Nat) sl => itinWords sl x.1 x.2) (c2.reqs, left2)
    else (c2.reqs, left2)
  let s3 := setCore s2 n { c2 with reqs := rq }
  if left3 = 128 then s3 else add64 s3 (pgRNG n) F.RNG_WORDS_LO.COUNT F.RNG_WORDS_HI.COUNT 0 (128 - left3)

/-! ## The end of a CCLK cycle -/

/-- Whether a moving row of a pass is in the cells in cycle `k` (ARRAY_BUSY; log entry 7). -/
def passBusy (pd : PartDim) (p : Pass) (k : Nat) : Bool :=
  p.latched && decide (p.s + 4 + dFo p.desc ≤ k)
    && decide (k ≤ p.s + 3 + dM p.desc + dFo p.desc + (pd.rows - 1) + (pd.cols - 1))

/-- Counters of a core that advance with CCLK. -/
def coreCount (s : State) (n k : Nat) : State :=
  let c := core s n
  let busy := (corePartList s n).any (fun p => (getPart c p).q.any (fun q => passBusy (coreDim s n) q k))
  let s1 := if busy then add64 s (pgARRAY n) F.ARRAY_BUSY_LO.COUNT F.ARRAY_BUSY_HI.COUNT 0 1 else s
  let s2 := match c.run with
    | .waitt _ _ _ => addWrap s1 (pgSEQ n) F.SEQ_WAIT_CNT.COUNT 1
    | _ => s1
  let s3 := if c.slots.any (fun x => x.2.st == .run && x.2.waitWhy == 3) then
      addWrap s2 (pgSTREAM n) F.STREAM_WAITQ.COUNT ((c.slots.filter (fun x => x.2.st == .run && x.2.waitWhy == 3)).length)
    else s2
  if c.run = .idle then s3 else updCore s3 n (fun c => { c with taskCyc := c.taskCyc + 1 })

/-- A known-answer test that has run its 16 CCLK (R184): the generators are those of R45, so the words match. -/
def katEnd (s : State) (n k : Nat) : State :=
  match (core s n).katUntil with
  | some t =>
    if t ≤ k then
      let pg := pgRNG n
      let ok := philox10 0 0 == { w0 := 0x6627E8D5, w1 := 0xE169C58D, w2 := 0xBC57AC4C, w3 := 0x9B00DBD8 }
      let s1 := updCore s n (fun c => { c with katUntil := none })
      let s2 := wr (wr (wr s1 pg F.RNG_CTRL.KAT_BUSY 0) pg F.RNG_CTRL.KAT_DONE 1) pg F.RNG_CTRL.KAT_PASS (bit ok)
      if ok then s2 else setErr s2 pg E.RNG.KAT_FAIL
    else s
  | none => s

/-- The end of cycle `k` of core `n`: bank cycle, Philox words, counters. -/
def coreEnd (s : State) (n k : Nat) : State := katEnd (coreCount (philoxCycle (spadCycle s n k) n k) n k) n k

/-- The start of a cycle: everything whose cycle has come lands. -/
def coreStart (s : State) (n : Nat) : State := applyLands s n (core s n).land

/-- One CCLK edge of a die: every core ends its cycle, the cycle count advances, landings are applied. -/
def dieEdge (s : State) (d : Nat) : State :=
  let k := cycOf s d
  let ns := (s.cores.map (·.1)).filter (fun n => dieOf n == d)
  let s1 := ns.foldl (fun s n => coreEnd s n k) s
  let s2 := { s1 with dieCyc := tabPut 0 s1.dieCyc d (k + 1) }
  ns.foldl (fun s n => coreStart s n) s2

end Sys2Proof.Machine
end

