-- ==== Sys2Proof/Machine/Arr.lean ====
section
/-!
DEFINITION. The ARR slot operations and the events of a pass (R54 to R65, R69 to R73, R162, R522).
-/
namespace Sys2Proof.Machine

/-- Cycle t of a pass issued at `a` that loads its tile (R58). -/
def passT (v : Part) (pd : PartDim) (a : Nat) : Nat :=
  max a (max ((v.lastS.map (· + 4)).getD 0) ((v.lastT.map (· + pd.load)).getD 0))

/-- Cycle s of a pass issued at `a` (R58). -/
def passS (v : Part) (pd : PartDim) (a t : Nat) (load : Bool) : Nat :=
  max a (max ((v.lastE.map (fun e => e + 1 - (if load then 0 else 4))).getD 0) (if load then t + pd.load - 4 else 0))

/-- Keep the tiles that a held pass or the resident tile still needs. -/
def pruneTiles (v : Part) : Part :=
  { v with tiles := v.tiles.filter (fun t => some t.1 == v.resident || v.q.any (fun p => p.tileId == t.1)) }

/-- A pass accepted into a partition's queue (R54, R57, R58). -/
def queuePass (v : Part) (pd : PartDim) (a : Nat) (d : BitVec 512) : Part :=
  let t := passT v pd a
  let sc := passS v pd a t (dLoad d)
  let id := v.nextId
  let tid := if dLoad d then id else v.resident.getD 0
  let p : Pass := { id := id, desc := d, a := a, t := t, s := sc, tileId := tid }
  pruneTiles { v with q := v.q ++ [p], nextId := id + 1,
                      resident := if dLoad d then some id else v.resident,
                      tiles := if dLoad d then v.tiles ++ [(id, { desc := d })] else v.tiles,
                      lastS := some sc, lastE := some (sc + 3 + dM d + dFo d),
                      lastT := if dLoad d then some t else v.lastT }

/-- The fault that a PASS raises when it issues (R154, R65, R23, R57), lowest code first (R77); none when it is
accepted. -/
def passFault (mode p : Nat) (v : Part) (d : BitVec 512) : Option Nat :=
  if formatBad d then some 1
  else if dPart d ≠ p ∨ shapeBad mode d (v.resident.bind (tileDesc v)) then some 2
  else if 2 ≤ v.q.length then some 5
  else none

/-- ARR PASS (R54, R162). -/
def execPass (i : Issue) (entry : Fin 16) (s : State) : Host.Outcome State Fault Refusal :=
  .next (issueSlot s i 1 (fun p _ s =>
    let n := i.core.val
    let c := core s n
    let d := tabGet 0 c.desc entry.val
    let v := getPart c p
    match passFault (partMode s n) p v d with
    | some code => recArray s n p code 0xFF none
    | none => setPart s n p (queuePass v (coreDim s n) (now s n) d)))

/-- ARR DSET (R162): bytes 0 to 63 of V[VS]. -/
def execDset (i : Issue) (entry : Fin 16) (vs : Fin 32) (s : State) : Host.Outcome State Fault Refusal :=
  .next (issueSlot s i 1 (fun _ _ s =>
    updCore s i.core.val (fun c => { c with desc := tabPut 0 c.desc entry.val ((vreg c vs.val).extractLsb' 0 512) })))

/-- The checks of one handle that a pass takes: BOUNDS over the ranges it will use (R59, R97). -/
def passBounds (s : State) (n h : Nat) (hd : Handle) (rs : List Rows) : Bool :=
  let used := rs.filter (fun r => r.count != 0)
  !used.isEmpty && (handleBad s n h hd || used.any (fun r => !rowsIn hd r))

/-- Whether a range touches the poison of its handle (R133). -/
def rowsPoison (s : State) (n h : Nat) (hd : Handle) (r : Rows) : Bool :=
  rd1 s (pgSTREAM n) F.STREAM_POISON_LO.VALID h != 0
    && (List.range r.count).any (fun j => poisonHit s n h (r.at j - 64 * hd.base) r.width)

/-- One handle that a pass takes: its number, its value, the ranges used through it, those of them it reads, and
whether its token is checked now. -/
structure TakeCheck where
  h : Nat
  hd : Handle
  ranges : List Rows
  reads : List Rows
  check : Bool
  deriving DecidableEq, Repr

/-- The lowest-coded fault that the handles taken in one cycle raise (R59, R76, R77, R133), with the handle. -/
def takeFault (s : State) (n : Nat) (ts : List TakeCheck) : Option (Nat × Nat) :=
  match ts.find? (fun t => passBounds s n t.h t.hd t.ranges) with
  | some t => some (3, t.h)
  | none =>
    match ts.find? (fun t => t.check && !tokOf s n t.h) with
    | some t => some (6, t.h)
    | none =>
      match ts.find? (fun t => t.check && t.reads.any (rowsPoison s n t.h t.hd)) with
      | some t => some (8, t.h)
      | none => none

/-- Whether SCALE_H is taken with the tile, at t (R59). -/
def scaleAtT (d : BitVec 512) : Bool := dLoad d && (dTileFmt d).scl != 0

/-- Replace a pass of a partition. -/
def putPass (s : State) (n p : Nat) (q : Pass) : State :=
  let v := getPart (core s n) p
  setPart s n p { v with q := v.q.map (fun x => if x.id = q.id then q else x) }

/-- Read at once the operand rows whose bank cycles have passed when a tile load or a latch is commanded late; the
accesses of one such cycle that claim one bank are ordered by R84. -/
def catchUp (s : State) (n p : Nat) (id lo : Nat) (tile : Bool) : State :=
  (List.range (now s n - lo)).foldl (fun s j =>
    match (getPart (core s n) p).q.find? (fun x => x.id == id) with
    | none => s
    | some q =>
      let acc := (passReads (partCtx s n p) p (if tile then { q with latched := false } else { q with loading := false })
        (lo + j)).foldl (fun l a => accInsert a l) []
      let w := wideServe acc [] []
      w.2.foldl (fun s a => conflict s n a) (w.1.foldl (fun s a => doAccess s n a) s)) s

/-- The next pass of a partition whose tile load begins (R58). -/
def loadNext (s : State) (n p : Nat) : Option Pass :=
  (getPart (core s n) p).q.find? (fun q => dLoad q.desc && !q.loading && decide (q.t ≤ now s n))

/-- TILE_LOAD (R58, R59): from cycle t on the tile is read; its tokens are checked and its handles taken. -/
def execTileLoad (c : Fin 256) (part : Fin 4) (s : State) : Host.Outcome State Fault Refusal :=
  let n := c.val
  let p := part.val
  .next (match loadNext s n p with
    | none => s
    | some q =>
      let d := q.desc
      let th := handleOf s n (dTileH d)
      let sh := handleOf s n (dScaleH d)
      let tk : List TakeCheck := [⟨dTileH d, th, [tileRows d th], [tileRows d th], true⟩] ++
        (if scaleAtT d then [⟨dScaleH d, sh, [tileScales d sh, feedScales d sh, drainScales d sh],
            [tileScales d sh, feedScales d sh], true⟩] else [])
      match takeFault s n tk with
      | some (code, h) => recArray s n p code h none
      | none =>
        let s1 := putPass s n p { q with loading := true, tileH := th, scaleH := if scaleAtT d then sh else q.scaleH }
        catchUp s1 n p q.id q.t true)

/-- The next pass of a partition to latch (R58). -/
def latchNext (s : State) (n p : Nat) : Option Pass :=
  (getPart (core s n) p).q.find? (fun q => !q.latched && decide (q.s ≤ now s n) && (q.loading || !dLoad q.desc))

/-- The handles taken at the latch (R59). -/
def latchTakes (s : State) (n : Nat) (d : BitVec 512) : List TakeCheck :=
  let fh := handleOf s n (dFeedH d)
  let dh := handleOf s n (dDrainH d)
  let ih := handleOf s n (dInitH d)
  let sh := handleOf s n (dScaleH d)
  [⟨dFeedH d, fh, [feedRows d fh], [feedRows d fh], true⟩, ⟨dDrainH d, dh, [drainRows d dh], [], false⟩]
    ++ (if dInit d = 1 then [⟨dInitH d, ih, [initRows d ih], [initRows d ih], true⟩] else [])
    ++ (if scaleAtT d then []
        else [⟨dScaleH d, sh, [feedScales d sh, drainScales d sh], [feedScales d sh], (dFeedFmt d).scl != 0⟩])

/-- PASS_LATCH (R58, R59): tokens, handles and bounds at s, NO_TILE (R61), and the arm of DRAIN_H. -/
def execPassLatch (c : Fin 256) (part : Fin 4) (s : State) : Host.Outcome State Fault Refusal :=
  let n := c.val
  let p := part.val
  .next (match latchNext s n p with
    | none => s
    | some q =>
      let d := q.desc
      match takeFault s n (latchTakes s n d) with
      | some (3, h) => recArray s n p 3 h (some (now s n))
      | f =>
        if q.tileId = 0 then recArray s n p 4 0xFF (some (now s n))
        else match f with
          | some (code, h) => recArray s n p code h (some (now s n))
          | none =>
            let q1 := { q with latched := true, feedH := handleOf s n (dFeedH d), drainH := handleOf s n (dDrainH d),
                               initH := handleOf s n (dInitH d),
                               scaleH := if scaleAtT d then q.scaleH else handleOf s n (dScaleH d) }
            let s1 := armHandle (putPass s n p q1) n (dDrainH d) 1 (partCtx s n p)
            let s2 := if dLoad d then addWrap s1 (pgARRAY n) F.ARRAY_FRONT_CNT.COUNT 1 else s1
            catchUp s2 n p q.id q.s false)

/-- The pass whose next row drains. -/
def drainNext (s : State) (n p : Nat) : Option Pass :=
  match (getPart (core s n) p).q.find? (fun q => q.latched && decide (q.drained < dM q.desc)) with
  | some q => if convStart (coreDim s n) q q.drained ≤ now s n then some q else none
  | none => none

/-- DRAIN_ROW (R63, R522): the next row of the pass is computed, converted, its scale-table entry raised, its write
placed in its bank cycle and its flags raised once it is written. -/
def execDrainRow (c : Fin 256) (part : Fin 4) (s : State) : Host.Outcome State Fault Refusal :=
  let n := c.val
  let p := part.val
  .next (match drainNext s n p with
    | none => s
    | some q =>
      let d := q.desc
      let m := q.drained
      let pd := coreDim s n
      let t := (((getPart (core s n) p).tiles.find? (fun t => t.1 == q.tileId)).map (·.2)).getD { desc := d }
      let (ws, fl) := rowResults q t m
      let out := drainConvert s n d m ws
      let cs := convStart pd q m
      let dr := drainRows d q.drainH
      let ds := drainScales d q.scaleH
      let pieces := [(dr.at m, out.bytes.length)] ++ (if out.scales.isEmpty then [] else [(ds.at m, out.scales.length)])
      let s1 := putPass s n p { q with drained := m + 1 }
      let s2 := addAccess s1 n { issue := cs + 4, bank := max (cs + 6) (now s n), port := .aw, part := p, kind := m,
                                 ord := q.id, ctx := partCtx s n p, pieces := pieces, clsW := q.drainH.clsW,
                                 act := .write (out.bytes ++ out.scales) }
      let s3 := if rdB s (pgARRAY n) F.ARRAY_CTRL.GATE_DIS then s2
        else add64 s2 (pgARRAY n) F.ARRAY_GATED_LO.COUNT F.ARRAY_GATED_HI.COUNT 0 (gatedCells q t m)
      let (mx, nn) := rmaxOf ws
      let s4 := if dSctEn d then addLand s3 n (max (cs + 4) (now s n + 1)) 1 (4 * now s n + 1) (.rmax (dSct d) mx nn) else s3
      let f := fl ||| out.flags
      if f = flNone then s4
      else addLand s4 n (max (cs + 11) (now s n + 1)) 1 (4 * now s n + 1) (.flags (partCtx s n p) f))

/-- The pass whose drain delivery completes: all its rows are written and its cycle has come (R59). -/
def drainDone (s : State) (n p : Nat) : Option Pass :=
  match (getPart (core s n) p).q with
  | q :: _ =>
    if q.latched ∧ q.drained = dM q.desc ∧ q.s + dM q.desc + (coreDim s n).delta + dFo q.desc ≤ now s n then some q else none
  | [] => none

/-- DRAIN_COMPLETE (R57, R59): the delivery into DRAIN_H completes and the pass leaves its partition. -/
def execDrainComplete (c : Fin 256) (part : Fin 4) (s : State) : Host.Outcome State Fault Refusal :=
  let n := c.val
  let p := part.val
  .next (match drainDone s n p with
    | none => s
    | some q =>
      let v := getPart (core s n) p
      let s1 := setPart s n p (pruneTiles { v with q := v.q.drop 1 })
      completeAt (addWrap s1 (pgARRAY n) F.ARRAY_PASS_CNT.COUNT 1) n (now s n) (dDrainH q.desc))

/-- ARRAY_ERR (R73, R76): located, counted, and the partition faults. -/
def execArrayErr (c : Fin 256) (part : Fin 4) (prow pcol : Fin 130) (residue : Bool) (s : State) :
    Host.Outcome State Fault Refusal :=
  let n := c.val
  let p := part.val
  let pg := pgARRAY n
  .next (if p < partCount (partMode s n) then
      let s1 := wr (wr (wr s pg F.ARRAY_ERR_LOC.PROW prow.val) pg F.ARRAY_ERR_LOC.PCOL pcol.val)
        pg F.ARRAY_ERR_LOC.KIND (if residue then 2 else 1)
      let s2 := setErr (addSat s1 pg F.ARRAY_ERR_CNT.COUNT 1) pg E.ARRAY.ARRAY_ERR
      recArray s2 n p 7 0xFF (((getPart (core s n) p).q.find? (·.latched)).map (·.s))
    else s)

end Sys2Proof.Machine
end

