-- ==== Sys2Proof/Machine/HbmOps.lean ====
section
/-!
DEFINITION. Operations over stacked memory: the address map with its map-outs (R201, R202, R214, R216), reads and
writes with correction (R204 to R207), error windows and FAILING (R212), grants (R131, R132, R346) and hazard watch
(R135).
-/
namespace Sys2Proof.Machine

/-! ## Domains and the address map -/

/-- Slots of 2 KiB in a channel (R201). -/
def slotsR : Nat := 3145728

/-- Granules in a GiB. -/
def gibGranules : Nat := 524288

/-- Bytes of one die's region in die-local mode (R15). -/
def dieSpan : Nat := 0xC000000000

/-- Whether the module-striped mode is in force (R203). -/
def striped (s : State) : Bool := rdB s (pgSTK 0) F.HBM_MAP_CTRL.MODE

/-- Domain of a channel. -/
def domOf (s : State) (n : Nat) : Nat := if striped s then 0 else n / 128

/-- Stack page that holds a domain's registers (R223). -/
def domPage (d : Nat) : Nat := pgSTK (8 * d)

/-- The domains of the mode. -/
def domList (s : State) : List Nat := if striped s then [0] else [0, 1, 2, 3]

/-- Domain `d`. -/
def getDom (s : State) (d : Nat) : Domain := tabGet {} s.hbm.doms d

/-- Replace a domain. -/
def setDom (s : State) (d : Nat) (v : Domain) : State := { s with hbm := { s.hbm with doms := tabPut {} s.hbm.doms d v } }

/-- The channels of a domain in ascending position q (R201). -/
def domChannels (str : Bool) (d : Nat) : List Nat :=
  if str then (List.range 512).map (fun q => 16 * (8 * (q % 4) + q / 4 % 8) + q / 32)
  else (List.range 128).map (fun q => 16 * (8 * d + q % 8) + q / 8)

/-- The base list L of a domain (R201). -/
def baseList (s : State) (d : Nat) : List Nat :=
  (domChannels (striped s) d).filter (fun n => !(getDom s d).out.contains n)

/-- Channel and slot of a granule under the base map (R202). -/
def baseMap (l : List Nat) (g : Nat) : Nat × Nat :=
  let n := l.length
  if n = 0 then (0, 0)
  else
    let r := g / n
    let i := g % n
    let h := ((r % 256) ^^^ (r / 256 % 256) ^^^ (r / 65536 % 256)) % n
    (l.getD ((i + h) % n) 0, r)

/-- How many granules from `lo` on, `k` of them, a map places on channel `f`. -/
def countOn (m : Nat → Nat × Nat) (f lo : Nat) : Nat → Nat
  | 0 => 0
  | k + 1 => countOn m f lo k + (if (m (lo + k)).1 = f then 1 else 0)

/-- The k-th granule from `lo` on that a map places on channel `f` (or, with `on` false, not on it); `fuel` bounds the
search. -/
def nthOn (m : Nat → Nat × Nat) (f : Nat) (on : Bool) : Nat → Nat → Nat → Nat
  | 0, lo, _ => lo
  | fuel + 1, lo, k =>
    if ((m lo).1 == f) == on then (if k = 0 then lo else nthOn m f on fuel (lo + 1) (k - 1))
    else nthOn m f on fuel (lo + 1) k

/-- Capacity after a map-out: C′ = C − R granules (R214). -/
def MapOut.after (o : MapOut) : Nat := o.cap - slotsR

/-- Granule b_k of a map-out under the map before it (R214). -/
def redirect (m : Nat → Nat × Nat) (o : MapOut) (k : Nat) : Nat := nthOn m o.ch false slotsR o.after k

/-- Index k of granule a_k = g in the set A of a map-out (R214). -/
def redirectIndex (m : Nat → Nat × Nat) (o : MapOut) (g : Nat) : Nat := countOn m o.ch 0 g

/-- The map after the live map-outs, newest first, each with the number of its redirects that are active (R202,
R214). -/
def liveMap (l : List Nat) : List (MapOut × Option Nat) → Nat → Nat × Nat
  | [], g => baseMap l g
  | (o, lim) :: r, g =>
    let p := liveMap l r
    if (p g).1 = o.ch ∧ g < o.after then
      let k := redirectIndex p o g
      match lim with
      | some x => if k < x then p (redirect p o k) else p g
      | none => p (redirect p o k)
    else p g

/-- The live map-outs of a domain, newest first. -/
def liveList (v : Domain) : List (MapOut × Option Nat) :=
  (match v.rel with
   | some (o, k) => [(o, some k)]
   | none => []) ++ (v.maps.map (fun o => (o, none))).reverse

/-- The map of a domain in force. -/
def domMap (s : State) (d : Nat) : Nat → Nat × Nat := liveMap (baseList s d) (liveList (getDom s d))

/-- The map of a domain before the relocation in progress. -/
def domMapOld (s : State) (d : Nat) : Nat → Nat × Nat :=
  liveMap (baseList s d) ((getDom s d).maps.map (fun o => (o, none))).reverse

/-- Domain and base of a local address. -/
def addrDom (s : State) (a : Nat) : Nat × Nat := if striped s then (0, 0) else (a / dieSpan, a / dieSpan * dieSpan)

/-- Capacity of a domain in granules (R202). -/
def domCap (s : State) (d : Nat) : Nat := rd s (domPage d) F.HBM_CAP.GIB * gibGranules

/-- Channel, slot and byte of a local address; none when it is not backed (R202, R216, R220). -/
def hbmPlace (s : State) (a : Nat) : Option (Nat × Nat × Nat) :=
  let (d, base) := addrDom s a
  if 4 ≤ d then none
  else
    let g := (a - base) / 2048
    if g < domCap s d then
      let (n, r) := domMap s d g
      if rd s (pgCH n) F.HBM_CH_STATE.STATE = 5 then none else some (n, r, (a - base) % 2048)
    else none

/-- Whether every granule of a range is backed. -/
def hbmBacked (s : State) (a len : Nat) : Bool :=
  (List.range ((a + len + 2047) / 2048 - a / 2048)).all (fun i => (hbmPlace s (2048 * (a / 2048 + i))).isSome)

/-- Key of a byte in the store of bytes. -/
def placeKey (n r b : Nat) : Nat := (n * slotsR + r) * 2048 + b

/-- Key of a burst among the error marks. -/
def burstKey (n r b : Nat) : Nat := (n * slotsR + r) * 64 + b / 32

/-! ## Failing channels (R212) -/

/-- Whether any job is held by the module (JOB_STATE other than NONE). -/
def anyJob (s : State) : Bool := rd1 s pgJOB F.JOB_STATE.STATE 0 != 0 || rd1 s pgJOB F.JOB_STATE.STATE 1 != 0

/-- Event HBM_CHANNEL (R329). -/
def eventChannel (s : State) (n st cause : Nat) : State := raiseEvent s 0x07 0 0 [(2, n), (4, st), (5, cause)]

/-- An ONLINE channel enters FAILING (R212). -/
def enterFailing (s : State) (n cause : Nat) : State :=
  let pg := pgCH n
  if rd s pg F.HBM_CH_STATE.STATE = 0 then
    let s1 := setErr (wr (wr s pg F.HBM_CH_STATE.STATE 1) pg F.HBM_CH_STATE.CAUSE cause) pg E.HBM_CH.FAILING
    let d := domOf s n
    eventChannel (setDom s1 d { getDom s1 d with failing := (getDom s1 d).failing ++ [n] }) n 1 cause
  else s

/-- The error window of a channel as it stands in this PCLK: windows begin at multiples of 2^28 (R212). -/
def errWin (s : State) (n : Nat) : ErrWin :=
  let w := tabGet {} s.hbm.wins n
  if w.win = s.esc / 2 ^ 28 then w else { win := s.esc / 2 ^ 28 }

/-- Replace a channel's window counts. -/
def setErrWin (s : State) (n : Nat) (w : ErrWin) : State :=
  { s with hbm := { s.hbm with wins := tabPut {} s.hbm.wins n w } }

/-- Locate an error of a channel (HBM_CH_ERR_LOC). The address is that of the burst under the map in force, all ones
when no address maps to it. -/
def locErr (s : State) (n : Nat) (addr : Option Nat) (sym : Nat) (ue : Bool) : State :=
  let pg := pgCH n
  let a := addr.getD (2 ^ 42 - 1)
  let a32 := a - a % 32
  let a' := if addr.isNone then a else a32
  wr (wr (wr (wr (wr s pg F.HBM_CH_ERR_LOC_LO.ADDR (a' % 2 ^ 32)) pg F.HBM_CH_ERR_LOC_HI.ADDR (natField a' 32 10))
    pg F.HBM_CH_ERR_LOC_HI.SYMBOL sym) pg F.HBM_CH_ERR_LOC_HI.UE (bit ue)) pg F.HBM_CH_ERR_LOC_HI.VALID 1

/-- Count one corrected burst of a channel (R205, R212). -/
def noteCe (s : State) (n : Nat) (addr : Option Nat) (sym : Nat) : State :=
  let pg := pgCH n
  let s1 := locErr (addSat s pg F.HBM_CH_ERR_COUNT.COUNT 1) n addr sym false
  let w := errWin s1 n
  let s2 := setErrWin s1 n { w with ce := w.ce + 1 }
  let thr := rd s2 pg F.HBM_CH_ERR_THR.CE_THR
  if thr ≠ 0 ∧ w.ce + 1 = thr then enterFailing (setErr s2 pg E.HBM_CH.CE_THR) n 1 else s2

/-- Count one uncorrectable burst of a channel (R206, R212). -/
def noteUe (s : State) (n : Nat) (addr : Option Nat) : State :=
  let pg := pgCH n
  let s1 := setErr (locErr (addSat s pg F.HBM_CH_UE_COUNT.COUNT 1) n addr 0x1F true) pg E.HBM_CH.UE
  let w := errWin s1 n
  let s2 := setErrWin s1 n { w with ue := w.ue + 1 }
  let thr := rd s2 pg F.HBM_CH_ERR_THR.UE_THR
  if thr ≠ 0 ∧ w.ue + 1 = thr then enterFailing s2 n 2 else s2

/-! ## Reads and writes (R204 to R207) -/

/-- What one burst read meets: the mark is counted and located, the stored burst is not rewritten (R205). -/
def readBurst (s : State) (n r b : Nat) (addr : Option Nat) : State × Bool :=
  let m := tabGet {} s.hbm.marks (burstKey n r b)
  if m.ue then (noteUe s n addr, true)
  else match m.sym with
    | some k => (noteCe s n addr k, false)
    | none => (s, false)

/-- The bytes of a backed range, `fuel` bursts at most, and whether an uncorrectable burst was met. -/
def hbmReadAux : Nat → State → Nat → Nat → List Byte × Bool × State
  | 0, s, _, _ => ([], false, s)
  | fuel + 1, s, a, len =>
    if len = 0 then ([], false, s)
    else
      let k := min len (32 - a % 32)
      match hbmPlace s a with
      | none =>
        let (bs, ue, s1) := hbmReadAux fuel s (a + k) (len - k)
        (zeros k ++ bs, ue, s1)
      | some (n, r, b) =>
        let (s1, u) := readBurst s n r b (some a)
        let d := memRead s1.hbm.mem (placeKey n r b) k
        let s2 := add64 s1 (pgCH n) F.HBM_CH_BYTES_LO.COUNT F.HBM_CH_BYTES_HI.COUNT 0 k
        let (bs, ue, s3) := hbmReadAux fuel s2 (a + k) (len - k)
        (d ++ bs, u || ue, s3)

/-- Read `len` bytes of HBM from a local address: the bytes, whether one of their bursts is uncorrectable (R206), and
the state with its counts. -/
def hbmRead (s : State) (a len : Nat) : List Byte × Bool × State := hbmReadAux (len / 32 + 2) s a len

/-- Read without counting: what the module itself looks at in an image. -/
def hbmPeek (s : State) (a len : Nat) : List Byte := (hbmRead s a len).1

/-- The mark of a burst after a write of `k` of its bytes (R207). -/
def markAfter (m : BurstMark) (k : Nat) : BurstMark := if k = 32 then {} else if m.ue then m else {}

/-- Write bytes burst by burst. -/
def hbmWriteAux : Nat → State → Nat → List Byte → State
  | 0, s, _, _ => s
  | fuel + 1, s, a, bs =>
    if bs.isEmpty then s
    else
      let k := min bs.length (32 - a % 32)
      let s1 := match hbmPlace s a with
        | none => s
        | some (n, r, b) =>
          let key := burstKey n r b
          let h := s.hbm
          add64 { s with hbm := { h with mem := memWrite h.mem (placeKey n r b) (bs.take k),
                                         marks := tabPut {} h.marks key (markAfter (tabGet {} h.marks key) k) } }
            (pgCH n) F.HBM_CH_BYTES_LO.COUNT F.HBM_CH_BYTES_HI.COUNT 0 k
      hbmWriteAux fuel s1 (a + k) (bs.drop k)

/-- Who writes HBM, as NOC_HAZ_SRC.KIND codes it (R151), with the core and context for kinds 0 and 1. -/
structure Writer where
  kind : Nat
  core : Nat := 0
  ctx : Nat := 0
  deriving DecidableEq, Repr

/-- Whether a core of die `d` has a LOAD or GATHER outstanding on a 2 KiB granule of the local address (R135). -/
def readOutstanding (s : State) (d g : Nat) : Bool :=
  s.cores.any (fun x => dieOf x.1 == d && x.2.reqs.any (fun r =>
    match r.tgt with
    | .hbm a => (r.kind == .load && decide (a / 2048 ≤ g) && decide (g ≤ (a + r.bytes - 1) / 2048))
        || (r.kind == .gather && r.idx.any (fun i => (a + 32 * i) / 2048 == g))
    | _ => false))

/-- A hit of hazard-watch range `w` of die `d` (R135, R151). -/
def hazardHit (s : State) (d w a : Nat) (by_ : Writer) : State :=
  let pg := pgNOC d
  let s1 := addSat1 s pg F.NOC_HAZ_CNT.COUNT w 1
  if rd1 s1 pg F.NOC_HAZ_CTRL.HIT w = 0 then
    let s2 := wr1 (wr1 (wr1 (wr1 (wr1 (wr1 s1 pg F.NOC_HAZ_CTRL.HIT w 1) pg F.NOC_HAZ_ADDR_LO.ADDR w (a % 2 ^ 32))
      pg F.NOC_HAZ_ADDR_HI.ADDR w (natField a 32 10)) pg F.NOC_HAZ_SRC.KIND w by_.kind)
      pg F.NOC_HAZ_SRC.CORE w by_.core) pg F.NOC_HAZ_SRC.CTX w by_.ctx
    raiseEvent (setErr s2 pg (E.NOC.HAZ + w)) 0x06 0 0 [(1, d), (2, w)]
  else wr1 s1 pg F.NOC_HAZ_CTRL.OVER w 1

/-- Compare a write of one granule with the hazard-watch ranges of the die that holds it (R135). -/
def hazardWatch (s : State) (g : Nat) (by_ : Writer) : State :=
  match hbmPlace s (2048 * g) with
  | none => s
  | some (n, _, _) =>
    let d := n / 128
    let pg := pgNOC d
    (List.range 4).foldl (fun s w =>
      if rd1 s pg F.NOC_HAZ_CTRL.EN w ≠ 0 ∧ rd1 s pg F.NOC_HAZ_BASE.BASE w ≤ g ∧ g ≤ rd1 s pg F.NOC_HAZ_LIMIT.LIMIT w
          ∧ readOutstanding s d g then hazardHit s d w (2048 * g) by_ else s) s

/-- Write bytes to HBM from a local address (R207), watched for hazards (R135). -/
def hbmWrite (s : State) (a : Nat) (bs : List Byte) (by_ : Writer) : State :=
  let s1 := hbmWriteAux (bs.length / 32 + 2) s a bs
  if bs.isEmpty then s1
  else (List.range ((a + bs.length - 1) / 2048 + 1 - a / 2048)).foldl (fun s i => hazardWatch s (a / 2048 + i) by_) s1

/-- The Steward's, the Innkeeper's and the engine's own writes. -/
def hbmWriteOwn (s : State) (a : Nat) (bs : List Byte) : State := hbmWrite s a bs { kind := 4 }

/-! ## Grants (R131, R132, R339, R346) -/

/-- Key of grant entry `i` of a context of a job's bank. -/
def grantKey (b ctx i : Nat) : Nat := b * 1024 + ctx * 64 + i

/-- Grant entry `i` of a context. -/
def grantOf (s : State) (b ctx i : Nat) : Grant := tabGet {} s.grants (grantKey b ctx i)

/-- Whether one region that a context has granted covers a range for the access wanted. -/
def granted (s : State) (b ctx a len : Nat) (needR needW : Bool) : Bool :=
  (List.range 64).any (fun i =>
    let g := grantOf s b ctx i
    g.valid && (!needR || g.r) && (!needW || g.w) && decide (2048 * g.base ≤ a) && decide (a + len ≤ 2048 * g.limit))

/-- A grant cut at a new end of backed space, in granules (R346). -/
def trimGrant (lo hi : Nat) (g : Grant) : Grant :=
  if g.valid ∧ lo ≤ g.base ∧ hi ≤ g.base then { g with valid := false, trimmed := true }
  else if g.valid ∧ lo ≤ g.base ∧ hi < g.limit then { g with limit := hi, trimmed := true }
  else g

/-- Trim every grant of a domain's address range [lo, top) at granule `hi` (R214 step 3, R346). -/
def trimGrants (s : State) (lo hi top : Nat) : State :=
  let cut (g : Grant) : Grant := if g.base < top then trimGrant lo hi g else g
  let ks := s.grants.filter (fun x => cut x.2 ≠ x.2)
  let s1 := { s with grants := ks.foldl (fun m x => tabPut {} m x.1 (cut x.2)) s.grants }
  if ks.isEmpty then s1 else (List.range 4).foldl (fun s d => setErr s (pgSTEWARD d) E.STEWARD.TRIM) s1

end Sys2Proof.Machine
end

