-- ==== Sys2Proof/Machine/FabOps.lean ====
section
/-!
DEFINITION. The operations of the fabric: links and their lane maps (R230, R231, R238), flits and control records
(R229, R233), Craul headers and their CRC (R249, R250), credits (R254, R255), routes (R265, R266), lost peers (R270),
and links that go down (R239, R240, R269).
-/
namespace Sys2Proof.Machine

/-! ## Links -/

/-- Update the fabric's state. -/
def updFab (s : State) (f : Fab → Fab) : State := { s with fab := f s.fab }

/-- Link `l`. -/
def lk (s : State) (l : Nat) : Link := tabGet {} s.fab.links l

/-- Replace link `l`. -/
def setLk (s : State) (l : Nat) (v : Link) : State := updFab s (fun f => { f with links := tabPut {} f.links l v })

/-- Apply a function to link `l`. -/
def updLk (s : State) (l : Nat) (f : Link → Link) : State := setLk s l (f (lk s l))

/-- Page of a link's port (R230). -/
def linkPg (l : Nat) : Nat := pgPORT (l / 4)

/-- Links of a port under SPLIT; the reserved encoding acts as one link (R230, log entry 6). -/
def linksOf (s : State) (p : Nat) : Nat :=
  let v := rd s (pgPORT p) F.FAB_PORT_CFG.SPLIT
  if v = 1 then 2 else if v = 2 then 4 else 1

/-- Width of a link under SPLIT. -/
def linkWidth (s : State) (l : Nat) : Nat := 16 / linksOf s (l / 4)

/-- First lane of a link. -/
def laneLo (s : State) (l : Nat) : Nat := l % 4 * linkWidth s l

/-- The lanes of a link. -/
def linkLanes (s : State) (l : Nat) : List Nat := (List.range (linkWidth s l)).map (· + laneLo s l)

/-- The links of a port that exist under its SPLIT. -/
def portLinks (s : State) (p : Nat) : List Nat := (List.range (linksOf s p)).map (· + 4 * p)

/-- The link of a port that uses a lane. -/
def laneLink (s : State) (p lane : Nat) : Nat := 4 * p + lane / linkWidth s (4 * p)

/-- FAB_PORT_LINK.STATE of a link. -/
def linkState (s : State) (l : Nat) : Nat := rd1 s (linkPg l) F.FAB_PORT_LINK.STATE (l % 4)

/-- Set the state of a link. -/
def setLinkState (s : State) (l v : Nat) : State := wr1 s (linkPg l) F.FAB_PORT_LINK.STATE (l % 4) v

/-- Whether a link is usable: UP or NARROW (R265). -/
def usable (s : State) (l : Nat) : Bool := linkState s l == 3 || linkState s l == 4

/-- Event LINK (R329). -/
def eventLink (s : State) (l : Nat) : State :=
  raiseEvent s 0x09 0 0 [(1, l), (2, linkState s l), (3, rd1 s (linkPg l) F.FAB_PORT_LINK.CAUSE (l % 4))]

/-- FAB_LANE_STATE.STATE of a receive lane. -/
def laneState (s : State) (p l : Nat) : Nat := rd1 s (pgPORT p) F.FAB_LANE_STATE.STATE l

/-- Set the state of a receive lane. -/
def setLaneState (s : State) (p l v : Nat) : State := wr1 s (pgPORT p) F.FAB_LANE_STATE.STATE l v

/-- LANES and the state UP or NARROW from the lane maps in force: LANES is the number of entries of the narrower
direction (log entry 9). -/
def setLanes (s : State) (l : Nat) : State :=
  let v := lk s l
  let n := min v.txMap.length v.rxMap.length
  let s1 := wr1 s (linkPg l) F.FAB_PORT_LINK.LANES (l % 4) n
  if usable s1 l then setLinkState s1 l (if n < linkWidth s l then 4 else 3) else s1

/-- Spare lanes in use, 0 to 2 (REPAIR_COUNT of the page). -/
def setSpareCount (s : State) (p : Nat) : State :=
  let pg := pgPORT p
  wr s pg F.REPAIR_COUNT.USED (rd s pg F.FAB_PORT_SPARE.TX_USED + rd s pg F.FAB_PORT_SPARE.RX_USED)

/-! ## Flits (R229, R233, R234) -/

/-- Capacity of a link's retry buffer in flits (R234). -/
def retryCap (s : State) (l : Nat) : Nat := 50 * linkWidth s l

/-- A flit's CREDIT field from the returns owed, two at most, and the returns left (R255). -/
def takeCredit (owed : SMap Nat) : Nat × SMap Nat :=
  match owed with
  | [] => (7 + 7 <<< 16, [])
  | [(p, c)] =>
    let k := min c 8191
    (p + k <<< 3 + 7 <<< 16, tabPut 0 owed p (c - k))
  | (p, c) :: (q, e) :: _ =>
    let k := min c 8191
    let j := min e 8191
    (p + k <<< 3 + q <<< 16 + j <<< 19, tabPut 0 (tabPut 0 owed p (c - k)) q (e - j))

/-- Number a DATA or CTRL flit and place it in the retry buffer. -/
def sendFlit (v : Link) (ctrl : Bool) (fill : Nat) (body : List Byte) : Link :=
  let (cr, owed) := takeCredit v.owed
  { v with retry := v.retry ++ [⟨v.txSeq, ctrl, fill, cr, body⟩], txSeq := (v.txSeq + 1) % 4096, owed := owed }

/-- Send a CTRL flit with a record. -/
def sendCtrl (s : State) (l : Nat) (rec_ : List (Nat × Nat)) : State :=
  updLk s l (fun v => sendFlit v true 0 (natToBytes 10 (packBytes rec_)))

/-- The MAP record of a link's transmit map as it applies from the next FSEQ (R229). -/
def mapRecord (s : State) (l : Nat) : List (Nat × Nat) :=
  let v := lk s l
  let mask := v.txMap.foldl (fun m e => if e < 16 then m ||| 2 ^ e else m ||| 2 ^ 16) 0
  let sp := v.txMap.find? (fun e => decide (16 ≤ e))
  [(0, 0x01), (2, (v.txSeq + 1) % 4096), (4, mask), (8, (sp.getD 16) - 16),
   (9, if sp.isSome then rd s (linkPg l) F.FAB_PORT_SPARE.TX_FIBRE else 0)]

/-- Insert an entry into a lane map in ascending lane number, the spare in the place of its lane (R231). -/
def mapInsert (e : Nat) : List Nat → List Nat
  | [] => [e]
  | x :: r => if e % 16 ≤ x % 16 then e :: x :: r else x :: mapInsert e r

/-- A map without a lane, whether the lane itself or the spare for it. -/
def mapWithout (m : List Nat) (lane : Nat) : List Nat := m.filter (fun e => e % 16 != lane)

/-- The map that a MAP record gives. -/
def mapOfRecord (mask lane : Nat) : List Nat :=
  let m := (List.range 16).filter (fun i => mask.testBit i)
  if mask.testBit 16 then mapInsert (16 + lane) (m.filter (· != lane)) else m

/-! ## Messages (R249 to R251) -/

/-- The header as a number (R249). -/
def msgHeader (m : Msg) : Nat :=
  m.dst % 2 ^ 20 + (m.src % 2 ^ 20) <<< 20 + (m.cls % 8) <<< 40 + (m.op % 256) <<< 43 + (m.win % 4096) <<< 51
    + (m.wepoch % 2 ^ 16) <<< 63 + (m.offset % 2 ^ 44) <<< 79 + (m.len % 2 ^ 13) <<< 123 + (m.step % 2 ^ 32) <<< 136
    + (m.lepoch % 2 ^ 16) <<< 168 + (m.seq % 2 ^ 24) <<< 184 + (m.pool % 2) <<< 208 + (m.hops % 16) <<< 209
    + (bit m.express) <<< 213 + (m.crc % 2 ^ 32) <<< 224

/-- The message of a header and its payload (R249). -/
def msgOf (h : Nat) (data : List Byte) : Msg :=
  { dst := natField h 0 20, src := natField h 20 20, cls := natField h 40 3, op := natField h 43 8,
    win := natField h 51 12, wepoch := natField h 63 16, offset := natField h 79 44, len := natField h 123 13,
    step := natField h 136 32, lepoch := natField h 168 16, seq := natField h 184 24, pool := natField h 208 1,
    hops := natField h 209 4, express := h.testBit 213, crc := natField h 224 32, data := data }

/-- The CRC of a message (R250): CLASS, [212:208], [223:214] and CRC taken as zero. -/
def msgCrc (m : Msg) : Nat :=
  crc32c (natToBytes 32 (msgHeader { m with cls := 0, pool := 0, hops := 0, crc := 0 }) ++ m.data)

/-- A message with its CRC, as the originator makes it. -/
def sealMsg (m : Msg) : Msg := { m with crc := msgCrc m }

/-- The bytes of a message as a link sends them. -/
def msgBytes (m : Msg) : List Byte := natToBytes 32 (msgHeader m) ++ m.data

/-- Units of 32 bytes that a message takes (R254). -/
def msgUnits (m : Msg) : Nat := 1 + m.len / 32

/-- The class to which an operation belongs; none for an operation not listed (R251). -/
def opClass (op : Nat) : Option Nat :=
  if 0x01 ≤ op ∧ op ≤ 0x03 then some 0
  else if 0x40 ≤ op ∧ op ≤ 0x42 then some 1
  else if 0x80 ≤ op ∧ op ≤ 0x9F then some 2
  else if 0xA0 ≤ op ∧ op ≤ 0xAF then some 3
  else if 0xC0 ≤ op ∧ op ≤ 0xDF then some 4
  else none

/-- Whether a length is one that R249 and R251 allow for a payload or a read. -/
def lenOk (n : Nat) : Bool := n % 32 == 0 && decide (32 ≤ n) && decide (n ≤ 4096)

/-- Whether a message is malformed (R251), also by the payload its operation calls for. -/
def malformed (m : Msg) : Bool :=
  match opClass m.op with
  | none => true
  | some c =>
    !(m.cls == c || (m.cls == 5 && (c == 2 || c == 3))) || !(m.len == 0 || lenOk m.len)
      || (m.op == 2 && (m.len != 0 || !lenOk (m.step % 8192))) || (m.op == 3 && m.len != 32)
      || (m.op == 1 && m.len == 0)

/-- A response to a request (R251). -/
def response (m : Msg) (op status : Nat) (data : List Byte) : Msg :=
  sealMsg { dst := m.src, src := m.dst, cls := 1, op := op, win := m.win, wepoch := m.wepoch, offset := m.offset,
            len := data.length, step := status, seq := m.seq, express := m.express, data := data }

/-- The response operation of a request. -/
def respOp (op : Nat) : Nat := 0x3F + op

/-! ## Credits (R254, R255) -/

/-- The counters of the sending end at training. -/
def creditInit (s : State) (l : Nat) : SMap Nat :=
  let pool := if linkWidth s l = 16 then 15184 else if linkWidth s l = 8 then 6800 else 2608
  [(0, 276), (1, 276), (2, 258), (3, 258), (4, 258), (5, 258), (6, pool)]

/-- The credit with which a message may begin on a link: 6 for the shared pool, or its class; none while it waits. -/
def creditFor (v : Link) (m : Msg) (cls : Nat) : Option Nat :=
  let u := msgUnits m
  let c := tabGet 0 v.credit cls
  if u ≤ tabGet 0 v.credit 6 then some 6
  else if u ≤ c ∧ (2 ≤ cls ∨ m.express ∨ u + 18 ≤ c) then some cls
  else none

/-- Return a message's units to the sender of the link that held it (R255). -/
def returnUnits (s : State) (q : QMsg) : State :=
  match q.inb with
  | some (l, pool) =>
    if usable s l then updLk s l (fun v => { v with owed := tabPut 0 v.owed pool (tabGet 0 v.owed pool + msgUnits q.msg) })
    else s
  | none => s

/-! ## Counts and discards -/

/-- A message discarded for its CRC or its form (R252). -/
def discardCrc (s : State) (q : QMsg) : State :=
  returnUnits (setErr (addSat s pgRTR F.FAB_RTR_CRC_ERR.COUNT 1) pgRTR E.FAB_RTR.CRC_ERR) q

/-- A message discarded and counted in FAB_RTR_DROP_CNT. -/
def discardDrop (s : State) (q : QMsg) : State :=
  returnUnits (setErr (addSat s pgRTR F.FAB_RTR_DROP_CNT.COUNT 1) pgRTR E.FAB_RTR.DROP) q

/-! ## Routes (R264 to R266) -/

/-- The module's own ID. -/
def ownId (s : State) : Nat := rd s pgRTR F.FAB_RTR_ID.ID

/-- Whether an ID is reserved (R264). -/
def reservedId (i : Nat) : Bool := i == 0 || i == 0xFFFFF

/-- Route entry of a table (R265): LO + HI · 2^32, DROP set until it is written. -/
def routeAt (s : State) (member : Bool) (idx : Nat) : Nat :=
  tabGet (1 <<< 48) s.fab.routes ((if member then 2048 else 0) + idx)

/-- The entry that a destination uses. -/
def routeOf (s : State) (dst : Nat) : Nat :=
  if dst / 1024 = ownId s / 1024 then routeAt s true (dst % 1024) else routeAt s false (dst / 1024)

/-- The candidate links of an entry. -/
def routeCands (e : Nat) : List Nat :=
  ((List.range 4).filter (fun i => e.testBit (8 * i + 6))).map (fun i => natField e (8 * i) 6)

/-- The usable candidate links of an entry. -/
def liveCands (s : State) (e : Nat) : List Nat := (routeCands e).filter (usable s)

/-- The fixed link of an entry when usable, otherwise the alternate. -/
def fixedLink (s : State) (e : Nat) : Option Nat :=
  let f := natField e 32 6
  let a := natField e 40 6
  if e.testBit 38 && usable s f then some f else if e.testBit 46 && usable s a then some a else none

/-- Whether a destination is lost by its route entry (R270): DROP, or no usable candidate and no usable fixed link. -/
def routeLost (s : State) (dst : Nat) : Bool :=
  let e := routeOf s dst
  e.testBit 48 || ((liveCands s e).isEmpty && (fixedLink s e).isNone)

/-- The credit that decides an adaptive choice: the greater first, then the lower link (R266). -/
def betterLink (s : State) (cls : Nat) (a b : Nat) : Nat :=
  let w l := tabGet 0 (lk s l).credit cls + tabGet 0 (lk s l).credit 6
  if w a < w b ∨ (w a = w b ∧ b < a) then b else a

/-- The best link among those whose credits cover a message. -/
def bestLink (s : State) (m : Msg) (ls : List Nat) : Option Nat :=
  match ls.filter (fun l => (creditFor (lk s l) m m.cls).isSome && (lk s l).closeAt == 0) with
  | [] => none
  | a :: r => some (r.foldl (betterLink s m.cls) a)

/-- Complete one outstanding request of a core with a status (R253). -/
def failReq (s : State) (n id status : Nat) : State :=
  updCore s n (fun c => { c with reqs := c.reqs.map (fun r =>
    if r.id = id ∧ r.status = none then { r with status := some status } else r) })

/-- Whether a request goes to a module over the fabric. -/
def reqTo (r : Req) (m : Nat) : Bool :=
  match r.tgt with
  | .window _ _ d _ => d.toNat == m
  | _ => false

/-- A peer is lost (R270): its outstanding requests complete PEER_LOST and queued messages to it are discarded; the
loss and each such request count. -/
def losePeer (s : State) (m : Nat) : State :=
  let todo := s.cores.flatMap (fun x => (x.2.reqs.filter (fun r => reqTo r m && r.status.isNone)).map (fun r => (x.1, r.id)))
  let s1 := todo.foldl (fun s x => failReq s x.1 x.2 7) s
  let gone := s1.fab.outq.filter (fun q => q.msg.dst == m)
  let s2 := gone.foldl (fun s q => if q.msg.src ≠ ownId s then discardDrop s q else s)
    (updFab s1 (fun f => { f with outq := f.outq.filter (fun q => !(q.msg.dst == m)) }))
  setErr (addSat s2 pgRTR F.FAB_RTR_LOST_CNT.COUNT (1 + todo.length)) pgRTR E.FAB_RTR.PEER_LOST

/-- Destinations of outstanding requests and queued messages. -/
def liveDsts (s : State) : List Nat :=
  (s.cores.flatMap (fun x => (x.2.reqs.filter (fun r => r.status.isNone)).filterMap (fun r =>
    match r.tgt with
    | .window _ _ d _ => some d.toNat
    | _ => none)) ++ s.fab.outq.map (fun q => q.msg.dst)).eraseDups

/-- Lose every peer that its route entry no longer reaches (R270). -/
def sweepLost (s : State) : State :=
  (liveDsts s).foldl (fun s m => if m ≠ ownId s ∧ routeLost s m then losePeer s m else s) s

/-! ## Queues (R256, R259) -/

/-- The link under which a queued message's stall timer runs (R259). -/
def queueLink (q : QMsg) : Nat := q.link.getD (q.cands.headD 63)

/-- Whether a message stands in the class queue of a link. -/
def inQueue (l cls : Nat) (q : QMsg) : Bool := queueLink q == l && q.msg.cls == cls

/-- Restart the stall timer of a class queue. -/
def restartTimer (s : State) (l cls : Nat) : State :=
  updFab s (fun f => { f with advAt := tabPut 0 f.advAt (8 * l + cls) (s.esc + 1) })

/-- Queue a message for its output link. -/
def enqueue (s : State) (q : QMsg) : State :=
  let l := queueLink q
  let first := !(s.fab.outq.any (inQueue l q.msg.cls))
  let s1 := updFab s (fun f => { f with outq := f.outq ++ [q] })
  if first then restartTimer s1 l q.msg.cls else s1

/-- Route a message to another module (R264 to R266, R270): the class in which it leaves (R257), its link, or the
candidates for which it waits. `cross` says that Caravan marked it as crossing its ring's dateline. -/
def routeMsg (s : State) (q : QMsg) (cross : Bool) : State :=
  let e := routeOf s q.msg.dst
  let m := q.msg
  if routeLost s m.dst then
    if m.src ≠ ownId s then discardDrop s q else losePeer s m.dst
  else if m.cls = 2 ∨ m.cls = 3 ∨ m.cls = 5 then
    let q1 := { q with msg := { m with cls := if e.testBit 47 || cross then 5 else m.cls } }
    match fixedLink s e with
    | some l => enqueue s { q1 with link := some l }
    | none => enqueue s { q1 with cands := [natField e 32 6] }
  else
    let ls := liveCands s e
    match bestLink s m ls with
    | some l => enqueue s { q with link := some l }
    | none =>
      if ls.isEmpty then enqueue s { q with cands := (fixedLink s e).toList } else enqueue s { q with cands := ls }

/-- Place a message for this module in the queue of its class; it counts as committed (FAB_RTR_MSG). -/
def commitLocal (s : State) (q : QMsg) : State :=
  let s1 := add64 s pgRTR F.FAB_RTR_MSG_LO.COUNT F.FAB_RTR_MSG_HI.COUNT 0 1
  if q.msg.cls = 0 then updFab s1 (fun f => { f with commitq := f.commitq ++ [q] })
  else if q.msg.cls = 1 then updFab s1 (fun f => { f with rspq := f.rspq ++ [q] })
  else if q.msg.cls = 4 then updFab s1 (fun f => { f with mgmtq := f.mgmtq ++ [q] })
  else
    let first := !(s.fab.collq.any (fun x => x.msg.cls == q.msg.cls))
    let s2 := updFab s1 (fun f => { f with collq := f.collq ++ [q] })
    if first then restartTimer s2 64 q.msg.cls else s2

/-- Send a message that this module originates (R256, R264, R265). -/
def originate (s : State) (m : Msg) (origin : Option (Nat × Nat × Nat)) (cross : Bool) : State :=
  let q : QMsg := { msg := sealMsg m, origin := origin }
  if reservedId m.dst then s
  else if m.dst = ownId s then commitLocal s q
  else routeMsg s q cross

/-- The next message number of this module (R249). -/
def nextSeq (s : State) : Nat × State :=
  (s.fab.seq, updFab s (fun f => { f with seq := (f.seq + 1) % 2 ^ 24 }))

/-- Whether a request to a module fails at once: BAD_DST (R264) or PEER_LOST (R270). -/
def dstFault (s : State) (dst : Nat) : Option Nat :=
  if reservedId dst then some 0x0A
  else if dst ≠ ownId s ∧ routeLost s dst then some 7
  else none

/-! ## Links that go down (R239, R240, R269) -/

/-- Identity of a link's peer. -/
def peerOf (s : State) (l : Nat) : Nat := rd1 s (linkPg l) F.FAB_PORT_PEER.MODULE (l % 4)

/-- Dispose of a message held in doubt (R269). -/
def inDoubt (s : State) (l : Nat) (x : Sent) : State :=
  let m := x.q.msg
  if m.dst = peerOf s l then
    if m.src ≠ ownId s then discardDrop s x.q else s
  else if m.cls = 0 then
    let s1 := setErr (addSat (returnUnits s x.q) pgRTR F.FAB_RTR_INDOUBT_CNT.COUNT 1) pgRTR E.FAB_RTR.IN_DOUBT
    let r := response m (respOp m.op) 9 []
    if r.dst = ownId s1 then commitLocal s1 { msg := r } else routeMsg s1 { msg := r } false
  else discardDrop s x.q

/-- Messages queued for a link that is no longer usable are looked up again (R269). -/
def rerouteQueued (s : State) (l : Nat) : State :=
  let mine (q : QMsg) : Bool := q.link == some l || (q.link.isNone && q.cands.contains l)
  let qs := s.fab.outq.filter mine
  let s1 := updFab s (fun f => { f with outq := f.outq.filter (fun q => !mine q) })
  qs.foldl (fun s q => routeMsg s { q with link := none, cands := [] } false) s1

/-- Return a link's unacknowledged messages to the router and drop what it holds in part (R240). -/
def returnMsgs (s : State) (l : Nat) : State :=
  let s1 := updLk s l (fun v => { v with held := v.held ++ v.sent, sent := [], retry := [], stream := [], ctrlIn := [],
                                         owed := [], nak := false, closeAt := 0, rxNext := none })
  rerouteQueued s1 l

/-- Send LINK_LAST to the former peer over any other route (R269). -/
def sendLinkLast (s : State) (l : Nat) : State :=
  let acc := ((lk s l).rxSeq + 4095) % 4096
  let (n, s1) := nextSeq s
  originate (updLk s1 l (fun v => { v with awaitLast := true }))
    { dst := peerOf s l, src := ownId s, cls := 4, op := 0xC0, len := 32, seq := n,
      data := natToBytes 32 (packBytes [(0, l), (2, acc)]) } none false

/-- A link goes DOWN (R239, R240, R269). -/
def linkDown (s : State) (l cause : Nat) : State :=
  let pg := linkPg l
  let k := l % 4
  let s1 := wr1 (wr1 (setLinkState s l 5) pg F.FAB_PORT_LINK.CAUSE k cause) pg F.FAB_PORT_LINK.LANES k 0
  let s2 := setErr (addWrap1 s1 pg F.FAB_PORT_RETRY.DOWNS k 1) pg (E.FAB_PORT.LINK_DOWN + k)
  let s3 := updLk (eventLink s2 l) l (fun v => { v with txMap := [], rxMap := [], downAt := s.esc + 1 })
  let s4 := returnMsgs s3 l
  if cause = 1 ∨ cause = 2 ∨ cause = 5 then sweepLost (sendLinkLast s4 l)
  else
    let hs := (lk s4 l).held
    sweepLost (hs.foldl (fun s x => inDoubt s l x) (updLk s4 l (fun v => { v with held := [] })))

/-- A local close whose every flit is acknowledged sends CLOSE and goes DOWN with cause 4 (R241). -/
def closeDone (s : State) (l : Nat) : State :=
  let v := lk s l
  if usable s l && v.closeAt != 0 && v.retry.isEmpty then linkDown s l 4 else s

/-- A link begins to train (R232): without an ID or with its port disabled it is DISABLED, without a feed NOFEED. -/
def beginTraining (s : State) (l : Nat) : State :=
  let p := l / 4
  let pg := pgPORT p
  let feed := if rdB s pg F.FAB_PORT_FEED.SEL then rdB s pg F.FAB_PORT_FEED.B_OK else rdB s pg F.FAB_PORT_FEED.A_OK
  if reservedId (ownId s) || !rdB s pg F.FAB_PORT_CFG.EN then setLinkState s l 0
  else if tabGet false s.fab.hot p then setLinkState s l 5
  else if !feed then setLinkState s l 1
  else (linkLanes s l).foldl (fun s i => setLaneState s p i 1) (setLinkState s l 2)

/-- Every link of a port begins to train. -/
def trainPort (s : State) (p : Nat) : State := (portLinks s p).foldl beginTraining s

end Sys2Proof.Machine
end

