-- ==== Sys2Proof/Machine/BistOps.lean ====
section
/-!
DEFINITION. The operations of bring-up, self-test and repair (R443 to R458): core roles, self-test units and their records,
and the preparation of a core before it sets READY.
-/
namespace Sys2Proof.Machine

/-- Update the Innkeeper's state. -/
def updInnk (s : State) (f : Innk → Innk) : State := { s with innk := f s.innk }

/-- Update the boot state. -/
def updBoot (s : State) (f : Boot → Boot) : State := { s with boot := f s.boot }

/-- Update the power state. -/
def updPow (s : State) (f : Power → Power) : State := { s with pow := f s.pow }

/-! ## Core roles (R454) -/

/-- SYS_CORE_ROLE of a core: 0 ENABLED, 1 SPARE, 2 FAILED. -/
def coreRole (s : State) (n : Nat) : Nat := natField (rd1 s pgSYS F.SYS_CORE_ROLE.ROLE (n / 16)) (2 * (n % 16)) 2

/-- Set it. -/
def setCoreRole (s : State) (n v : Nat) : State :=
  wr1 s pgSYS F.SYS_CORE_ROLE.ROLE (n / 16)
    (natSetField (rd1 s pgSYS F.SYS_CORE_ROLE.ROLE (n / 16)) (2 * (n % 16)) 2 v)

/-- The cores of a die in ascending local index. -/
def dieCores (d : Nat) : List Nat := (List.range 64).map (· + 64 * d)

/-- Whether a core is healthy (R349): enabled or spare, not failed. -/
def coreHealthy (s : State) (n : Nat) : Bool := coreRole s n != 2

/-- The healthy cores of a die that are ready (R445). -/
def readyCores (s : State) (d : Nat) : List Nat :=
  (dieCores d).filter (fun n => coreHealthy s n && blkReady s (pgSEQ n))

/-- HEALTHY of a die's STEWARD_STATE. -/
def setHealthy (s : State) (d : Nat) : State :=
  wr s (pgSTEWARD d) F.STEWARD_STATE.HEALTHY (((dieCores d).filter (coreHealthy s)).length)

/-- A core is marked failed (R72, R453, R454): a spare of the die takes its role when it was enabled. A core that runs a
logical core keeps its mapping and its state until the job ends (R349). -/
def markCoreFailed (s : State) (n : Nat) : State :=
  let s1 := setErr (setCoreRole s n 2) pgSYS E.SYS.CORE_FAIL
  let s2 := if coreRole s n = 0 then
      match (dieCores (dieOf n)).find? (fun m => coreRole s1 m == 1) with
      | some m => setCoreRole s1 m 0
      | none => s1
    else s1
  setHealthy (if (core s n).lcore.isSome then s2 else setBlk s2 (pgSEQ n) stFAULT) (dieOf n)

/-! ## Self-test units (R447) -/

/-- Record of a unit: core n, 256 + d die common, 260 hub memories, 261 hub logic. -/
def bistOf (s : State) (u : Nat) : Bist := tabGet {} s.innk.bist u

/-- Replace it. -/
def setBist (s : State) (u : Nat) (v : Bist) : State := updInnk s (fun i => { i with bist := tabPut {} i.bist u v })

/-- The unit whose result a page shows; none for a page whose block has no self-test unit (R460). -/
def unitOfPage (p : Nat) : Option Nat :=
  if 0x800 ≤ p ∧ p < 0x1000 then some ((p - 0x800) / 8)
  else if 0x40 ≤ p ∧ p < 0x80 ∧ p % 16 < 3 then some (256 + (p - 0x40) / 16)
  else if p = pgCAR ∨ (4 ≤ p ∧ p < 8) ∨ (0x10 ≤ p ∧ p < 0x20) then some 260
  else if p = pgRTR ∨ p = pgROCE ∨ p = pgCMDQ then some 261
  else none

/-- The page that a SELFTEST event names (R459). -/
def unitPage (u : Nat) : Nat := if u < 256 then pgSEQ u else if u < 260 then pgSTEWARD (u - 256) else pgCAR

/-- The pages of a unit. -/
def unitPages (u : Nat) : List Nat :=
  if u < 256 then [pgSEQ u]
  else if u < 260 then [pgSTEWARD (u - 256), pgNOC (u - 256), pgBRIDGE (u - 256)]
  else if u = 260 then [pgCAR, 4, 5, 6, 7] ++ (List.range 16).map pgPORT
  else [pgRTR, pgROCE, pgCMDQ]

/-- Budget of a unit in PCLK (R447): 325,000 a millisecond. -/
def unitBudget (u : Nat) : Nat := 325000 * (if u < 256 then 12 else if u = 261 then 60 else 40)

/-- Whether a unit is due a power-up test (R457). -/
def testDue (s : State) (u : Nat) : Bool := !(bistOf s u).valid

/-- A start of a unit consumes its result (R456). -/
def consumeResult (s : State) (u : Nat) : State := setBist s u { bistOf s u with valid := false }

/-- A test whose result is not PASS raises a SELFTEST event (R459). -/
def eventSelftest (s : State) (u st : Nat) : State :=
  let p := unitPage u
  raiseEvent s 0x0E 0 0 [(2, p % 256), (3, p / 256), (4, st)]

/-- A unit's test begins (R450, R456): its pages read ISOLATED and a RUNNING record stands in flash. -/
def startTest (s : State) (u : Nat) (powerup : Bool) : State :=
  let b : Bist := { state := 1, powerup := powerup, segment := 0xFF, boot := rd s pgINNK F.INNK_BOOTCNT.COUNT,
                    startAt := s.esc + 1 }
  updInnk (setBist ((unitPages u).foldl (fun s p => setBlk s p stISOLATED) s) u b)
    (fun i => { i with fuseCnt := tabPut 0 i.fuseCnt u 0 })

/-- Cut every test in progress short (R457): by a forced entry to P3, a reset or a loss of input. -/
def cutTests (s : State) : State :=
  s.innk.bist.foldl (fun s x =>
    if x.2.state = 1 then setBist s x.1 { x.2 with state := 5, valid := false, startAt := 0 } else s) s

/-- Whether a unit is under test. -/
def underTest (s : State) (u : Nat) : Bool := (bistOf s u).state == 1 && (bistOf s u).startAt != 0

/-! ## Preparing a core (R455) -/

/-- A scratchpad of zeros under class A (R94). -/
def zeroSpad (c : Core) : Core := { c with spad := [], rowW := [], marks := [], zeroUntil := none }

/-- Load the repair map of a core's array: fused and soft entries (R73, R455). -/
def loadRepairs (s : State) (n : Nat) : State :=
  let pg := pgARRAY n
  (s.innk.repairs.filter (fun r => r.page == pg)).foldl (fun s r =>
    let f := bit r.fused
    if r.element = 0 then
      wr (wr (wr s pg F.ARRAY_REPAIR_ROW.IDX_A r.target) pg F.ARRAY_REPAIR_ROW.VAL_A 1) pg F.ARRAY_REPAIR_ROW.FUSED_A f
    else if r.element = 1 then
      wr (wr (wr s pg F.ARRAY_REPAIR_ROW.IDX_B r.target) pg F.ARRAY_REPAIR_ROW.VAL_B 1) pg F.ARRAY_REPAIR_ROW.FUSED_B f
    else if r.element = 2 then
      wr (wr (wr s pg F.ARRAY_REPAIR_COL.IDX_A r.target) pg F.ARRAY_REPAIR_COL.VAL_A 1) pg F.ARRAY_REPAIR_COL.FUSED_A f
    else
      wr (wr (wr s pg F.ARRAY_REPAIR_COL.IDX_B r.target) pg F.ARRAY_REPAIR_COL.VAL_B 1) pg F.ARRAY_REPAIR_COL.FUSED_B f) s

/-- Steps 1 and 2 of R455. -/
def resetCore (s : State) (n : Nat) : State :=
  let s1 := (List.range 8).foldl (fun s k => resetPage s (pgCore n k)) s
  loadRepairs (setCore s1 n Core.reset) n

/-- Steps 4 and 5 of R455: a core whose known-answer test passes sets READY. -/
def finishCore (s : State) (n : Nat) : State :=
  let pg := pgRNG n
  let s1 := wr (wr (updCore s n zeroSpad) pg F.RNG_CTRL.KAT_DONE 1) pg F.RNG_CTRL.KAT_PASS 1
  setBlk s1 (pgSEQ n) stREADY

/-- Bring up a core (R455): it is reset and repaired; a core that is due a test is tested first, and any other consumes
its result and sets READY. -/
def bringUpCore (s : State) (n : Nat) : State :=
  let s1 := resetCore s n
  if testDue s1 n then updBoot (startTest s1 n true) (fun b => { b with tested := true })
  else finishCore (consumeResult s1 n) n

/-- Leave SERVICE: ring handles become linear with SIZE 0 (R104). -/
def leaveService (s : State) (n : Nat) : State :=
  (List.range 63).foldl (fun s h =>
    if rd1 s (pgLEDGER n) F.LEDGER_HBASE.MODE h = 1 then
      wr1 (wr1 s (pgLEDGER n) F.LEDGER_HBASE.MODE h 0) (pgLEDGER n) F.LEDGER_HSIZE.SIZE h 0
    else s) s

/-! ## Domains -/

/-- SYS_READY_DIE.DOMAIN of a die. -/
def domReady (s : State) (d : Nat) : Bool := rd1 s pgSYS F.SYS_READY_DIE.DOMAIN d != 0

/-- Whether the domain of a local address is ready (R444). -/
def addrReady (s : State) (a : Nat) : Bool := domReady s (min 3 (a / dieSpan))

end Sys2Proof.Machine
end

