-- ==== Sys2Proof/Machine/StrOps.lean ====
section
/-!
DEFINITION. The operations that Itineraries, the Courier and the Saddlebag share: logical cores, slots and requests
(R117 to R129), targets (R124), conversion (R126), the sides of a transfer in a scratchpad, and the sending of requests
to peers (R267).
-/
namespace Sys2Proof.Machine

/-! ## Jobs and logical cores -/

/-- The job of a bank. -/
def jobOf (s : State) (b : Nat) : Job := tabGet {} s.jobs b

/-- Replace the job of a bank. -/
def setJob (s : State) (b : Nat) (j : Job) : State := { s with jobs := tabPut {} s.jobs b j }

/-- Apply a function to the job of a bank. -/
def updJob (s : State) (b : Nat) (f : Job → Job) : State := setJob s b (f (jobOf s b))

/-- Logical core `l` of a job. -/
def lcoreOf (j : Job) (l : Nat) : LCore := tabGet {} j.lcores l

/-- Replace logical core `l` of the job of a bank. -/
def updLcore (s : State) (b l : Nat) (f : LCore → LCore) : State :=
  updJob s b (fun j => { j with lcores := tabPut {} j.lcores l (f (lcoreOf j l)) })

/-- The physical core on which logical core `l` of a bank's job is resident. -/
def pcoreOf (s : State) (b l : Nat) : Option Nat := (lcoreOf (jobOf s b) l).pcore

/-- The job bank of a core. -/
def bankOfCore (s : State) (n : Nat) : Nat := (core s n).bank

/-! ## Slots and requests -/

/-- Itinerary slot `i` of a core. -/
def slotOf (s : State) (n i : Nat) : Itin := tabGet {} (core s n).slots i

/-- Replace it. -/
def setSlot (s : State) (n i : Nat) (v : Itin) : State :=
  updCore s n (fun c => { c with slots := tabPut {} c.slots i v })

/-- Whether a request is an Itinerary's. -/
def isItin (r : Req) : Bool := r.kind == .load || r.kind == .store || r.kind == .gather

/-- Whether a request goes to a window. -/
def isFabric (r : Req) : Bool := match r.tgt with | .window .. => true | _ => false

/-- Request slots that a request holds (R129). -/
def reqSlots (r : Req) : Nat := if !isItin r then 0 else if isFabric r && decide (2048 < r.bytes) then 2 else 1

/-- Request slots held (STREAM_OUT.REQ). -/
def slotsHeld (c : Core) : Nat := (c.reqs.map reqSlots).foldl (· + ·) 0

/-- Courier slots held (STREAM_OUT.CRR; R138). -/
def crrHeld (c : Core) : Nat := (c.reqs.filter (fun r => !isItin r)).length

/-- Entries of a die's fabric transfer queue that are held (R129). -/
def fabqHeld (s : State) (d : Nat) : Nat :=
  (s.cores.map (fun x => if dieOf x.1 = d then (x.2.reqs.filter (fun r => isItin r && isFabric r)).length else 0)).foldl
    (· + ·) 0

/-- Credits that a LOAD, STORE or GATHER may use in this cycle (R121). -/
def creditNow (v : Itin) (now_ : Nat) : Nat := v.credits - (v.fresh.map (fun x => if now_ < x.2 then x.1 else 0)).foldl (· + ·) 0

/-- Whether a slot has outstanding requests. -/
def slotBusy (c : Core) (i : Nat) : Bool := c.reqs.any (fun r => isItin r && r.slot == i)

/-- A stopping slot whose requests are complete enters DONE (R118, R122). -/
def settleSlot (s : State) (n i : Nat) : State :=
  let v := slotOf s n i
  if v.st = .stopping ∧ !slotBusy (core s n) i then setSlot s n i { v with st := .done } else s

/-- Remove a request, and let its slot finish. -/
def dropReq (s : State) (n id : Nat) : State :=
  match (core s n).reqs.find? (fun r => r.id == id) with
  | some r =>
    let s1 := updCore s n (fun c => { c with reqs := c.reqs.filter (fun x => x.id != id) })
    if isItin r then settleSlot s1 n r.slot else s1
  | none => s

/-- Whether the core waits at a Muster: a request issued now is not covered by its fence (R143). -/
def atMuster (c : Core) : Bool := match c.run with | .muster .. => true | _ => false

/-- Add an outstanding request; the greatest counts are raised. -/
def addReq (s : State) (n : Nat) (r : Req) : State :=
  let s1 := updCore s n (fun c => { c with reqs := c.reqs ++ [{ r with id := c.nextId, afterMuster := atMuster c }],
                                           nextId := c.nextId + 1 })
  let s2 := raiseMax s1 (pgSTREAM n) F.STREAM_OUT.REQ_MAX 0 (min (slotsHeld (core s1 n)) 63)
  let s3 := raiseMax s2 (pgSTREAM n) F.STREAM_OUT.CRR_MAX 0 (crrHeld (core s2 n))
  raiseMax s3 (pgNOC (dieOf n)) F.NOC_FABQ.MAX 0 (min (fabqHeld s3 (dieOf n)) 1023)

/-! ## Targets (R124) -/

/-- The target that A[AT] names, or the fault code of R147: a reserved TGT is ILLEGAL, anything R124 forbids BOUNDS.
`al` is the alignment of HBM and window addresses, `whole` whether an HBM request must lie within one granule. -/
def targetOf (s : State) (n tgt : Nat) (a : DWord) (module : BitVec 20) (epoch : BitVec 16) (len al : Nat) (whole : Bool) :
    Except Nat Target :=
  let v := a.toNat
  if tgt = 0 then
    if 2 ^ 42 ≤ v ∨ 2048 < len ∨ v % al ≠ 0 ∨ 2 ^ 42 < v + len ∨ (whole ∧ v / 2048 ≠ (v + len - 1) / 2048) then .error 3
    else .ok (.hbm v)
  else if tgt = 1 then
    let l := natField v 48 8
    if natField v 56 8 ≠ 0 ∨ natField v 46 2 ≠ 0 ∨ natField v 23 17 ≠ 0 ∨ 2048 < len
        ∨ (jobOf s (bankOfCore s n)).nl ≤ l then .error 3
    else .ok (.spad l (natField v 40 6) (natField v 0 23))
  else if tgt = 2 then
    if natField v 56 8 ≠ 0 ∨ 4096 < len ∨ natField v 0 44 % al ≠ 0 then .error 3
    else .ok (.window (natField v 44 12) (natField v 0 44) module epoch)
  else .error 1

/-! ## Conversion (R126) -/

/-- Bytes of an element of a format: 4 for FP32, 2 for BF16. -/
def cvtBytes (fb : FormatByte) : Nat := if fb.elem = 0 then 4 else 2

/-- Whether a format is one that CVT permits. -/
def cvtOk (b : BitVec 8) : Bool := let f := formatByteOf b; (f.elem == 0 || f.elem == 1) && f.scl == 0

/-- Whether a request is converted: MFMT and LFMT are different format bytes (R126, log entry 92). -/
def convActive (k : Conv) : Bool := k.mfmt != k.lfmt

/-- Scratchpad-side bytes of a request of `len` bytes at the target side. -/
def localBytes (k : Conv) (len : Nat) : Nat :=
  if convActive k then len / cvtBytes (formatByteOf k.mfmt) * cvtBytes (formatByteOf k.lfmt) else len

/-- Split bytes into little-endian words of `w` bytes. -/
def splitWords (w : Nat) : Nat → List Byte → List Nat
  | 0, _ => []
  | k + 1, bs => if bs.isEmpty then [] else bytesToNat (bs.take w) :: splitWords w k (bs.drop w)

/-- Convert bytes from one format to the other, with the flags raised. -/
def convBytes (s : State) (n : Nat) (k : Conv) (src dst : BitVec 8) (data : List Byte) : List Byte × Flags5 :=
  if !convActive k then (data, flNone)
  else
    let fs := formatByteOf src
    let fd := formatByteOf dst
    match fmtOfElem fs.elem, fmtOfElem fd.elem with
    | some a, some b =>
      let ws := splitWords (cvtBytes fs) data.length data
      let rs := roundings s n fd.rnd k.tid.toNat k.elem ws.length
      let out := (ws.zip rs).map (fun x => convertTo b fd.sat x.2 (decodeFmt a x.1))
      (out.flatMap (fun o => natToBytes (cvtBytes fd) o.1), out.foldl (fun f o => f ||| o.2) flNone)
    | _, _ => (data, flNone)

/-- Raise flags against a context on a core (R46). -/
def orFlags (s : State) (n ctx : Nat) (f : Flags5) : State :=
  if f = flNone then s
  else updCore s n (fun c => { c with flags := tabPut flNone c.flags ctx (tabGet flNone c.flags ctx ||| f) })

/-- Philox words that a conversion to `dst` of `k` elements takes (R168). -/
def convWords (cv : Conv) (dst : BitVec 8) (k : Nat) : Nat := if convActive cv && (formatByteOf dst).rnd then k else 0

/-! ## Sides of a transfer -/

/-- Check the scratchpad side of a write of `len` bytes through a handle: the fault recorded, or the byte address. -/
def destCheck (s : State) (n ctx slot crr pc h : Nat) (hd : Handle) (off len : Nat) : Except State Nat :=
  let a := handleAddr hd off
  if !writeOk hd.clsW a len then .error (recSpad s n (ctxPart s n ctx) ctx 3 5 (bankOf a) (rowOf a))
  else if boundsBad s n h hd off len then .error (recStream s n ctx 3 slot crr pc h)
  else .ok a

/-- Write bytes into another core's scratchpad through a handle there, as one delivery (R125): whether its checks pass,
and the state. The handle's checks fail as R81 and R97 say. -/
def remoteWrite (s : State) (b l h off : Nat) (bs : List Byte) : Option (Bool × State) :=
  (pcoreOf s b l).map (fun m =>
    let hd := handleOf s m h
    let a := handleAddr hd off
    if !writeOk hd.clsW a bs.length || boundsBad s m h hd off bs.length then (false, s)
    else (true, completeAt (updCore s m (fun c => spadWrite c hd.clsW a bs)) m (now s m + 3) h))

/-- Read bytes of another core's scratchpad through its BG port: its data when the checks pass, whether they hold an
uncorrectable error, and the state. No token is checked there (R125). -/
def remoteRead (s : State) (b l h off len : Nat) : Option (Option (List Byte × Bool) × State) :=
  (pcoreOf s b l).map (fun m =>
    let hd := handleOf s m h
    let a := handleAddr hd off
    if !wideReadOk a len || boundsBad s m h hd off len then (none, s)
    else
      let es := readErrs (core s m) [(a, len)]
      (some (memRead (core s m).spad a len, es.any (·.ue)), noteErrs s m es))

/-- Land bytes in a core's own scratchpad, completing the delivery (R99). -/
def landLocal (s : State) (n : Nat) (r : Req) (bs : List Byte) : State :=
  completeAt (updCore s n (fun c => spadWrite c r.hd.clsW (handleAddr r.hd r.off) bs)) n (now s n) r.h

/-- REMOTE (R141, R147): status BOUNDS for a scratchpad target, the Craul completion code in DETAIL otherwise. -/
def remoteFault (s : State) (n : Nat) (r : Req) (st : Nat) : State :=
  let (status, craul) := match r.tgt with | .spad .. => (0x42, 0) | _ => (0x4F, st)
  recStreamAs s n r.ctx 6 r.slot (bit (!isItin r)) r.pc r.h status craul

/-- HBM_UE (R147): the destination rows are undefined. -/
def ueFault (s : State) (n : Nat) (r : Req) : State :=
  let (bs, s1) := freeBytes s r.lbytes
  recStream (updCore s1 n (fun c => spadWrite c r.hd.clsW (handleAddr r.hd r.off) bs)) n r.ctx 5 r.slot (bit (!isItin r))
    r.pc r.h

/-- Note HBM bytes that a context has stored (R148). -/
def noteStored (s : State) (n ctx a len : Nat) : State :=
  updCore s n (fun c => { c with stored := c.stored ++ [(ctx, a, len)] })

/-- Count bytes moved at the target side. -/
def countBytes (s : State) (n len : Nat) : State :=
  add64 s (pgSTREAM n) F.STREAM_BYTES_LO.COUNT F.STREAM_BYTES_HI.COUNT 0 len

/-! ## Requests to peers (R251, R257, R264, R267) -/

/-- Send the message of a request to a window: the request takes its number, or its completion status at once. -/
def sendReq (s : State) (n : Nat) (r : Req) : State :=
  match r.tgt with
  | .window win off d ep =>
    let put (s : State) (f : Req → Req) : State :=
      updCore s n (fun c => { c with reqs := c.reqs.map (fun x => if x.id = r.id then f x else x) })
    match dstFault s d.toNat with
    | some st =>
      let s1 := put s (fun x => { x with sent := true, status := some st })
      if st = 7 then setErr (addSat s1 pgRTR F.FAB_RTR_LOST_CNT.COUNT 1) pgRTR E.FAB_RTR.PEER_LOST else s1
    | none =>
      let (q, s1) := nextSeq s
      let s2 := put s1 (fun x => { x with sent := true, seq := q, issued := s.esc })
      let op := if r.kind = .load ∨ r.kind = .get then 2 else if r.kind = .add then 3 else 1
      let data := if op = 1 then r.data else if op = 3 then natToBytes 8 r.operand.toNat ++ zeros 24 else []
      originate s2 { dst := d.toNat, src := ownId s2, cls := 0, op := op, win := win, wepoch := ep.toNat, offset := off,
                     len := data.length, step := if op = 2 then r.bytes else 0, seq := q, express := !isItin r,
                     data := data } (some (bankOfCore s n, n, r.ctx)) false
  | _ => s

/-- Whether two requests go to one destination in the sense of R140. -/
def sameDest (a b : Req) : Bool :=
  match a.tgt, b.tgt with
  | .hbm _, .hbm _ => true
  | .spad l _ _, .spad m _ _ => l == m
  | .window w _ d _, .window v _ e _ => w == v && d == e
  | _, _ => false

/-- Whether an earlier Courier operation of the core to the same destination is outstanding (R140, R267). -/
def courierHeld (c : Core) (r : Req) : Bool :=
  c.reqs.any (fun x => !isItin x && decide (x.id < r.id) && sameDest x r)

/-- Send every Courier message of a core whose data is read and that is not held (R267). -/
def courierPump (s : State) (n : Nat) : State :=
  (core s n).reqs.foldl (fun s r =>
    if !r.sent && isFabric r && (r.kind != .put || r.data.length == r.bytes) && !courierHeld (core s n) r then sendReq s n r
    else s) s

end Sys2Proof.Machine
end

