-- ==== Sys2Proof/Machine/CarOps.lean ====
section
/-!
DEFINITION. The operations of Caravan: groups and ranks (R274), plan entries and their triggers (R276 to R279), instances,
messages to other ranks (R297, R298), completion (R281) and the entries' part in Musters (R281, R291).
-/
namespace Sys2Proof.Machine

/-- Update Caravan's state. -/
def updCar (s : State) (f : Caravan → Caravan) : State := { s with car := f s.car }

/-! ## Groups (R274) -/

/-- BASE and SIZE of a group. -/
def groupOf (s : State) (g : Nat) : Nat × Nat := tabGet (0, 0) s.car.groups g

/-- Size of a group, 0 when it is unused. -/
def groupSize (s : State) (g : Nat) : Nat := let (b, n) := groupOf s g; if 262144 < b + n then 0 else n

/-- Module ID of a rank of a group. -/
def rankId (s : State) (g r : Nat) : Nat := tabGet 0 s.car.ranks ((groupOf s g).1 + r)

/-- The ranks at which an ID appears. -/
def ranksOf (s : State) (g id : Nat) : List Nat := (List.range (groupSize s g)).filter (fun r => rankId s g r == id)

/-- The rank of a module in a group; none when it is absent or appears more than once. -/
def rankOf (s : State) (g id : Nat) : Option Nat :=
  match ranksOf s g id with
  | [r] => some r
  | _ => none

/-- The module's own rank in a group. -/
def ownRank (s : State) (g : Nat) : Option Nat := rankOf s g (ownId s)

/-! ## Plan entries (R276, R277, R279) -/

/-- A plan entry as a number of 512 bits. -/
def planOf (s : State) (e : Nat) : Nat :=
  (List.range 16).foldl (fun v i => v + (tabGet 0 s.car.plan (16 * e + i)).toNat <<< (32 * i)) 0

/-- Fields of a plan entry. -/
def peOpc (v : Nat) : Nat := natField v 0 4
def peGroup (v : Nat) : Nat := natField v 4 6
def peCtx (v : Nat) : Nat := natField v 10 4
def peIn (v : Nat) : BitVec 8 := BitVec.ofNat 8 (natField v 16 8)
def peOut (v : Nat) : BitVec 8 := BitVec.ofNat 8 (natField v 24 8)
def peTrig (v : Nat) : Nat := natField v 32 16
def peArrive (v : Nat) : Nat := natField v 48 16
def peCount (v : Nat) : Nat := natField v 192 40
def peParam (v : Nat) : Nat := natField v 320 64
def peNmode (v : Nat) : Nat := natField v 384 2
def peNcore (v : Nat) : Nat := natField v 386 8
def peNh (v : Nat) : Nat := natField v 394 6
def peBuf (v : Nat) : Nat := natField v 448 14
def peTstride (v : Nat) : Nat := natField v 480 16
def peTcount (v : Nat) : Nat := max 1 (natField v 496 16)

/-- Address of trigger `k` of an entry (R279): base field and step field of the extension entry. -/
def peAddr (s : State) (i : Inst) (lsb w stepLsb : Nat) : Nat :=
  (natField (planOf s i.entry) lsb w + i.trig * natField (planOf s (i.entry + 1)) stepLsb 64) % 2 ^ w

/-- The entry of an instance. -/
def insPlan (s : State) (i : Inst) : Nat := planOf s i.entry
def insSrc (s : State) (i : Inst) : Nat := if i.trig = 0 then natField (insPlan s i) 64 42 else peAddr s i 64 42 64
def insDst (s : State) (i : Inst) : Nat := if i.trig = 0 then natField (insPlan s i) 128 42 else peAddr s i 128 42 128
def insAux (s : State) (i : Inst) : Nat := if i.trig = 0 then natField (insPlan s i) 256 42 else peAddr s i 256 42 192
def insNoff (s : State) (i : Inst) : Nat :=
  if i.trig = 0 then natField (insPlan s i) 416 18
  else (natField (insPlan s i) 416 18 + i.trig * natField (planOf s (i.entry + 1)) 256 32) % 2 ^ 18
def insGroup (s : State) (i : Inst) : Nat := peGroup (insPlan s i)
def insSize (s : State) (i : Inst) : Nat := groupSize s (insGroup s i)
def insRank (s : State) (i : Inst) : Nat := (ownRank s (insGroup s i)).getD 0

/-- The ranks of an instance's group other than the own. -/
def otherRanks (s : State) (i : Inst) : List Nat := (List.range (insSize s i)).filter (fun r => r != insRank s i)

/-- Bytes of a row of DISPATCH and COMBINE, its FANOUT, experts and capacity (R288). -/
def a2aRow (v : Nat) : Nat := 32 * (natField (peParam v) 0 12 + 1)
def a2aFanout (v : Nat) : Nat := natField (peParam v) 12 4 + 1
def a2aExperts (v : Nat) : Nat := natField (peParam v) 16 6 + 1
def a2aCap (v : Nat) : Nat := natField (peParam v) 24 24

/-! ## Triggers (R278, R286) -/

/-- The trigger indices of an entry at a position. -/
def trigsAt (v p : Nat) : List Nat :=
  let n := if peOpc v = 7 then 1 else peTcount v
  if peTrig v = 0xFFFF ∨ 65534 < p then []
  else (List.range n).filter (fun k => peTrig v + k * peTstride v == p)

/-- Whether an entry may trigger: a defined or a reserved operation, not an extension or unused entry, and a PERMUTE only
when a re-shard of it is pending (log entry 11). -/
def mayTrigger (s : State) (e v : Nat) : Bool :=
  peOpc v != 0 && peOpc v != 0xF
    && (peOpc v != 7 || (rdB s pgCAR F.CARAVAN_RESHARD.PEND && rd s pgCAR F.CARAVAN_RESHARD.ENTRY == e
      && !(s.car.queue ++ s.car.active).any (fun i => i.entry == e)))

/-- Queue the instances that a release at position `p` of a bank's job triggers, in ascending entry number. -/
def triggerAt (s : State) (b p : Nat) : State :=
  let es := (s.car.owner.filter (fun x => x.2 == b + 1)).map (·.1)
  let step := rd1 s pgJOB F.JOB_STEPNUM_L_LO.NUM b
  let s1 := es.foldl (fun s e =>
    let v := planOf s e
    if mayTrigger s e v then
      (trigsAt v p).foldl (fun s k =>
        let cnt := tabGet 0 s.car.trigs e
        let perm := (s.car.queue ++ s.car.active).any (fun i => peOpc (insPlan s i) == 7 && i.actAt == 0)
        let ep := (rd s pgCAR F.CARAVAN_LEPOCH.EPOCH + bit perm) % 65536
        let i : Inst := { entry := e, inst := cnt % 65536, step := step, lepoch := ep, trig := k, bank := b,
                          stepNo := (jobOf s b).steps }
        updCar s (fun c => { c with queue := c.queue ++ [i], trigs := tabPut 0 c.trigs e (cnt + 1) })) s
    else s) s
  s1

/-! ## Instances -/

/-- Replace an active instance. -/
def setInst (s : State) (i : Inst) : State :=
  updCar s (fun c => { c with active := c.active.map (fun x => if x.entry = i.entry ∧ x.inst = i.inst then i else x) })

/-- The active instance of an entry. -/
def activeOf (s : State) (e : Nat) : Option Inst := s.car.active.find? (fun i => i.entry == e)

/-- Working buffer units free (R278). -/
def bufFree (s : State) : Nat := 16112 - (s.car.active.map (fun i => peBuf (insPlan s i))).foldl (· + ·) 0

/-! ## Messages (R297, R298) -/

/-- Send a COLL or RELAY message of an instance to a rank. `cross` marks one that crosses its ring's dateline. -/
def sendRank (s : State) (i : Inst) (op r offset : Nat) (data : List Byte) (cross : Bool) : State :=
  let (q, s1) := nextSeq s
  let s2 := add64 s1 pgCAR F.CARAVAN_BYTES_LO.COUNT F.CARAVAN_BYTES_HI.COUNT 0 data.length
  originate s2 { dst := rankId s (insGroup s i) r, src := ownId s, cls := if 0xA0 ≤ op then 3 else 2, op := op,
                 win := i.entry, wepoch := i.inst, offset := offset, len := data.length, step := i.step,
                 lepoch := i.lepoch, seq := q, data := data } none cross

/-- Send bytes to a rank in messages of up to 4,096 bytes, from an offset. -/
def sendBytes (i : Inst) (op r : Nat) (cross : Bool) : Nat → State → Nat → List Byte → State
  | 0, s, _, _ => s
  | k + 1, s, off, bs =>
    if bs.isEmpty then s
    else sendBytes i op r cross k (sendRank s i op r off (bs.take 4096) cross) (off + 4096) (bs.drop 4096)

/-- Send a STATUS to every other rank of the group. -/
def sendStatus (s : State) (i : Inst) (st : Nat) : State :=
  (otherRanks s i).foldl (fun s r => sendRank s i 0x86 r st [] false) s

/-- A fault that Caravan or the hub finds in a context of a bank's job (R299, R347). -/
def recordModFault (s : State) (b ctx status page code : Nat) : State :=
  { s with faults := s.faults ++ [{ bank := b, ctx := ctx, status := status, page := page, code := code, detail := 0,
                                    core := 0xFF, lcore := 0xFF, part := 0, craul := 0, at_ := s.esc }] }

/-- An instance is to complete with a status, unless one is already decided. -/
def finish (s : State) (i : Inst) (st : Nat) : State :=
  if i.status.isSome then s else setInst s { i with status := some st }

/-- An instance ends by a fault of its own context at this module (R299, R300): the context is torn down, the other ranks
learn `other`. -/
def carFault (s : State) (i : Inst) (status other : Nat) : State :=
  if i.status.isSome then s
  else
    let s1 := recordModFault (setErr s pgCAR E.CARAVAN.TEARDOWN) i.bank (peCtx (insPlan s i)) status 5 0
    finish (sendStatus s1 i other) i other

/-! ## The entries' part in Musters (R281, R291) -/

/-- Muster positions at which an instance arrives. -/
def arrivesAt (s : State) (i : Inst) : List Nat :=
  let v := insPlan s i
  let a := peArrive v + i.trig * peTstride v
  if peArrive v = 0xFFFF then []
  else if peOpc v = 8 then (List.range (insSize s i - 1)).map (· + a)
  else [a]

/-- The positions at which an instance has not arrived. -/
def arriveLeft (s : State) (i : Inst) : List Nat :=
  if peOpc (insPlan s i) = 8 then (arrivesAt s i).drop i.done else arrivesAt s i

/-- Whether an instance of a bank's current step is still to arrive at a position. -/
def carMissing (s : State) (b p : Nat) : Bool :=
  (s.car.queue ++ s.car.active).any (fun i =>
    i.bank == b && i.stepNo == (jobOf s b).steps && (arriveLeft s i).contains p)

/-- Whether a Relay entry's arrival is missing at a position (R295). -/
def relayMissing (s : State) (b p : Nat) : Bool :=
  (s.car.queue ++ s.car.active).any (fun i =>
    i.bank == b && i.stepNo == (jobOf s b).steps && peOpc (insPlan s i) == 8 && (arriveLeft s i).contains p)

/-- Whether an entry has arrived at a position with a status other than OK. -/
def carDegraded (s : State) (b p : Nat) : Bool := s.car.degPos.contains (b, (jobOf s b).steps, p)

/-- Position of the Muster in progress (R278). -/
def nextPos (j : Job) (kind : Nat) : Option Nat := if kind = 1 then some 0 else j.mpos.map (· + 1)

end Sys2Proof.Machine
end

