-- ==== Sys2Proof/Machine/Str.lean ====
section
/-!
DEFINITION. The STR slot operations (R118, R137, R169), the Saddlebag (R105 to R110) and the completion of Courier
operations (R138 to R141).
-/
namespace Sys2Proof.Machine

/-- An STR operation issues (R154). -/
def strIssue (s : State) (i : Issue) (ok : Bool) (f : Nat → Nat → State → State) : State :=
  issueSlot s i 3 (fun p ctx s => if ok then f p ctx s else illegalSlot s i.core.val p 3)

/-! ## Itinerary control (R118) -/

/-- START (R118). -/
def execStart (i : Issue) (sl : Fin 8) (ra rb : Fin 32) (s : State) : Host.Outcome State Fault Refusal :=
  .next (strIssue s i true (fun _ ctx s =>
    let n := i.core.val
    let v := slotOf s n sl.val
    let c := core s n
    if v.st = .run ∨ v.st = .stopping then recStream s n ctx 1 sl.val 0 v.pc 0
    else setSlot s n sl.val { st := .run, waitWhy := 1, ctx := ctx, readyAt := now s n + 1,
                              a := tabPut 0 (tabPut 0 [] 0 (sreg c ra.val)) 1 (sreg c rb.val) }))

/-- A slot stops: it issues no further request and is DONE when its requests are complete (R118). -/
def stopSlot (s : State) (n sl : Nat) : State :=
  let v := slotOf s n sl
  if v.st = .run then settleSlot (setSlot s n sl { v with st := .stopping }) n sl else s

/-- STOP (R118). -/
def execStop (i : Issue) (sl : Fin 8) (s : State) : Host.Outcome State Fault Refusal :=
  .next (strIssue s i true (fun _ _ s => stopSlot s i.core.val sl.val))

/-- Add credits to a slot and arm the handle given with them (R118, R121): an overflow raises BOUNDS and adds nothing. -/
def addCredit (s : State) (n p ctx sl k : Nat) (h : Option Nat) : State :=
  let v := slotOf s n sl
  if 4095 < v.credits + k then recStream s n ctx 3 sl 0 v.pc 0
  else
    let s1 := setSlot s n sl { v with credits := v.credits + k,
                                      fresh := (v.fresh.filter (fun x => decide (now s n < x.2))) ++ [(k, now s n + 3)] }
    match h with
    | some h => if h = 63 then recSpad s1 n p ctx 4 5 0 0 else armHandle s1 n h k ctx
    | none => s1

/-- CREDIT (R118, R121); one that a prefetch record has anticipated is absorbed (R296). -/
def execCredit (i : Issue) (sl : Fin 8) (k : BitVec 12) (h : Option (Fin 64)) (s : State) :
    Host.Outcome State Fault Refusal :=
  .next (strIssue s i (k != 0) (fun p ctx s =>
    let n := i.core.val
    if (core s n).absorb.contains sl.val ∧ !atMuster (core s n) then
      updCore s n (fun c => { c with absorb := c.absorb.erase sl.val })
    else addCredit s n p ctx sl.val k.toNat (h.map (·.val))))

/-- The checks of an SR read through a handle (R81, R97, R133, R136, R170): the state with the fault recorded, or the
byte address. -/
def srCheck (s : State) (n p ctx h : Nat) (hd : Handle) (off len : Nat) : Except State Nat :=
  let a := handleAddr hd off
  if !wideReadOk a len then .error (recSpad s n p ctx 3 (portCode .sr) (bankOf a) (rowOf a))
  else if boundsBad s n h hd off len then .error (recSpad s n p ctx 4 (portCode .sr) (bankOf a) (rowOf a))
  else if !tokOf s n h then .error (recSpad s n p ctx 5 (portCode .sr) (bankOf a) (rowOf a))
  else if poisonHit s n h off len then .error (recStream s n ctx 4 0 1 0 h)
  else .ok a

/-- The checks of an SW write through a handle (R81, R97). -/
def swCheck (s : State) (n p ctx h : Nat) (hd : Handle) (off len : Nat) : Except State Nat :=
  let a := handleAddr hd off
  if !writeOk hd.clsW a len then .error (recSpad s n p ctx 3 (portCode .sw) (bankOf a) (rowOf a))
  else if boundsBad s n h hd off len then .error (recSpad s n p ctx 4 (portCode .sw) (bankOf a) (rowOf a))
  else .ok a

/-- Bytes held in the outbound queue (R119). -/
def outBytes (c : Core) : Nat := (c.outq.map (·.len)).foldl (· + ·) 0

/-- SEND (R118, R119). -/
def execSend (i : Issue) (sl : Fin 8) (h : Fin 64) (ra : Fin 32) (len : BitVec 6) (s : State) :
    Host.Outcome State Fault Refusal :=
  .next (strIssue s i true (fun p ctx s =>
    let n := i.core.val
    let c := core s n
    let k := 32 * (len.toNat + 1)
    let hd := handleOf s n h.val
    match srCheck s n p ctx h.val hd (sreg c ra.val).toNat k with
    | .error t => t
    | .ok a =>
      if 32 ≤ c.outq.length ∨ 65536 < outBytes c + k then recStream s n ctx 7 sl.val 0 0 h.val
      else
        let s1 := updCore s n (fun c => { c with outq := c.outq ++ [⟨c.nextId, sl.val, k, none⟩], nextId := c.nextId + 1 })
        wideAccess s1 n ctx (now s n + 2) .sr [(a, k)] hd.clsW (.chunk c.nextId)))

/-- ARM (R99). -/
def execArm (i : Issue) (h : Fin 64) (k : BitVec 12) (s : State) : Host.Outcome State Fault Refusal :=
  .next (strIssue s i (k != 0) (fun p ctx s =>
    if h.val = 63 then recSpad s i.core.val p ctx 4 5 0 0 else armHandle s i.core.val h.val k.toNat ctx))

/-- COPY (R169): one delivery into the destination, complete in cycle x + 12. -/
def execStrCopy (i : Issue) (h : Fin 64) (ra : Fin 32) (h2 : Fin 64) (rb : Fin 32) (len : BitVec 6) (s : State) :
    Host.Outcome State Fault Refusal :=
  .next (strIssue s i true (fun p ctx s =>
    let n := i.core.val
    let c := core s n
    let k := 32 * (len.toNat + 1)
    let hd := handleOf s n h.val
    let hd2 := handleOf s n h2.val
    match srCheck s n p ctx h.val hd (sreg c ra.val).toNat k with
    | .error t => t
    | .ok a =>
      match swCheck s n p ctx h2.val hd2 (sreg c rb.val).toNat k with
      | .error t => t
      | .ok b =>
        completeAt (wideAccess (armHandle s n h2.val 1 ctx) n ctx (now s n + 2) .sr [(a, k)] hd.clsW (.move b hd2.clsW))
          n (now s n + 12) h2.val))

/-! ## Saddlebag (R105 to R110) -/

/-- Staging slot `j` of stack `k`. -/
def stageOf (s : State) (n k j : Nat) : Stage := tabGet {} (core s n).stage (16 * k + j)

/-- Replace it; SB_STAGE shows which slots hold a record and which have a write-out pending. -/
def setStage (s : State) (n k j : Nat) (v : Stage) : State :=
  let s1 := updCore s n (fun c => { c with stage := tabPut {} c.stage (16 * k + j) v })
  let pg := pgLEDGER n
  wr1 (wr1 s1 pg F.SB_STAGE.HELD k (natSetField (rd1 s1 pg F.SB_STAGE.HELD k) j 1 (bit v.rec_.isSome)))
    pg F.SB_STAGE.WOUT k (natSetField (rd1 s1 pg F.SB_STAGE.WOUT k) j 1 (bit v.wout))

/-- Whether a context may use stack `k`: enabled, owned by it, and its slots within handle 63 (R105, R109). -/
def stackOk (s : State) (n k ctx : Nat) : Bool :=
  let pg := pgLEDGER n
  let hd := handleOf s n 63
  rd1 s pg F.SB_SLOT.EN k != 0 && rd1 s pg F.SB_SPILL_CAP.CTX k == ctx
    && decide ((rd1 s pg F.SB_SLOT.FIRST k + rd1 s pg F.SB_SLOT.CAP k + 16) * 256 ≤ hd.size * 64)
    && decide (hd.size ≤ 32768) && decide (hd.base + hd.size ≤ 131072)

/-- First byte of record slot `i` of the Saddlebag. -/
def sbSlot (s : State) (n i : Nat) : Nat := handleAddr (handleOf s n 63) (256 * i)

/-- HBM address of the record at depth `d` of stack `k` (R107); ADDR_LO holds SPILL_BASE[39:8] (R115). -/
def spillAddr (s : State) (n k d : Nat) : Nat :=
  let pg := pgLEDGER n
  256 * (rd1 s pg F.SB_SPILL_LO.ADDR_LO k + rd1 s pg F.SB_SPILL_HI.ADDR_HI k <<< 32) + 256 * (d - rd1 s pg F.SB_SLOT.CAP k)

/-- Set a stack's depth and its high-water mark. -/
def setDepth (s : State) (n k d : Nat) : State :=
  raiseMax (wr1 s (pgLEDGER n) F.SB_DEPTH.DEPTH k d) (pgLEDGER n) F.SB_HWM.HWM k d

/-- PUSH (R106 to R109). -/
def execPush (i : Issue) (k : Fin 8) (h : Fin 64) (ra : Fin 32) (s : State) : Host.Outcome State Fault Refusal :=
  .next (strIssue s i true (fun p ctx s =>
    let n := i.core.val
    let pg := pgLEDGER n
    let d := rd1 s pg F.SB_DEPTH.DEPTH k.val
    let cap := rd1 s pg F.SB_SLOT.CAP k.val
    let first := rd1 s pg F.SB_SLOT.FIRST k.val
    let hd := handleOf s n h.val
    if !stackOk s n k.val ctx then recSpad s n p ctx 4 (portCode .sr) 0 0
    else if cap + rd1 s pg F.SB_SPILL_CAP.SPILL k.val ≤ d then recSpad s n p ctx 6 (portCode .sr) 0 0
    else
      match srCheck s n p ctx h.val hd (sreg (core s n) ra.val).toNat 256 with
      | .error t => t
      | .ok a =>
        let move (s : State) (slot : Nat) : State :=
          wideAccess (setDepth s n k.val (d + 1)) n ctx (now s n + 2) .sr [(a, 256)] hd.clsW
            (.move (sbSlot s n slot) (handleOf s n 63).clsW)
        if d < cap then move s (first + d)
        else
          let j := (d - cap) % 16
          if (stageOf s n k.val j).wout then recSpad s n p ctx 5 (portCode .sr) 0 0
          else move (setStage s n k.val j { rec_ := some d, wout := true, pref := none, readyAt := now s n + 12 })
            (first + cap + j)))

/-- POP (R106 to R109). -/
def execPop (i : Issue) (k : Fin 8) (h : Fin 64) (ra : Fin 32) (s : State) : Host.Outcome State Fault Refusal :=
  .next (strIssue s i true (fun p ctx s =>
    let n := i.core.val
    let pg := pgLEDGER n
    let depth := rd1 s pg F.SB_DEPTH.DEPTH k.val
    let cap := rd1 s pg F.SB_SLOT.CAP k.val
    let first := rd1 s pg F.SB_SLOT.FIRST k.val
    let hd := handleOf s n h.val
    if !stackOk s n k.val ctx then recSpad s n p ctx 4 (portCode .sw) 0 0
    else if depth = 0 then recSpad s n p ctx 7 (portCode .sw) 0 0
    else
      match swCheck s n p ctx h.val hd (sreg (core s n) ra.val).toNat 256 with
      | .error t => t
      | .ok b =>
        let d := depth - 1
        let move (s : State) (slot : Nat) : State :=
          completeAt (wideAccess (setDepth (armHandle s n h.val 1 ctx) n k.val d) n ctx (now s n + 2) .sr
            [(sbSlot s n slot, 256)] (handleOf s n 63).clsW (.move b hd.clsW)) n (now s n + 12) h.val
        if d < cap then move s (first + d)
        else
          let j := (d - cap) % 16
          let v := stageOf s n k.val j
          if v.rec_ ≠ some d then recSpad s n p ctx 5 (portCode .sw) 0 0
          else
            let next := if cap + 16 ≤ d then some (d - 16) else none
            move (setStage s n k.val j { rec_ := none, wout := false, pref := next, readyAt := now s n + 7 })
              (first + cap + j)))

/-- SB_WRITE_OUT_COMPLETE (R107, R109): the record of a staging slot reaches its place in HBM. -/
def execSbWriteOutComplete (c : Fin 256) (k : Fin 8) (j : Fin 16) (s : State) : Host.Outcome State Fault Refusal :=
  let n := c.val
  let v := stageOf s n k.val j.val
  let pg := pgLEDGER n
  let ctx := rd1 s pg F.SB_SPILL_CAP.CTX k.val
  .next (match v.rec_ with
    | some d =>
      if v.wout && decide (v.readyAt ≤ now s n) then
        let addr := spillAddr s n k.val d
        let a := sbSlot s n (rd1 s pg F.SB_SLOT.FIRST k.val + rd1 s pg F.SB_SLOT.CAP k.val + j.val)
        let s1 := setStage s n k.val j.val { v with wout := false }
        if !granted s (bankOfCore s n) ctx addr 256 false true then recStream s1 n ctx 4 0 1 0 63
        else
          let es := readErrs (core s1 n) [(a, 256)]
          let s2 := noteErrs s1 n es
          match es.find? (·.ue) with
          | some e => recSpad s2 n (ctxPart s2 n ctx) ctx 2 5 (e.row % 32) (e.row / 32)
          | none =>
            addWrap (noteStored (hbmWrite s2 addr (memRead (core s2 n).spad a 256) { kind := 0, core := n, ctx := ctx })
              n ctx addr 256) pg F.SB_WOUT_CNT.COUNT 1
      else s
    | none => s)

/-- SB_PREFETCH_COMPLETE (R108, R109): the record prefetched into a staging slot arrives. -/
def execSbPrefetchComplete (c : Fin 256) (k : Fin 8) (j : Fin 16) (s : State) : Host.Outcome State Fault Refusal :=
  let n := c.val
  let v := stageOf s n k.val j.val
  let pg := pgLEDGER n
  let ctx := rd1 s pg F.SB_SPILL_CAP.CTX k.val
  .next (match v.pref with
    | some d =>
      if v.readyAt ≤ now s n then
        let addr := spillAddr s n k.val d
        let a := sbSlot s n (rd1 s pg F.SB_SLOT.FIRST k.val + rd1 s pg F.SB_SLOT.CAP k.val + j.val)
        if !granted s (bankOfCore s n) ctx addr 256 true false then
          recStream (setStage s n k.val j.val { v with pref := none }) n ctx 4 0 1 0 63
        else
          let (bs, ue, s1) := hbmRead s addr 256
          let s2 := setStage s1 n k.val j.val { v with pref := none, rec_ := if ue then none else some d }
          if ue then recStream s2 n ctx 5 0 1 0 63
          else
            addWrap (updCore s2 n (fun x => spadWrite x (handleOf s2 n 63).clsW a bs)) pg F.SB_PREF_CNT.COUNT 1
      else s
    | none => s)

/-! ## Courier (R137 to R141) -/

/-- Module ID and window epoch in S[RC] (R169). -/
def courierDst (v : DWord) : BitVec 20 × BitVec 16 := (v.extractLsb' 0 20, v.extractLsb' 20 16)

/-- A Courier operation issues: refused when all 16 slots are held (R138), otherwise `f` performs it. -/
def courierIssue (s : State) (i : Issue) (tgt : BitVec 2) (len : BitVec 6) (qd : Fin 8)
    (f : Nat → Nat → State → Option State × State) : State :=
  strIssue s i (tgt != 3 && decide (len.toNat ≤ 7)) (fun p ctx s =>
    let n := i.core.val
    if 16 ≤ crrHeld (core s n) then
      setErr (addSat (addResult s n 1 3 (.pred qd.val false)) (pgSTREAM n) F.COURIER_REFUSED.COUNT 1) (pgSTREAM n)
        E.STREAM.CRR_REF
    else
      match f p ctx s with
      | (some t, _) => t
      | (none, t) =>
        addWrap (addResult (courierPump t n) n 1 3 (.pred qd.val true)) (pgSTREAM n) F.COURIER_ISSUED.COUNT 1)

/-- Whether an HBM target is within the grants an operation needs (R132, R339). -/
def courierGrant (s : State) (n ctx : Nat) (t : Target) (len : Nat) (r w : Bool) : Bool :=
  match t with
  | .hbm a => granted s (bankOfCore s n) ctx a len r w
  | _ => true

/-- PUT (R137). -/
def execCourierPut (i : Issue) (h : Fin 64) (ra rb rc : Fin 32) (tgt : BitVec 2) (len : BitVec 6) (qd : Fin 8) (s : State) :
    Host.Outcome State Fault Refusal :=
  .next (courierIssue s i tgt len qd (fun p ctx s =>
    let n := i.core.val
    let c := core s n
    let k := 32 * (len.toNat + 1)
    let hd := handleOf s n h.val
    let (md, ep) := courierDst (sreg c rc.val)
    match srCheck s n p ctx h.val hd (sreg c ra.val).toNat k with
    | .error t => (some t, s)
    | .ok a =>
      match targetOf s n tgt.toNat (sreg c rb.val) md ep k 32 false with
      | .error e => (some (recStream s n ctx e 0 1 0 h.val), s)
      | .ok t =>
        if !courierGrant s n ctx t k false true then (some (recStream s n ctx 4 0 1 0 h.val), s)
        else
          let s1 := addReq s n { id := 0, kind := .put, slot := 0, pc := 0, ctx := ctx, tgt := t, bytes := k, lbytes := k,
                                 conv := {}, h := h.val, off := (sreg c ra.val).toNat, data := [], idx := [], operand := 0,
                                 issued := s.esc, seq := 0, status := none, ue := false, words := 0, afterMuster := false,
                                 hd := hd, sent := false }
          (none, wideAccess s1 n ctx (now s n + 2) .sr [(a, k)] hd.clsW (.put c.nextId))))

/-- GET and ADD: the local side, the target, and the request (R137). -/
def courierRead (s : State) (i : Issue) (ctx h ra rb rc : Nat) (tgt : BitVec 2) (k al : Nat) (kind : ReqKind)
    (operand : DWord) : Option State × State :=
  let n := i.core.val
  let c := core s n
  let hd := handleOf s n h
  let off := (sreg c ra).toNat
  let lk_ := if kind = .add then 32 else k
  let (md, ep) := courierDst (sreg c rc)
  match destCheck s n ctx 0 1 0 h hd off lk_ with
  | .error t => (some t, s)
  | .ok _ =>
    match targetOf s n tgt.toNat (sreg c rb) md ep k al false with
    | .error e => (some (recStream s n ctx e 0 1 0 h), s)
    | .ok t =>
      if !courierGrant s n ctx t k true (kind == .add) then (some (recStream s n ctx 4 0 1 0 h), s)
      else
        (none, addReq (armHandle s n h 1 ctx) n
          { id := 0, kind := kind, slot := 0, pc := 0, ctx := ctx, tgt := t, bytes := k, lbytes := lk_, conv := {}, h := h,
            off := off, data := [], idx := [], operand := operand, issued := s.esc, seq := 0, status := none, ue := false,
            words := 0, afterMuster := false, hd := hd, sent := false })

/-- GET (R137). -/
def execCourierGet (i : Issue) (h : Fin 64) (ra rb rc : Fin 32) (tgt : BitVec 2) (len : BitVec 6) (qd : Fin 8) (s : State) :
    Host.Outcome State Fault Refusal :=
  .next (courierIssue s i tgt len qd (fun _ ctx s =>
    courierRead s i ctx h.val ra.val rb.val rc.val tgt (32 * (len.toNat + 1)) 32 .get 0))

/-- Courier ADD (R137). -/
def execCourierAdd (i : Issue) (h : Fin 64) (ra rb rc rd_ : Fin 32) (tgt : BitVec 2) (qd : Fin 8) (s : State) :
    Host.Outcome State Fault Refusal :=
  .next (courierIssue s i tgt 0 qd (fun _ ctx s =>
    courierRead s i ctx h.val ra.val rb.val rc.val tgt 8 8 .add (sreg (core s i.core.val) rd_.val)))

/-- The effect of a Courier operation at its target: none while it has not happened there yet; a completion status, the
data it returns and whether they hold an uncorrectable error otherwise. -/
def courierAtTarget (s : State) (n : Nat) (r : Req) : Option (Nat × List Byte × Bool × State) :=
  let b := bankOfCore s n
  match r.tgt with
  | .hbm a =>
    match r.kind with
    | .put =>
      if r.data.length ≠ r.bytes then none
      else some (0, [], false, noteStored (hbmWrite s a r.data { kind := 1, core := n, ctx := r.ctx }) n r.ctx a r.bytes)
    | .add =>
      let (bs, ue, s1) := hbmRead s a 8
      if ue then some (0, bs, true, s1)
      else
        let v := (bytesToNat bs + r.operand.toNat) % 2 ^ 64
        some (0, bs ++ zeros 24, false,
          noteStored (hbmWrite s1 a (natToBytes 8 v) { kind := 1, core := n, ctx := r.ctx }) n r.ctx a 8)
    | _ =>
      let (bs, ue, s1) := hbmRead s a r.bytes
      some (0, bs, ue, s1)
  | .spad l h off =>
    match r.kind with
    | .put =>
      if r.data.length ≠ r.bytes then none
      else (remoteWrite s b l h off r.data).map (fun x => (bit (!x.1), [], false, x.2))
    | .add =>
      match pcoreOf s b l with
      | none => none
      | some m =>
        let hd := handleOf s m h
        let a := handleAddr hd off
        if boundsBad s m h hd off 8 then some (1, [], false, s)
        else
          let es := readErrs (core s m) [(a, 8)]
          let bs := memRead (core s m).spad a 8
          let v := (bytesToNat bs + r.operand.toNat) % 2 ^ 64
          let row := a - a % (if hd.clsW then 128 else 32)
          let wid := if hd.clsW then 128 else 32
          let old := memRead (core s m).spad row wid
          let new := old.take (a - row) ++ natToBytes 8 v ++ old.drop (a - row + 8)
          some (0, bs ++ zeros 24, es.any (·.ue), updCore (noteErrs s m es) m (fun c => spadWrite c hd.clsW row new))
    | _ =>
      (remoteRead s b l h off r.bytes).map (fun x =>
        match x.1 with
        | some (bs, ue) => (0, bs, ue, x.2)
        | none => (1, [], false, x.2))
  | .window .. => r.status.map (fun st => (st, r.data, false, s))

/-- COURIER_COMPLETE (R138, R140, R141): the oldest operation to its destination completes or delivers. -/
def execCourierComplete (c : Fin 256) (id : Nat) (s : State) : Host.Outcome State Fault Refusal :=
  let n := c.val
  .next (match (core s n).reqs.find? (fun r => r.id == id && !isItin r) with
    | none => s
    | some r =>
      if courierHeld (core s n) r then s
      else match courierAtTarget s n r with
        | none => s
        | some (st, data, ue, s1) =>
          let s2 := if st ≠ 0 then remoteFault s1 n r st
            else if ue then ueFault s1 n r
            else if r.kind = .put then s1
            else landLocal s1 n r (data.take r.lbytes)
          courierPump (dropReq s2 n id) n)

end Sys2Proof.Machine
end

