-- ==== Sys2Proof/Machine/ItinCmd.lean ====
section
/-!
DEFINITION. The Itinerary instructions (R120 to R128, R131 to R133) and the completion of requests (R125).
-/
namespace Sys2Proof.Machine

/-- The instruction after index `pc` of a slot, with the return from END of its open loops (R120, R123). -/
def itinNext (v : Itin) (now_ : Nat) : Itin :=
  let nx := loopNext v.loops v.pc
  { v with pc := nx.1, loops := nx.2, readyAt := now_ + 1, waitWhy := 1 }

/-- A slot's instruction has executed; past instruction 31 it raises ILLEGAL (R122). -/
def itinDone (s : State) (n sl : Nat) (v : Itin) : State :=
  let v1 := itinNext v (now s n)
  let s1 := setSlot s n sl { v1 with pc := min v1.pc 31 }
  if 31 < v1.pc then recStream s1 n v.ctx 1 sl 0 31 0 else s1

/-- Whether a slot executes an instruction in this cycle (R120). -/
def itinOk (s : State) (n sl : Nat) : Bool :=
  let v := slotOf s n sl
  v.st == .run && decide (v.readyAt ≤ now s n) && !ctxDown s n v.ctx && !yieldPending (core s n)

/-- Execute an instruction of a slot. -/
def itinStep (s : State) (n sl : Nat) (f : Itin → State) : State := if itinOk s n sl then f (slotOf s n sl) else s

/-- An instruction that only changes the slot. -/
def itinPure (c : Fin 256) (sl : Fin 8) (f : Itin → Itin) (s : State) : State :=
  itinStep s c.val sl.val (fun v => itinDone s c.val sl.val (f v))

/-- Note why a slot waits (STREAM_ISTAT). -/
def itinWait (s : State) (n sl why : Nat) : State := setSlot s n sl { slotOf s n sl with waitWhy := why }

/-- Address register AD. -/
def areg (v : Itin) (a : Nat) : DWord := tabGet 0 v.a a

/-- Set it. -/
def setA (v : Itin) (a : Nat) (x : DWord) : Itin := { v with a := tabPut 0 v.a a x }

/-- NOP (R122). -/
def execItinNop (c : Fin 256) (sl : Fin 8) (s : State) : Host.Outcome State Fault Refusal :=
  .next (itinPure c sl (fun v => v) s)

/-- LOOP (R123). -/
def execItinLoop (c : Fin 256) (sl : Fin 8) (last : Fin 32) (cnt : BitVec 24) (s : State) :
    Host.Outcome State Fault Refusal :=
  .next (itinStep s c.val sl.val (fun v =>
    let bad := decide (last.val ≤ v.pc) || decide (6 ≤ v.loops.length)
      || (match v.loops with | l :: _ => decide (l.last < last.val) | [] => false)
    if bad then recStream s c.val v.ctx 1 sl.val 0 v.pc 0
    else setSlot s c.val sl.val { v with pc := v.pc + 1, loops := ⟨v.pc + 1, last.val, cnt.toNat⟩ :: v.loops,
                                         readyAt := now s c.val + 1, waitWhy := 1 }))

/-- SETA (R122). -/
def execSeta (c : Fin 256) (sl : Fin 8) (ad : Fin 8) (imm : BitVec 48) (s : State) : Host.Outcome State Fault Refusal :=
  .next (itinPure c sl (fun v => setA v ad.val (imm.setWidth 64)) s)

/-- SETAH (R122). -/
def execSetah (c : Fin 256) (sl : Fin 8) (ad : Fin 8) (imm : BitVec 16) (s : State) : Host.Outcome State Fault Refusal :=
  .next (itinPure c sl (fun v => setA v ad.val (imm ++ (areg v ad.val).extractLsb' 0 48)) s)

/-- ADV (R122). -/
def execAdv (c : Fin 256) (sl : Fin 8) (ad : Fin 8) (imm : BitVec 40) (s : State) : Host.Outcome State Fault Refusal :=
  .next (itinPure c sl (fun v => setA v ad.val (areg v ad.val + imm.signExtend 64)) s)

/-- SETD (R122). -/
def execSetd (c : Fin 256) (sl : Fin 8) (epoch : BitVec 16) (module : BitVec 20) (s : State) :
    Host.Outcome State Fault Refusal :=
  .next (itinPure c sl (fun v => { v with epoch := epoch, module := module }) s)

/-- CVT (R126). -/
def execCvt (c : Fin 256) (sl : Fin 8) (ereg : Fin 8) (mfmt lfmt : BitVec 8) (tid : BitVec 32) (s : State) :
    Host.Outcome State Fault Refusal :=
  .next (itinStep s c.val sl.val (fun v =>
    if cvtOk mfmt && cvtOk lfmt then
      itinDone s c.val sl.val { v with ereg := ereg.val, mfmt := mfmt, lfmt := lfmt, tid := tid }
    else recStream s c.val v.ctx 2 sl.val 0 v.pc 0))

/-- The conversion of a request issued by a slot now. -/
def slotConv (v : Itin) : Conv := { mfmt := v.mfmt, lfmt := v.lfmt, tid := v.tid, elem := (areg v v.ereg).toNat }

/-- Why a request waits (R120, R121, R129): 2 for credit, 3 for a request slot or an entry, 0 when it may issue. The
engine issues one request a cycle; a request that waits only for the engine waits without a reason of its own. -/
def reqWait (s : State) (n : Nat) (v : Itin) (fabric big : Bool) : Nat :=
  let c := core s n
  if creditNow v (now s n) = 0 then 2
  else if 48 < slotsHeld c + (if big then 2 else 1) then 3
  else if fabric ∧ 512 ≤ fabqHeld s (dieOf n) then 3
  else if c.lastReqAt = now s n + 1 then 1
  else 0

/-- Consume a credit. -/
def useCredit (v : Itin) (now_ : Nat) : Itin :=
  { v with credits := v.credits - 1, fresh := v.fresh.filter (fun x => decide (now_ < x.2)) }

/-- A request issues: it takes the engine's cycle, counts, and the slot goes on. -/
def issueReq (s : State) (n sl : Nat) (v : Itin) (r : Req) : State :=
  let s1 := addReq s n r
  let s2 := updCore s1 n (fun c => { c with lastReqAt := now s n + 1, lastSlot := sl })
  let s3 := addWrap s2 (pgSTREAM n) F.STREAM_REQ_CNT.COUNT 1
  itinDone s3 n sl (useCredit v (now s n))

/-- Count suppressed requests or sectors (R131). -/
def countSuppr (s : State) (n k : Nat) : State :=
  if k = 0 then s else setErr (addSat s (pgSTREAM n) F.STREAM_SUPPRESSED.COUNT k) (pgSTREAM n) E.STREAM.SUPPR

/-- Advance of the address registers by IT and IL (R122). -/
def advance (v : Itin) (yes : Bool) (a k : Nat) : Itin := if yes then setA v a (areg v a + BitVec.ofNat 64 k) else v

/-- A fabric request whose message leaves with it. -/
def launch (s : State) (n : Nat) : State :=
  match (core s n).reqs.getLast? with
  | some r => if isFabric r then sendReq s n r else s
  | none => s

/-- LOAD (R122, R124, R126, R131). -/
def execItinLoad (c : Fin 256) (sl : Fin 8) (at_ al : Fin 8) (h : Fin 64) (tgt : BitVec 2) (len : BitVec 7) (it il : Bool)
    (s : State) : Host.Outcome State Fault Refusal :=
  let n := c.val
  .next (itinStep s n sl.val (fun v =>
    let k := 32 * (len.toNat + 1)
    let cv := slotConv v
    let lb := localBytes cv k
    let hd := handleOf s n h.val
    let off := (areg v al.val).toNat
    let v1 := advance (advance v it at_.val k) il al.val lb
    if creditNow v (now s n) = 0 then itinWait s n sl.val 2
    else match targetOf s n tgt.toNat (areg v at_.val) v.module v.epoch k 32 true with
      | .error e => recStream s n v.ctx e sl.val 0 v.pc h.val
      | .ok t =>
        match destCheck s n v.ctx sl.val 0 v.pc h.val hd off lb with
        | .error f => f
        | .ok _ =>
          let sup := match t with | .hbm a => !granted s (bankOfCore s n) v.ctx a k true false | _ => false
          if sup then
            itinDone (completeAt (addPoison (countSuppr s n 1) n v.ctx h.val off lb) n (now s n + 4) h.val) n sl.val
              (useCredit v1 (now s n))
          else
            let fab := match t with | .window .. => true | _ => false
            let w := reqWait s n v fab (fab && decide (2048 < k))
            if w ≠ 0 then itinWait s n sl.val w
            else
              launch (issueReq s n sl.val v1
                { id := 0, kind := .load, slot := sl.val, pc := v.pc, ctx := v.ctx, tgt := t, bytes := k, lbytes := lb,
                  conv := cv, h := h.val, off := off, data := [], idx := [], operand := 0, issued := s.esc, seq := 0,
                  status := none, ue := false, words := 0, afterMuster := false, hd := hd, sent := !fab }) n))

/-- The chunks that a STORE of `k` scratchpad-side bytes takes from its slot's queue (R119, R126): none while they are not
all queued and read; otherwise their bytes and numbers, when they total exactly `k`. -/
def takeChunks : List Chunk → Nat → Option (Option (List Byte × List Nat))
  | [], k => if k = 0 then some (some ([], [])) else none
  | x :: r, k =>
    if k = 0 then some (some ([], []))
    else match x.data with
      | none => none
      | some d =>
        if k < x.len then some none
        else match takeChunks r (k - x.len) with
          | some (some (bs, ids)) => some (some (d ++ bs, x.id :: ids))
          | o => o

/-- STORE (R119, R122, R124, R126, R132). -/
def execItinStore (c : Fin 256) (sl : Fin 8) (at_ : Fin 8) (tgt : BitVec 2) (len : BitVec 7) (it : Bool) (s : State) :
    Host.Outcome State Fault Refusal :=
  let n := c.val
  .next (itinStep s n sl.val (fun v =>
    let k := 32 * (len.toNat + 1)
    let cv := slotConv v
    let lb := localBytes cv k
    let v1 := advance v it at_.val k
    if creditNow v (now s n) = 0 then itinWait s n sl.val 2
    else match targetOf s n tgt.toNat (areg v at_.val) v.module v.epoch k 32 true with
      | .error e => recStream s n v.ctx e sl.val 0 v.pc 0
      | .ok t =>
        let bad := match t with | .hbm a => !granted s (bankOfCore s n) v.ctx a k false true | _ => false
        if bad then recStream s n v.ctx 4 sl.val 0 v.pc 0
        else match takeChunks ((core s n).outq.filter (fun x => x.slot == sl.val)) lb with
          | none => itinWait s n sl.val 6
          | some none => recStream s n v.ctx 3 sl.val 0 v.pc 0
          | some (some (bs, ids)) =>
            let fab := match t with | .window .. => true | _ => false
            let w := reqWait s n v fab (fab && decide (2048 < k))
            if w ≠ 0 then itinWait s n sl.val w
            else
              let (out, fl) := convBytes s n cv cv.lfmt cv.mfmt bs
              let s1 := orFlags (updCore s n (fun c => { c with outq := c.outq.filter (fun x => !ids.contains x.id) })) n
                v.ctx fl
              let elems := k / cvtBytes (formatByteOf cv.mfmt)
              launch (issueReq s1 n sl.val v1
                { id := 0, kind := .store, slot := sl.val, pc := v.pc, ctx := v.ctx, tgt := t, bytes := k, lbytes := lb,
                  conv := cv, h := 0, off := 0, data := out, idx := [], operand := 0, issued := s.esc, seq := 0,
                  status := none, ue := false, words := convWords cv cv.mfmt elems, afterMuster := false, hd := {},
                  sent := !fab }) n))

/-- GATHER (R127, R131). -/
def execGather (c : Fin 256) (sl : Fin 8) (at_ al : Fin 8) (h ih : Fin 64) (ai : Fin 8) (cnt : BitVec 6) (il ii : Bool)
    (s : State) : Host.Outcome State Fault Refusal :=
  let n := c.val
  .next (itinStep s n sl.val (fun v =>
    let k := cnt.toNat + 1
    let hd := handleOf s n h.val
    let hi := handleOf s n ih.val
    let off := (areg v al.val).toNat
    let io := (areg v ai.val).toNat
    let base := (areg v at_.val).toNat
    let ia := handleAddr hi io
    let v1 := advance (advance v il al.val (32 * k)) ii ai.val (4 * k)
    let w := reqWait s n v false false
    if w ≠ 0 then itinWait s n sl.val w
    else if io % 32 ≠ 0 then recSpad s n (ctxPart s n v.ctx) v.ctx 3 5 (bankOf ia) (rowOf ia)
    else if boundsBad s n ih.val hi io (4 * k) || decide (2 ^ 42 ≤ base) || base % 32 != 0 then
      recStream s n v.ctx 3 sl.val 0 v.pc ih.val
    else match destCheck s n v.ctx sl.val 0 v.pc h.val hd off (32 * k) with
      | .error f => f
      | .ok _ =>
        let es := readErrs (core s n) [(ia, 4 * k)]
        let idx := (List.range k).map (fun i => memNat (core s n).spad (ia + 4 * i) 4)
        let miss := (List.range k).filter (fun i =>
          !granted s (bankOfCore s n) v.ctx (base + 32 * idx.getD i 0) 32 true false)
        let s1 := miss.foldl (fun s i => addPoison s n v.ctx h.val (off + 32 * i) 32) (countSuppr (noteErrs s n es) n miss.length)
        let marked := (List.range k).map (fun i => if miss.contains i then 2 ^ 32 else idx.getD i 0)
        if es.any (·.ue) then recSpad s1 n (ctxPart s n v.ctx) v.ctx 2 5 (bankOf ia) (rowOf ia)
        else issueReq (addWrap s1 (pgSTREAM n) F.STREAM_GATHER_CNT.COUNT 1) n sl.val v1
          { id := 0, kind := .gather, slot := sl.val, pc := v.pc, ctx := v.ctx, tgt := .hbm base, bytes := 32 * k,
            lbytes := 32 * k, conv := {}, h := h.val, off := off, data := [], idx := marked, operand := 0, issued := s.esc,
            seq := 0, status := none, ue := false, words := 0, afterMuster := false, hd := hd }))

/-- FENCE (R122). -/
def execFence (c : Fin 256) (sl : Fin 8) (s : State) : Host.Outcome State Fault Refusal :=
  .next (itinStep s c.val sl.val (fun v =>
    if slotBusy (core s c.val) sl.val then itinWait s c.val sl.val 4 else itinDone s c.val sl.val v))

/-- END (R122): the slot enters DONE when its requests are complete. -/
def execItinEnd (c : Fin 256) (sl : Fin 8) (s : State) : Host.Outcome State Fault Refusal :=
  .next (itinStep s c.val sl.val (fun v =>
    settleSlot (setSlot s c.val sl.val { v with st := .stopping }) c.val sl.val))

/-! ## Completion (R125) -/

/-- Change an outstanding request. -/
def updReq (s : State) (n id : Nat) (f : Req → Req) : State :=
  updCore s n (fun c => { c with reqs := c.reqs.map (fun r => if r.id = id then f r else r) })

/-- The data of a read has come back from its target: it is known what will land (R125, R126). -/
def readBack (s : State) (n : Nat) (r : Req) (data : List Byte) (ue : Bool) : State :=
  countBytes (updReq s n r.id (fun x =>
    { x with status := some 0, data := data, ue := x.ue || ue,
             words := convWords r.conv r.conv.lfmt (r.bytes / cvtBytes (formatByteOf r.conv.mfmt)) })) n r.bytes

/-- Read the granted sectors of a gather (R127): a missing sector has no bytes. -/
def readSectors (s : State) (base : Nat) : List Nat → List Byte × Bool × State
  | [] => ([], false, s)
  | i :: r =>
    if i = 2 ^ 32 then
      let (bs, ue, s1) := readSectors s base r
      (zeros 32 ++ bs, ue, s1)
    else
      let (d, u, s1) := hbmRead s (base + 32 * i) 32
      let (bs, ue, s2) := readSectors s1 base r
      (d ++ bs, u || ue, s2)

/-- REQUEST_COMPLETE (R125): a read has its data, or a store completes, at its target. -/
def execRequestComplete (c : Fin 256) (id : Nat) (s : State) : Host.Outcome State Fault Refusal :=
  let n := c.val
  let b := bankOfCore s n
  .next (match (core s n).reqs.find? (fun r => r.id == id && isItin r) with
    | none => s
    | some r =>
      match r.kind, r.tgt with
      | .store, .hbm a =>
        if r.words ≠ 0 then s
        else countBytes (dropReq (noteStored (hbmWrite s a r.data { kind := 0, core := n, ctx := r.ctx }) n r.ctx a r.bytes)
          n id) n r.bytes
      | .store, .spad l h off =>
        if r.words ≠ 0 then s
        else match remoteWrite s b l h off r.data with
          | none => s
          | some (ok, s1) =>
            let s2 := if ok then countBytes s1 n r.bytes else remoteFault s1 n r 1
            dropReq s2 n id
      | .store, .window .. =>
        match r.status with
        | none => s
        | some st => dropReq (if st = 0 then countBytes s n r.bytes else remoteFault s n r st) n id
      | .load, .hbm a =>
        if r.status.isSome then s
        else
          let (bs, ue, s1) := hbmRead s a r.bytes
          readBack s1 n r bs ue
      | .load, .spad l h off =>
        if r.status.isSome then s
        else match remoteRead s b l h off r.bytes with
          | none => s
          | some (some (bs, ue), s1) => readBack s1 n r bs ue
          | some (none, s1) => updReq s1 n id (fun x => { x with status := some 1 })
      | .load, .window .. =>
        match r.status with
        | some 0 => if r.words = 0 ∧ r.operand = 0 then updReq (readBack s n r r.data false) n id (fun x => { x with operand := 1 })
            else s
        | _ => s
      | .gather, .hbm a =>
        if r.status.isSome then s
        else
          let (bs, ue, s1) := readSectors s a r.idx
          readBack s1 n r bs ue
      | _, _ => s)

/-- Land a gather's sectors, leaving the missing ones untouched (R131). -/
def landSectors (s : State) (n : Nat) (r : Req) : State :=
  let a := handleAddr r.hd r.off
  let s1 := (List.range r.idx.length).foldl (fun s i =>
    if r.idx.getD i 0 = 2 ^ 32 then s
    else updCore s n (fun c => spadWrite c r.hd.clsW (a + 32 * i) ((r.data.drop (32 * i)).take 32))) s
  completeAt s1 n (now s n) r.h

/-- Land a class W gather whose sectors share rows: present sectors are placed over the bytes the rows hold. -/
def landGather (s : State) (n : Nat) (r : Req) : State :=
  if r.hd.clsW then
    let a := handleAddr r.hd r.off
    let bs := (List.range r.idx.length).flatMap (fun i =>
      if r.idx.getD i 0 = 2 ^ 32 then memRead (core s n).spad (a + 32 * i) 32 else (r.data.drop (32 * i)).take 32)
    completeAt (updCore s n (fun c => spadWrite c true a bs)) n (now s n) r.h
  else landSectors s n r

/-- DELIVERY_COMPLETE (R99, R125): the delivery of a LOAD or a gather lands and completes. -/
def execDeliveryComplete (c : Fin 256) (id : Nat) (s : State) : Host.Outcome State Fault Refusal :=
  let n := c.val
  .next (match (core s n).reqs.find? (fun r => r.id == id && (r.kind == .load || r.kind == .gather)) with
    | none => s
    | some r =>
      match r.status with
      | none => s
      | some st =>
        if st ≠ 0 then dropReq (remoteFault s n r st) n id
        else if r.words ≠ 0 ∨ (isFabric r ∧ r.operand = 0) then s
        else if r.ue then dropReq (ueFault s n r) n id
        else if r.kind = .gather then dropReq (landGather s n r) n id
        else
          let (out, fl) := convBytes s n r.conv r.conv.mfmt r.conv.lfmt r.data
          dropReq (landLocal (orFlags s n r.ctx fl) n r out) n id)

end Sys2Proof.Machine
end

