-- ==== Sys2Proof/Machine/MusterOps.lean ====
section
/-!
DEFINITION. The Muster (R142 to R146): fences, arrivals, what completes it, and its release, with the scale-history shift
(R41), the latching of step values (R177) and the Curfew milestones it reaches (R357).
-/
namespace Sys2Proof.Machine

/-- JOB_STATE.STATE of a bank. -/
def jobState (s : State) (b : Nat) : Nat := rd1 s pgJOB F.JOB_STATE.STATE b

/-- Set it. -/
def setJobState (s : State) (b v : Nat) : State := wr1 s pgJOB F.JOB_STATE.STATE b v

/-- Whether the fence of a MUSTER is met (R143). -/
def fenceMet (c : Core) (fence : Nat) : Bool :=
  let write (r : Req) : Bool := !r.afterMuster && (r.kind == .store || r.kind == .put || r.kind == .add)
  let peer (r : Req) : Bool := !r.afterMuster && isFabric r && (r.kind == .store || !isItin r)
  if fence = 0 then true
  else if fence = 1 then !(c.reqs.any (fun r => write r && !isFabric r))
  else !(c.reqs.any (fun r => write r || peer r))

/-- Write the DIGEST records of a core and reset its digests (R198, R199). -/
def digestRecords (s : State) (n : Nat) : State :=
  let s1 := (corePartList s n).foldl (fun s p =>
    let c := core s n
    traceRec s n 0x05 (partCtx s n p) p
      (crcFin (tabGet 0xFFFFFFFF c.digest p) + (tabGet 0 c.digestRows p) <<< 32)) s
  updCore s1 n (fun c => { c with digest := [], digestRows := [] })

/-- MUSTER_SEQ (R144): every context on the core is torn down. -/
def recMusterSeq (s : State) (n : Nat) : State := (coreCtxs s n).foldl (fun s x => recStream s n x 8 0 1 0 0) s

/-- MUSTER_ARRIVAL (R143, R144): the core's arrival is sent and counted. -/
def execMusterArrival (c : Fin 256) (s : State) : Host.Outcome State Fault Refusal :=
  let n := c.val
  let k := core s n
  .next (match k.run, k.lcore with
    | .muster fence kind scope false, some l =>
      if fenceMet k fence && !allDown s n then
        let s1 := traceRec (digestRecords s n) n 0x03 (partCtx s n 0) 0 (fence + kind <<< 2 + scope <<< 4)
        let s2 := updCore s1 n (fun c => { c with run := .muster fence kind scope true })
        let s3 := updLcore s2 k.bank l (fun x => { x with arrived := some (kind, scope) })
        if rd s (pgSTREAM n) F.MUSTER_SEQ.SEQ = (jobOf s k.bank).mseq then s3 else recMusterSeq s3 n
      else s
    | _, _ => s)

/-! ## Completion -/

/-- The contexts of a logical core (R338). -/
def lcoreCtxs (x : LCore) : List Nat :=
  ((List.range (partCount x.mode)).map (fun p => natField x.ctxs (4 * p) 4)).eraseDups

/-- Whether a context of a job is torn down. -/
def ctxGone (j : Job) (ctx : Nat) : Bool := (tabGet {} j.downs ctx).status != 0

/-- Whether a logical core counts as arrived because its contexts are torn down (R145). -/
def lcoreGone (j : Job) (x : LCore) : Bool := (lcoreCtxs x).all (ctxGone j)

/-- The outcome of a Muster at which every participant has arrived, the plan entries that name its position included:
status, KIND and SCOPE (R145, R281). -/
def musterDone (s : State) (b : Nat) : Option (Nat × Nat × Nat) :=
  let j := jobOf s b
  let xs := (List.range j.nl).map (lcoreOf j)
  let as := xs.filterMap (·.arrived)
  if xs.all (fun x => x.arrived.isSome || lcoreGone j x) && !as.isEmpty then
    let kind := (as.map (·.1)).foldl max 0
    let scope := (as.map (·.2)).foldl max 0
    let mixed := as.any (fun a => a != as.headD (0, 0))
    let (miss, cdeg) := match (if kind = 1 then none else nextPos j kind) with
      | some p => (carMissing s b p, carDegraded s b p)
      | none => (false, false)
    let deg := xs.any (lcoreGone j) || cdeg
    if miss then none else some (if mixed then 2 else if deg then 1 else 0, kind, scope)
  else none

/-- One place of the history of a scale entry (R41). -/
def shiftEnt (e : ScaleEnt) : ScaleEnt := { e with hist := e.rmax :: e.hist.take 15, rmax := 0 }

/-- The scale-history shift of a core (R41). -/
def shiftScale (c : Core) : Core :=
  { c with scale := c.scale.foldl (fun m x => tabPut {} m x.1 (shiftEnt x.2)) [] }

/-- State of a milestone: 0 PENDING, 1 MET, 2 MISSED, 3 EARLY. -/
def mileState (s : State) (b i : Nat) : Nat := natField (rd2 s pgJOB F.JOB_CURFEW_STAT.M b (i / 16)) (2 * (i % 16)) 2

/-- Set it. -/
def setMile (s : State) (b i v : Nat) : State :=
  wr2 s pgJOB F.JOB_CURFEW_STAT.M b (i / 16)
    (natSetField (rd2 s pgJOB F.JOB_CURFEW_STAT.M b (i / 16)) (2 * (i % 16)) 2 v)

/-- JOB_ESC0 of a bank. -/
def esc0 (s : State) (b : Nat) : Nat := rd64 s pgJOB F.JOB_ESC0_LO.ESC F.JOB_ESC0_HI.ESC b

/-- The event-stamp count since JOB_ESC0. -/
def sinceStart (s : State) (b : Nat) : Nat := s.esc - esc0 s b

/-- Milestones of a job that an event reaches (R357): within the window MET, before it EARLY with an event. -/
def reachMiles (s : State) (b : Nat) (hit : Mile → Bool) : State :=
  (jobOf s b).miles.foldl (fun s x =>
    let t := sinceStart s b
    if x.2.valid && hit x.2 && mileState s b x.1 == 0 then
      if t < x.2.opens then
        raiseEvent (setErr (setMile s b x.1 3) pgJOB (E.JOB.EARLY + b)) 0x0C 0 0 [(1, x.1), (2, 0)]
      else if t < x.2.closes then setMile s b x.1 1
      else s
    else s) s

/-- Release one core (R146 step 8). -/
def releaseCore (s : State) (n status kind : Nat) : State :=
  match (core s n).run with
  | .muster .. =>
    let s1 := updCore s n (fun c =>
      let c1 := if kind = 1 then shiftScale c else c
      { c1 with run := .issuing, nextIssue := now s n + 1, stored := [], prefDone := [] })
    let pg := pgSTREAM n
    let s2 := wr (wr s1 pg F.MUSTER_STAT.WAIT 0) pg F.MUSTER_STAT.LAST status
    let s3 := wr s2 pg F.MUSTER_SEQ.SEQ ((rd s2 pg F.MUSTER_SEQ.SEQ + 1) % 65536)
    let s4 := if status = 0 then s3 else setErr s3 pg E.STREAM.MUSTER_DEG
    let step := rd64 s pgJOB F.JOB_STEPNUM_L_LO.NUM F.JOB_STEPNUM_L_HI.NUM (core s n).bank
    if kind = 1 then traceRec s4 n 0x01 (partCtx s n 0) 0 step
    else if kind = 2 then traceRec s4 n 0x02 (partCtx s n 0) 0 status
    else traceRec s4 n 0x04 (partCtx s n 0) 0 status
  | _ => s

/-- A saved-out logical core that waits at the Muster is released in its saved state. -/
def releaseSaved (x : LCore) (kind : Nat) : LCore :=
  { x with arrived := none, atMuster := false, saved := if x.atMuster then x.saved.map (fun c =>
      let c1 := if kind = 1 then shiftScale c else c
      { c1 with run := .issuing, stored := [] }) else x.saved }

/-- Latch the step values of a bank (R177). -/
def latchStep (s : State) (b : Nat) : State :=
  let s1 := wr1 s pgJOB F.JOB_STEPSZ_L.SZ b (rd1 s pgJOB F.JOB_STEPSZ.SZ b)
  wr64 s1 pgJOB F.JOB_STEPNUM_L_LO.NUM F.JOB_STEPNUM_L_HI.NUM b
    (rd64 s pgJOB F.JOB_STEPNUM_LO.NUM F.JOB_STEPNUM_HI.NUM b)

/-- The release of a Muster (R146): the milestones it reaches (R357), the step values for KIND 1, then every participant. -/
def releaseMuster (s : State) (b status kind scope : Nat) : State :=
  let j := jobOf s b
  let s1 := reachMiles s b (fun m => m.kind == 0 && m.value % 65536 == j.mseq)
  let step := rd64 s1 pgJOB F.JOB_STEPNUM_L_LO.NUM F.JOB_STEPNUM_L_HI.NUM b
  let s2 := if kind = 2 then reachMiles s1 b (fun m => m.kind == 1 && m.value == step) else s1
  let s3 := if kind = 1 then latchStep s2 b else s2
  let ns := (s3.cores.filter (fun x => x.2.bank == b && x.2.lcore.isSome)).map (·.1)
  let s4 := ns.foldl (fun s n => releaseCore s n status kind) s3
  let s5 := updJob s4 b (fun j =>
    { j with mseq := (j.mseq + 1) % 65536, sentUp := false, permitTaken := false, mpos := nextPos j kind,
             steps := if kind = 1 then j.steps + 1 else j.steps,
             lcores := j.lcores.foldl (fun m x => tabPut {} m x.1 (releaseSaved x.2 kind)) [] })
  let s6 := match nextPos j kind with
    | some p => triggerAt s5 b p
    | none => s5
  if status = 0 then s6 else raiseEvent s6 0x03 0 0 [(1, status), (2, scope), (4, j.mseq)]

/-- Whether the module's arrival at its Muster is complete (R344): a step-start Muster of a gated job takes a permit. -/
def takePermit (s : State) (b kind : Nat) : Option State :=
  let j := jobOf s b
  if kind = 1 ∧ j.stepGate ∧ !j.permitTaken then
    let p := rd1 s pgJOB F.JOB_GO.PERMITS b
    if p = 0 then none else some (updJob (wr1 s pgJOB F.JOB_GO.PERMITS b (p - 1)) b (fun j => { j with permitTaken := true }))
  else some s

end Sys2Proof.Machine
end

