-- ==== Sys2Proof/Machine/Caravan.lean ====
section
/-!
DEFINITION. The commands of Caravan (R274 to R300): activation and completion of entries, the messages of collectives, the
all-to-all exchanges, permutes and Relay, and re-sharding.
-/
namespace Sys2Proof.Machine

/-! ## Reading an instance's lists -/

/-- The slices of a RELAY entry (R290): logical core, H0, H1, offset in the block, length, offset in the handle. -/
structure Slice where
  lcore : Nat
  h0 : Nat
  h1 : Nat
  off : Nat
  len : Nat
  hoff : Nat
  deriving DecidableEq, Repr

/-- The slice table of a RELAY instance. -/
def slicesOf (s : State) (i : Inst) : List Slice :=
  (List.range (natField (peParam (insPlan s i)) 0 8)).map (fun k =>
    let v := bytesToNat (hbmPeek s (insAux s i + 16 * k) 16)
    { lcore := natField v 0 8, h0 := natField v 8 6, h1 := natField v 14 6, off := natField v 32 32,
      len := natField v 64 32, hoff := natField v 96 23 })

/-- A segment of a PERMUTE (R287): source address, destination rank, destination address, bytes. -/
structure Segment where
  src : Nat
  rank : Nat
  dst : Nat
  len : Nat
  deriving DecidableEq, Repr

/-- The segment list of a PERMUTE instance. -/
def segmentsOf (s : State) (i : Inst) : List Segment :=
  (List.range (peCount (insPlan s i))).map (fun k =>
    let v := bytesToNat (hbmPeek s (insAux s i + 16 * k) 16)
    { src := natField v 0 42, rank := natField v 42 18, dst := natField v 64 42, len := 32 * natField v 106 22 })

/-- Index entries of DISPATCH and COMBINE (R288). -/
def indexOf (s : State) (i : Inst) : List Nat :=
  let v := insPlan s i
  splitWords 4 (peCount v * a2aFanout v) (hbmPeek s (insAux s i) (4 * (peCount v * a2aFanout v)))

/-! ## Sizes (R277) -/

/-- Bytes of an element of IN_FMT and of OUT_FMT. -/
def inBytes (v : Nat) : Nat := cvtBytes (formatByteOf (peIn v))
def outBytesOf (v : Nat) : Nat := cvtBytes (formatByteOf (peOut v))

/-- Elements of a shard of a reduction. -/
def shardElems (s : State) (i : Inst) : Nat := peCount (insPlan s i) / insSize s i

/-- The ranges that an instance reads and writes, as (address, bytes, write). -/
def insRanges (s : State) (i : Inst) : List (Nat × Nat × Bool) :=
  let v := insPlan s i
  let c := peCount v
  let n := insSize s i
  let rows := 4096 + a2aExperts v * a2aCap v * a2aRow v
  let lst := 4 * (c * a2aFanout v)
  match peOpc v with
  | 1 => [(insSrc s i, c * inBytes v, false), (insDst s i, c * outBytesOf v, true)]
  | 2 => [(insSrc s i, c * inBytes v, false), (insDst s i, c / n * outBytesOf v, true)]
  | 3 => [(insSrc s i, c, false), (insDst s i, n * c, true)]
  | 4 => (if insRank s i = natField (peParam v) 0 18 then [(insSrc s i, c, false)] else []) ++ [(insDst s i, c, true)]
  | 5 => [(insSrc s i, c * a2aRow v, false), (insAux s i, lst, false), (insDst s i, rows, true)]
  | 6 => [(insSrc s i, rows, false), (insAux s i, lst, false), (insDst s i, c * a2aFanout v * a2aRow v, true)]
  | 7 => (insAux s i, 16 * c, false) :: (segmentsOf s i).map (fun g => (g.src, g.len, false))
  | _ => [(insSrc s i, c, false), (insAux s i, 16 * natField (peParam v) 0 8, false)]

/-- Whether a rule of the first row of R299 is broken. -/
def boundsRule (s : State) (i : Inst) : Bool :=
  let v := insPlan s i
  let g := insGroup s i
  let n := groupSize s g
  let c := peCount v
  peOpc v == 0 || decide (8 < peOpc v) || n == 0 || (ownRank s g).isNone || peNmode v == 3 || peBuf v == 0
    || decide (16112 < peBuf v)
    || (decide (1 < peTcount v) && (peTstride v == 0 || peOpc (planOf s (i.entry + 1)) != 0xF))
    || (match peOpc v with
      | 1 => c % (16 * n) != 0
      | 2 => c % (16 * n) != 0
      | 3 => c % 32 != 0
      | 4 => c % 32 != 0 || decide (n ≤ natField (peParam v) 0 18)
      | 8 => c % 32 != 0 || natField (peParam v) 0 8 == 0 || decide (240 < natField (peParam v) 0 8)
          || (slicesOf s i).any (fun x => x.off % 32 != 0 || x.len % 32 != 0 || x.hoff % 32 != 0
            || decide (c < x.off + x.len) || decide ((jobOf s i.bank).nl ≤ x.lcore))
      | 7 => (segmentsOf s i).any (fun x => decide (n ≤ x.rank))
      | _ => false)

/-- Whether a format rule is broken (R277, R299). -/
def formatRule (v : Nat) : Bool :=
  (peOpc v == 1 || peOpc v == 2) && (!cvtOk (peIn v) || !cvtOk (peOut v) || (formatByteOf (peOut v)).rnd)

/-- Whether the ranges of an instance lie outside its context's grants. -/
def grantRule (s : State) (i : Inst) : Bool :=
  (insRanges s i).any (fun r => r.2.1 != 0 && !granted s i.bank (peCtx (insPlan s i)) r.1 r.2.1 (!r.2.2) r.2.2)

/-! ## Limits (R297, R298) -/

/-- Grant a sender a byte limit (R297). -/
def grantTo (s : State) (i : Inst) (r lim : Nat) : State := sendRank s i 0x80 r lim [] false

/-- Limit that a reduction grants each sender: what is reduced and a share of the working buffer (log entry 12). -/
def contribLimit (s : State) (i : Inst) : Nat :=
  let v := insPlan s i
  let b := inBytes v
  let all := shardElems s i * b
  let share := if peBuf v * 4096 < (insSize s i - 1) * all then max 32 (peBuf v * 4096 / (insSize s i - 1) / 32 * 32) else all
  min all (i.done * b + share)

/-- Grant every other rank of a reduction its limit. -/
def grantContrib (s : State) (i : Inst) : State :=
  (otherRanks s i).foldl (fun s r => grantTo s i r (contribLimit s i)) s

/-! ## Reductions (R282, R283) -/

/-- One level of the tree. -/
def treePairs : List Nat → List Nat
  | a :: b :: r => (convertTo fmtFP32 false .rne (addFV (decodeFmt fmtFP32 a) (decodeFmt fmtFP32 b)).1).1 :: treePairs r
  | l => l

/-- The tree over the contributions in rank order. -/
def treeSumRanks : Nat → List Nat → Nat
  | 0, l => l.headD 0
  | k + 1, l => match l with
    | [x] => x
    | [] => 0
    | l => treeSumRanks k (treePairs l)

/-- A contribution widened to FP32. -/
def widenIn (v x : Nat) : Nat := if (formatByteOf (peIn v)).elem = 0 then x else x <<< 16

/-- A reduced value in OUT_FMT (R283): a NaN is the canonical one. -/
def outValue (v x : Nat) : Nat :=
  match decodeFmt fmtFP32 x with
  | .nan _ => canonNaN (if (formatByteOf (peOut v)).elem = 0 then fmtFP32 else fmtBF16) false
  | f => if (formatByteOf (peOut v)).elem = 0 then x else (convertTo fmtBF16 (formatByteOf (peOut v)).sat .rne f).1

/-- Bytes held from a rank. -/
def heldOf (i : Inst) (r : Nat) : Memory := ((i.held.find? (fun x => x.1 == r)).map (·.2)).getD []

/-- Replace them. -/
def setHeld (i : Inst) (r : Nat) (m : Memory) : Inst :=
  { i with held := (r, m) :: i.held.filter (fun x => x.1 != r) }

/-- Reduce the elements of the own shard that every rank has contributed, write them, and send them on (R282). -/
def reduceMore (s : State) (i : Inst) : State :=
  let v := insPlan s i
  let n := insSize s i
  let b := inBytes v
  let ready := (List.range n).foldl (fun m r => min m (tabGet 0 i.got r / b)) (shardElems s i)
  if ready ≤ i.done then s
  else
    let vals := (List.range (ready - i.done)).map (fun k =>
      outValue v (treeSumRanks n ((List.range n).map (fun r => widenIn v (memNat (heldOf i r) ((i.done + k) * b) b)))))
    let bs := vals.flatMap (natToBytes (outBytesOf v))
    let off := (if peOpc v = 1 then insRank s i * shardElems s i else 0) * outBytesOf v + i.done * outBytesOf v
    let s1 := hbmWrite s (insDst s i + off) bs { kind := 3 }
    let i1 := { i with done := ready }
    let s2 := setInst s1 i1
    let s3 := if peOpc v = 1 then (otherRanks s2 i1).foldl (fun s r => sendBytes i1 0x82 r false (bs.length / 4096 + 1) s off bs) s2
      else s2
    if contribLimit s i < contribLimit s3 i1 then grantContrib s3 i1 else s3

/-! ## All-to-all (R288, R289) -/

/-- The index entries of a list that name a rank and an expert, in ascending k. -/
def kOf (idx : List Nat) (r e : Nat) : List Nat :=
  (List.range idx.length).filter (fun k =>
    let x := idx.getD k 0
    x.testBit 31 && natField x 0 18 == r && natField x 18 6 == e)

/-- Received count of a rank and expert. -/
def cntOf (i : Inst) (r e : Nat) : Nat := tabGet 0 i.counts (64 * r + e)

/-- Rows of expert `e` from ranks below `r`. -/
def rowBase (i : Inst) (r e : Nat) : Nat := ((List.range r).map (fun q => cntOf i q e)).foldl (· + ·) 0

/-- The rows that a dispatch sends to a rank: by expert, then by k (log entry 13): the index entry of each. -/
def dispatchRows (v : Nat) (idx : List Nat) (r : Nat) : List Nat :=
  (List.range (a2aExperts v)).flatMap (fun e => kOf idx r e)

/-- The rows that a combine returns to a rank: the places (expert, j) in its SRC of the rows that rank sent and that were
not dropped. -/
def combineRows (s : State) (i : Inst) (r : Nat) : List (Nat × Nat) :=
  let v := insPlan s i
  let d := natField (peParam v) 48 10
  let c (q e : Nat) : Nat := tabGet 0 s.car.a2a (d * 2 ^ 24 + 64 * q + e)
  (List.range (a2aExperts v)).flatMap (fun e =>
    let b := ((List.range r).map (fun q => c q e)).foldl (· + ·) 0
    ((List.range (c r e)).filter (fun j => decide (b + j < a2aCap v))).map (fun j => (e, b + j)))

/-- The row stream of an instance to a rank. -/
def rowStream (s : State) (i : Inst) (r : Nat) : List Byte :=
  let v := insPlan s i
  if peOpc v = 5 then
    (dispatchRows v i.idx r).flatMap (fun k => hbmPeek s (insSrc s i + a2aRow v * (k / a2aFanout v)) (a2aRow v))
  else
    (combineRows s i r).flatMap (fun x => hbmPeek s (insSrc s i + 4096 + (x.1 * a2aCap v + x.2) * a2aRow v) (a2aRow v))

/-- The counts that an instance sends to a rank: rows for each local expert, or rows returned of each. -/
def countsFor (s : State) (i : Inst) (r : Nat) : List Nat :=
  let v := insPlan s i
  (List.range (a2aExperts v)).map (fun e =>
    if peOpc v = 5 then (kOf i.idx r e).length else ((combineRows s i r).filter (fun x => x.1 == e)).length)

/-- The expert of row `m` of a stream from a rank, and its place among that rank's rows of the expert. -/
def rowExpert (i : Inst) (r : Nat) : Nat → Nat → Nat → Nat × Nat
  | 0, e, m => (e, m)
  | k + 1, e, m => if m < cntOf i r e then (e, m) else rowExpert i r k (e + 1) (m - cntOf i r e)

/-- Place row `m` of the stream from rank `r` (R288, R289). -/
def placeRow (s : State) (i : Inst) (r m : Nat) (row : List Byte) : State :=
  let v := insPlan s i
  let (e, k) := rowExpert i r 64 0 m
  if peOpc v = 5 then
    let j := rowBase i r e + k
    if j < a2aCap v then hbmWrite s (insDst s i + 4096 + (e * a2aCap v + j) * a2aRow v) row { kind := 3 } else s
  else
    match (kOf i.idx r e)[k]? with
    | some x => hbmWrite s (insDst s i + x * a2aRow v) row { kind := 3 }
    | none => s

/-- Place whole rows from a rank's stream at a byte offset. -/
def placeRows (i : Inst) (r : Nat) : Nat → State → Nat → List Byte → State
  | 0, s, _, _ => s
  | k + 1, s, off, bs =>
    let w := a2aRow (insPlan s i)
    if bs.length < w then s else placeRows i r k (placeRow s i r (off / w) (bs.take w)) (off + w) (bs.drop w)

/-- Bytes of the row stream that a rank sends, once its counts are known. -/
def streamLen (s : State) (i : Inst) (r : Nat) : Nat :=
  ((List.range (a2aExperts (insPlan s i))).map (fun e => cntOf i r e)).foldl (· + ·) 0 * a2aRow (insPlan s i)

/-- Once every rank's counts are known: the own rows are placed and the other ranks may send theirs. -/
def a2aReady (s : State) (i : Inst) : State :=
  let n := insSize s i
  let v := insPlan s i
  if i.from_.length = n then
    let r := insRank s i
    let bs := rowStream s i r
    let s1 := if peOpc v = 5 then s
      else
        -- positions that no row comes back to are zero (R289)
        (List.range i.idx.length).foldl (fun s k =>
          hbmWrite s (insDst s i + k * a2aRow v) (zeros (a2aRow v)) { kind := 3 }) s
    let s2 := placeRows i r (bs.length / a2aRow v + 1) s1 0 bs
    let s3 := if peOpc v = 5 then
        (List.range (a2aExperts v)).foldl (fun s e =>
          hbmWrite s (insDst s i + 4 * e) (natToBytes 4 (min (rowBase i n e) (a2aCap v))) { kind := 3 }) s2
      else s2
    let drop := ((List.range (a2aExperts v)).map (fun e => rowBase i n e - a2aCap v)).foldl (· + ·) 0
    let i1 := { i with got := tabPut 0 i.got r bs.length, sent := tabPut 0 i.sent r bs.length,
                       dropped := if peOpc v = 5 then drop else 0 }
    let s4 := setInst s3 i1
    (otherRanks s4 i1).foldl (fun s q => grantTo s i1 q (streamLen s i1 q)) s4
  else s

/-- Record a rank's counts. -/
def setCounts (i : Inst) (r : Nat) (cs : List Nat) : Inst :=
  { i with from_ := i.from_ ++ [r],
           counts := (List.range cs.length).foldl (fun m e => tabPut 0 m (64 * r + e) (cs.getD e 0)) i.counts }

/-! ## Relay (R290, R291) -/

/-- Handle of a slice that takes block `j`. -/
def sliceH (x : Slice) (j : Nat) : Nat := if j % 2 = 1 then x.h0 else x.h1

/-- Limit that Relay grants its predecessor: two blocks ahead of the last landed (log entry 12). -/
def relayLimit (s : State) (i : Inst) : Nat :=
  min ((i.done + 2) * peCount (insPlan s i)) ((insSize s i - 1) * peCount (insPlan s i))

/-- Send the predecessor its limit. -/
def grantRelay (s : State) (i : Inst) : State :=
  let n := insSize s i
  if n < 2 then s else sendRank s i 0xA1 ((insRank s i + n - 1) % n) (relayLimit s i) [] false

/-- Send bytes of the stream to the successor, from its byte `off`: block j + 1 there is block j here, the own block being
block 1 there. -/
def sendRelay (s : State) (i : Inst) (off : Nat) (bs : List Byte) : State :=
  let n := insSize s i
  let c := peCount (insPlan s i)
  let r := insRank s i
  let blk := off / c + 1
  sendBytes i 0xA0 ((r + 1) % n) (r + 1 == n) (bs.length / 4096 + 1) s (off % c + blk <<< 40) bs

/-- Whether an instance has done all it has to (R291 and the operations of R277). -/
def insDone (s : State) (i : Inst) : Bool :=
  let v := insPlan s i
  let n := insSize s i
  let r := insRank s i
  let others := otherRanks s i
  match peOpc v with
  | 1 => i.done == shardElems s i && others.all (fun q =>
      tabGet 0 i.sent q == shardElems s i * inBytes v && tabGet 0 i.landed q == shardElems s i * outBytesOf v)
  | 2 => i.done == shardElems s i && others.all (fun q => tabGet 0 i.sent q == shardElems s i * inBytes v)
  | 3 => others.all (fun q => tabGet 0 i.landed q == peCount v)
  | 4 => let root := natField (peParam v) 0 18
         r == root || tabGet 0 i.landed root == peCount v
  | 7 => others.all (fun q => i.from_.contains q) && decide (i.done = 1)
  | 8 => decide (n - 1 ≤ i.done) && decide (n - 2 ≤ i.passed) && (decide (n < 2) || decide (peCount v ≤ tabGet 0 i.sent 0))
  | _ => i.from_.length == n && (List.range n).all (fun q =>
      tabGet 0 i.got q == streamLen s i q
        && tabGet 0 i.sent q == (countsFor s i q).foldl (· + ·) 0 * a2aRow v)

/-- Complete with OK when everything is done. -/
def settle (s : State) (e : Nat) : State :=
  match activeOf s e with
  | some i => if i.status = none ∧ insDone s i then setInst s { i with status := some 0 } else s
  | none => s

/-! ## Activation (R278, R286, R299) -/

/-- Send the segments of a PERMUTE that the limits allow; the own ones are copied (R286 step 4, R287). -/
def permuteStep (s : State) (i : Inst) : State :=
  let others := otherRanks s i
  let all := segmentsOf s i
  let ready := others.all (fun q =>
    ((all.filter (fun g => g.rank == q)).map (·.len)).foldl (· + ·) 0 ≤ tabGet 0 i.limit q)
  if i.done = 0 ∧ ready then
    let s1 := all.foldl (fun s g =>
      let (bs, ue, t) := hbmRead s g.src g.len
      if ue then carFault t i 0x4E 6
      else if g.rank = insRank t i then
        if granted t i.bank (peCtx (insPlan t i)) g.dst g.len false true then hbmWrite t g.dst bs { kind := 3 }
        else carFault t i 0x47 7
      else sendBytes i 0x85 g.rank false (bs.length / 4096 + 1) t g.dst bs) s
    match activeOf s1 i.entry with
    | some i1 => if i1.status.isSome then s1 else setInst (sendStatus s1 i1 0) { i1 with done := 1 }
    | none => s1
  else s

/-- What an instance does at its activation. -/
def startInst (s : State) (i : Inst) : State :=
  let v := insPlan s i
  let r := insRank s i
  let c := peCount v
  match peOpc v with
  | 3 =>
    let (bs, ue, s1) := hbmRead s (insSrc s i) c
    if ue then carFault s1 i 0x4E 6
    else
      let s2 := hbmWrite s1 (insDst s i + r * c) bs { kind := 3 }
      (otherRanks s2 i).foldl (fun s q => sendBytes i 0x82 q false (bs.length / 4096 + 1) s (r * c) bs) s2
  | 4 =>
    if r = natField (peParam v) 0 18 then
      let (bs, ue, s1) := hbmRead s (insSrc s i) c
      if ue then carFault s1 i 0x4E 6
      else
        let s2 := hbmWrite s1 (insDst s i) bs { kind := 3 }
        (otherRanks s2 i).foldl (fun s q => sendBytes i 0x82 q false (bs.length / 4096 + 1) s 0 bs) s2
    else s
  | 5 | 6 =>
    let (_, ue, s1) := hbmRead s (insAux s i) (4 * (c * a2aFanout v))
    if ue then carFault s1 i 0x4E 6
    else
      let i1 := { i with idx := indexOf s1 i }
      let i2 := setCounts i1 r (countsFor s1 i1 r)
      let s2 := (otherRanks s1 i2).foldl (fun s q =>
        let cs := countsFor s i2 q
        let bs := cs.flatMap (natToBytes 4)
        sendRank s i2 0x83 q 0 (bs ++ zeros ((32 - bs.length % 32) % 32)) false) (setInst s1 i2)
      a2aReady s2 i2
  | 7 =>
    let s1 := wr (wr s pgCAR F.CARAVAN_LEPOCH.EPOCH i.lepoch) pgCAR F.CARAVAN_RESHARD.BUSY 1
    permuteStep ((otherRanks s1 i).foldl (fun s q => grantTo s i q (2 ^ 43)) s1) i
  | 8 => grantRelay s i
  | _ =>
    let w := shardElems s i * inBytes v
    let (bs, ue, s1) := hbmRead s (insSrc s i + r * w) w
    if ue then carFault s1 i 0x4E 6
    else
      let i1 := { setHeld i r (memWrite [] 0 bs) with got := tabPut 0 i.got r w }
      reduceMore (grantContrib (setInst s1 i1) i1) i1

/-- ENTRY_ACTIVATE (R278): the entry at the head of the queue. -/
def execEntryActivate (s : State) : Host.Outcome State Fault Refusal :=
  .next (match s.car.queue with
    | [] => s
    | i :: rest =>
      let v := insPlan s i
      let permHold := s.car.active.any (fun x => peOpc (insPlan s x) == 7) || (peOpc v == 7 && !s.car.active.isEmpty)
      if decide (32 ≤ s.car.active.length) || (activeOf s i.entry).isSome || permHold
          || (decide (peBuf v ≤ 16112) && decide (bufFree s < peBuf v)) then s
      else
        let i0 := { i with actAt := s.esc + 1, lepoch := if peOpc v = 7 then (i.lepoch + 1) % 65536 else i.lepoch }
        let s1 := updCar s (fun c => { c with queue := rest, active := c.active ++ [i0] })
        if i0.status.isSome then s1
        else if boundsRule s1 i0 then carFault s1 i0 0x42 7
        else if formatRule v then carFault s1 i0 0x40 7
        else if grantRule s1 i0 then carFault s1 i0 0x47 7
        else settle (startInst s1 i0) i.entry)

/-- Whether a PERMUTE fence holds the queue (CARAVAN_STATE.FENCE). -/
def fenceHolds (s : State) : Bool :=
  match s.car.queue with
  | i :: _ => peOpc (insPlan s i) == 7 && !s.car.active.isEmpty
  | [] => false

/-! ## Completion (R281) -/

/-- The completion record of an instance. -/
def completionRecord (i : Inst) (st : Nat) : List Byte :=
  natToBytes 2 i.entry ++ natToBytes 2 i.inst ++ natToBytes 1 st
    ++ natToBytes 1 (bit (st == 0) + 2 * bit (i.dropped != 0)) ++ natToBytes 2 i.trig ++ natToBytes 4 i.step
    ++ natToBytes 2 i.lepoch ++ natToBytes 2 0 ++ natToBytes 8 i.dropped ++ natToBytes 8 0

/-- The logical cores that receive the record. -/
def recordCores (s : State) (i : Inst) : List Nat :=
  let v := insPlan s i
  let j := jobOf s i.bank
  if peNmode v = 1 then [peNcore v]
  else if peNmode v = 2 then (List.range j.nl).filter (fun l => (lcoreCtxs (lcoreOf j l)).contains (peCtx v))
  else []

/-- ENTRY_COMPLETE (R281): the record is written, the arrival made, the entry's counts and event follow; every core that
receives the record is resident. -/
def execEntryComplete (e : Fin 1024) (s : State) : Host.Outcome State Fault Refusal :=
  .next (match activeOf s e.val with
    | none => s
    | some i =>
      match i.status with
      | none => s
      | some st =>
        let v := insPlan s i
        let cores := recordCores s i
        if cores.any (fun l => (pcoreOf s i.bank l).isNone) then s
        else
          let left := arriveLeft s i
          -- the DST bytes of an instance whose status is not OK are undefined (R281)
          let s0 := if st = 0 then s
            else ((insRanges s i).filter (·.2.2)).foldl (fun s r =>
              let (bs, t) := freeBytes s r.2.1
              hbmWrite t r.1 bs { kind := 3 }) s
          let s1 := cores.foldl (fun s l =>
            match remoteWrite s i.bank l (peNh v) (32 * insNoff s i) (completionRecord i st) with
            | some (_, t) => t
            | none => s) s0
          let s2 := updCar s1 (fun c =>
            { c with active := c.active.filter (fun x => !(x.entry == i.entry && x.inst == i.inst)),
                     degPos := if st = 0 then c.degPos else c.degPos ++ left.map (fun p => (i.bank, i.stepNo, p)),
                     a2a := if peOpc v = 5 ∧ st = 0 then
                         i.counts.foldl (fun m x => tabPut 0 m (i.entry * 2 ^ 24 + x.1) x.2)
                           (tabDrop (fun k => k / 2 ^ 24 == i.entry) c.a2a)
                       else c.a2a })
          let s3 := addWrap s2 pgCAR F.CARAVAN_DONE_CNT.COUNT 1
          let s4 := if peOpc v = 7 then wr (wr s3 pgCAR F.CARAVAN_RESHARD.BUSY 0) pgCAR F.CARAVAN_RESHARD.PEND 0 else s3
          if st = 0 then s4
          else
            let s5 := wr (wr s4 pgCAR F.CARAVAN_LAST.ENTRY i.entry) pgCAR F.CARAVAN_LAST.STATUS st
            let s6 := if st = 0x10 then setErr (addSat s5 pgCAR F.CARAVAN_SMM_CNT.COUNT 1) pgCAR E.CARAVAN.STEP_MM
              else if st = 0x11 then setErr (addSat s5 pgCAR F.CARAVAN_EMM_CNT.COUNT 1) pgCAR E.CARAVAN.EPOCH_MM
              else if st = 7 then setErr s5 pgCAR E.CARAVAN.LOST
              else if st = 8 then setErr s5 pgCAR E.CARAVAN.TIMEOUT
              else s5
            raiseEvent s6 0x04 st 0 [(2, i.entry), (4, i.inst)])

/-- CARAVAN_TMO (R299): an instance is not complete within CARAVAN_TMO of its activation. -/
def execCaravanTmo (e : Fin 1024) (s : State) : Host.Outcome State Fault Refusal :=
  let lim := rd s pgCAR F.CARAVAN_TMO.PCLK
  .next (match activeOf s e.val with
    | some i => if lim ≠ 0 ∧ i.actAt + lim ≤ s.esc + 1 then finish s i 8 else s
    | none => s)

/-! ## Messages (R284, R285, R298) -/

/-- What becomes of the first message of an operation in the delivery queue: nothing yet, a discard, or the instance that
takes it with its sender's rank. -/
inductive Take where
  | wait
  | drop (q : QMsg)
  | take (q : QMsg) (i : Inst) (r : Nat)
  deriving DecidableEq, Repr

/-- Whether a message is for an instance that has completed: its number is one already given out and held no more. -/
def isPast (s : State) (m : Msg) : Bool :=
  let cnt := tabGet 0 s.car.trigs m.win
  decide ((cnt + 65536 - m.wepoch - 1) % 65536 < 32768) && decide (0 < cnt)
    && !(s.car.queue ++ s.car.active).any (fun i => i.entry == m.win && i.inst == m.wepoch)

/-- Find what the first message of an operation meets. -/
def takeColl (s : State) (op : Nat) : Take :=
  match s.fab.collq.find? (fun q => q.msg.op == op) with
  | none => .wait
  | some q =>
    let m := q.msg
    match s.car.active.find? (fun i => i.entry == m.win && i.inst == m.wepoch) with
    | some i =>
      match rankOf s (insGroup s i) m.src with
      | some r => .take q i r
      | none => .drop q
    | none => if isPast s m then .drop q else .wait

/-- Take a message out of the delivery queue; its units return. -/
def consume (s : State) (q : QMsg) : State :=
  restartTimer (returnUnits (updFab s (fun f => { f with collq := f.collq.erase q })) q) 64 q.msg.cls

/-- Process the first message of an operation (R284, R285, R298): epochs first, then step tags. -/
def onColl (s : State) (op : Nat) (f : State → Inst → Nat → Msg → State) : State :=
  match takeColl s op with
  | .wait => s
  | .drop q => discardDrop (updFab s (fun x => { x with collq := x.collq.erase q })) q
  | .take q i r =>
    let s1 := consume s q
    if i.status.isSome then s1
    else if q.msg.lepoch ≠ i.lepoch then carFault s1 i 0x54 0x11
    else if q.msg.step ≠ i.step then finish (sendStatus s1 i 0x10) i 0x10
    else settle (f s1 i r q.msg) i.entry

/-- COLL_CREDIT (R297): the receiver's limit rises and the bytes that it allows are sent. -/
def execCollCredit (s : State) : Host.Outcome State Fault Refusal :=
  .next (onColl s 0x80 (fun s i r m =>
    let v := insPlan s i
    let i1 := { i with limit := tabPut 0 i.limit r (max m.offset (tabGet 0 i.limit r)) }
    let lim := tabGet 0 i1.limit r
    let sent := tabGet 0 i.sent r
    match peOpc v with
    | 1 | 2 =>
      let w := shardElems s i * inBytes v
      let k := min lim w - sent
      let (bs, ue, s1) := hbmRead s (insSrc s i + r * w + sent) k
      if ue then carFault s1 i 0x4E 6
      else sendBytes i1 0x81 r false (k / 4096 + 1) (setInst s1 { i1 with sent := tabPut 0 i.sent r (sent + k) }) sent bs
    | 5 | 6 =>
      let all := rowStream s i r
      let w := a2aRow v
      let k := (min lim all.length - sent) / w * w
      sendBytes i1 0x84 r false (k / 4096 + 1) (setInst s { i1 with sent := tabPut 0 i.sent r (sent + k) }) sent
        ((all.drop sent).take k)
    | 7 => permuteStep (setInst s i1) i1
    | _ => setInst s i1))

/-- CONTRIB (R282): bytes of the own shard from a rank. -/
def execContrib (s : State) : Host.Outcome State Fault Refusal :=
  .next (onColl s 0x81 (fun s i r m =>
    let i1 := { setHeld i r (memWrite (heldOf i r) m.offset m.data) with
                got := tabPut 0 i.got r (max (tabGet 0 i.got r) (m.offset + m.len)) }
    reduceMore (setInst s i1) i1))

/-- RESULT (R297): reduced, gathered or broadcast bytes for DST. -/
def execResult (s : State) : Host.Outcome State Fault Refusal :=
  .next (onColl s 0x82 (fun s i r m =>
    let i1 := { i with landed := tabPut 0 i.landed r (tabGet 0 i.landed r + m.len) }
    setInst (hbmWrite s (insDst s i + m.offset) m.data { kind := 3 }) i1))

/-- A2A_COUNT (R288): the counts of a rank. -/
def execA2aCount (s : State) : Host.Outcome State Fault Refusal :=
  .next (onColl s 0x83 (fun s i r m =>
    if i.from_.contains r then s
    else
      let i1 := setCounts i r ((splitWords 4 64 m.data).take (a2aExperts (insPlan s i)))
      a2aReady (setInst s i1) i1))

/-- A2A_ROWS (R288, R289): rows of a rank's stream. -/
def execA2aRows (s : State) : Host.Outcome State Fault Refusal :=
  .next (onColl s 0x84 (fun s i r m =>
    let i1 := { i with got := tabPut 0 i.got r (max (tabGet 0 i.got r) (m.offset + m.len)) }
    placeRows i1 r (m.len / a2aRow (insPlan s i) + 1) (setInst s i1) m.offset m.data))

/-- PERMUTE_DATA (R287): segment bytes, checked against the own context's write grants. -/
def execPermuteData (s : State) : Host.Outcome State Fault Refusal :=
  .next (onColl s 0x85 (fun s i _ m =>
    if granted s i.bank (peCtx (insPlan s i)) (m.offset % 2 ^ 42) m.len false true then
      hbmWrite s (m.offset % 2 ^ 42) m.data { kind := 3 }
    else carFault s i 0x47 7))

/-- STATUS (R284 to R286): a status ends the instance; EPOCH_MISMATCH tears its context down too. -/
def execStatus (s : State) : Host.Outcome State Fault Refusal :=
  .next (onColl s 0x86 (fun s i r m =>
    let st := m.offset % 256
    if st = 0 then setInst s { i with from_ := if i.from_.contains r then i.from_ else i.from_ ++ [r] }
    else if st = 0x11 then
      finish (recordModFault (setErr s pgCAR E.CARAVAN.TEARDOWN) i.bank (peCtx (insPlan s i)) 0x54 5 0) i st
    else finish s i st))

/-! ## Relay (R290, R291) -/

/-- Whether a slice may take bytes of block `j` now: its core resident, its handle armed, and block j - 2 passed on. -/
def sliceOpen (s : State) (i : Inst) (x : Slice) (j : Nat) : Bool :=
  match pcoreOf s i.bank x.lcore with
  | some n => decide (1 ≤ rd1 s (pgLEDGER n) F.LEDGER_HTOK.PEND (sliceH x j)) && decide (j ≤ i.passed + 2)
  | none => false

/-- Part of a message's bytes [off, off + len) of a block that falls into a slice: first byte and length. -/
def overlap (x : Slice) (off len : Nat) : Nat × Nat :=
  let a := max off x.off
  let b := min (off + len) (x.off + x.len)
  (a, b - a)

/-- Land block bytes in one slice; the delivery completes when the whole slice has landed. -/
def landSlice (s : State) (i : Inst) (k : Nat) (x : Slice) (j off : Nat) (bs : List Byte) : State × Inst :=
  let (a, len) := overlap x off bs.length
  if len = 0 then (s, i)
  else match pcoreOf s i.bank x.lcore with
    | none => (s, i)
    | some n =>
      let hd := handleOf s n (sliceH x j)
      let key := 256 * j + k
      let got := tabGet 0 i.landed key + len
      let s1 := updCore s n (fun c => spadWrite c hd.clsW (handleAddr hd (x.hoff + (a - x.off))) ((bs.drop (a - off)).take len))
      (if got = x.len then completeAt s1 n (now s1 n + 3) (sliceH x j) else s1, { i with landed := tabPut 0 i.landed key got })

/-- Whether block `j` has landed on every consuming core. -/
def blockLanded (s : State) (i : Inst) (j : Nat) : Bool :=
  let xs := slicesOf s i
  (List.range xs.length).all (fun k => tabGet 0 i.landed (256 * j + k) == ((xs[k]?).map (·.len)).getD 0)

/-- Blocks landed in order. -/
def countLanded (s : State) (i : Inst) : Nat → Nat → Nat
  | 0, d => d
  | k + 1, d => if blockLanded s i (d + 1) then countLanded s i k (d + 1) else d

/-- RELAY_BLOCK (R290): block bytes land in the consuming cores' handles; they wait while a handle they need is not free.
An epoch or a step that differs is found at once (R284, R285). -/
def execRelayBlock (s : State) : Host.Outcome State Fault Refusal :=
  .next (match takeColl s 0xA0 with
    | .take q i _ =>
      let j := q.msg.offset / 2 ^ 40
      let off := q.msg.offset % 2 ^ 40
      let xs := slicesOf s i
      let hit := xs.filter (fun x => (overlap x off q.msg.len).2 != 0)
      let sound := i.status.isNone && q.msg.lepoch == i.lepoch && q.msg.step == i.step
      if sound && hit.any (fun x => !sliceOpen s i x j) then s
      else onColl s 0xA0 (fun s i _ m =>
        let (s1, i1) := (List.range xs.length).foldl (fun (y : State × Inst) k =>
          match xs[k]? with
          | some x => landSlice y.1 y.2 k x j off m.data
          | none => y) (s, i)
        let i2 := { i1 with done := countLanded s1 i1 (insSize s i) i1.done }
        let s2 := setInst s1 { i2 with done := min i2.done (insSize s i - 1) }
        if i.done < i2.done then grantRelay s2 i2 else s2)
    | _ => onColl s 0xA0 (fun s _ _ _ => s))

/-- RELAY_CREDIT (R297): the successor's limit rises; the own block is sent as far as it allows. -/
def execRelayCredit (s : State) : Host.Outcome State Fault Refusal :=
  .next (onColl s 0xA1 (fun s i _ m =>
    let c := peCount (insPlan s i)
    let i1 := { i with limit := tabPut 0 i.limit 0 (max m.offset (tabGet 0 i.limit 0)) }
    let sent := tabGet 0 i.sent 0
    let k := min (tabGet 0 i1.limit 0) c - sent
    let (bs, ue, s1) := hbmRead s (insSrc s i + sent) k
    if ue then carFault s1 i 0x4E 6
    else sendRelay (setInst s1 { i1 with sent := tabPut 0 i.sent 0 (sent + k) }) i1 sent bs))

/-- Bytes [off, off + len) of block `j` as the consuming cores' handles hold them; bytes that no slice covers are free. -/
def relayBytes (s : State) (i : Inst) (j off len : Nat) : List Byte × State :=
  let xs := slicesOf s i
  (List.range len).foldl (fun (y : List Byte × State) k =>
    let b := off + k
    match xs.find? (fun x => decide (x.off ≤ b) && decide (b < x.off + x.len)) with
    | some x =>
      match pcoreOf y.2 i.bank x.lcore with
      | some n => (y.1 ++ [memByte (core y.2 n).spad (handleAddr (handleOf y.2 n (sliceH x j)) (x.hoff + b - x.off))], y.2)
      | none => let (f, t) := freeBytes y.2 1; (y.1 ++ f, t)
    | none => let (f, t) := freeBytes y.2 1; (y.1 ++ f, t)) ([], s)

/-- RELAY_PASS_ON (R290): the next landed block goes on to the successor as far as its limit allows. -/
def execRelayPassOn (e : Fin 1024) (s : State) : Host.Outcome State Fault Refusal :=
  .next (match activeOf s e.val with
    | none => s
    | some i =>
      let c := peCount (insPlan s i)
      let n := insSize s i
      let j := i.passed + 1
      let sent := tabGet 0 i.sent 0
      let resident := (slicesOf s i).all (fun x => (pcoreOf s i.bank x.lcore).isSome)
      if peOpc (insPlan s i) == 8 && i.status.isNone && decide (j ≤ i.done) && decide (j + 2 ≤ n) && decide (j * c ≤ sent)
          && resident then
        let k := min (tabGet 0 i.limit 0) ((j + 1) * c) - sent
        if k = 0 then s
        else
          let (bs, s1) := relayBytes s i j (sent - j * c) k
          let i1 := { i with sent := tabPut 0 i.sent 0 (sent + k), passed := if sent + k = (j + 1) * c then j else i.passed }
          settle (sendRelay (setInst s1 i1) i1 sent bs) i.entry
      else s)

/-! ## Re-sharding (R286) -/

/-- ARM_RESHARD (R286): CARAVAN_RESHARD is written with ENTRY and ARM. -/
def execArmReshard (e : Fin 1024) (s : State) : Host.Outcome State Fault Refusal :=
  let pend := rdB s pgCAR F.CARAVAN_RESHARD.PEND
  .next (if pend || peOpc (planOf s e.val) != 7 then setErr s pgCAR E.CARAVAN.CFG_IGN
  else wr (wr s pgCAR F.CARAVAN_RESHARD.ENTRY e.val) pgCAR F.CARAVAN_RESHARD.PEND 1)

end Sys2Proof.Machine
end

