-- ==== Sys2Proof/Machine/Craul.lean ====
section
/-!
DEFINITION. The commands of Craul (R249 to R273): arrival, forwarding and credit of messages, the commit of WRITE, READ
and ADD, responses, LINK_LAST, timeouts, windows and route entries.
-/
namespace Sys2Proof.Machine

/-! ## Messages on links (R254 to R256, R266) -/

/-- MESSAGE_ARRIVE (R256, R265): the next message of a link's stream, once whole, is taken: discarded under R252 or R256,
placed before its commit point, or routed on. -/
def execMessageArrive (l : Fin 64) (s : State) : Host.Outcome State Fault Refusal :=
  let n := l.val
  let st := (lk s n).stream
  let h := bytesToNat (st.take 32)
  let len := natField h 123 13
  .next (if usable s n && decide (32 + len ≤ st.length) then
    let m := msgOf h ((st.drop 32).take len)
    let q : QMsg := { msg := m, inb := some (n, if m.pool = 1 then 6 else m.cls) }
    let s1 := updLk s n (fun v => { v with stream := v.stream.drop (32 + len) })
    if msgCrc m ≠ m.crc ∨ malformed m then discardCrc s1 q
    else if m.dst = ownId s1 then commitLocal s1 q
    else if m.hops = 15 then discardDrop s1 q
    else routeMsg s1 { q with msg := { m with hops := m.hops + 1 } } false
  else s)

/-- The bodies of the DATA flits that carry a message: up to 624 bytes each (R229). -/
def cutBodies : Nat → List Byte → List (List Byte)
  | 0, _ => []
  | k + 1, bs => if bs.isEmpty then [] else bs.take 624 :: cutBodies k (bs.drop 624)

/-- MESSAGE_FORWARD (R254, R256, R266): the message that leaves first in a class for a link begins on it when credit and
the retry buffer allow. -/
def execMessageForward (l : Fin 64) (cls : Fin 6) (s : State) : Host.Outcome State Fault Refusal :=
  let n := l.val
  let mine (q : QMsg) : Bool := q.msg.cls == cls.val && (q.link == some n || (q.link.isNone && q.cands.contains n))
  let qs := s.fab.outq.filter mine
  let v := lk s n
  .next (match (match qs.find? (fun q => q.msg.express) with | some q => some q | none => qs.head?) with
    | none => s
    | some q =>
      let bodies := cutBodies 8 (msgBytes q.msg)
      match creditFor v q.msg cls.val with
      | none => s
      | some pool =>
        if usable s n && v.closeAt == 0 && decide (v.retry.length + bodies.length ≤ retryCap s n) then
          let m := { q.msg with pool := bit (pool == 6) }
          let bodies := cutBodies 8 (msgBytes m)
          let v1 := { v with credit := tabPut 0 v.credit pool (tabGet 0 v.credit pool - msgUnits m) }
          let v2 := bodies.foldl (fun v b => sendFlit v false b.length b) v1
          let v3 := { v2 with sent := v2.sent ++ [⟨{ q with msg := m, inb := none, link := none, cands := [] },
                                                    (v2.txSeq + 4095) % 4096⟩] }
          let s1 := setLk (updFab s (fun f => { f with outq := f.outq.erase q })) n v3
          restartTimer (returnUnits s1 q) (queueLink q) cls.val
        else s)

/-- CREDIT_RETURN (R255): returns owed with no message to send leave in a CTRL flit with CODE 0x00. -/
def execCreditReturn (l : Fin 64) (s : State) : Host.Outcome State Fault Refusal :=
  let v := lk s l.val
  .next (if usable s l.val && !v.owed.isEmpty && decide (v.retry.length < retryCap s l.val) then
    sendCtrl s l.val [] else s)

/-! ## The commit point (R260, R261) -/

/-- Window entry `i`. -/
def winAt (s : State) (i : Nat) : Win := tabGet {} s.fab.wins i

/-- Replace a window entry. -/
def setWin (s : State) (i : Nat) (w : Win) : State := updFab s (fun f => { f with wins := tabPut {} f.wins i w })

/-- Checks 2 to 7 of R261 in order: the status of the first that fails, 0 when all pass. -/
def commitCheck (s : State) (m : Msg) (len : Nat) : Nat :=
  let w := winAt s m.win
  if !w.opened then 0x01
  else if m.wepoch ≠ w.epoch then 0x02
  else if (m.src ^^^ w.srcId) &&& w.srcMask ≠ 0 then 0x03
  else if !(if m.op = 1 then w.w else if m.op = 2 then w.r else w.a) then 0x03
  else if w.size * 4096 < m.offset + len ∨ m.offset % (if m.op = 3 then 8 else 32) ≠ 0 then 0x04
  else if !hbmBacked s (w.base + m.offset) len then 0x05
  else 0

/-- Answer a request: it leaves its receive buffer and its response is queued (R251, R257). -/
def answer (s : State) (q : QMsg) (status : Nat) (data : List Byte) : State :=
  let s1 := returnUnits s q
  let s2 := if status = 0 then s1
    else setErr (addSat s1 pgRTR F.FAB_RTR_REJ_CNT.COUNT 1) pgRTR E.FAB_RTR.REJECT
  let r := response q.msg (respOp q.msg.op) status data
  if reservedId r.dst then s2
  else if r.dst = ownId s2 then commitLocal s2 { msg := r } else routeMsg s2 { msg := r } false

/-- The request at the head of the commit order when its operation is `op`. -/
def takeCommit (s : State) (op : Nat) : Option (QMsg × State) :=
  match s.fab.commitq with
  | q :: r => if q.msg.op = op then some (q, updFab s (fun f => { f with commitq := r })) else none
  | [] => none

/-- A message has committed against a window. -/
def markLive (s : State) (i : Nat) : State := setWin s i { winAt s i with live := true }

/-- WRITE (R260, R261). -/
def execWrite (s : State) : Host.Outcome State Fault Refusal :=
  .next (match takeCommit s 1 with
    | none => s
    | some (q, s1) =>
      let m := q.msg
      let st := commitCheck s1 m m.len
      if st = 0 then
        answer (hbmWrite (markLive s1 m.win) ((winAt s1 m.win).base + m.offset) m.data { kind := 5 }) q 0 []
      else answer s1 q st [])

/-- READ (R260, R261). -/
def execRead (s : State) : Host.Outcome State Fault Refusal :=
  .next (match takeCommit s 2 with
    | none => s
    | some (q, s1) =>
      let m := q.msg
      let len := m.step % 8192
      let st := commitCheck s1 m len
      if st = 0 then
        let (bs, ue, s2) := hbmRead (markLive s1 m.win) ((winAt s1 m.win).base + m.offset) len
        if ue then answer s2 q 0x06 [] else answer s2 q 0 bs
      else answer s1 q st [])

/-- CRAUL_ADD (R137, R260, R261): 64-bit wrapping addition. -/
def execCraulAdd (s : State) : Host.Outcome State Fault Refusal :=
  .next (match takeCommit s 3 with
    | none => s
    | some (q, s1) =>
      let m := q.msg
      let st := commitCheck s1 m 8
      if st = 0 then
        let a := (winAt s1 m.win).base + m.offset
        let (bs, ue, s2) := hbmRead (markLive s1 m.win) a 8
        if ue then answer s2 q 0x06 []
        else
          let new := (bytesToNat bs + bytesToNat (m.data.take 8)) % 2 ^ 64
          answer (hbmWrite s2 a (natToBytes 8 new) { kind := 5 }) q 0 (bs ++ zeros 24)
      else answer s1 q st [])

/-! ## Responses (R251, R271) -/

/-- The core and number of the outstanding request that a response answers (R271). -/
def findReq (s : State) (m : Msg) : Option (Nat × Nat) :=
  s.cores.findSome? (fun x => (x.2.reqs.find? (fun r => reqTo r m.src && r.seq == m.seq && r.status.isNone)).map
    (fun r => (x.1, r.id)))

/-- A response arrives: it completes its request with its status, and its data when OK. -/
def takeResponse (s : State) (op : Nat) : State :=
  match s.fab.rspq with
  | q :: rest =>
    if q.msg.op = op then
      let s1 := returnUnits (updFab s (fun f => { f with rspq := rest })) q
      let st := q.msg.step % 256
      match findReq s1 q.msg with
      | some (n, id) =>
        updCore s1 n (fun c => { c with reqs := c.reqs.map (fun r =>
          if r.id = id then { r with status := some st, data := if st = 0 ∧ op ≠ 0x40 then q.msg.data else r.data }
          else r) })
      | none => discardDrop s1 { q with inb := none }
    else s
  | [] => s

/-- WRITE_DONE (R251). -/
def execWriteDone (s : State) : Host.Outcome State Fault Refusal := .next (takeResponse s 0x40)

/-- READ_DATA (R251). -/
def execReadData (s : State) : Host.Outcome State Fault Refusal := .next (takeResponse s 0x41)

/-- ADD_OLD (R251). -/
def execAddOld (s : State) : Host.Outcome State Fault Refusal := .next (takeResponse s 0x42)

/-- TIMEOUT (R271): no response within FAB_RTR_RSP_LIM of sending. -/
def execTimeout (c : Fin 256) (id : Nat) (s : State) : Host.Outcome State Fault Refusal :=
  let lim := rd s pgRTR F.FAB_RTR_RSP_LIM.PCLK
  let due (r : Req) : Bool := r.id == id && r.status.isNone && (match r.tgt with | .window .. => true | _ => false)
    && decide (r.issued + lim ≤ s.esc)
  .next (if lim ≠ 0 ∧ (core s c.val).reqs.any due then setErr (failReq s c.val id 8) pgRTR E.FAB_RTR.TIMEOUT else s)

/-! ## Links lost with their peer alive or gone (R269, R270) -/

/-- Whether a message's last flit is no later than `v` (modulo 4,096). -/
def fseqReached (last v : Nat) : Bool := decide ((v + 4096 - last) % 4096 < 2048)

/-- The first MGMT message of an operation that waits; it leaves its receive buffer (R255). -/
def takeMgmt (s : State) (op : Nat) : Option (Msg × State) :=
  match s.fab.mgmtq.find? (fun q => q.msg.op == op) with
  | some q => some (q.msg, returnUnits (updFab s (fun f => { f with mgmtq := f.mgmtq.erase q })) q)
  | none => none

/-- LINK_LAST (R269): accepted messages are discarded, the rest rerouted. -/
def execLinkLast (s : State) : Host.Outcome State Fault Refusal :=
  .next (match takeMgmt s 0xC0 with
    | some (m, s1) =>
      let b := bytesToNat (m.data.take 1)
      let v := bytesToNat ((m.data.drop 2).take 2) % 4096
      match (List.range 64).find? (fun l => (lk s1 l).awaitLast && peerOf s1 l == m.src
          && rd1 s1 (linkPg l) F.FAB_PORT_PEER.PORT (l % 4) == b / 4 % 16
          && rd1 s1 (linkPg l) F.FAB_PORT_PEER.LINK (l % 4) == b % 4) with
      | some l =>
        let hs := (lk s1 l).held
        let s2 := updLk s1 l (fun x => { x with held := [], awaitLast := false })
        hs.foldl (fun s x => if fseqReached x.last v then s else routeMsg s x.q false) s2
      | none => s1
    | none => s)

/-- LINK_LAST_TIMEOUT (R269, R270): 50 microseconds, 16,250 PCLK, after the link went DOWN. -/
def execLinkLastTimeout (l : Fin 64) (s : State) : Host.Outcome State Fault Refusal :=
  let n := l.val
  let v := lk s n
  .next (if v.awaitLast && decide (v.downAt + 16250 ≤ s.esc + 1) then
    let peer := peerOf s n
    let s1 := setLk s n { v with held := [], awaitLast := false }
    let s2 := v.held.foldl (fun s x => inDoubt s n x) s1
    let other := (List.range 64).any (fun k => k != n && linkState s k == 3 && peerOf s k == peer)
    if !other || v.held.any (fun x => x.q.msg.dst == peer) then losePeer s2 peer else s2
  else s)

/-! ## Windows and routes (R262, R263, R268) -/

/-- OPEN (R262): the selected entry opens from the staged fields; `bank` is the bank of the job that owns it. -/
def openWin (s : State) (bank : Nat) : State :=
  let i := rd s pgRTR F.FAB_WIN_SEL.IDX
  let w := winAt s i
  let size := rd s pgRTR F.FAB_WIN_SIZE.SIZE
  let epoch := rd s pgRTR F.FAB_WIN_ATTR.EPOCH
  if w.opened || size == 0 || epoch == w.epoch then setErr s pgRTR E.FAB_RTR.CFG_IGN
  else setWin s i { base := rd s pgRTR F.FAB_WIN_BASE.BASE * 4096, size := size, epoch := epoch,
                    r := rdB s pgRTR F.FAB_WIN_ATTR.R, w := rdB s pgRTR F.FAB_WIN_ATTR.W,
                    a := rdB s pgRTR F.FAB_WIN_ATTR.A, opened := true, ctx := rd s pgRTR F.FAB_WIN_ATTR.CTX,
                    job := rdB s pgRTR F.FAB_WIN_ATTR.JOB, bank := bank, srcId := rd s pgRTR F.FAB_WIN_SRC.SRC_ID,
                    srcMask := rd s pgRTR F.FAB_WIN_SRCMASK.MASK, live := false, busy := w.busy }

/-- OPEN (R262): FAB_WIN_CMD.OPEN. -/
def execOpen (s : State) : Host.Outcome State Fault Refusal := .next (openWin s 0)

/-- Close a window (R262, R263): later commits fail check 2, and BUSY reads 1 while one committed before has not been
reported landed. -/
def closeWin (s : State) (i : Nat) : State :=
  let w := winAt s i
  if w.opened then setWin s i { w with opened := false, busy := w.live, live := false } else s

/-- WIN_CLOSE (R262): FAB_WIN_CMD.CLOSE on the selected entry. -/
def execWinClose (s : State) : Host.Outcome State Fault Refusal := .next (closeWin s (rd s pgRTR F.FAB_WIN_SEL.IDX))

/-- WIN_BUSY_CLEAR (R262): the last message committed before the close has landed. -/
def execWinBusyClear (i : Fin 4096) (s : State) : Host.Outcome State Fault Refusal :=
  let w := winAt s i.val
  .next (if w.busy then setWin s i.val { w with busy := false } else s)

/-- Close every window of a bank whose owner a test names (R263). -/
def closeWins (s : State) (p : Win → Bool) : State :=
  (s.fab.wins.filter (fun x => x.2.opened && p x.2)).foldl (fun s x => closeWin s x.1) s

/-- RT_WRITE (R268, R270): the selected route entry is replaced whole. -/
def execRtWrite (idx : Fin 1024) (member : Bool) (s : State) : Host.Outcome State Fault Refusal :=
  let v := rdW s pgRTR 0x110 + rdW s pgRTR 0x114 <<< 32
  let s1 := wr (wr s pgRTR F.FAB_RTR_RT_SEL.IDX idx.val) pgRTR F.FAB_RTR_RT_SEL.TBL (bit member)
  .next (sweepLost (updFab s1 (fun f =>
    { f with routes := tabPut (1 <<< 48) f.routes ((if member then 2048 else 0) + idx.val) v })))

end Sys2Proof.Machine
end

