-- ==== Sys2Proof/Machine/CarMuster.lean ====
section
/-!
DEFINITION. Musters across modules (R292, R293), the release of a Muster (R146), the prefetch fall-back (R296), the
registers of Caravan's tables (R275, R301) and the stall of a queue (R259).
-/
namespace Sys2Proof.Machine

/-! ## The tree of a SCOPE 1 Muster (R292, R293) -/

/-- The Muster group; none while CARAVAN_MUSTER_GRP is not VALID or the module has no rank in the group (log entry 14). -/
def musterGroup (s : State) : Option (Nat × Nat) :=
  let g := rd s pgCAR F.CARAVAN_MUSTER_GRP.GROUP
  if rdB s pgCAR F.CARAVAN_MUSTER_GRP.VALID && groupSize s g != 0 then (ownRank s g).map (fun r => (g, r)) else none

/-- Whether a rank of a group is lost (R270). -/
def rankLost (s : State) (g r : Nat) : Bool := rankId s g r != ownId s && routeLost s (rankId s g r)

/-- The ranks that are next below rank `r` in the tree. -/
def treeKids (s : State) (g r : Nat) : List Nat :=
  ((List.range 16).map (· + (16 * r + 1))).filter (fun q => decide (q < groupSize s g))

/-- The children that send to rank `r`: a lost one's children stand in its place (R293). -/
def liveKids (s : State) (g : Nat) : Nat → Nat → List Nat
  | 0, _ => []
  | k + 1, r => (treeKids s g r).flatMap (fun q => if rankLost s g q then liveKids s g k q else [q])

/-- Whether a rank below `r` is lost in whose place others send. -/
def kidsLost (s : State) (g r : Nat) : Bool := (treeKids s g r).any (rankLost s g)

/-- The rank to which rank `r` sends its arrival: the first above it that is not lost. -/
def liveParent (s : State) (g : Nat) : Nat → Nat → Option Nat
  | 0, _ => none
  | k + 1, r =>
    if r = 0 then none
    else
      let p := (r - 1) / 16
      if rankLost s g p then liveParent s g k p else some p

/-- Send a Muster message (R297, R298). -/
def sendMuster (s : State) (g r op seq step offset : Nat) : State :=
  let (q, s1) := nextSeq s
  originate s1 { dst := rankId s g r, src := ownId s, cls := 2, op := op, win := 0xFFF, wepoch := seq, offset := offset,
                 step := step, lepoch := rd s pgCAR F.CARAVAN_LEPOCH.EPOCH, seq := q } none false

/-- The arrival of a child. -/
def childAt (s : State) (r : Nat) : ChildArr := tabGet {} s.car.children r

/-- Send the release to the children, each with SEQ_ERR when its sequence differs, and forget their arrivals. -/
def releaseKids (s : State) (g r seq step status : Nat) : State :=
  let s1 := (liveKids s g 5 r).foldl (fun s q =>
    sendMuster s g q 0x88 seq step (status + 4 * bit ((childAt s q).seq != seq))) s
  updCar s1 (fun c => { c with children := [] })

/-- A SCOPE 1 Muster that completes DEGRADED or MIXED is noted (R302). -/
def noteMuster (s : State) (status : Nat) : State := if status = 0 then s else setErr s pgCAR E.CARAVAN.MUSTER_DEG

/-- Advance a SCOPE 1 Muster of a bank (R292, R293): once the module's own count is complete and every live child has
arrived, the root releases and any other rank sends its arrival up. -/
def globalMuster (s : State) (b : Nat) : State :=
  match musterDone s b with
  | none => s
  | some (st, kind, scope) =>
    if scope ≠ 1 ∨ (jobOf s b).sentUp then s
    else match takePermit s b kind with
      | none => s
      | some s1 =>
        match musterGroup s1 with
        | none => noteMuster (releaseMuster s1 b 2 kind 1) 2
        | some (g, r) =>
          let kids := liveKids s1 g 5 r
          let as := kids.map (childAt s1)
          let j := jobOf s1 b
          let step := rd1 s1 pgJOB F.JOB_STEPNUM_L_LO.NUM b
          if as.any (fun a => !a.here) then s1
          else
            let mixed := st == 2 || as.any (fun a => a.kind != kind)
            let deg := st == 1 || kidsLost s1 g r || as.any (fun a => a.deg || a.seq != j.mseq)
            let k := (as.map (·.kind)).foldl max kind
            let status := if mixed then 2 else if deg then 1 else 0
            if r = 0 then noteMuster (releaseMuster (releaseKids s1 g r j.mseq step status) b status k 1) status
            else match liveParent s1 g 6 r with
              | some p => updJob (sendMuster s1 g p 0x87 j.mseq step (k + 4 * bit deg)) b (fun j => { j with sentUp := true })
              | none => s1

/-- MUSTER_RELEASE (R145, R146, R292): the Muster of a bank's job is complete and releases; a SCOPE 1 Muster releases
through its tree. -/
def execMusterRelease (b : Fin 2) (s : State) : Host.Outcome State Fault Refusal :=
  .next (match musterDone s b.val with
    | none => s
    | some (st, kind, scope) =>
      if scope = 1 then globalMuster s b.val
      else match takePermit s b.val kind with
        | some s1 => releaseMuster s1 b.val st kind scope
        | none => s)

/-- The first message of an operation in the delivery queue and its sender's rank in the Muster group; a message from
another module is discarded (R298). -/
def takeMuster (s : State) (op : Nat) : Option (QMsg × Option (Nat × Nat × Nat)) :=
  (s.fab.collq.find? (fun q => q.msg.op == op)).map (fun q =>
    (q, (musterGroup s).bind (fun x => (rankOf s x.1 q.msg.src).map (fun r => (x.1, x.2, r)))))

/-- MUSTER_ARRIVE (R292): a child's arrival. -/
def execMusterArrive (s : State) : Host.Outcome State Fault Refusal :=
  .next (match takeMuster s 0x87 with
    | none => s
    | some (q, none) => discardDrop (updFab s (fun x => { x with collq := x.collq.erase q })) q
    | some (q, some (_, _, r)) =>
      let m := q.msg
      let s1 := updCar (consume s q) (fun c =>
        { c with children := tabPut {} c.children r { seq := m.wepoch, kind := m.offset % 4, deg := m.offset.testBit 2,
                                                      here := true } })
      globalMuster (globalMuster s1 0) 1)

/-- The bank whose Muster waits for its release by the tree. -/
def bankSentUp (s : State) : Option Nat := [0, 1].find? (fun b => (jobOf s b).sentUp)

/-- COLL_MUSTER_RELEASE (R292, R293): the release is forwarded to the children and the module's cores are released; with
SEQ_ERR every context of the job is torn down with status MUSTER_SEQ. -/
def execCollMusterRelease (s : State) : Host.Outcome State Fault Refusal :=
  .next (match takeMuster s 0x88, bankSentUp s with
    | some (q, none), _ => discardDrop (updFab s (fun x => { x with collq := x.collq.erase q })) q
    | some (q, some (g, r, _)), some b =>
      let j := jobOf s b
      let off := q.msg.offset
      let s1 := consume s q
      match musterDone s1 b with
      | none => s1
      | some (st, kind, _) =>
        let kids := liveKids s1 g 5 r
        let k := (kids.map (fun x => (childAt s1 x).kind)).foldl max kind
        let status := max (off % 4) (if st = 2 then 2 else 0)
        let s2 := if off.testBit 2 then
            ((List.range 16).filter (fun c => j.valid.getLsbD c)).foldl (fun s c => recordModFault s b c 0x51 5 0) s1
          else s1
        noteMuster (releaseMuster (releaseKids s2 g r j.mseq q.msg.step status) b status k 1) status
    | _, _ => s)

/-! ## The prefetch fall-back (R296) -/

/-- Apply one prefetch record to a core. -/
def applyPrefetch (s : State) (n v : Nat) : State :=
  let sl := natField v 16 3
  let k := natField v 19 12
  let x := slotOf s n sl
  if x.st = .run ∧ x.waitWhy = 2 ∧ k ≠ 0 then
    let s1 := addWrap s pgCAR F.CARAVAN_PREF_CNT.COUNT 1
    let s2 := updCore s1 n (fun c => { c with absorb := c.absorb ++ [sl] })
    addCredit s2 n (ctxPart s n x.ctx) x.ctx sl k (if v.testBit 37 then some (natField v 31 6) else none)
  else setErr (addSat s pgCAR F.CARAVAN_PREF_SKIP.COUNT 1) pgCAR E.CARAVAN.PREF_SKIP

/-- PREFETCH_FALLBACK (R296): a core has waited at a Muster for longer than CARAVAN_PREF_THR; each valid record that names
its position and the core is acted on once. -/
def execPrefetchFallback (c : Fin 256) (s : State) : Host.Outcome State Fault Refusal :=
  let n := c.val
  let k := core s n
  let thr := rd s pgCAR F.CARAVAN_PREF_THR.PCLK
  .next (match k.run, k.lcore with
    | .muster _ kind _ _, some l =>
      let j := jobOf s k.bank
      if thr ≠ 0 ∧ k.waitEsc + thr < s.esc then
        (List.range j.prefetch.length).foldl (fun s i =>
          let v := j.prefetch.getD i 0
          let who := natField v 38 8
          if v.testBit 63 && some (natField v 0 16) == nextPos j kind && (who == 0xFF || who == l)
              && !k.prefDone.contains i then
            applyPrefetch (updCore s n (fun c => { c with prefDone := c.prefDone ++ [i] })) n v
          else s) s
      else s
    | _, _ => s)

/-! ## The tables of Caravan (R275, R301) -/

/-- Whether a Muster of SCOPE 1 is in progress. -/
def globalInProgress (s : State) : Bool :=
  [0, 1].any (fun b => (jobOf s b).lcores.any (fun x =>
    match x.2.arrived with
    | some (_, 1) => true
    | _ => false))

/-- Whether R275 lets the host write Caravan's tables. -/
def carTablesOpen (s : State) : Bool :=
  s.car.queue.isEmpty && s.car.active.isEmpty && !rdB s pgCAR F.CARAVAN_RESHARD.PEND && !globalInProgress s

/-- A write to Caravan's tables that R275 confines. -/
def carTableWrite (s : State) (f : State → State) : State :=
  if carTablesOpen s then f s else setErr s pgCAR E.CARAVAN.CFG_IGN

/-- The word index that an access to CARAVAN_PLAN_DATA addresses, and the state with WORD advanced. -/
def planAddr (s : State) : Nat × State :=
  let w := rd s pgCAR F.CARAVAN_PLAN_ADDR.WORD
  (w, if rdB s pgCAR F.CARAVAN_PLAN_ADDR.AINC then wr s pgCAR F.CARAVAN_PLAN_ADDR.WORD ((w + 1) % 16384) else s)

/-- CARAVAN_PLAN_DATA (R275, R301): an access reads or writes the addressed word, and advances WORD under AINC. A write
of the host keeps the entry's owner. -/
def execCaravanPlanData (v : Option (BitVec 32)) (s : State) : Host.Outcome State Fault Refusal :=
  let (w, s1) := planAddr s
  .next (match v with
    | none => s1
    | some v => carTableWrite s1 (fun s => updCar s (fun c => { c with plan := tabPut 0 c.plan w v })))

/-- CARAVAN_RANK_DATA (R275, R301): an access reads or writes the addressed rank entry, and advances INDEX under AINC. -/
def execCaravanRankData (v : Option (BitVec 32)) (s : State) : Host.Outcome State Fault Refusal :=
  let i := rd s pgCAR F.CARAVAN_RANK_ADDR.INDEX
  let s1 := if rdB s pgCAR F.CARAVAN_RANK_ADDR.AINC then wr s pgCAR F.CARAVAN_RANK_ADDR.INDEX ((i + 1) % 262144) else s
  .next (match v with
    | none => s1
    | some v => carTableWrite s1 (fun s => updCar s (fun c =>
        { c with ranks := tabPut 0 c.ranks i (v.toNat % 2 ^ 20) })))

/-! ## A stalled queue (R259) -/

/-- The contexts that originated messages of a queue, as (bank, context). -/
def originsOf (qs : List QMsg) : List (Nat × Nat) :=
  (qs.filterMap (fun q => q.origin.map (fun o => (o.1, o.2.2)))).eraseDups

/-- The contexts whose handle the head of the local delivery queue awaits: those of the instance it is for. -/
def awaitedCtx (s : State) (q : QMsg) : List (Nat × Nat) :=
  ((s.car.active ++ s.car.queue).filter (fun i => i.entry == q.msg.win && i.inst == q.msg.wepoch)).map
    (fun i => (i.bank, peCtx (insPlan s i)))

/-- STALL (R259): the timer of a class queue of a link, or of the local delivery queue, has reached its limit. -/
def execStall (l : Option (Fin 64)) (cls : Fin 6) (s : State) : Host.Outcome State Fault Refusal :=
  let link := match l with
    | some l => l.val
    | none => 63
  let isMine (q : QMsg) : Bool := match l with
    | some l => inQueue l.val cls.val q
    | none => q.msg.cls == cls.val
  let qs := (match l with
    | some _ => s.fab.outq
    | none => s.fab.collq).filter isMine
  let lim := rd s pgRTR F.FAB_RTR_STALL_LIM.PCLK
  let since := tabGet 0 s.fab.advAt (8 * (match l with
    | some l => l.val
    | none => 64) + cls.val)
  .next (match qs with
    | [] => s
    | q :: _ =>
      if lim = 0 ∨ since = 0 ∨ s.esc + 1 < since + lim then s
      else
        let cs := match l with
          | some _ => originsOf qs
          | none => awaitedCtx s q
        let low := (cs.map (·.2)).foldl min (if cs.isEmpty then 0 else 15)
        let s1 := raiseEvent (setErr s pgRTR E.FAB_RTR.STALL) 0x05 0 0 [(1, link), (2, cls.val), (3, low)]
        let s2 := wrW s1 pgRTR 0x134 (link + cls.val <<< 6 + low <<< 12 + 1 <<< 16)
        let s3 := cs.foldl (fun s c => recordModFault s c.1 c.2 0x53 6 0) s2
        let mine (q : QMsg) : Bool := match q.origin with
          | some o => cs.contains (o.1, o.2.2)
          | none => false
        let s4 := updFab s3 (fun f => { f with outq := f.outq.filter (fun q => !mine q) })
        restartTimer s4 (match l with
          | some l => l.val
          | none => 64) cls.val)

end Sys2Proof.Machine
end

