-- ==== Sys2Proof/Machine/Hbm.lean ====
section
/-!
DEFINITION. The commands of stacked memory (R203, R208, R209, R212 to R223).
-/
namespace Sys2Proof.Machine

/-- State code of a channel (R224). -/
def chState (s : State) (n : Nat) : Nat := rd s (pgCH n) F.HBM_CH_STATE.STATE

/-- HBM_ERR_WINDOW (R212): a window whose PCLK have passed ends and the counts restart. -/
def execHbmErrWindow (n : Fin 512) (s : State) : Host.Outcome State Fault Refusal :=
  .next (setErrWin s n.val (errWin s n.val))

/-- HBM_HEADROOM in force: no more than HBM_CAP (R217). -/
def headroom (s : State) (d : Nat) : Nat :=
  min (rd s (domPage d) F.HBM_HEADROOM.GIB) (rd s (domPage d) F.HBM_CAP.GIB)

/-- First granule of a domain's address range. -/
def domLo (d : Nat) : Nat := d * dieSpan / 2048

/-- A relocation begins: capacity and headroom fall by 6 GiB, NREDIR rises, grants are trimmed (R214 steps 2, 3). -/
def startReloc (s : State) (d n : Nat) : State :=
  let pg := domPage d
  let v := getDom s d
  let cap := rd s pg F.HBM_CAP.GIB
  let s1 := wr s (pgCH n) F.HBM_CH_STATE.STATE 2
  let s2 := wr (wr (wr (wr s1 pg F.HBM_CAP.GIB (cap - 6)) pg F.HBM_HEADROOM.GIB (headroom s d - 6))
    pg F.HBM_MAP_CTRL.NREDIR (rd s pg F.HBM_MAP_CTRL.NREDIR + 1)) pg F.HBM_RELOC_DONE.GRANULES 0
  let s3 := wr (wr s2 pg F.HBM_RELOC.BUSY 1) pg F.HBM_RELOC.CH n
  let s4 := setDom s3 d { v with rel := some (⟨n, cap * gibGranules⟩, 0), failing := v.failing.drop 1 }
  trimGrants s4 (domLo d) (domLo d + (cap - 6) * gibGranules)
    (if striped s then 4 * dieSpan / 2048 else domLo d + dieSpan / 2048)

/-- RELOCATION_START (R213): the first channel waiting in its domain, none being relocated there. -/
def execRelocationStart (n : Fin 512) (s : State) : Host.Outcome State Fault Refusal :=
  let d := domOf s n.val
  let v := getDom s d
  .next (if v.rel = none ∧ v.failing.head? = some n.val ∧ chState s n.val = 1 then
      if 6 ≤ headroom s d ∧ rd s (domPage d) F.HBM_MAP_CTRL.NREDIR < 8 then startReloc s d n.val
      else
        let s1 := setDom s d { v with failing := v.failing.drop 1 }
        setErr (wr s1 (pgCH n.val) F.HBM_CH_STATE.STATE 3) (pgCH n.val) E.HBM_CH.PENDING
    else s)

/-- Size of the set A of a relocation (R214). -/
def relocSize (s : State) (d : Nat) (o : MapOut) : Nat := countOn (domMapOld s d) o.ch 0 o.after

/-- Move the bytes and error marks of a slot: an uncorrectable burst stays uncorrectable and counts, a corrected one
arrives clean (R205, R207, R215). -/
def copySlot (s : State) (src dst : Nat × Nat) : State :=
  let bs := memRead s.hbm.mem (placeKey src.1 src.2 0) 2048
  let s1 := { s with hbm := { s.hbm with mem := memWrite s.hbm.mem (placeKey dst.1 dst.2 0) bs } }
  (List.range 64).foldl (fun s b =>
    let (s2, ue) := readBurst s src.1 src.2 (32 * b) none
    let mk : BurstMark := ⟨none, ue⟩
    { s2 with hbm := { s2.hbm with marks := tabPut {} s2.hbm.marks (burstKey dst.1 dst.2 (32 * b)) mk } }) s1

/-- GRANULE_COPY (R214 step 4, R215): the next granule of A is copied and its redirect becomes active. -/
def execGranuleCopy (n : Fin 512) (s : State) : Host.Outcome State Fault Refusal :=
  let d := domOf s n.val
  let v := getDom s d
  .next (match v.rel with
    | some (o, k) =>
      if o.ch = n.val ∧ k < relocSize s d o then
        let m := domMapOld s d
        let a := nthOn m o.ch true o.after 0 k
        let s1 := copySlot s (m a) (m (redirect m o k))
        wr (setDom s1 d { v with rel := some (o, k + 1) }) (domPage d) F.HBM_RELOC_DONE.GRANULES (k + 1)
      else s
    | none => s)

/-- RELOCATION_DONE (R214 step 5): the channel becomes MAPPED_OUT and joins the list in flash. -/
def execRelocationDone (n : Fin 512) (s : State) : Host.Outcome State Fault Refusal :=
  let d := domOf s n.val
  let v := getDom s d
  .next (match v.rel with
    | some (o, k) =>
      if o.ch = n.val ∧ relocSize s d o ≤ k then
        let s1 := setDom s d { v with rel := none, maps := v.maps ++ [o] }
        let s2 := { s1 with hbm := { s1.hbm with mapped := s1.hbm.mapped ++ [n.val] } }
        let s3 := setErr (wr s2 (pgCH n.val) F.HBM_CH_STATE.STATE 4) (pgCH n.val) E.HBM_CH.MAPPED
        let s4 := setErr (wr s3 (domPage d) F.HBM_RELOC.BUSY 0) (domPage d) E.HBM_STK.RELOC_DONE
        eventChannel s4 n.val 4 (rd s (pgCH n.val) F.HBM_CH_STATE.CAUSE)
      else s
    | none => s)

/-- Whether a channel is left out at a rebuild: MAPPED_OUT, PENDING, or in TEST from one of them (R218, R220). -/
def leftOut (s : State) (n : Nat) : Bool :=
  let st := chState s n
  let st := if st = 5 then rd s (pgCH n) F.HBM_CH_STATE.PRIOR else st
  st == 3 || st == 4

/-- Forget every byte and mark of some channels: they read zero with valid check bits. -/
def zeroChannels (s : State) (ns : List Nat) : State :=
  let gone (k per : Nat) : Bool := ns.contains (k / (slotsR * per))
  { s with hbm := { s.hbm with mem := tabDrop (fun k => gone k 2048) s.hbm.mem,
                               marks := tabDrop (fun k => gone k 64) s.hbm.marks } }

/-- Steps 1 to 3 of a rebuild (R218) over the channels of a domain. -/
def rebuildDomain (s : State) (d : Nat) : State :=
  let chs := domChannels (striped s) d
  let out := chs.filter (leftOut s)
  let pend := chs.filter (fun n => chState s n == 3)
  let s1 := pend.foldl (fun s n =>
    let s := setErr (wr s (pgCH n) F.HBM_CH_STATE.STATE 4) (pgCH n) E.HBM_CH.MAPPED
    { s with hbm := { s.hbm with mapped := s.hbm.mapped ++ [n] } }) s
  let s2 := setDom s1 d { out := out, maps := [], rel := none, failing := (getDom s1 d).failing }
  let nb := chs.length - out.length
  let pg := domPage d
  let s3 := wr (wr (wr (wr s2 pg F.HBM_MAP_CTRL.NREDIR 0) pg F.HBM_MAP_CTRL.NBASE nb) pg F.HBM_CAP.GIB (6 * nb))
    pg F.HBM_HEADROOM.GIB 0
  zeroChannels s3 (chs.filter (fun n => !out.contains n))

/-- Whether a domain holds a PENDING channel. -/
def domPending (s : State) (d : Nat) : Bool := (domChannels (striped s) d).any (fun n => chState s n == 3)

/-- DOMAIN_REBUILD (R218): a rebuild in progress, or one due at a job boundary, completes. -/
def execDomainRebuild (d : Fin 4) (s : State) : Host.Outcome State Fault Refusal :=
  .next (if (domList s).contains d.val
      && (rdB s (domPage d.val) F.HBM_MAP_CTRL.BUSY || (!anyJob s && domPending s d.val)) then
      setErr (wr (rebuildDomain s d.val) (domPage d.val) F.HBM_MAP_CTRL.BUSY 0) (domPage d.val) E.HBM_STK.REBUILT
    else s)

/-- PATROL_SCRUB (R208): the next burst of the pseudo-channel in slot order. -/
def execPatrolScrub (n : Fin 512) (p : Fin 2) (s : State) : Host.Outcome State Fault Refusal :=
  let key := 2 * n.val + p.val
  .next (if rd s (pgCH n.val) F.HBM_CH_SCRUB.HOURS = 0 ∨ chState s n.val = 5 then s
    else
      let k := tabGet 0 s.hbm.patrol key
      let r := k / 32
      let b := 1024 * p.val + 32 * (k % 32)
      let m := tabGet {} s.hbm.marks (burstKey n.val r b)
      let (s1, _) := readBurst s n.val r b none
      let marks := if m.ue then s1.hbm.marks else tabPut {} s1.hbm.marks (burstKey n.val r b) {}
      { s1 with hbm := { s1.hbm with marks := marks,
                                     patrol := tabPut 0 s1.hbm.patrol key ((k + 1) % (32 * slotsR)) } })

/-- REFRESH (R209): the interval in force follows the stack's temperature. -/
def execRefresh (stk : Fin 32) (s : State) : Host.Outcome State Fault Refusal :=
  let pg := pgSTK stk.val
  let hot := decide (85 ≤ rd s pg F.HBM_STK_STATE.TEMP)
  let s1 := wr s pg F.HBM_STK_STATE.REF2X (bit hot)
  .next (if hot && !rdB s pg F.HBM_STK_STATE.REF2X then setErr s1 pg E.HBM_STK.REF2X else s1)

/-- Whether any relocation or rebuild is in progress (R203). -/
def memBusy (s : State) : Bool :=
  (domList s).any (fun d => rdB s (domPage d) F.HBM_MAP_CTRL.BUSY || (getDom s d).rel.isSome)

/-- Begin the rebuild of every domain of the mode. -/
def rebuildAll (s : State) : State := (domList s).foldl (fun s d => wr s (domPage d) F.HBM_MAP_CTRL.BUSY 1) s

/-- MODE (R203, R223): a write that does not change the mode has no effect. -/
def execMode (stk : Fin 32) (str : Bool) (s : State) : Host.Outcome State Fault Refusal :=
  .next (if str = striped s then s
    else if stk.val ≠ 0 ∨ anyJob s ∨ memBusy s then setErr s (pgSTK stk.val) E.HBM_STK.MAP_IGN
    else rebuildAll (wr s (pgSTK 0) F.HBM_MAP_CTRL.MODE (bit str)))

/-- Whether a stack page holds the registers of a domain in the mode in force (R223). -/
def isDomPage (s : State) (stk : Nat) : Bool := if striped s then stk == 0 else stk % 8 == 0

/-- REBUILD (R218). -/
def execRebuild (stk : Fin 32) (s : State) : Host.Outcome State Fault Refusal :=
  let pg := pgSTK stk.val
  .next (if !isDomPage s stk.val then s
    else if anyJob s || rdB s pg F.HBM_MAP_CTRL.BUSY then setErr s pg E.HBM_STK.MAP_IGN
    else wr s pg F.HBM_MAP_CTRL.BUSY 1)

/-- HBM_XLATE (R216, R223): the result is VALID 0 for an address that is not backed or lies outside the domain of the
page. -/
def execHbmXlate (stk : Fin 32) (hi : BitVec 10) (s : State) : Host.Outcome State Fault Refusal :=
  let pg := pgSTK stk.val
  .next (if !isDomPage s stk.val then s
    else
      let s1 := wr s pg F.HBM_XLATE_HI.ADDR hi.toNat
      let a := rd s pg F.HBM_XLATE_LO.ADDR + hi.toNat <<< 32
      match hbmPlace s a with
      | some (n, r, _) =>
        if striped s ∨ (addrDom s a).1 = stk.val / 8 then
          wr (wr (wr s1 pg F.HBM_XLATE_RES.SLOT r) pg F.HBM_XLATE_RES.CH n) pg F.HBM_XLATE_RES.VALID 1
        else wr (wr (wr s1 pg F.HBM_XLATE_RES.SLOT 0) pg F.HBM_XLATE_RES.CH 0) pg F.HBM_XLATE_RES.VALID 0
      | none => wr (wr (wr s1 pg F.HBM_XLATE_RES.SLOT 0) pg F.HBM_XLATE_RES.CH 0) pg F.HBM_XLATE_RES.VALID 0)

/-- FAIL (R212): cause 4. -/
def execFail (n : Fin 512) (s : State) : Host.Outcome State Fault Refusal := .next (enterFailing s n.val 4)

/-- PHY_TRAINING_LOSS (R212): cause 3. -/
def execPhyTrainingLoss (n : Fin 512) (s : State) : Host.Outcome State Fault Refusal := .next (enterFailing s n.val 3)

/-- TEST_ENTER (R220). -/
def execTestEnter (n : Fin 512) (s : State) : Host.Outcome State Fault Refusal :=
  let pg := pgCH n.val
  let st := chState s n.val
  .next (if st ≠ 5 ∧ (st = 4 ∨ !anyJob s) then
      wr (wr s pg F.HBM_CH_STATE.PRIOR st) pg F.HBM_CH_STATE.STATE 5
    else setErr s pg E.HBM_CH.CMD_IGN)

/-- TEST_EXIT (R220): back to PRIOR; an ONLINE channel's slots are zeroed first. -/
def execTestExit (n : Fin 512) (s : State) : Host.Outcome State Fault Refusal :=
  let pg := pgCH n.val
  let pr := rd s pg F.HBM_CH_STATE.PRIOR
  .next (if chState s n.val = 5 then
      wr (if pr = 0 then zeroChannels s [n.val] else s) pg F.HBM_CH_STATE.STATE pr
    else s)

/-- TG_START (R220, R221). -/
def execTgStart (n : Fin 512) (p : Fin 2) (s : State) : Host.Outcome State Fault Refusal :=
  let pg := pgCH n.val
  .next (if chState s n.val = 5 then
      wr1 (wr1 (wr1 s pg F.HBM_TG_CTRL.BUSY p.val 1) pg F.HBM_TG_FAIL_ADDR.VALID p.val 0) pg F.HBM_TG_PASSES.DONE p.val 0
    else setErr s pg E.HBM_CH.CMD_IGN)

/-- Whether a generator's run is in progress. -/
def tgBusy (s : State) (n p : Nat) : Bool := rd1 s (pgCH n) F.HBM_TG_CTRL.BUSY p != 0

/-- TG_STOP (R221): the run ends after the burst in progress. -/
def execTgStop (n : Fin 512) (p : Fin 2) (s : State) : Host.Outcome State Fault Refusal :=
  .next (wr1 s (pgCH n.val) F.HBM_TG_CTRL.BUSY p.val 0)

/-- TG_RUN_END (R221): with the passes completed and the bursts checked. -/
def execTgRunEnd (n : Fin 512) (p : Fin 2) (passes : BitVec 16) (bursts : BitVec 64) (s : State) :
    Host.Outcome State Fault Refusal :=
  let pg := pgCH n.val
  .next (if tgBusy s n.val p.val then
      let s1 := wr1 (wr1 s pg F.HBM_TG_CTRL.BUSY p.val 0) pg F.HBM_TG_PASSES.DONE p.val passes.toNat
      if rd1 s pg F.HBM_TG_CTRL.OPS p.val = 2 then s1
      else add64 s1 pg F.HBM_TG_BURSTS_LO.COUNT F.HBM_TG_BURSTS_HI.COUNT p.val bursts.toNat
    else s)

/-- TG_CHECK_FAIL (R222): the first failing burst since START is recorded, every one counted. -/
def execTgCheckFail (n : Fin 512) (p : Fin 2) (slot : BitVec 22) (burst : BitVec 5) (bitNo : BitVec 8)
    (expect : Bool) (nbits : BitVec 8) (s : State) : Host.Outcome State Fault Refusal :=
  let pg := pgCH n.val
  let k := p.val
  .next (if tgBusy s n.val k then
      let s1 := setErr (addSat1 s pg F.HBM_TG_FAIL_CNT.COUNT k 1) pg (E.HBM_CH.TG_FAIL + k)
      let s2 := if rd1 s pg F.HBM_TG_FAIL_ADDR.VALID k ≠ 0 then s1
        else
          let a := wr1 (wr1 (wr1 s1 pg F.HBM_TG_FAIL_ADDR.SLOT k slot.toNat) pg F.HBM_TG_FAIL_ADDR.BURST k burst.toNat)
            pg F.HBM_TG_FAIL_ADDR.VALID k 1
          wr1 (wr1 (wr1 a pg F.HBM_TG_FAIL_BIT.BIT k bitNo.toNat) pg F.HBM_TG_FAIL_BIT.EXPECT k (bit expect))
            pg F.HBM_TG_FAIL_BIT.NBITS k (nbits.toNat + 1)
      if rd1 s pg F.HBM_TG_CTRL.STOP_ON_FAIL k ≠ 0 then wr1 s2 pg F.HBM_TG_CTRL.BUSY k 0 else s2
    else s)

/-- STACK_TRAINED (R219): channels that failed join the mapped-out list; the stack's page sets READY. -/
def execStackTrained (stk : Fin 32) (failed : BitVec 16) (lanes : BitVec 8) (s : State) :
    Host.Outcome State Fault Refusal :=
  let pg := pgSTK stk.val
  let s1 := (List.range 16).foldl (fun s c =>
    let n := 16 * stk.val + c
    let s := setBlk s (pgCH n) stREADY
    if failed.getLsbD c then
      let s := wr (wr s (pgCH n) F.HBM_CH_STATE.STATE 4) (pgCH n) F.HBM_CH_STATE.CAUSE 3
      { s with hbm := { s.hbm with mapped := if s.hbm.mapped.contains n then s.hbm.mapped else s.hbm.mapped ++ [n] } }
    else if s.hbm.mapped.contains n then wr s (pgCH n) F.HBM_CH_STATE.STATE 4 else s) s
  let s2 := wr (wr s1 pg F.HBM_STK_STATE.TRAIN (if failed = BitVec.allOnes 16 then 3 else 2)) pg F.HBM_STK_LANES.REPAIRED lanes.toNat
  .next (setBlk (if failed = 0 then s2 else setErr s2 pg E.HBM_STK.TRAIN_FAIL) pg stREADY)

end Sys2Proof.Machine
end

