-- ==== Sys2Proof/Machine/JobOps.lean ====
section
/-!
DEFINITION. The operations of jobs: images and their checks (R335 to R341), loading a logical core (R342), saving and
restoring one (R351), tearing a context down (R347), and starting and ending a job (R342, R345, R352).
-/
namespace Sys2Proof.Machine

/-! ## Images (R335, R336) -/

/-- What an image's header says; `len` is in 4 KiB units. -/
structure Image where
  addr : Nat
  len : Nat
  magic : Nat
  version : Nat
  crc : Nat
  nl : Nat
  nctx : Nat
  flags : Nat
  saveBase : Nat
  fbAddr : Nat
  fbLen : Nat
  nmile : Nat
  sect : List (Nat × Nat)
  deriving DecidableEq, Repr

/-- Bytes [o, o + n) of a little-endian number. -/
def byteField (v o n : Nat) : Nat := natField v (8 * o) (8 * n)

/-- Read an image's header. -/
def readImage (s : State) (a : Nat) : Image :=
  let h := bytesToNat (hbmPeek s a 168)
  { addr := a, len := byteField h 12 4, magic := byteField h 0 8, version := byteField h 8 4, crc := byteField h 16 4,
    nl := byteField h 20 2, nctx := byteField h 22 1, flags := byteField h 23 1,
    saveBase := natField h (8 * 24) 42, fbAddr := natField h (8 * 32) 42, fbLen := byteField h 40 4,
    nmile := byteField h 44 1,
    sect := (List.range 15).map (fun i => (byteField h (48 + 8 * i) 4, byteField h (52 + 8 * i) 4)) }

/-- Offset of a section from the image start. -/
def sectOff (im : Image) (i : Nat) : Nat := (im.sect.getD i (0, 0)).1

/-- Length of a section. -/
def sectLen (im : Image) (i : Nat) : Nat := (im.sect.getD i (0, 0)).2

/-- `n` bytes of a section as a number. -/
def sectNat (s : State) (im : Image) (i off n : Nat) : Nat := bytesToNat (hbmPeek s (im.addr + sectOff im i + off) n)

/-- The LCORE entry of a logical core: DIE, MODE, contexts, first segment (R338). -/
def lcoreEntry (s : State) (im : Image) (l : Nat) : Nat × Nat × Nat × Nat :=
  let v := sectNat s im 0 (64 * l) 6
  (byteField v 0 1, byteField v 1 1, byteField v 2 2, byteField v 4 2)

/-- Byte 0 and byte 1 of a CONTEXT entry (R339). -/
def ctxEntry (s : State) (im : Image) (c : Nat) : Nat := sectNat s im 1 (64 * c) 2

/-- The grant entries in use of an image: context, index, grant (R339). -/
def imageGrants (s : State) (im : Image) : List (Nat × Nat × Grant) :=
  (List.range im.nctx).flatMap (fun c =>
    (List.range (min 64 (byteField (ctxEntry s im c) 1 1))).map (fun i =>
      let v := sectNat s im 2 (1024 * c + 16 * i) 16
      (c, i, { base := natField v 11 31, limit := natField v 75 31, r := v.testBit 126, w := v.testBit 127, valid := true })))

/-- The 8 MiB of a logical core's share of the save area. -/
def saveShare : Nat := 0x00800000

/-- Whether two byte ranges overlap. -/
def rangesMeet (a la b lb : Nat) : Bool := decide (a < b + lb) && decide (b < a + la) && la != 0 && lb != 0

/-- The ranges of a held job that no grant of the other may touch: image, save area, grants. -/
def jobRanges (s : State) (b : Nat) : List (Nat × Nat) :=
  let j := jobOf s b
  if jobState s b = 0 then []
  else [(j.image, 4096 * j.len)] ++ (if j.saveBase = 0 then [] else [(j.saveBase, saveShare * j.nl)])
    ++ (s.grants.filter (fun x => x.1 / 1024 == b && x.2.valid)).map (fun x => (2048 * x.2.base, 2048 * (x.2.limit - x.2.base)))

/-- Sections of a fixed share and their sizes (R336). -/
def fixedSects (im : Image) : List (Nat × Nat) :=
  [(0, 64 * im.nl), (1, 64 * im.nctx), (2, 1024 * im.nctx), (4, 2048 * im.nl), (5, 1280 * im.nl), (6, 1024 * im.nl),
   (7, 256 * im.nl), (14, 65536 * im.nl)]

/-- Whether an image passes check `k` of R341, 1 to 8. `len` is the command's length, `ob` the bank of the other job. -/
def imageCheck (s : State) (im : Image) (len ob : Nat) (k : Nat) : Bool :=
  let bytes := 4096 * len
  let ls := List.range im.nl
  match k with
  | 1 => im.magic == bytesToNat ([0x5A, 0x4B, 0x53, 0x4A, 0x4F, 0x42, 0x30, 0x31] : List Byte) && im.version == 0x00010000
  | 2 => im.len == len && len != 0 && hbmBacked s im.addr bytes
  | 3 =>
    let bs := hbmPeek s im.addr bytes
    crc32c (bs.take 16 ++ zeros 4 ++ bs.drop 20) == im.crc
  | 4 => decide (1 ≤ im.nl) && decide (im.nl ≤ 240) && decide (1 ≤ im.nctx) && decide (im.nctx ≤ 16) && decide (im.nmile ≤ 64)
      && ls.all (fun l => decide ((lcoreEntry s im l).1 < 4))
      && (List.range 4).all (fun d => decide ((ls.filter (fun l => (lcoreEntry s im l).1 == d)).length ≤ 64))
  | 5 => (List.range 15).all (fun i => sectOff im i % 64 == 0 && sectLen im i % 64 == 0
        && decide (sectOff im i + sectLen im i ≤ bytes))
      && (fixedSects im).all (fun x => sectLen im x.1 == x.2)
  | 6 => ls.all (fun l =>
      let (_, mode, cs, _) := lcoreEntry s im l
      decide (mode < 3) && (List.range (partCount mode)).all (fun p =>
        decide (natField cs (4 * p) 4 < im.nctx) && (ctxEntry s im (natField cs (4 * p) 4)).testBit 0))
  | 7 => (imageGrants s im).all (fun x =>
      let a := 2048 * x.2.2.base
      let n := 2048 * (x.2.2.limit - x.2.2.base)
      !rangesMeet a n im.addr bytes && !(im.saveBase != 0 && rangesMeet a n im.saveBase (saveShare * im.nl))
        && !(jobRanges s ob).any (fun r => rangesMeet a n r.1 r.2) && (n == 0 || hbmBacked s a n))
  | _ => im.saveBase == 0 || hbmBacked s im.saveBase (saveShare * im.nl)

/-- The records of a section of records of `w` bytes. -/
def sectRecords (s : State) (im : Image) (i w : Nat) : List Nat :=
  (List.range (sectLen im i / w)).map (fun k => sectNat s im i (w * k) w)

/-- Whether the plan entries and windows of an image are free of the other job's (check 9). -/
def planFree (s : State) (im : Image) (ob : Nat) : Bool :=
  (sectRecords s im 9 68).all (fun v => tabGet 0 s.car.owner (natField v 0 10) != ob + 1)
    && (sectRecords s im 10 32).all (fun v =>
      let w := tabGet {} s.fab.wins (natField v 0 12)
      !(w.opened && w.bank == ob && jobState s ob != 0))

/-- The first check of R341 that an image fails. -/
def imageFault (s : State) (im : Image) (len ob : Nat) : Option Nat :=
  match [1, 2, 3, 4, 5, 6, 7, 8].find? (fun k => !imageCheck s im len ob k) with
  | some k => some k
  | none =>
    if !planFree s im ob then some 9
    else if im.fbAddr ≠ 0 ∧ !im.flags.testBit 1 then
      let fb := readImage s im.fbAddr
      if fb.flags.testBit 1 && [1, 2, 3, 4, 5, 6, 7, 8].all (imageCheck s fb im.fbLen ob) then none else some 10
    else none

/-! ## Segments (R340) -/

/-- A segment's table entry: offset, count, SWITCH, RESUME, NEXT. -/
def segEntry (s : State) (im : Image) (i : Nat) : Nat × Nat × Nat × Nat × Nat :=
  let v := sectNat s im 3 (4 + 16 * i) 12
  (byteField v 0 4, byteField v 4 2, byteField v 6 2, byteField v 8 2, byteField v 10 2)

/-- Load a segment into a core's program memory, to go on at bundle `pc`. -/
def loadSegment (s : State) (im : Image) (n seg pc : Nat) : State :=
  let (off, cnt, sw, _, _) := segEntry s im seg
  let imem := (List.range (min cnt 4096)).foldl (fun m i => tabPut 0 m i (BitVec.ofNat 256 (sectNat s im 3 (off + 32 * i) 32))) []
  updCore s n (fun c => { c with imem := imem, segment := seg, switchPc := if sw = 0xFFFF then none else some sw, segWait := false,
                                 pc := pc, nextIssue := now s n + 1 })

/-- Load a logical core's Itinerary memories (R336). -/
def loadItin (s : State) (im : Image) (n l : Nat) : State :=
  (List.range 512).foldl (fun s w => wrW s (pgSTREAM n) (0x800 + 4 * w) (sectNat s im 4 (2048 * l + 4 * w) 4)) s

/-! ## Loading a logical core (R337, R342) -/

/-- Load the handles and stacks of a logical core (R337). -/
def loadLedger (s : State) (im : Image) (n l : Nat) : State :=
  let pg := pgLEDGER n
  let s1 := (List.range 64).foldl (fun s h =>
    let v := sectNat s im 5 (1280 * l + 16 * h) 12
    let mode := natField v 18 2
    let bad := h != 63 && mode != 0
    let s1 := wrW s pg (0x800 + 0x20 * h) (natField v 0 18 + (if h = 63 then 2 <<< 18 else 0))
    let s2 := wrW s1 pg (0x804 + 0x20 * h) (if bad then 0 else natField v 32 18)
    let s3 := wrW s2 pg (0x808 + 0x20 * h) (natField v 64 1 + natField v 68 12 <<< 4)
    wrW (wrW s3 pg (0x80C + 0x20 * h) 0) pg (0x810 + 0x20 * h) 0) s
  (List.range 8).foldl (fun s k =>
    let o := 1280 * l + 1024 + 32 * k
    let s1 := wrW s pg (0x100 + 0x20 * k) (sectNat s im 5 o 4 &&& 0x9FFF1FFF)
    let s2 := wrW s1 pg (0x104 + 0x20 * k) (sectNat s im 5 (o + 4) 4)
    let s3 := wrW s2 pg (0x108 + 0x20 * k) (sectNat s im 5 (o + 8) 4 % 4)
    let s4 := wrW s3 pg (0x10C + 0x20 * k) (sectNat s im 5 (o + 12) 4 &&& 0xF7FFFF)
    wrW (wrW s4 pg (0x110 + 0x20 * k) 0) pg (0x118 + 0x20 * k) 0) s1

/-- The scratchpad contents of a logical core (R336, SPINIT). -/
def loadSpinit (s : State) (im : Image) (n l : Nat) : State :=
  (sectRecords s im 8 16).foldl (fun s v =>
    if byteField v 0 1 = l then
      let bs := hbmPeek s (im.addr + byteField v 8 4) (byteField v 12 4)
      updCore s n (fun c => spadWrite c false (byteField v 4 4 % 8388608) bs)
    else s) s

/-- Registers of a core whose contents at the start of a task are undefined (R155): free values. -/
def freeRegs (s : State) (n : Nat) : State :=
  let f := s.free
  let dw (i : Nat) : Nat := (Config.freeDWord (f + i)).toNat
  let big (i k : Nat) : Nat := (List.range k).foldl (fun v j => v + dw (i + j) <<< (64 * j)) 0
  let s1 := updCore s n (fun c =>
    { c with sregs := (List.range 31).foldl (fun m r => tabPut 0 m (r + 1) (Config.freeDWord (f + r))) [],
             preds := (BitVec.ofNat 8 (dw 31)) ||| 1,
             vregs := (List.range 32).foldl (fun m r => tabPut 0 m r (BitVec.ofNat 4096 (big (32 + 64 * r) 64))) [],
             mregs := (List.range 7).foldl (fun m r => tabPut 0 m (r + 1) (BitVec.ofNat 128 (big (2080 + 2 * r) 2))) [] })
  { s1 with free := f + 2094 }

/-- The trace that a job runs with on a core. -/
def traceCore (c : Core) (t : Option TraceCfg) : Core :=
  match t with
  | some t => { c with traceOn := true, traceMask := t.mask ||| 0x8000, traceMarks := t.marks }
  | none => { c with traceOn := false, traceMask := 0, traceMarks := [] }

/-- A physical core as it is before a logical core is loaded: its scratchpad and generators stay. -/
def bareCore (c : Core) : Core :=
  { Core.reset with spad := c.spad, rowW := c.rowW, marks := c.marks, katUntil := c.katUntil, zeroUntil := c.zeroUntil,
                    haltCtx := c.haltCtx, trace := c.trace, traceSeq := c.traceSeq, traceDrops := c.traceDrops }

/-- Contexts that are torn down are down on a core that a logical core comes to. -/
def markDowns (s : State) (b n : Nat) : State :=
  let j := jobOf s b
  updCore s n (fun c => { c with downAt := j.downs.foldl (fun m x => if x.2.status = 0 then m else tabPut 0 m x.1 1) c.downAt })

/-- A logical core becomes resident on a physical core. -/
def place (s : State) (b l n : Nat) : State :=
  let s1 := updLcore s b l (fun x => { x with pcore := some n, inAt := s.esc })
  setBlk (markDowns s1 b n) (pgSEQ n) stBUSY

/-- Load a logical core from the image onto a physical core (R342 steps 2 and 3), to issue bundle 0 of its segment. -/
def loadLcore (s : State) (b l n : Nat) : State :=
  let j := jobOf s b
  let im := readImage s j.image
  let (_, mode, cs, seg) := lcoreEntry s im l
  let s1 := setCore s n (traceCore { bareCore (core s n) with lcore := some l, bank := b, run := .issuing } j.trace)
  let s2 := freeRegs s1 n
  let s3 := wrW s2 (pgARRAY n) 0x100 (mode + cs <<< 8)
  let s4 := loadSpinit (loadLedger (loadItin (loadSegment s3 im n seg 0) im n l) im n l) im n l
  let s5 := updCore s4 n (fun c =>
    { c with desc := (List.range 16).foldl (fun m e => tabPut 0 m e (BitVec.ofNat 512 (sectNat s im 6 (1024 * l + 64 * e) 64))) [],
             scale := (List.range 256).foldl (fun m e =>
               tabPut {} m e { k := natToSigned 8 (sectNat s im 7 (256 * l + e) 1) }) [] })
  let s6 := wr (wr s5 (pgRNG n) F.RNG_SEED_LO.SEED (j.seed % 2 ^ 32)) (pgRNG n) F.RNG_SEED_HI.SEED (natField j.seed 32 32)
  let s7 := (List.range 64).foldl (fun s h => clearPoison s n h) s6
  let s8 := wr (wr (wr s7 (pgSTREAM n) F.MUSTER_SEQ.SEQ j.mseq) (pgSTREAM n) F.MUSTER_STAT.WAIT 0)
    (pgSTREAM n) F.MUSTER_STAT.LAST 0
  place s8 b l n

/-! ## Saving and restoring (R174, R351) -/

/-- Register words of a core's pages that are saved with a logical core: ARRAY_PART, handles, stacks but not SB_HWM (only a
read clears it), poison ranges and the Muster registers, the seed. -/
def savedKey (off page : Nat) : Bool :=
  if page = 1 then off == 0x100
  else if page = 3 then (decide (0x100 ≤ off) && decide (off < 0x200) && off % 0x20 != 0x14) || decide (0x800 ≤ off)
  else if page = 4 then off == 0x138 || off == 0x13C || (decide (0x400 ≤ off) && decide (off < 0x600))
  else if page = 7 then off == 0x100 || off == 0x104
  else false

/-- The saved register words of a core, keyed from its first page. -/
def coreWords (s : State) (n : Nat) : List (Nat × Word) :=
  let k0 := regKey (pgCore n 0) 0
  ((s.regs.filter (fun x => decide (k0 ≤ x.1) && decide (x.1 < k0 + 8192)
    && savedKey (x.1 % 1024 * 4) ((x.1 - k0) / 1024))).map (fun x => (x.1 - k0, x.2)))

/-- Whether everything a core has issued is complete, so that it can be saved (R174). -/
def quiet (c : Core) : Bool :=
  c.parts.all (fun p => p.2.q.isEmpty) && c.land.isEmpty && c.acc.isEmpty && c.reqs.isEmpty && c.phxVec.isEmpty
    && c.stage.all (fun x => !x.2.wout && x.2.pref.isNone)

/-- A slot when its core is given up: one that runs becomes IDLE with no credits (R148); any other stays as it is. -/
def leftSlot (x : Itin) : Itin :=
  match x.st with
  | .run | .stopping => { x with st := .idle, credits := 0 }
  | .idle | .done => x

/-- A physical core once its logical core has left: nothing is under way, and the registers and tables keep what they hold
until the next load, since no rule clears them (log entry 91). -/
def leftCore (c : Core) : Core :=
  { bareCore c with pc := c.pc, lastPc := c.lastPc, imem := c.imem, sregs := c.sregs, preds := c.preds, vregs := c.vregs,
                    mregs := c.mregs, flags := c.flags, desc := c.desc, scale := c.scale,
                    slots := c.slots.foldl (fun m x => tabPut {} m x.1 (leftSlot x.2)) [] }

/-- A physical core gives its logical core up and is READY. -/
def vacate (s : State) (n : Nat) : State :=
  let s1 := setCore s n (leftCore (core s n))
  if coreHealthy s n then setBlk s1 (pgSEQ n) stREADY else setBlk s1 (pgSEQ n) stFAULT

/-- Save the logical core of a core: its scratchpad goes to the save area; the STATE section holds its other state in a
layout the spec does not give, so its bytes are free (log entry 15). -/
def saveCore (s : State) (n : Nat) : State :=
  match (core s n).lcore with
  | none => s
  | some l =>
    let s0 := traceRec (addWrap s (pgSEQ n) F.SEQ_YIELD_CNT.COUNT 1) n 0x07 (partCtx s n 0) 0 (core s n).taskCyc
    let c := core s0 n
    let j := jobOf s c.bank
    let im := readImage s j.image
    let s1 := if j.saveBase = 0 then s0
      else hbmWriteOwn s0 (j.saveBase + saveShare * l) (memRead c.spad 0 saveShare)
    let (bs, s2) := freeBytes s1 65536
    let s3 := hbmWriteOwn s2 (j.image + sectOff im 14 + 65536 * l) bs
    let ws := coreWords s3 n
    let s4 := updLcore s3 c.bank l (fun x =>
      { x with pcore := none, outAt := s.esc, outCyc := now s n, atMuster := (match c.run with | .muster .. => true | _ => false),
               saved := some { c with yieldReqAt := 0, trace := [], traceDrops := 0 }, savedRegs := ws })
    vacate s4 n

/-- A saved core's cycles moved to the clock of the core it comes to. -/
def rebase (c : Core) (from_ to_ : Nat) : Core :=
  { c with nextIssue := to_ + 1, lastIssueAt := 0, slotAt := [], waitFrom := to_ - (from_ - c.waitFrom), fltAt := [], lastReqAt := 0,
           slots := c.slots.foldl (fun m x => tabPut {} m x.1 { x.2 with readyAt := to_ + 1, fresh := [] }) [] }

/-- Restore a saved logical core, or load one that has not run, onto a core (R351): its segment and Itinerary memories
come from the image, its state as it was saved, its trace counts from the physical core. -/
def restoreLcore (s : State) (b l n : Nat) : State :=
  let x := lcoreOf (jobOf s b) l
  match x.saved with
  | none => loadLcore s b l n
  | some c =>
    let im := readImage s (jobOf s b).image
    let p := core s n
    let c1 := { rebase c x.outCyc (now s n) with trace := p.trace, traceSeq := p.traceSeq, traceDrops := p.traceDrops,
                                                 haltCtx := p.haltCtx, katUntil := p.katUntil, scrubAt := p.scrubAt }
    let s1 := setCore s n c1
    let k0 := regKey (pgCore n 0) 0
    let keep (k : Nat) : Bool := decide (k0 ≤ k) && decide (k < k0 + 8192) && savedKey (k % 1024 * 4) ((k - k0) / 1024)
    let s2 := { s1 with regs := x.savedRegs.foldl (fun m y => smPut regDefault m (k0 + y.1) y.2) (tabDrop keep s1.regs) }
    let s3 := updCore (loadItin (loadSegment s2 im n c.segment c.pc) im n l) n (fun y => { y with segWait := c.segWait })
    let s4 := wr s3 (pgSTREAM n) F.MUSTER_SEQ.SEQ (jobOf s b).mseq
    let s5 := wr s4 (pgSTREAM n) F.MUSTER_STAT.WAIT (bit (atMuster c1))
    let s6 := updLcore (place s5 b l n) b l (fun y => { y with saved := none, savedRegs := [], atMuster := false })
    traceRec s6 n 0x08 (partCtx s6 n 0) 0 c.taskCyc

/-! ## Tearing a context down (R347) -/

/-- A context's part of a core ends (R347 steps 1, 2 and 6, R148). -/
def dropCtxCore (s : State) (n ctx : Nat) : State :=
  let c := core s n
  let ps := (corePartList s n).filter (fun p => partCtx s n p == ctx)
  let mine := (c.slots.filter (fun x => x.2.ctx == ctx && x.2.st != .idle)).map (·.1)
  let hs := ((List.range 64).filter (fun h => tabGet 0 c.poisonCtx h == ctx + 1))
  let s1 := updCore s n (fun c =>
    { c with parts := ps.foldl (fun m p => tabPut {} m p (stopPart (getPart c p) false)) c.parts,
             acc := ps.foldl dropPassAccess c.acc,
             slots := mine.foldl (fun m i => tabPut {} m i {}) c.slots,
             outq := c.outq.filter (fun x => !mine.contains x.slot),
             reqs := c.reqs.filter (fun r => r.ctx != ctx),
             stored := c.stored.filter (fun x => x.1 != ctx),
             poisonCtx := hs.foldl (fun m h => tabPut 0 m h 0) c.poisonCtx,
             downAt := tabPut 0 c.downAt ctx (if tabGet 0 c.downAt ctx = 0 then now s n + 1 else tabGet 0 c.downAt ctx) })
  let s2 := hs.foldl (fun s h => clearPoison s n h) s1
  let s3 := ps.foldl (fun s p =>
    wrW (wrW (wrW (wrW (wrW s (pgARRAY n) (0x108 + 4 * p) 0xFF00) (pgSPAD n) (0x108 + 4 * p) 0) (pgSTREAM n) (0x108 + 4 * p) 0)
      (pgSEQ n) (0x118 + 4 * p) 0) (pgVEC n) (0x100 + 4 * p) 0) s2
  (c.stored.filter (fun x => x.1 == ctx)).foldl (fun s x =>
    let (bs, t) := freeBytes s x.2.2
    hbmWriteOwn t x.2.1 bs) s3

/-- A context's Saddlebag stacks end (R110): depth 0, staging empty, the spill area's bytes undefined. -/
def dropStacks (s : State) (n ctx : Nat) : State :=
  let pg := pgLEDGER n
  (List.range 8).foldl (fun s k =>
    if rd1 s pg F.SB_SLOT.EN k = 1 ∧ rd1 s pg F.SB_SPILL_CAP.CTX k = ctx then
      let spill := rd1 s pg F.SB_SPILL_CAP.SPILL k
      let (bs, s1) := freeBytes s (256 * spill)
      let s2 := hbmWriteOwn s1 (spillAddr s n k (rd1 s pg F.SB_SLOT.CAP k)) bs
      let s3 := wrW (wr1 s2 pg F.SB_DEPTH.DEPTH k 0) pg (0x118 + 0x20 * k) 0
      updCore s3 n (fun c => { c with stage := tabDrop (fun i => i / 16 == k) c.stage })
    else s) s

/-- A context's entries in Caravan stop (R300). -/
def dropEntries (s : State) (b ctx : Nat) : State :=
  let mine (i : Inst) : Bool := i.bank == b && peCtx (insPlan s i) == ctx
  let gone := s.car.active.filter mine
  let s1 := updFab s (fun f => { f with outq := f.outq.filter (fun q =>
    !(q.msg.src == ownId s && (q.msg.cls == 2 || q.msg.cls == 3 || q.msg.cls == 5)
      && gone.any (fun i => i.entry == q.msg.win && i.inst == q.msg.wepoch))) })
  let s2 := gone.foldl (fun s i => if i.status.isSome then s else sendStatus s i 7) s1
  updCar s2 (fun c => { c with queue := c.queue.filter (fun i => !mine i), active := c.active.filter (fun i => !mine i) })

/-- The cores of a bank on which a context has a partition. -/
def ctxCores (s : State) (b ctx : Nat) : List Nat :=
  (s.cores.filter (fun x => x.2.bank == b && x.2.lcore.isSome && (coreCtxs s x.1).contains ctx)).map (·.1)

/-- The OR of a context's flags over its cores, saved ones included (R173). -/
def ctxFlags (s : State) (b ctx : Nat) : Flags5 :=
  let a := (ctxCores s b ctx).foldl (fun f n => f ||| tabGet flNone (core s n).flags ctx) flNone
  (jobOf s b).lcores.foldl (fun f x =>
    match x.2.saved with
    | some c => f ||| tabGet flNone c.flags ctx
    | none => f) a

/-- Report a context's flags (R173): event FLAGS, trace records, and FLAG_RPT on its cores where they hold IV or DZ (DEDUCED,
log entry 50). -/
def reportFlags (s : State) (b ctx : Nat) : State :=
  let f := (ctxFlags s b ctx).toNat
  let s1 := (ctxCores s b ctx).foldl (fun s n =>
    traceRec s n 0x0A ctx (ctxPart s n ctx) (tabGet flNone (core s n).flags ctx).toNat) s
  let s2 := if f % 4 = 0 then s1 else (ctxCores s b ctx).foldl (fun s n => setErr s (pgSEQ n) E.SEQ.FLAG_RPT) s1
  raiseEvent s2 0x08 0 0 [(1, ctx), (2, f)]

/-- Dies that have a logical core with a context. -/
def ctxDies (j : Job) (ctx : Nat) : List Nat :=
  ((j.lcores.filter (fun x => (lcoreCtxs x.2).contains ctx)).map (·.2.die)).eraseDups

/-- Tear a context of a bank's job down (R347) for a fault, `pcore` and `lcore` of which STEWARD_CTX_STAT shows. -/
def tearDown (s : State) (b ctx status page code craul pcore lcore : Nat) : State :=
  let j := jobOf s b
  if ctxGone j ctx || !j.valid.getLsbD ctx then { s with faults := s.faults.filter (fun f => !(f.bank == b && f.ctx == ctx)) }
  else
    let ns := ctxCores s b ctx
    let s1 := reportFlags s b ctx
    let s2 := ns.foldl (fun s n => dropStacks (dropCtxCore s n ctx) n ctx) s1
    let s3 := closeWins s2 (fun w => w.bank == b && !w.job && w.ctx == ctx)
    let s4 := dropEntries s3 b ctx
    let s5 := updFab s4 (fun f => { f with outq := f.outq.filter (fun q =>
      match q.origin with
      | some (ob, _, oc) => !(ob == b && oc == ctx)
      | none => true) })
    let s6 := updJob s5 b (fun j => { j with downs := tabPut {} j.downs ctx { status := status, pcore := pcore, lcore := lcore } })
    let s7 := wr1 (wr1 s6 pgJOB F.JOB_CTX.UP b (rd1 s6 pgJOB F.JOB_CTX.UP b &&& (0xFFFF - 2 ^ ctx)))
      pgJOB F.JOB_CTX.DOWN b (rd1 s6 pgJOB F.JOB_CTX.DOWN b ||| 2 ^ ctx)
    let s8 := (ctxDies j ctx).foldl (fun s d => setErr s (pgSTEWARD d) E.STEWARD.CTX_DOWN) s7
    raiseEvent { s8 with faults := s8.faults.filter (fun f => !(f.bank == b && f.ctx == ctx)) }
      0x02 status (page + code <<< 8 + craul <<< 16) [(1, ctx), (2, pcore % 256), (3, lcore % 256)]

/-- Tear every context of a job that is still up down with a status. -/
def tearAll (s : State) (b status : Nat) : State :=
  ((List.range 16).filter (fun c => (jobOf s b).valid.getLsbD c && !ctxGone (jobOf s b) c)).foldl (fun s c =>
    tearDown s b c status 7 0 0 0xFF 0xFF) s

/-! ## Completing commands -/

/-- Complete a started command with a status, DETAIL and RESULT; its record is written by COMMAND_COMPLETE. -/
def finishCmd (s : State) (q n status detail result : Nat) : State :=
  { s with host := { s.host with cmds := s.host.cmds.map (fun c =>
      if c.q = q ∧ c.n = n ∧ c.done = none then { c with done := some (status, detail, result) } else c) } }

/-- Complete the command that waits, if one does. -/
def finishOpt (s : State) (w : Option (Nat × Nat)) (status detail result : Nat) : State :=
  match w with
  | some (q, n) => finishCmd s q n status detail result
  | none => s

/-! ## Starting a job (R342) -/

/-- The milestones of an image (R357). -/
def imageMiles (s : State) (im : Image) : SMap Mile :=
  (List.range im.nmile).foldl (fun m i =>
    let v := sectNat s im 11 (32 * i) 24
    tabPut {} m i { kind := byteField v 0 1, valid := v.testBit 8, fallback := v.testBit 9, value := byteField v 4 4,
                    opens := byteField v 8 8, closes := byteField v 16 8 }) []

/-- The trace descriptor of an image; none unless debug level D1 or higher is open (R195, R433). -/
def imageTrace (s : State) (im : Image) : Option TraceCfg :=
  let v := sectNat s im 12 0 64
  let rr := natField v 64 24
  if sectLen im 12 < 64 ∨ rr = 0 ∨ rd s pgSEC F.SEC_DEBUG.LEVEL = 0 then none
  else some { base := natField v 0 42, records := rr, stop := v.testBit 88, mask := BitVec.ofNat 16 (byteField v 12 2),
              marks := ((List.range 16).filter (fun j => v.testBit (128 + 24 * j + 23))).map (fun j =>
                (j, natField v (128 + 24 * j) 12, natField v (140 + 24 * j) 8)) }

/-- Byte length of a die's trace ring (R196). -/
def ringStride (t : TraceCfg) : Nat := (64 + 32 * t.records + 4095) / 4096 * 4096

/-- The header of a die's trace ring (R196). -/
def ringHeader (s : State) (t : TraceCfg) (d : Nat) : State :=
  hbmWriteOwn s (t.base + d * ringStride t)
    (natToBytes 8 (tabGet 0 t.total d) ++ natToBytes 8 (tabGet 0 t.lost d) ++ natToBytes 4 t.records ++ zeros 44)

/-- Caravan loads the plan entries of an image (R276, R342). -/
def loadPlan (s : State) (im : Image) (b : Nat) : State :=
  (sectRecords s im 9 68).foldl (fun s v =>
    let e := natField v 0 10
    updCar s (fun c => { c with plan := (List.range 16).foldl (fun m i =>
                                  tabPut 0 m (16 * e + i) (BitVec.ofNat 32 (byteField v (4 + 4 * i) 4))) c.plan,
                                owner := tabPut 0 c.owner e (b + 1), trigs := tabPut 0 c.trigs e 0 })) s

/-- The module opens the windows of an image (R262, R336). A record holds the window number in bytes 0 to 3 and FAB_WIN_BASE,
SIZE, ATTR, SRC and SRCMASK in the words that follow (log entry 16). -/
def loadWindows (s : State) (im : Image) (b : Nat) : State :=
  (sectRecords s im 10 32).foldl (fun s v =>
    let i := natField v 0 12
    let w := winAt s i
    let size := natField v 64 31
    let at_ := byteField v 12 4
    setWin s i { base := natField v 32 30 * 4096, size := size, epoch := natField at_ F.FAB_WIN_ATTR.EPOCH.lsb 16,
                 r := natField at_ F.FAB_WIN_ATTR.R.lsb 1 != 0, w := natField at_ F.FAB_WIN_ATTR.W.lsb 1 != 0,
                 a := natField at_ F.FAB_WIN_ATTR.A.lsb 1 != 0, opened := true, ctx := natField at_ F.FAB_WIN_ATTR.CTX.lsb 4,
                 job := natField at_ F.FAB_WIN_ATTR.JOB.lsb 1 != 0, bank := b, srcId := natField v 128 20,
                 srcMask := natField v 160 20, live := false, busy := w.busy }) s

/-- The healthy ready cores of a die without a logical core. -/
def freeCores (s : State) (d : Nat) : List Nat := (readyCores s d).filter (fun n => (core s n).lcore.isNone)

/-- The pairs of logical and physical cores that a start maps (R349, R445). -/
def mapping (s : State) (j : Job) : List (Nat × Nat) :=
  (List.range 4).flatMap (fun d =>
    (((List.range j.nl).filter (fun l => (lcoreOf j l).die == d))).zip (freeCores s d))

/-- MODE and LCORES of the STEWARD pages for a bank's job. -/
def stewardModes (s : State) (b : Nat) : State :=
  let j := jobOf s b
  (List.range 4).foldl (fun s d =>
    let mine := j.lcores.filter (fun x => x.2.die == d)
    let out := mine.any (fun x => x.2.pcore.isNone && !x.2.ended)
    let old := rd s (pgSTEWARD d) F.STEWARD_STATE.MODE
    let mode := if mine.isEmpty then 0 else if out then 2 else 1
    let s1 := wr (wr s (pgSTEWARD d) F.STEWARD_STATE.MODE mode) (pgSTEWARD d) F.STEWARD_STATE.LCORES mine.length
    if mode = 2 ∧ old ≠ 2 then setErr s1 (pgSTEWARD d) E.STEWARD.TIMESLICE else s1) s

/-- Forget the idle counts (R295). -/
def clearIdle (s : State) : State := updCar s (fun c => { c with idle := [] })

/-- Start a job from its checked image in a bank (R342): its state, tables, windows and plan; its logical cores mapped and
loaded; its cores issue bundle 0, and JOB_START completes. -/
def beginJob (s : State) (b num image len seed : Nat) (w : Option (Nat × Nat)) : State :=
  let im := readImage s image
  let valid := (List.range im.nctx).foldl (fun m c => if (ctxEntry s im c).testBit 0 then m ||| 2 ^ c else m) 0
  let fatal := (List.range im.nctx).foldl (fun m c => if (ctxEntry s im c).testBit 1 then m ||| 2 ^ c else m) 0
  let j : Job := { num := num, image := image, len := len, saveBase := im.saveBase,
                   fbAddr := if im.flags.testBit 1 then 0 else im.fbAddr, fbLen := im.fbLen, nl := im.nl, nctx := im.nctx,
                   stepGate := im.flags.testBit 0, isFb := im.flags.testBit 1, seed := seed, valid := BitVec.ofNat 16 valid,
                   fatal := BitVec.ofNat 16 fatal, miles := imageMiles s im, trace := imageTrace s im,
                   prefetch := (sectRecords s im 13 8).take 256,
                   lcores := (List.range im.nl).foldl (fun m l =>
                     let (d, mode, cs, seg) := lcoreEntry s im l
                     tabPut {} m l { die := d, mode := mode, ctxs := cs, seg := seg, outAt := s.esc }) [] }
  let s1 := setJob s b j
  let s2 := { s1 with grants := (imageGrants s im).foldl (fun m x => tabPut {} m (grantKey b x.1 x.2.1) x.2.2)
                                  (tabDrop (fun k => k / 1024 == b) s1.grants) }
  let s3 := loadWindows (loadPlan s2 im b) im b
  let s4 := wr1 (wr64 (wr1 (wr64 s3 pgJOB F.JOB_STEPNUM_LO.NUM F.JOB_STEPNUM_HI.NUM b 0) pgJOB F.JOB_STEPSZ.SZ b 0)
    pgJOB F.JOB_STEPNUM_L_LO.NUM F.JOB_STEPNUM_L_HI.NUM b 0) pgJOB F.JOB_STEPSZ_L.SZ b 0
  let s5 := match j.trace with
    | some t => (List.range 4).foldl (fun s d => ringHeader s t d) s4
    | none => s4
  -- the record count of a core's trace starts at job start (R197)
  let s6 := s5.cores.foldl (fun s x => updCore s x.1 (fun c => { c with traceSeq := 0, trace := [], traceDrops := 0 })) s5
  let s7 := (mapping s6 j).foldl (fun s x => loadLcore s b x.1 x.2) (clearIdle s6)
  let s8 := wr64 (setJobState s7 b 2) pgJOB F.JOB_ESC0_LO.ESC F.JOB_ESC0_HI.ESC b s.esc
  let s9 := wr1 (wr1 (wr1 (wr1 s8 pgJOB F.JOB_NUM.NUM b num) pgJOB F.JOB_CTX.UP b valid) pgJOB F.JOB_CTX.DOWN b 0)
    pgJOB F.JOB_GO.PERMITS b 0
  let s10 := wr1 (wr1 s9 pgJOB F.JOB_IMAGE_LO.ADDR b (image % 2 ^ 32)) pgJOB F.JOB_IMAGE_HI.ADDR b (natField image 32 10)
  let s11 := wr1 s10 pgJOB F.JOB_FB.VALID b (bit (j.fbAddr != 0))
  let s12 := (List.range 4).foldl (fun s i => wr2 s pgJOB F.JOB_CURFEW_STAT.M b i 0) s11
  let s13 := (List.range 4).foldl (fun s d => wr s (pgSTEWARD d) F.STEWARD_STATE.MODE 0) s12
  finishOpt (stewardModes s13 b) w 0 0 num

/-! ## Ending a job (R345) -/

/-- The cores of a bank. -/
def bankCores (s : State) (b : Nat) : List Nat :=
  (s.cores.filter (fun x => x.2.bank == b && x.2.lcore.isSome)).map (·.1)

/-- Restore the job of bank 0 after a PRIORITY job (R353), unless a miss of it waits for its fall-back. -/
def resumePreempted (s : State) : State :=
  if jobState s 0 = 3 ∧ rd1 s pgJOB F.JOB_CURFEW_CTRL.FB_PEND 0 = 0 then stewardModes (setJobState s 0 4) 0 else s

/-- Core n goes back: to READY, or in P2 it is to be parked again by CORE_PARK. -/
def returnCores (s : State) (b : Nat) : State := (bankCores s b).foldl vacate s

/-- A job ends with a status (R345): windows, plan entries, grants and permits are cleared, its cores return, and
JOB_END is raised; the command that asked for its end completes. -/
def endJob (s : State) (b status : Nat) : State :=
  let j := jobOf s b
  let s0 := ((List.range 16).filter (fun c => j.valid.getLsbD c && !ctxGone j c)).foldl (fun s c => reportFlags s b c) s
  let s1 := closeWins s0 (fun w => w.bank == b)
  let s2 := ((List.range 16).filter (fun c => j.valid.getLsbD c)).foldl (fun s c => dropEntries s b c) s1
  let mine := (s2.car.owner.filter (fun x => x.2 == b + 1)).map (·.1)
  let s3 := updCar s2 (fun c => { c with plan := tabDrop (fun k => mine.contains (k / 16)) c.plan,
                                         owner := tabDrop (fun e => mine.contains e) c.owner,
                                         trigs := tabDrop (fun e => mine.contains e) c.trigs,
                                         degPos := c.degPos.filter (fun x => x.1 != b) })
  let s4 := { s3 with grants := tabDrop (fun k => k / 1024 == b) s3.grants,
                      faults := s3.faults.filter (fun f => f.bank != b) }
  let s5 := returnCores (reachMiles s4 b (fun m => m.kind == 2)) b
  let s6 := wr1 (wr1 (setJobState s5 b 0) pgJOB F.JOB_GO.PERMITS b 0) pgJOB F.JOB_CTX.UP b 0
  let s7 := wr1 (wr1 s6 pgJOB F.JOB_NUM.NUM b 0) pgJOB F.JOB_FB.VALID b 0
  let s8 := setErr (setJob s7 b {}) pgJOB (E.JOB.END + b)
  let s9 := raiseEvent s8 0x01 status 0 [(4, j.num % 256), (5, natField j.num 8 8), (6, natField j.num 16 8), (7, natField j.num 24 8)]
  let s10 := (List.range 4).foldl (fun s d =>
    wr (wr s (pgSTEWARD d) F.STEWARD_STATE.MODE 0) (pgSTEWARD d) F.STEWARD_STATE.LCORES 0) s9
  let s11 := finishOpt (finishOpt s10 j.stopCmd 0 0 0) (if (jobState s b) = 1 then j.startCmd else none) 0x24 0 0
  if b = 1 then resumePreempted s11 else s11

/-- End a job at once: every context is torn down with the status given, then the job ends (R345, R358, R384, R434). -/
def stopJob (s : State) (b ctxStatus status : Nat) : State :=
  if jobState s b = 0 then s else endJob (tearAll s b ctxStatus) b status

/-- End every held job as JOB_STOP at once does (R384, R434). -/
def stopAll (s : State) : State := stopJob (stopJob s 1 0x56 0x56) 0 0x56 0x56

/-- The status with which a job ends now, if it does (R345); a recorded fault first tears its context down (R347, log
entry 91). -/
def jobDone (s : State) (b : Nat) : Option Nat :=
  let j := jobOf s b
  let vs := (List.range 16).filter (fun c => j.valid.getLsbD c)
  let downs := vs.filter (ctxGone j)
  if jobState s b = 0 ∨ jobState s b = 1 ∨ j.nl = 0 ∨ s.faults.any (fun f => f.bank == b) then none
  else if downs.any (fun c => j.fatal.getLsbD c) || downs.length == vs.length then some 0x58
  else if (List.range j.nl).all (fun l =>
      let x := lcoreOf j l
      lcoreGone j x || x.ended || (match x.pcore with
        | some n => (core s n).run == .ended && quiet (core s n)
        | none => match x.saved with
          | some c => c.run == .ended
          | none => false)) then
    some (if downs.isEmpty then 0 else 0x57)
  else none

/-- Whether a bank may issue bundles now: PRIORITY first (R334). -/
def activeBank (s : State) : Nat := if jobState s 1 = 0 ∨ jobState s 1 = 1 then 0 else 1

end Sys2Proof.Machine
end

