-- ==== Sys2Proof/Machine/Jobs.lean ====
section
/-!
DEFINITION. The commands of jobs (R340 to R358): switches and saves of cores, context tear-down, starting, stopping and
ending a job, Curfew, scrubbing and trace rings.
-/
namespace Sys2Proof.Machine

/-! ## Switches (R174, R175, R350 to R353) -/

/-- Request a switch at a core (R174). -/
def requestYield (s : State) (n : Nat) : State :=
  updCore s n (fun c => if c.yieldReqAt = 0 then { c with yieldReqAt := now s n + 1 } else c)

/-- Once every core of the job it displaces has been saved, a PRIORITY job that waits begins (R352). -/
def tryBegin (s : State) : State :=
  if jobState s 1 = 1 ∧ (bankCores s 0).isEmpty then
    let j := jobOf s 1
    let s1 := if jobState s 0 = 4 then setJobState s 0 3 else s
    let s2 := beginJob s1 1 j.num j.image j.len j.seed j.startCmd
    let us := min ((s.esc + 1 - j.switchAt) / 325) 65535
    (List.range 4).foldl (fun s d =>
      let pg := pgSTEWARD d
      raiseMax (addWrap (wr s pg F.STEWARD_SWITCH.LAST us) pg F.STEWARD_PREEMPT_CNT.COUNT 1) pg F.STEWARD_SWITCH.MAX 0 us) s2
  else s

/-- A job that stops at its yield points ends once every core has been saved (R345) and no recorded fault waits (R347). -/
def tryStop (s : State) (b : Nat) : State :=
  if jobState s b = 5 ∧ (bankCores s b).isEmpty ∧ !s.faults.any (fun f => f.bank == b) then tryBegin (stopJob s b 0x56 0x56) else s

/-- YIELD_SAVE (R174, R351): a core with a switch pending that is at a yield point, and whose issued work is complete, is
saved. -/
def execYieldSave (c : Fin 256) (s : State) : Host.Outcome State Fault Refusal :=
  let n := c.val
  let k := core s n
  .next (if k.yieldReqAt != 0 && k.lcore.isSome && (yieldPending k || allDown s n) && quiet k then
    let b := k.bank
    let s1 := tryStop (tryBegin (saveCore s n)) b
    if jobState s1 b = 2 then stewardModes s1 b else s1
  else s)

/-- The saved-out logical cores of a die, longest out first. -/
def outCores (s : State) (b d : Nat) : List Nat :=
  let j := jobOf s b
  let xs := j.lcores.filter (fun x => x.2.die == d && x.2.pcore.isNone && !x.2.ended && !lcoreGone j x.2)
  (xs.mergeSort (fun x y => decide (x.2.outAt ≤ y.2.outAt))).map (·.1)

/-- The ready ones among them (R350). -/
def readyOut (s : State) (b d : Nat) : List Nat := (outCores s b d).filter (fun l => !(lcoreOf (jobOf s b) l).atMuster)

/-- A job being restored runs again when nothing is left to restore onto its cores (R353). -/
def settleRestore (s : State) (b : Nat) : State :=
  if jobState s b = 4 ∧ (List.range 4).all (fun d => (outCores s b d).isEmpty || (freeCores s d).isEmpty) then
    stewardModes (setJobState s b 2) b
  else s

/-- CORE_RESTORE (R350, R351, R353): a free core takes the ready logical core of its die that has been saved out longest; a
job being restored takes back any. -/
def execCoreRestore (c : Fin 256) (l : Fin 240) (s : State) : Host.Outcome State Fault Refusal :=
  let n := c.val
  let b := activeBank s
  let d := dieOf n
  let st := jobState s b
  .next (if (freeCores s d).contains n then
      if st = 2 ∧ (readyOut s b d).head? = some l.val then
        stewardModes (addWrap (restoreLcore s b l.val n) (pgSTEWARD d) F.STEWARD_TS_CNT.COUNT 1) b
      else if st = 4 ∧ jobState s 1 = 0 ∧ (outCores s b d).contains l.val then settleRestore (restoreLcore s b l.val n) b
      else s
    else s)

/-- CORE_READY_MAP (R445): a healthy core that becomes ready while the job runs takes the logical core of its die that has
been saved out longest. -/
def execCoreReadyMap (c : Fin 256) (s : State) : Host.Outcome State Fault Refusal :=
  let n := c.val
  let b := activeBank s
  .next (match outCores s b (dieOf n) with
    | l :: _ =>
      if (freeCores s (dieOf n)).contains n ∧ jobState s b = 2 then stewardModes (restoreLcore s b l n) b else s
    | [] => s)

/-- NO_YIELD (R175): a requested switch has not taken effect within 131,072 CCLK. -/
def execNoYield (c : Fin 256) (s : State) : Host.Outcome State Fault Refusal :=
  let n := c.val
  let k := core s n
  .next (if k.yieldReqAt != 0 && !yieldPending k && decide (k.yieldReqAt + 131072 ≤ now s n + 1) then
    setErr (recSeqAll s n 3 0 k.lastPc) (pgSTEWARD (dieOf n)) E.STEWARD.NO_YIELD
  else s)

/-- SEGMENT_SWITCH (R340): the bundle at SWITCH has issued with YIELD 1 and no switch is pending; the next segment is loaded
and goes on at RESUME. -/
def execSegmentSwitch (c : Fin 256) (s : State) : Host.Outcome State Fault Refusal :=
  let n := c.val
  let k := core s n
  .next (if k.segWait && !yieldStopped k && k.lcore.isSome then
    let im := readImage s (jobOf s k.bank).image
    let (_, _, _, resume, next) := segEntry s im k.segment
    loadSegment s im n next resume
  else s)

/-- TIMESLICE_REQUEST (R350): the core that has waited longest at a Muster or a WAITT, else the one resident longest once
that is its quantum, while a logical core of its die is ready. -/
def execTimesliceRequest (c : Fin 256) (s : State) : Host.Outcome State Fault Refusal :=
  let n := c.val
  let d := dieOf n
  let b := activeBank s
  let asked (m : Nat) : Bool := (core s m).yieldReqAt != 0
  let ns := (bankCores s b).filter (fun m => dieOf m == d)
  let free := ns.filter (fun m => !asked m)
  let waits := free.filter (fun m => waiting (core s m))
  let inAt (m : Nat) : Nat := (lcoreOf (jobOf s b) ((core s m).lcore.getD 0)).inAt
  let q := max 1 (rd s (pgSTEWARD d) F.STEWARD_TS.QUANTUM)
  let first (xs : List Nat) (f : Nat → Nat) : Option Nat := (xs.mergeSort (fun x y => decide (f x ≤ f y))).head?
  .next (if jobState s b = 2 ∧ (ns.filter asked).length < (readyOut s b d).length then
      match first waits (fun m => (core s m).waitFrom) with
      | some m => if m = n then requestYield s n else s
      | none =>
        if first free inAt = some n ∧ inAt n + 325 * q ≤ s.esc then requestYield s n else s
    else s)

/-! ## Tear-down (R347) -/

/-- Order of the sources of R356 for a fault. -/
def faultSource (f : FaultRec) : Nat := if f.page = 5 then 4 else if f.page = 6 then 5 else 2

/-- Whether a fault comes before another (R356). -/
def faultBefore (a b : FaultRec) : Bool :=
  let key (f : FaultRec) : List Nat := [f.at_, faultSource f, f.core / 64, f.core, f.part, f.code]
  decide (key a ≤ key b)

/-- CTX_TEARDOWN (R347): the Stewards tear a faulted context down; the job ends when that was a FATAL context or the last. -/
def execCtxTeardown (b : Fin 2) (ctx : Fin 16) (s : State) : Host.Outcome State Fault Refusal :=
  .next (match (s.faults.filter (fun f => f.bank == b.val && f.ctx == ctx.val)).mergeSort faultBefore with
    | [] => s
    | f :: _ =>
      let s1 := tearDown s b.val ctx.val f.status f.page f.code f.craul f.core f.lcore
      if jobDone s1 b.val = some 0x58 then tryBegin (endJob s1 b.val 0x58) else tryStop s1 b.val)

/-! ## Scrubbing and trace (R92, R194, R196) -/

/-- Whether 2 ^ SCRUB_SHIFT CCLK have passed since the scrubber's last read (R92); a shift below 8 acts as 8. -/
def scrubDue (s : State) (n : Nat) : Bool :=
  (core s n).scrubAt == 0
    || decide ((core s n).scrubAt + 2 ^ max 8 (rd s (pgSPAD n) F.SPAD_CTRL.SCRUB_SHIFT) ≤ now s n + 1)

/-- SCRUB_READ (R92): the scrubber reads the next row and writes a corrected one back. -/
def execScrubRead (c : Fin 256) (s : State) : Host.Outcome State Fault Refusal :=
  let n := c.val
  let pg := pgSPAD n
  .next (if rdB s pg F.SPAD_CTRL.SCRUB_EN && scrubDue s n then
    let r := rd s pg F.SPAD_SCRUB_POS.ROW
    let m := rowMark (core s n) r
    let es := readErrs (core s n) [(128 * r, 128)]
    let s0 := noteErrs (updCore s n (fun c => { c with scrubAt := now s n + 1 })) n es
    let s1 := if es.any (·.ue) then setErr s0 pg E.SPAD.UE_BG else s0
    let s2 := wr s1 pg F.SPAD_SCRUB_POS.ROW ((r + 1) % 65536)
    if (m.ce != 0 || m.tag) && m.ue == 0 then
      addSat (updCore s2 n (fun c => { c with marks := tabPut {} c.marks r { m with ce := 0, tag := false } }))
        pg F.SPAD_SCRUB_CNT.COUNT 1
    else s2
  else s)

/-- One record into a die's ring (R196). -/
def ringPut (t : TraceCfg) (d : Nat) (s : State × TraceCfg) (r : List Byte) : State × TraceCfg :=
  let t1 := s.2
  let total := tabGet 0 t1.total d
  if t.stop ∧ t.records ≤ total then (s.1, { t1 with lost := tabPut 0 t1.lost d (tabGet 0 t1.lost d + 1) })
  else (hbmWriteOwn s.1 (t.base + d * ringStride t + 64 + 32 * (total % t.records)) r,
        { t1 with total := tabPut 0 t1.total d (total + 1) })

/-- TRACE_FLUSH (R194, R196): the Steward copies a core's trace records into its die's ring, then TOTAL and LOST. -/
def execTraceFlush (c : Fin 256) (s : State) : Host.Outcome State Fault Refusal :=
  let n := c.val
  let k := core s n
  let d := dieOf n
  .next (match (jobOf s k.bank).trace with
    | none => s
    | some t =>
      if k.trace.isEmpty then s
      else
        let (s1, t1) := k.trace.foldl (ringPut t d) (s, t)
        let s2 := updJob (updCore s1 n (fun c => { c with trace := [] })) k.bank (fun j => { j with trace := some t1 })
        ringHeader s2 t1 d)

/-! ## JOB_START, JOB_STOP, STEP_GO (R341 to R345) -/

/-- A started command of a queue that has not completed and has this opcode. -/
def cmdOf (s : State) (q n opc : Nat) : Option Cmd :=
  s.host.cmds.find? (fun c => c.q == q && c.n == n && c.done.isNone && byteField c.bytes 0 1 == opc)

/-- An argument of a command: bytes [o, o + n). -/
def arg (c : Cmd) (o n : Nat) : Nat := byteField c.bytes o n

/-- Run a command with this opcode. -/
def runCmd (s : State) (q n opc : Nat) (f : Cmd → State) : State :=
  match cmdOf s q n opc with
  | some c => f c
  | none => s

/-- Whether JOB_START must wait (R444): a domain that the image or its grants touch is not ready, a die that an LCORE entry
names has no ready core, a rebuild is due or in progress (R218), or zeroization has yet to finish (R436). -/
def jobWaits (s : State) (a : Nat) : Bool :=
  if !addrReady s a || s.psp.pendZero.isSome
      || (domList s).any (fun d => rdB s (domPage d) F.HBM_MAP_CTRL.BUSY || (!anyJob s && domPending s d)) then true
  else
    let im := readImage s a
    (imageGrants s im).any (fun x => !addrReady s (2048 * x.2.2.base))
      || (List.range (min im.nl 240)).any (fun l => (readyCores s ((lcoreEntry s im l).1 % 4)).isEmpty)

/-- Unpark the cores that an image's logical cores would be mapped onto (R349, R383): on each die the first healthy cores
that are ready and free, or parked. -/
def unparkFor (s : State) (a : Nat) : State :=
  let im := readImage s a
  (List.range 4).foldl (fun s d =>
    let k := ((List.range (min im.nl 240)).filter (fun l => (lcoreEntry s im l).1 == d)).length
    let ns := (dieCores d).filter (fun n => coreHealthy s n && ((core s n).parked || (freeCores s d).contains n))
    ((ns.take k).filter (fun n => (core s n).parked)).foldl (fun s n =>
      let s1 := wr1 s pgPWR F.PWR_DIE.PARKED d (rd1 s pgPWR F.PWR_DIE.PARKED d - 1)
      bringUpCore (updCore s1 n (fun c => { c with parked := false })) n) s) s

/-- JOB_START (R341, R342, R352): checks the image, then starts the job, or requests a switch at every core of the job it
preempts. -/
def execJobStart (q : Fin 5) (n : BitVec 32) (s : State) : Host.Outcome State Fault Refusal :=
  .next (runCmd s q.val n.toNat 0x01 (fun c =>
    let done (st d : Nat) : State := finishCmd s c.q c.n st d 0
    let b := q.val
    let a := arg c 8 8
    let len := arg c 24 4
    let fbPend := rd1 s pgJOB F.JOB_CURFEW_CTRL.FB_PEND 0 + rd1 s pgJOB F.JOB_CURFEW_CTRL.FB_PEND 1
    if s.psp.zero.isSome then done 0x23 2
    else if rd s pgSEC F.SEC_DEBUG.LEVEL = 3 then done 0x23 3
    else if 2 ≤ rd s pgSYS F.SYS_REMOVE.PHASE then done 0x23 0
    else if b = 0 ∧ (jobState s 0 ≠ 0 ∨ jobState s 1 ≠ 0 ∨ fbPend ≠ 0) then done 0x23 0
    else if b = 1 ∧ (jobState s 1 ≠ 0 ∨ rd1 s pgJOB F.JOB_CURFEW_CTRL.FB_PEND 1 ≠ 0) then done 0x23 0
    else if b = 1 ∧ jobState s 0 ≠ 0 ∧ (jobOf s 0).saveBase = 0 then done 0x23 1
    else if 2 ^ 42 ≤ a ∨ a % 4096 ≠ 0 then done 0x22 0
    else
      let s0 := if addrReady s a then unparkFor s a else s
      if jobWaits s0 a then s0
      else
        let im := readImage s0 a
        let (_, ue, s1) := if imageCheck s0 im len (1 - b) 2 then hbmRead s0 a (4096 * len) else ([], false, s0)
        if ue then finishCmd s1 c.q c.n 6 0 0
        else match imageFault s1 im len (1 - b) with
          | some k => finishCmd s1 c.q c.n 0x22 k 0
          | none =>
            let num := s.jobNum + 1
            let s2 := { s1 with jobNum := num }
            if b = 1 ∧ !(bankCores s2 0).isEmpty then
              let jb : Job := { num := num, image := a, len := len, seed := arg c 16 8, startCmd := some (c.q, c.n), switchAt := s.esc + 1 }
              let s3 := setJob (setJobState s2 1 1) 1 jb
              let s4 := if jobState s3 0 = 2 then setJobState s3 0 4 else s3
              let s5 := (List.range 4).foldl (fun s d => wr s (pgSTEWARD d) F.STEWARD_STATE.MODE 3) s4
              (bankCores s5 0).foldl requestYield s5
            else
              let s3 := if b = 1 ∧ jobState s2 0 ≠ 0 then setJobState s2 0 3 else s2
              beginJob s3 b num a len (arg c 16 8) (some (c.q, c.n))))

/-- JOB_STOP (R345): at once, or at the next yield point of every core. -/
def execJobStop (q : Fin 5) (n : BitVec 32) (s : State) : Host.Outcome State Fault Refusal :=
  .next (runCmd s q.val n.toNat 0x02 (fun c =>
    let b := q.val
    let mode := arg c 8 1
    if 1 < mode then finishCmd s c.q c.n 0x22 0 0
    else if jobState s b = 0 then finishCmd s c.q c.n 0 0 0
    else
      let s1 := if (jobOf s b).stopCmd.isSome then s else updJob s b (fun j => { j with stopCmd := some (c.q, c.n) })
      if mode = 1 ∨ jobState s b = 1 then tryBegin (finishCmd (stopJob s1 b 0x56 0x56) c.q c.n 0 0 0)
      else if jobState s b = 5 then s1
      else tryStop ((bankCores s1 b).foldl requestYield (setJobState s1 b 5)) b))

/-- STEP_GO (R344): one permit for the next step-start Muster. -/
def execStepGo (q : Fin 5) (n : BitVec 32) (s : State) : Host.Outcome State Fault Refusal :=
  .next (runCmd s q.val n.toNat 0x03 (fun c =>
    let p := rd1 s pgJOB F.JOB_GO.PERMITS 0
    if !(jobOf s 0).stepGate then finishCmd s c.q c.n 0 0 0
    else if p = 65535 then finishCmd s c.q c.n 0x22 0 0
    else finishCmd (wr1 s pgJOB F.JOB_GO.PERMITS 0 (p + 1)) c.q c.n 0 0 0))

/-- JOB_END (R345): a job whose logical cores have ended, or whose contexts are down, ends. -/
def execJobEnd (b : Fin 2) (s : State) : Host.Outcome State Fault Refusal :=
  .next (match jobDone s b.val with
    | some st => tryBegin (endJob s b.val st)
    | none => s)

/-! ## Curfew (R357, R358) -/

/-- CURFEW_CLOSE (R357, R358): a window closes with no matching event; the milestone is MISSED, and Curfew may end the job and
leave the start of its fall-back image pending. -/
def execCurfewClose (b : Fin 2) (i : Fin 64) (s : State) : Host.Outcome State Fault Refusal :=
  let j := jobOf s b.val
  let m := tabGet {} j.miles i.val
  .next (if m.valid && mileState s b.val i.val == 0 && decide (m.closes ≤ sinceStart s b.val) && jobState s b.val != 0 then
    let takes := m.fallback && j.fbAddr != 0 && !j.isFb && rd1 s pgJOB F.JOB_CURFEW_CTRL.EN b.val != 0
    let s1 := setErr (setMile s b.val i.val 2) pgJOB (E.JOB.MISS + b.val)
    let s2 := wr1 s1 pgJOB F.JOB_CURFEW_CTRL.LAST b.val i.val
    let s3 := raiseEvent s2 0x0C 0 0 [(1, i.val), (2, bit takes)]
    if takes then
      let s4 := stopJob (wr1 s3 pgJOB F.JOB_CURFEW_CTRL.FB_PEND b.val 1) b.val 0x55 0x55
      setJob s4 b.val { image := j.fbAddr, len := j.fbLen, seed := j.seed }
    else s3
  else s)

/-- FALLBACK_START (R358): the pending fall-back image starts in the same bank with the same seed. -/
def execFallbackStart (b : Fin 2) (s : State) : Host.Outcome State Fault Refusal :=
  let j := jobOf s b.val
  .next (if rd1 s pgJOB F.JOB_CURFEW_CTRL.FB_PEND b.val = 1 ∧ jobState s b.val = 0 ∧ (b.val = 1 ∨ jobState s 1 = 0) then
    let num := s.jobNum + 1
    let s1 := wr1 { s with jobNum := num } pgJOB F.JOB_CURFEW_CTRL.FB_PEND b.val 0
    let s2 := setErr (beginJob s1 b.val num j.image j.len j.seed none) pgJOB (E.JOB.FALLBACK + b.val)
    (List.range 4).foldl (fun s d => addWrap s (pgSTEWARD d) F.STEWARD_FB_CNT.COUNT 1) s2
  else s)

end Sys2Proof.Machine
end

