-- ==== Sys2Proof/Machine/SecOps.lean ====
section
/-!
DEFINITION. The operations of Passport and of messages: answers (R408), measurements (R423, R424), tokens (R432), debug
levels and zeroization (R433 to R436).
-/
namespace Sys2Proof.Machine

/-- Update the state of Passport. -/
def updPsp (s : State) (f : Passport → Passport) : State := { s with psp := f s.psp }

/-- Update the host interface. -/
def updHost (s : State) (f : HostIf → HostIf) : State := { s with host := f s.host }

/-- Emit something. -/
def emit (s : State) (o : Out) : State := updHost s (fun h => { h with out := h.out ++ [o] })

/-! ## Messages and answers (R408) -/

/-- A response message. -/
def rspMsg (ty tag status : Nat) (body : List Byte) : List Byte :=
  natToBytes 8 (packBytes [(0, ty), (1, 1), (2, tag % 65536), (4, body.length), (6, status)]) ++ body

/-- Bytes padded with zeros to a multiple of 32. -/
def pad32 (bs : List Byte) : List Byte := bs ++ zeros ((32 - bs.length % 32) % 32)

/-- Send an answer: a command completes with STATUS, DETAIL and RESULT; a message is answered with STATUS and a body. An
ATTEST command whose response space is too small completes BAD_ARG. -/
def reply (s : State) (who : Reply) (status detail result : Nat) (body : List Byte) : State :=
  match who with
  | .none => s
  | .cmd q n => finishCmd s q n status detail result
  | .i3c ty tag => emit s (.i3c (rspMsg ty tag status body))
  | .fabric dst op ty tag =>
    let bs := pad32 (rspMsg ty tag status body)
    let (n, s1) := nextSeq s
    originate s1 { dst := dst, src := ownId s, cls := 4, op := op, len := bs.length, seq := n, data := bs } none false
  | .attest q n ty tag addr space =>
    let bs := rspMsg ty tag status body
    if space < bs.length then finishCmd s q n 0x22 0 0 else finishCmd (hbmWriteOwn s addr bs) q n 0 0 0

/-- A record of the security log (R437). -/
def logSec (s : State) (code data : Nat) : State := logRec s 3 code 0 data

/-- A management record (R410). -/
def logMgmt (s : State) (code data : Nat) : State := logRec s 2 code 0 data

/-! ## Measurements (R423, R424) -/

/-- A measurement register. -/
def measOf (s : State) (i : Nat) : Nat := tabGet 0 s.psp.meas i

/-- Extend a measurement register with a digest, and append an entry to the log. -/
def extend (s : State) (i ty ver : Nat) (d : List Byte) : State :=
  let v := bytesToNat (sha384 (natToBytes 48 (measOf s i) ++ d))
  updPsp s (fun p =>
    { p with meas := tabPut 0 p.meas i v,
             cnt := tabPut 0 p.cnt i (min 255 (tabGet 0 p.cnt i + 1)),
             log := if p.log.length < 256 then p.log ++ [(i, ty, ver, s.esc, bytesToNat d)] else p.log,
             overflow := p.overflow || decide (256 ≤ p.log.length) })

/-- The debug event that MEAS[6] records: its kind and the level after it. -/
def extendDebug (s : State) (ev level : Nat) : State := extend s 6 0 0 (sha384 (natToBytes 8 (packBytes [(0, ev), (1, level)])))

/-- The debug level. -/
def level (s : State) : Nat := rd s pgSEC F.SEC_DEBUG.LEVEL

/-- Change the debug level (R423, R433, R436, R437): LEVEL, MAX, MEAS[6], the LEVEL record. -/
def setLevel (s : State) (new tslot : Nat) : State :=
  let old := level s
  let s1 := wr (wr s pgSEC F.SEC_DEBUG.LEVEL new) pgSEC F.SEC_DEBUG.MAX (max new (rd s pgSEC F.SEC_DEBUG.MAX))
  logSec (setErr (extendDebug s1 (if old < new then 1 else 2) new) pgSEC E.SEC.LEVEL) 0x01
    (packBytes [(0, new), (1, old), (2, tslot)])

/-- The module's power state. -/
def modState (s : State) : Nat := rd s pgPWR F.PWR_MODSTATE.STATE

/-- Cores halted by HALT resume (R326, R436). -/
def resumeAll (s : State) : State :=
  s.cores.foldl (fun s x => updCore s x.1 (fun c => { c with haltCtx := 0 })) s

/-- The compute dies restart: their blocks go off and forget their state; the Stewards, NOCs and bridges are ready again
at once, and each core when it is brought up (log entry 18). -/
def restartDies (s : State) : State :=
  let s1 := (List.range 4).foldl (fun s d =>
    let s := (dieCores d).foldl (fun s n => if coreHealthy s n then setBlk s (pgSEQ n) stOFF else s) s
    setHealthy ([pgSTEWARD d, pgNOC d, pgBRIDGE d].foldl (fun s p => setBlk (resetPage s p) p stREADY) s) d) s
  ((s1.cores.map (·.1)).filter (coreHealthy s1)).foldl (fun s n => resetCore s n) s1

/-- DEBUG_CLOSE (R436). In P3 and P4 the restart of the dies happens on leaving them. -/
def closeDebug (s : State) : State :=
  match level s with
  | 0 => s
  | 1 => setLevel s 0 0xFF
  | 2 => resumeAll (setLevel s 1 0xFF)
  | _ => let s1 := setLevel s 1 0xFF
         if modState s1 < 3 then restartDies s1 else updPow s1 (fun p => { p with restart := true })

/-! ## Tokens (R432) -/

/-- The lifecycle state. -/
def lifecycle (s : State) : Nat := rd s pgSEC F.SEC_LIFECYCLE.STATE

/-- Whether a key slot is usable (R417); the key area copies equal their fused hashes until they are erased. -/
def keyUsable (s : State) (k : Nat) : Bool :=
  decide (k < 3) && (rd s pgSEC F.SEC_KEYSLOT.FUSED).testBit k && !(rd s pgSEC F.SEC_KEYSLOT.REVOKED).testBit k
    && !s.psp.keyErased

/-- Whether both signatures of a block by a slot verify over a message (R418). -/
def sigsOk (slot : Nat) (msg ed ml : List Byte) : Bool := Config.edOk slot msg ed && Config.mldsaOk slot msg ml

/-- The UID. -/
def uid (s : State) : Nat := rd s pgSEC F.SEC_UID_LO.UID + (rd s pgSEC F.SEC_UID_HI.UID) <<< 32

/-- The module's nonce (R431), bytes 0 to 31 as a number. -/
def nonce (s : State) : Nat := ((List.range 8).map (fun i => (rd1 s pgSEC F.SEC_NONCE.NONCE i) <<< (32 * i))).foldl (· + ·) 0

/-- Whether TARGET is one of those of KIND. -/
def targetOk (kind target : Nat) : Bool :=
  match kind with
  | 1 => decide (1 ≤ target) && decide (target ≤ 3)
  | 2 => target == 3 || target == 4
  | 3 => decide (target < 3)
  | _ => false

/-- Whether the change that a token asks for is permitted (R420, R429, R435). -/
def changeOk (s : State) (kind target slot : Nat) : Bool :=
  let life := lifecycle s
  match kind with
  | 1 => target < 2 || decide (modState s < 3)
  | 2 => decide (modState s < 3) && (if target = 3 then life == 2 else life == 1 || life == 2 || life == 3)
  | _ => target != slot && [0, 1, 2].any (fun k => k != target && keyUsable s k)

/-- The first check of R432 that a token for an operation of KIND `kind` fails. -/
def tokenFault (s : State) (kind : Nat) (t : List Byte) : Option Nat :=
  let v := bytesToNat (t.take 64)
  let magic := bytesToNat ([0x5A, 0x4B, 0x53, 0x54, 0x4F, 0x4B, 0x30, 0x31] : List Byte)
  let target := byteField v 9 1
  let slot := byteField v 10 1
  if t.length ≠ 3437 ∨ byteField v 0 8 ≠ magic ∨ byteField v 8 1 ≠ kind ∨ !targetOk kind target ∨ byteField v 11 5 ≠ 0
      ∨ byteField v 56 8 ≠ 0 then some 1
  else if byteField v 16 8 ≠ uid s then some 2
  else if byteField v 24 32 ≠ nonce s then some 3
  else if !keyUsable s slot then some 4
  else if lifecycle s = 2 ∧ !sigsOk slot (t.take 64) ((t.drop 64).take 64) (t.drop 128) then some 5
  else if !changeOk s kind target slot then some 6
  else none

/-- TARGET of a token. -/
def tokenTarget (t : List Byte) : Nat := bytesToNat ((t.drop 9).take 1)

/-- SLOT of a token. -/
def tokenSlot (t : List Byte) : Nat := bytesToNat ((t.drop 10).take 1)

/-- A token is rejected with a reason (R432): DENIED. -/
def rejectToken (s : State) (kind target reason : Nat) (who : Reply) : State :=
  let s1 := wr (addSat s pgSEC F.SEC_TOKEN_REJ.COUNT 1) pgSEC F.SEC_TOKEN_REJ.LAST reason
  let s2 := logSec (setErr s1 pgSEC E.SEC.TOKEN_REJ) 0x02 (packBytes [(0, kind), (1, target), (2, reason)])
  reply s2 who 3 reason 0 [BitVec.ofNat 8 reason]

/-- A token is accepted. -/
def acceptToken (s : State) (slot : Nat) : State :=
  wr (wr s pgSEC F.SEC_DEBUG.TSLOT slot) pgSEC F.SEC_DEBUG.TVALID 1

/-- Whether a power, zeroization or lifecycle transition is in progress, during which levels and tokens answer BUSY
(R430, R436). -/
def secBusy (s : State) : Bool :=
  rdB s pgPWR F.PWR_MODSTATE.BUSY || rdB s pgSEC F.SEC_DEBUG.ZERO_BUSY || rdB s pgSEC F.SEC_LIFECYCLE.TRANSIT

/-! ## Zeroization (R434) -/

/-- The HBM ranges of a held job: image, save area, fall-back image, grants and windows. -/
def zeroRanges (s : State) (b : Nat) : List (Nat × Nat) :=
  let j := jobOf s b
  if jobState s b = 0 then []
  else jobRanges s b ++ (if j.fbAddr = 0 then [] else [(j.fbAddr, 4096 * j.fbLen)])
    ++ (s.fab.wins.filter (fun x => x.2.opened && x.2.bank == b)).map (fun x => (x.2.base, 4096 * x.2.size))

/-- A granule of HBM becomes zero with valid check bits. -/
def zeroGranule (s : State) (g : Nat) : State :=
  match hbmPlace s (2048 * g) with
  | none => s
  | some (n, r, _) =>
    { s with hbm := { s.hbm with mem := tabDrop (fun k => k / 2048 == n * slotsR + r) s.hbm.mem,
                                 marks := tabDrop (fun k => k / 64 == n * slotsR + r) s.hbm.marks } }

/-- Ranges of HBM become zero. -/
def zeroHbm (s : State) (rs : List (Nat × Nat)) : State :=
  rs.foldl (fun s r => (List.range ((r.1 + r.2 + 2047) / 2048 - r.1 / 2048)).foldl (fun s i => zeroGranule s (r.1 / 2048 + i)) s) s

/-- Every link closes (R241). -/
def closeLinks (s : State) : State :=
  (List.range 64).foldl (fun s l =>
    if usable s l && (lk s l).closeAt == 0 then
      closeDone (rerouteQueued (updLk s l (fun v => { v with closeAt := s.esc + 1 })) l) l
    else if linkState s l = 2 then linkDown s l 4 else s) s

/-- Whether every link is closed. -/
def linksClosed (s : State) : Bool := (List.range 64).all (fun l => !usable s l && linkState s l != 2)

/-- Steps 1 and 2 of a zeroization: held jobs end, pending fall-back starts are cancelled, and for D3 every link closes. -/
def startZero (s : State) (lv : Nat) (life : Option Nat) (tslot : Nat) (who : Reply) : State :=
  let rs := zeroRanges s 0 ++ zeroRanges s 1
  let s1 := [0, 1].foldl (fun s b => wr1 s pgJOB F.JOB_CURFEW_CTRL.FB_PEND b 0) (stopAll s)
  let s2 := if lv = 3 then closeLinks s1 else s1
  let s3 := wr (if life.isSome then wr s2 pgSEC F.SEC_LIFECYCLE.TRANSIT 1 else s2) pgSEC F.SEC_DEBUG.ZERO_BUSY 1
  updPsp s3 (fun p => { p with zero := some { level := lv, life := life, tslot := tslot, ranges := rs, who := who } })

/-- Step 3: the memories become zero. -/
def zeroMemories (s : State) (rs : List (Nat × Nat)) : State :=
  zeroHbm ((s.cores.map (·.1)).foldl (fun s n => updCore s n zeroSpad) s) rs

/-- A forced entry to P3 interrupts a zeroization (R436). -/
def abortZero (s : State) : State :=
  match s.psp.zero with
  | none => s
  | some z =>
    let s1 := wr (wr (wr s pgSEC F.SEC_DEBUG.ZERO_BUSY 0) pgSEC F.SEC_DEBUG.ZERO_PEND 1) pgSEC F.SEC_LIFECYCLE.TRANSIT 0
    let s2 := logSec (setErr (updPsp s1 (fun p => { p with zero := none, pendZero := some z })) pgSEC E.SEC.ZERO_ABORT) 0x03
      (packBytes [(0, z.life.getD z.level), (1, 2)])
    reply s2 z.who 0x24 7 0 []

/-- Open a debug level (R433, R434): a target not above the level has no effect, D1 opens at once, D2 and D3 after a
zeroization. -/
def openLevel (s : State) (target tslot : Nat) (who : Reply) : State :=
  if target ≤ level s then reply s who 0 0 0 []
  else if target = 1 then reply (setLevel s 1 tslot) who 0 0 0 []
  else startZero s target none tslot who

end Sys2Proof.Machine
end

