-- ==== Sys2Proof/Machine/PowerOps.lean ====
section
/-!
DEFINITION. The operations of clocks, power and heat (R374 to R398): divider demands, temperature samples, and entering P3.
-/
namespace Sys2Proof.Machine

/-- A POWER_THERMAL event (R395): kind, unit, value. -/
def evPower (s : State) (kind unit value : Nat) : State := raiseEvent s 0x0B 0 0 [(1, kind), (2, unit), (4, value % 65536)]

/-- One second in PCLK. -/
def secPclk : Nat := 325000000

/-- An event raised at most once a second for a key (R395, R504): a suppressed one counts in PWR_EVT_SUPP. -/
def evLimited (s : State) (key kind unit value : Nat) : State :=
  let t := tabGet 0 s.pow.evAt key
  if t = 0 ∨ t + secPclk ≤ s.esc + 1 then
    updPow (evPower s kind unit value) (fun p => { p with evAt := tabPut 0 p.evAt key (s.esc + 1) })
  else addSat s pgPWR F.PWR_EVT_SUPP.COUNT 1

/-! ## Divider demands (R377, R388) -/

/-- CLK_DIV of a die. -/
def dieDiv (s : State) (d : Nat) : Nat := natField (rd s pgCLK F.CLK_DIV.DIV) (2 * d) 2

/-- Root-clock periods of a divider code (R375). -/
def divPeriods (code : Nat) : Nat := if code = 0 then 4 else if code = 1 then 5 else if code = 2 then 6 else 8

/-- Thermal demand of a die. -/
def thermDemand (s : State) (d : Nat) : Nat := natField (rd s pgTHERM F.THERM_DEMAND.DIV) (2 * d) 2

/-- THROT_N assertion recognised. -/
def throtIn (s : State) : Bool := rdB s pgPWR F.PWR_THROT.THROT_IN

/-- The demands above ÷4 of a die, as PWR_THROT.CAUSE. -/
def causesOf (s : State) (d : Nat) : Nat :=
  bit (tabGet 0 s.pow.cap d != 0) + 2 * bit (throtIn s) + 4 * bit (thermDemand s d != 0) + 8 * bit (tabGet 0 s.pow.curAt d != 0)

/-- The slowest demand of a die (R388). -/
def demandOf (s : State) (d : Nat) : Nat :=
  max (max (tabGet 0 s.pow.cap d) (thermDemand s d)) (if throtIn s || tabGet 0 s.pow.curAt d != 0 then 3 else 0)

/-- Report the demands in force and decide the divider changes they call for; each takes effect at its switch edge. -/
def settleDemands (s : State) : State :=
  (List.range 4).foldl (fun s d =>
    let s1 := wr s pgPWR F.PWR_THROT.CAUSE (natSetField (rd s pgPWR F.PWR_THROT.CAUSE) (4 * d) 4 (causesOf s d))
    let t := demandOf s d
    updPow s1 (fun p => { p with pend := tabPut 0 p.pend d (if t = dieDiv s d then 0 else t + 1) })) s

/-! ## Temperatures (R391, R392) -/

/-- Key of a sensor: its class and index (R406). -/
def sensKey (cls i : Nat) : Nat := 1024 * cls + i

/-- The latest sample of a diode in quarters of a degree. -/
def diodeTemp (s : State) (i : Nat) : Int := natToSigned 16 (tabGet 0 s.pow.sens (sensKey 0 i))

/-- The hottest of some diodes. -/
def hottest (s : State) (lo n : Nat) : Int := (List.range n).foldl (fun m i => max m (diodeTemp s (lo + i))) (diodeTemp s lo)

/-- Temperature of a compute die and of the hub. -/
def dieTemp (s : State) (d : Nat) : Int := hottest s (21 * d) 21
def hubTemp (s : State) : Int := hottest s 84 8

/-- Temperature of a stack. -/
def stackTemp (s : State) (k : Nat) : Nat := rd s (pgSTK k) F.HBM_STK_STATE.TEMP

/-- Take a sample of a sensor: the value held and, for a diode, the highest since THERM_VAL.MAX was read (class 7). -/
def sampleSens (s : State) (cls i v : Nat) : State :=
  updPow s (fun p =>
    let m := tabPut 0 p.sens (sensKey cls i) (v % 65536)
    let old := natToSigned 16 (tabGet 0 p.sens (sensKey 7 i))
    { p with sens := if cls = 0 ∧ old < natToSigned 16 v then tabPut 0 m (sensKey 7 i) (v % 65536) else m })

/-- Whether every unit that demands of a die is at least 3 °C below its threshold. -/
def coolDie (s : State) (d : Nat) : Bool :=
  decide (dieTemp s d ≤ 388) && decide (hubTemp s ≤ 388) && (List.range 8).all (fun j => decide (stackTemp s (8 * d + j) ≤ 87))

/-- Whether a threshold that steps the thermal demand of a die is met. -/
def hotDie (s : State) (d : Nat) : Bool :=
  decide (400 ≤ dieTemp s d) || decide (400 ≤ hubTemp s) || (List.range 8).any (fun j => decide (90 ≤ stackTemp s (8 * d + j)))

/-- Whether a threshold that sets the thermal demand of a die to ÷8 at once is met. -/
def maxDie (s : State) (d : Nat) : Bool :=
  decide (420 ≤ dieTemp s d) || (List.range 8).any (fun j => decide (95 ≤ stackTemp s (8 * d + j)))

/-- Follow since when each die has been cool. -/
def noteCool (s : State) : State :=
  (List.range 4).foldl (fun s d => updPow s (fun p =>
    { p with coolAt := tabPut 0 p.coolAt d (if coolDie s d then (if tabGet 0 p.coolAt d = 0 then s.esc + 1 else tabGet 0 p.coolAt d)
                                             else 0) })) s

/-- Take a temperature sample. -/
def sampleTemp (s : State) (u : TempAt) : State :=
  noteCool (match u with
    | .diode i t => sampleSens s 0 i.val (intToNat 16 (natToSigned 10 t.toNat))
    | .stack k t => raiseMax (wr (sampleSens s 3 k.val t.toNat) (pgSTK k.val) F.HBM_STK_STATE.TEMP t.toNat)
        (pgSTK k.val) F.HBM_STK_STATE.TEMP_MAX 0 t.toNat)

/-- Set the thermal demand of a die (R391). -/
def setTherm (s : State) (d v : Nat) : State :=
  let old := thermDemand s d
  if v = old then s
  else
    let s1 := addWrap (wr s pgTHERM F.THERM_DEMAND.DIV (natSetField (rd s pgTHERM F.THERM_DEMAND.DIV) (2 * d) 2 v))
      pgTHERM F.THERM_THROT_CNT.COUNT 1
    let s2 := if old < v then
        updPow (setErr s1 pgTHERM E.THERM.HOT) (fun p => { p with thermAt := tabPut 0 p.thermAt d (s.esc + 1) })
      else s1
    settleDemands s2

/-- Step the thermal demand of a die up, 100 µs after its last step at the earliest, or to ÷8 at once. -/
def stepUp (s : State) (d : Nat) : State :=
  let t := tabGet 0 s.pow.thermAt d
  if maxDie s d then setTherm s d 3
  else if hotDie s d ∧ (t = 0 ∨ t + 32500 ≤ s.esc + 1) then setTherm s d (min 3 (thermDemand s d + 1))
  else s

/-! ## Power states (R381 to R384) -/

/-- A power state is entered: STATE, ERR_STATUS and the STATE event. -/
def enterState (s : State) (st : Nat) : State :=
  evPower (setErr (wr (wr (wr s pgPWR F.PWR_MODSTATE.STATE st) pgPWR F.PWR_MODSTATE.TARGET st) pgPWR F.PWR_MODSTATE.BUSY 0)
    pgPWR E.PWR.STATE) 0x0C 0xFF st

/-- A transition begins. -/
def beginState (s : State) (st cause : Nat) (cmd : Option (Nat × Nat)) : State :=
  updPow (wr (wr (wr s pgPWR F.PWR_MODSTATE.TARGET st) pgPWR F.PWR_MODSTATE.BUSY 1)
    pgPWR F.PWR_MODSTATE.CAUSE (if 3 ≤ st then cause else rd s pgPWR F.PWR_MODSTATE.CAUSE))
    (fun p => { p with cmd := cmd })

/-- Debug levels D2 and D3 close (R382). -/
def closeHigh (s : State) : State := if 2 ≤ level s then closeDebug s else s

/-- A commanded entry to P3 begins (R384 steps 1 and 2). -/
def startP3 (s : State) (cmd : Option (Nat × Nat)) : State := beginState (closeLinks (stopAll (closeHigh s))) 3 0 cmd

/-- A forced entry to P3 (R384, R470); in P3 or P4 already it changes nothing. -/
def forceP3 (s : State) (cause : Nat) : State :=
  if 3 ≤ modState s ∧ !(rdB s pgPWR F.PWR_MODSTATE.BUSY && decide (rd s pgPWR F.PWR_MODSTATE.TARGET < 3)) then s
  else
    let s1 := cutTests (closeLinks (stopAll (abortZero (closeHigh s))))
    updBoot (updPow (beginState s1 3 cause s.pow.cmd) (fun p => { p with forced := true })) (fun b => { b with p4 := false })

/-- Blocks go off (R483, R484): compute dies, stacks and fabric engines. -/
def powerOff (s : State) : State :=
  let pages := (List.range 256).map pgSEQ ++ (List.range 4).flatMap (fun d => [pgSTEWARD d, pgNOC d, pgBRIDGE d])
    ++ (List.range 32).map pgSTK ++ (List.range 512).map pgCH ++ (List.range 16).map pgPORT
  let s1 := pages.foldl (fun s p => setBlk s p stOFF) s
  let s2 := { s1 with cores := [] }
  let s3 := [0, 1, 2, 3].foldl (fun s d => wr1 s pgPWR F.PWR_DIE.PARKED d 0) s2
  wr s3 pgCLK F.CLK_STATE.LOCK (rd s3 pgCLK F.CLK_STATE.LOCK &&& 16)

/-- The active image slot. -/
def activeSlot (s : State) : Nat := rd s pgINNK F.INNK_STATE.SLOT

/-- A component of a slot. -/
def compOf (s : State) (slot ty : Nat) : Option Comp := (tabGet {} s.innk.slots slot).comps.find? (fun c => c.ty == ty)

/-- What a stack's record of training values must match (R442): one more than the version of the PHY tables loaded. -/
def trainKey (s : State) : Nat := ((compOf s (activeSlot s) 5).map (·.ver)).getD 0 + 1

/-- The Innkeeper stores the training values of every trained stack (R442). -/
def storeTraining (s : State) : State :=
  let ks := (List.range 32).filter (fun k => rd s (pgSTK k) F.HBM_STK_STATE.TRAIN == 2)
  updInnk s (fun i => { i with trained := ks.foldl (fun m k => tabPut 0 m k (trainKey s)) i.trained })

/-- Whether every healthy core has ended its shut-down self-test: none is ready or under test. -/
def coresTested (s : State) : Bool :=
  (List.range 256).all (fun n => !coreHealthy s n || (!blkReady s (pgSEQ n) && !underTest s n))

/-- A host port's link goes down (R303, R308). The spec gives no codes for the state and cause of a host port's LINK event
(log entry 8). -/
def hostDown (s : State) (i : Nat) : State :=
  let pg := pgHOSTETH i
  if rdB s pg F.HOSTETH_STATE.LINK then
    raiseEvent (setErr (wr (wr s pg F.HOSTETH_STATE.LINK 0) pg F.HOSTETH_STATE.FEC_LOCK 0) pg E.HOSTETH.LINK_DOWN)
      0x09 0 0 [(1, 0x40 + i), (2, Config.code 0x0902 0 % 256), (3, Config.code 0x0903 0 % 256)]
  else s

end Sys2Proof.Machine
end

