-- ==== Sys2Proof/Machine/InnkOps.lean ====
section
/-!
DEFINITION. The operations of the Innkeeper: boot and restart (R405, R414, R421), component loads (R422), the log in flash
(R411), and updates (R412, R413).
-/
namespace Sys2Proof.Machine

/-! ## Slots and boot (R403, R414, R421) -/

/-- Image slot A (0) or B (1). -/
def slotAt (s : State) (k : Nat) : ISlot := tabGet {} s.innk.slots k

/-- The anti-rollback counter. -/
def arb (s : State) : Nat := rd s pgSEC F.SEC_ARB.COUNT

/-- Whether a component has the hash of its header. -/
def compOk (c : Comp) : Bool := bytesToNat (sha384 c.data) == c.sha

/-- Why the boot ROM refuses an image slot (R421 step 2), as UPDATE's DETAIL. -/
def slotFault (s : State) (k : Nat) : Option Nat :=
  let x := slotAt s k
  match x.comps.find? (fun c => c.ty == 1) with
  | none => some 1
  | some fw =>
    if !x.valid then some 1
    else if !keyUsable s x.key || !x.comps.all (fun c => keyUsable s c.key) then some 2
    else if x.secver < arb s then some 3
    else if !compOk fw then some 5
    else none

/-- Extend the measurement register of a component's type (R423). -/
def extendComp (s : State) (c : Comp) : State := extend s c.ty c.ty c.ver (natToBytes 48 c.sha)

/-- Try to start the firmware of a slot: a slot that is refused is logged. -/
def trySlot (s : State) (k : Nat) (rolled : Bool) : Option State × State :=
  match slotFault s k with
  | some r => (none, logSec (setErr s pgSEC E.SEC.BOOT_REJ) 0x07 (packBytes [(0, k), (1, r)]))
  | none =>
    match (slotAt s k).comps.find? (fun c => c.ty == 1) with
    | none => (none, s)
    | some fw =>
      let s1 := wr (wr (extendComp s fw) pgINNK F.INNK_STATE.STATE 1) pgINNK F.INNK_STATE.SLOT k
      let s2 := wr (wr (wr s1 pgINNK F.INNK_STATE.HEALTHY 0) pgINNK F.INNK_STATE.ROLLED (bit rolled)) pgSEC F.SEC_KEYSLOT.FWSLOT fw.key
      let s3 := logMgmt s2 0x01 (packBytes [(0, k), (1, fw.ver % 2 ^ 24)])
      (some (updInnk s3 (fun i => { i with serviced := s.esc, loadFail := false })), s)

/-- Steps 2 and 3 of R421: the active slot, or the other; with neither, the Innkeeper stays in BOOT. -/
def bootInnk (s : State) (rolled : Bool) : State :=
  let k := activeSlot s
  match trySlot s k rolled with
  | (some t, _) => t
  | (none, s1) =>
    match trySlot s1 (1 - k) rolled with
    | (some t, _) => t
    | (none, s2) => wr s2 pgINNK F.INNK_STATE.STATE 0

/-- The security block checks a component, measures it and lets it load (R422). -/
def loadComp (s : State) (c : Comp) : State :=
  if compOk c then extendComp s c else updInnk s (fun i => { i with loadFail := true })

/-- Load the active slot's component of a type. -/
def loadType (s : State) (ty : Nat) : State :=
  match compOf s (activeSlot s) ty with
  | some c => loadComp s c
  | none => s

/-- Whether the Innkeeper serves messages and MGMT and DEBUG commands: it runs. -/
def innkRuns (s : State) : Bool := rd s pgINNK F.INNK_STATE.STATE == 1 || rd s pgINNK F.INNK_STATE.STATE == 3

/-- The Innkeeper restarts (R405) with a cause: its latches clear and its semaphore is released (R488, R492). -/
def restartInnk (s : State) (cause : Nat) : State :=
  let s1 := wr (addWrap (wr (wr s pgINNK F.INNK_STATE.STATE 2) pgINNK F.INNK_STATE.HEALTHY 0) pgINNK F.INNK_WDOG.COUNT 1)
    pgINNK F.INNK_WDOG.CAUSE cause
  let s2 := logMgmt (setErr s1 pgINNK E.INNK.RESTART) 0x02 cause
  let s3 := if s2.innk.semHeld then wr1 s2 pgSYS F.SYS_SEM.FREE 0 1 else s2
  let s4 := updHost s3 (fun h => { h with latches := h.latches.filter (fun x => decide (x.1 < 2048)),
                                          loHeld := h.loHeld.filter (fun x => decide (x.1 < 2048)) })
  updInnk s4 (fun i => { i with semHeld := false, semWaitAt := 0, restarts := s.esc :: i.restarts })

/-- Restarts within the last 10 minutes (R405). -/
def recentRestarts (s : State) : Nat := (s.innk.restarts.filter (fun t => decide (s.esc < t + 600 * secPclk))).length

/-! ## The event log (R409 to R411) -/

/-- Records that the log holds at most, and that a sector holds. -/
def logMax : Nat := 1048576
def sectorRecs : Nat := 2048

/-- Write one record to flash: entering a sector of a full ring erases the oldest records. -/
def logWrite (log : List LogRec) (r : LogRec) : List LogRec :=
  (if logMax ≤ log.length then log.drop sectorRecs else log) ++ [r]

/-- Write every buffered record to flash. -/
def flushLog (s : State) : State :=
  updInnk s (fun i => { i with log := i.buf.foldl logWrite i.log, buf := [] })

/-- The 32 bytes of a record (R410). -/
def recBytes (r : LogRec) : List Byte :=
  let b := natToBytes 8 r.seq ++ natToBytes 8 r.stamp ++ natToBytes 4 r.boot ++ natToBytes 1 r.cls ++ natToBytes 1 r.code
    ++ natToBytes 1 r.status ++ zeros 1 ++ natToBytes 4 r.data
  b ++ natToBytes 4 (crc32c b)

/-- Newest sequence number in flash. -/
def logNewest (s : State) : Nat := (s.innk.log.getLast?.map (·.seq)).getD 0

/-- Records that a read returns (R411): from the first whose number is at least `first`, at most `n`. -/
def logRead (s : State) (first n : Nat) : List LogRec := (s.innk.log.filter (fun r => decide (first ≤ r.seq))).take n

/-! ## Updates (R412 to R414) -/

/-- `n` staged bytes from an offset. -/
def stagedBytes (s : State) (o n : Nat) : List Byte := (List.range n).map (fun i => tabGet 0 s.innk.stage (o + i))

/-- A field of the staged bundle. -/
def stagedNat (s : State) (o n : Nat) : Nat := bytesToNat (stagedBytes s o n)

/-- Write bytes into the staging area. -/
def stagePut (s : State) (o : Nat) (bs : List Byte) : State :=
  let s1 := updInnk s (fun i => { i with stage := (bs.foldl (fun (m : SMap Byte × Nat) b => (tabPut 0 m.1 m.2 b, m.2 + 1)) (i.stage, o)).1 })
  raiseMax s1 pgINNK F.INNK_STAGE.BYTES 0 (o + bs.length)

/-- Largest size of a component (R403). -/
def compMax (ty : Nat) : Nat :=
  match ty with
  | 1 => 8 * 2 ^ 20
  | 2 => 2 ^ 20
  | 3 => 2 ^ 20
  | 4 => 2 * 2 ^ 20
  | _ => 4 * 2 ^ 20

/-- Largest bundle. -/
def bundleMax : Nat := 44 * 2 ^ 20

/-- Entry `i` of the staged header: TYPE, version, offset, length, hash. -/
def bundleEntry (s : State) (i : Nat) : Nat × Nat × Nat × Nat × Nat :=
  let o := 64 + 64 * i
  (stagedNat s o 1, stagedNat s (o + 4) 4, stagedNat s (o + 8) 4, stagedNat s (o + 12) 4, stagedNat s (o + 16) 48)

/-- Entries of the staged header. -/
def bundleEntries (s : State) : List (Nat × Nat × Nat × Nat × Nat) := (List.range (min 5 (stagedNat s 16 4))).map (bundleEntry s)

/-- Whether the staged bundle has the format of R412 and a SECVER of R419. -/
def bundleFormat (s : State) (len : Nat) : Bool :=
  let magic := bytesToNat ([0x5A, 0x4B, 0x53, 0x55, 0x50, 0x44, 0x30, 0x31] : List Byte)
  let es := bundleEntries s
  let n := stagedNat s 16 4
  stagedNat s 0 8 == magic && stagedNat s 8 4 == 0x00010000 && stagedNat s 12 4 == len && decide (4096 ≤ len)
    && decide (len ≤ bundleMax) && decide (1 ≤ n) && decide (n ≤ 5) && decide (stagedNat s 20 4 ≤ 64)
    && stagedNat s 28 4 == 3437 && decide (stagedNat s 24 4 + 3437 ≤ len)
    && (es.map (·.1)).eraseDups.length == es.length
    && es.all (fun e => decide (1 ≤ e.1) && decide (e.1 ≤ 5) && e.2.2.1 % 4096 == 0 && decide (4096 ≤ e.2.2.1)
        && decide (e.2.2.1 + e.2.2.2.1 ≤ len) && decide (e.2.2.2.1 ≤ compMax e.1))

/-- The components of the staged bundle. -/
def bundleComps (s : State) : List Comp :=
  (bundleEntries s).map (fun e =>
    { ty := e.1, ver := e.2.1, sha := e.2.2.2.2, data := stagedBytes s e.2.2.1 e.2.2.2.1, secver := stagedNat s 20 4,
      key := stagedNat s (stagedNat s 24 4) 1 })

/-- Step 2 of R413: the DETAIL of the first check that the staged bundle fails. -/
def bundleFault (s : State) (len : Nat) : Option Nat :=
  let so := stagedNat s 24 4
  let slot := stagedNat s so 1
  if !bundleFormat s len then some 1
  else if !(keyUsable s slot && sigsOk slot (stagedBytes s 0 so) (stagedBytes s (so + 64) 64) (stagedBytes s (so + 128) 3309)) then some 2
  else if stagedNat s 20 4 < arb s then some 3
  else if !(bundleComps s).all compOk then some 5
  else none

/-- An update ends in failure with a DETAIL (R413, R414). -/
def updateFail (s : State) (who : Reply) (detail : Nat) : State :=
  let s1 := wr (wr s pgINNK F.INNK_UPD.LAST 0x24) pgINNK F.INNK_UPD.PHASE 0
  let s2 := logMgmt (setErr s1 pgINNK E.INNK.UPD_FAIL) 0x06 detail
  reply (updInnk s2 (fun i => { i with upd := none })) who 0x24 detail 0 []

/-- Whether a held job holds cores of a die. -/
def dieHeld (s : State) (d : Nat) : Bool := [0, 1].any (fun b => (jobOf s b).lcores.any (fun x => x.2.die == d))

/-- Results of self-tests cease to be valid when a component of type 2 or 3 changes (R456). -/
def voidResults (s : State) (d : Nat) : State :=
  ((dieCores d) ++ [256 + d]).foldl (fun s u => if (bistOf s u).valid then setBist s u { bistOf s u with valid := false } else s) s

/-- Record a type as pending a job boundary on a die, or not. -/
def setPending (s : State) (d ty : Nat) (on : Bool) : State :=
  let m := tabGet 0 s.innk.pendComp d
  let v := if on then m ||| 2 ^ ty else m &&& (255 - 2 ^ ty)
  updInnk s (fun i => { i with pendComp := tabPut 0 i.pendComp d v })

/-- Whether the compute dies are powered. -/
def diesOn (s : State) : Bool := decide (modState s < 3)

/-- Step 6 of R413 for a type: loaded at once on dies that no job holds, pending on the others. -/
def applyDies (s : State) (c : Comp) : State :=
  let free := (List.range 4).filter (fun d => diesOn s && !dieHeld s d)
  let s1 := (List.range 4).foldl (fun s d => setPending s d c.ty (!free.contains d)) s
  let s2 := free.foldl voidResults s1
  if free.isEmpty then s2 else loadComp s2 c

/-- Steps 4 to 6 of R413 for a component. -/
def applyComp (s : State) (c : Comp) : State :=
  if c.ty = 2 ∨ c.ty = 3 then applyDies s c
  else if c.ty = 4 then loadComp s c
  else s

/-- Whether a type stays pending after it has been applied (R413). -/
def compPending (s : State) (ty : Nat) : Bool :=
  ty == 5 || ((ty == 2 || ty == 3) && (List.range 4).any (fun d => (tabGet 0 s.innk.pendComp d).testBit ty))

/-- Apply the staged bundle (R413 steps 1 to 7). -/
def applyBundle (s : State) (len : Nat) (who : Reply) : State :=
  let s0 := logMgmt s 0x03 (len / 4096)
  match bundleFault s0 len with
  | some k => updateFail s0 who k
  | none =>
    let act := activeSlot s0
    let cs := bundleComps s0
    let keep := (slotAt s0 act).comps.filter (fun c => !cs.any (fun x => x.ty == c.ty))
    let slot : ISlot := { comps := cs ++ keep, secver := stagedNat s0 20 4, key := stagedNat s0 (stagedNat s0 24 4) 1, valid := true }
    let s1 := updInnk s0 (fun i => { i with slots := tabPut {} i.slots (1 - act) slot })
    let s2 := cs.foldl applyComp s1
    let pend := (cs.map (·.ty)).filter (compPending s2)
    let done := (cs.map (·.ty)).filter (fun t => !compPending s2 t)
    let s3 := cs.foldl (fun s c => logMgmt s 0x04 (packBytes [(0, c.ty), (1, if pend.contains c.ty then 2 else 1)])) s2
    let mask (ts : List Nat) : Nat := ts.foldl (fun m t => m ||| 2 ^ (t - 1)) 0
    let s4 := wr (wr (wr s3 pgINNK F.INNK_UPD.DONE (mask done)) pgINNK F.INNK_UPD.PEND (mask pend)) pgINNK F.INNK_UPD.PHASE 5
    let u : Update := { who := who, len := len, slot := 1 - act, types := done, pending := pend, secver := slot.secver, phase := 5,
                        healthAt := s.esc + 1 }
    restartInnk (updInnk (wr s4 pgINNK F.INNK_STATE.SLOT (1 - act)) (fun i => { i with upd := some u })) 3

/-- Firmware is healthy (R413 step 8): an update completes. -/
def setHealthyFw (s : State) : State :=
  let s1 := wr s pgINNK F.INNK_STATE.HEALTHY 1
  match s.innk.upd with
  | none => s1
  | some u =>
    let old := arb s
    let s2 := if old < u.secver then
        logSec (setErr (wr s1 pgSEC F.SEC_ARB.COUNT u.secver) pgSEC E.SEC.ARB) 0x06 (packBytes [(0, old), (1, u.secver)])
      else s1
    let bits (sh : Nat) (ts : List Nat) : Nat := ts.foldl (fun m t => m ||| 2 ^ (t + sh)) 0
    let s3 := logMgmt s2 0x05 (bits 0 u.types)
    let s4 := wr (wr s3 pgINNK F.INNK_UPD.PHASE 0) pgINNK F.INNK_UPD.LAST 0
    reply (updInnk s4 (fun i => { i with upd := none })) u.who 0 0 (bits 0 u.types ||| bits 8 u.pending) []

/-- The boot ROM rolls back (R414): the inactive slot becomes active; a pending update fails; DSP firmware and the dies'
firmware are reapplied from the restored slot. A slot below the anti-rollback counter, or invalid, is never booted. -/
def rollBack (s : State) : State :=
  let k := 1 - activeSlot s
  if (slotFault s k).isSome then s
  else
    let s1 := wr (restartInnk s 4) pgINNK F.INNK_STATE.SLOT k
    let s2 := logMgmt (setErr s1 pgINNK E.INNK.ROLLBACK) 0x07 k
    let s3 := match s.innk.upd with
      | some u => updateFail s2 u.who 4
      | none => s2
    let s4 := bootInnk (updInnk s3 (fun i => { i with restarts := [] })) true
    ((slotAt s4 k).comps.filter (fun c => c.ty == 2 || c.ty == 3 || c.ty == 4)).foldl applyComp s4

/-! ## Sensors (R406) -/

/-- Sensors of a class. -/
def sensCount (cls : Nat) : Nat :=
  match cls with
  | 0 => 112 | 1 => 48 | 2 => 24 | 3 => 32 | 4 => 272 | 5 => 97 | 6 => 16
  | _ => 0

end Sys2Proof.Machine
end

