-- ==== Sys2Proof/Machine/Power.lean ====
section
/-!
DEFINITION. The commands of clocks, power and heat (R374 to R398, R504).
-/
namespace Sys2Proof.Machine

/-! ## Clocks (R377 to R379) -/

/-- DIVIDER_SWITCH (R377): a decided divider takes effect at a CCLK edge of the die. -/
def execDividerSwitch (d : Fin 4) (s : State) : Host.Outcome State Fault Refusal :=
  let n := d.val
  let p := tabGet 0 s.pow.pend n
  let old := dieDiv s n
  .next (if p ≠ 0 ∧ p - 1 ≠ old ∧ tabGet 0 s.pow.edgeAt n = s.tick then
    let new := p - 1
    let s1 := updPow s (fun x => { x with pend := tabPut 0 x.pend n 0 })
    let s2 := wr s1 pgCLK F.CLK_DIV.DIV (natSetField (rd s1 pgCLK F.CLK_DIV.DIV) (2 * n) 2 new)
    let s3 := addWrap1 s2 pgCLK F.CLK_DIVCHG.COUNT n 1
    if old = 0 then evLimited (setErr s3 pgPWR E.PWR.THROTTLE) (2 * n) 0x01 n new
    else if new = 0 then evLimited s3 (2 * n + 1) 0x02 n 0
    else s3
  else s)

/-- REF_LOST (R378). -/
def execRefLost (s : State) : Host.Outcome State Fault Refusal :=
  .next (if s.pow.lostAt ≠ 0 then s
  else
    let s1 := wr (wr s pgCLK F.CLK_STATE.REF_OK 0) pgCLK F.CLK_STATE.HOLDOVER 1
    let s2 := setErr (addWrap s1 pgCLK F.CLK_REF_LOSS.COUNT 1) pgCLK E.CLK.REF_LOST
    evPower (updPow s2 (fun p => { p with lostAt := s.esc + 1 })) 0x0A 0xFF 0)

/-- REF_LOSS_P3 (R378): 100 ms, 32,500,000 PCLK, without the reference. -/
def execRefLossP3 (s : State) : Host.Outcome State Fault Refusal :=
  .next (if s.pow.lostAt ≠ 0 ∧ s.pow.lostAt + 32500000 ≤ s.esc + 1 then forceP3 s 3 else s)

/-- REF_LOSS_HOST_DOWN (R378): 10 s without the reference. -/
def execRefLossHostDown (s : State) : Host.Outcome State Fault Refusal :=
  .next (if s.pow.lostAt ≠ 0 ∧ s.pow.lostAt + 10 * secPclk ≤ s.esc + 1 then
    [0, 1, 2, 3].foldl hostDown (wr s pgCLK F.CLK_STATE.OSC 1)
  else s)

/-- REF_BACK (R378): the PLLs relock; the power state stays. -/
def execRefBack (s : State) : Host.Outcome State Fault Refusal :=
  .next (if s.pow.lostAt = 0 then s
  else
    let s1 := wr (wr (wr s pgCLK F.CLK_STATE.REF_OK 1) pgCLK F.CLK_STATE.HOLDOVER 0) pgCLK F.CLK_STATE.OSC 0
    evPower (updPow s1 (fun p => { p with lostAt := 0 })) 0x0B 0xFF 0)

/-- ESC_CHECK (R379): every 2²⁰ PCLK; a copy that differs is counted and reloaded. -/
def execEscCheck (d : Fin 4) (copy : BitVec 64) (s : State) : Host.Outcome State Fault Refusal :=
  .next (if s.esc % 2 ^ 20 = 0 ∧ (rd s pgCLK F.CLK_STATE.LOCK).testBit d.val ∧ copy.toNat ≠ s.esc then
    setErr (addSat s pgCLK F.CLK_ESC_CHK.COUNT 1) pgCLK E.CLK.ESC_MM
  else s)

/-! ## Power (R386 to R390) -/

/-- POWER_SAMPLE (R387, R397): every 5 µs, 1,625 PCLK; the 1 ms average is over the latest 200 samples. Energy is counted
in mJ from samples of 5 µs. -/
def execPowerSample (input : BitVec 13) (d0 d1 d2 d3 : BitVec 12) (mons : List (Fin 72 × BitVec 16)) (s : State) :
    Host.Outcome State Fault Refusal :=
  let w := input.toNat
  let xs := (w :: s.pow.samples).take 200
  let avg := xs.foldl (· + ·) 0 / xs.length
  let e := s.pow.eFrac + 5 * w
  let s1 := raiseMax (wr (wr s pgPWR F.PWR_INST.W w) pgPWR F.PWR_AVG.W avg) pgPWR F.PWR_PEAK.W 0 avg
  let s2 := add64 s1 pgPWR F.PWR_ENERGY_LO.COUNT F.PWR_ENERGY_HI.COUNT 0 (e / 1000)
  let s3 := updPow s2 (fun p => { p with samples := xs, eFrac := e % 1000 })
  let s4 := wr1 (wr1 (wr1 (wr1 s3 pgPWR F.PWR_DIE.W 0 d0.toNat) pgPWR F.PWR_DIE.W 1 d1.toNat) pgPWR F.PWR_DIE.W 2 d2.toNat)
    pgPWR F.PWR_DIE.W 3 d3.toNat
  .next (mons.foldl (fun s m => if m.1.val < 48 then sampleSens s 1 m.1.val m.2.toNat
    else sampleSens s 2 (m.1.val - 48) m.2.toNat) s4)

/-- Ratio of die power at a divider to that at ÷4, in thousandths (R387). -/
def powerRatio (code : Nat) : Nat := if code = 0 then 1000 else if code = 1 then 762 else if code = 2 then 610 else 429

/-- Whether the predicted sample, with a die one step faster, is at most 0.95 × limit (rule 3 of R387): the change of the
die's power counts at the input as load ÷ 0.92 (log entry 19). -/
def mayStepDown (s : State) (d cap : Nat) : Bool :=
  let input := rd s pgPWR F.PWR_INST.W
  let limit := rd s pgPWR F.PWR_LIMIT.W
  let w := rd1 s pgPWR F.PWR_DIE.W d
  let rOld := powerRatio cap
  let rNew := powerRatio (cap - 1)
  decide (100 * input * rOld * 92 + 10000 * w * (rNew - rOld) ≤ 95 * limit * rOld * 92)

/-- Set the cap demand of a die. -/
def setCap (s : State) (d v : Nat) : State := updPow s (fun p => { p with cap := tabPut 0 p.cap d v })

/-- The first die of a list that is best by a strict order. -/
def bestDie (better : Nat → Nat → Bool) (ds : List Nat) : Option Nat :=
  ds.foldl (fun m d => match m with
    | none => some d
    | some x => if better d x then some d else some x) none

/-- The first of the three rules of R387 that applies. -/
def capRules (s : State) : State :=
  let cap (d : Nat) : Nat := tabGet 0 s.pow.cap d
  let input := rd s pgPWR F.PWR_INST.W
  let limit := rd s pgPWR F.PWR_LIMIT.W
  let up (t : State) : State := updPow t (fun p => { p with upAt := s.esc + 1 })
  let ds := [0, 1, 2, 3]
  if 110 * limit < 100 * input then
    if ds.all (fun d => cap d == 3) then s else up (ds.foldl (fun s d => setCap s d 3) s)
  else if 98 * limit < 100 * input then
    match bestDie (fun a b => decide (rd1 s pgPWR F.PWR_DIE.W b < rd1 s pgPWR F.PWR_DIE.W a)) (ds.filter (fun d => decide (cap d < 3))) with
    | some d => up (setCap s d (cap d + 1))
    | none => s
  else if s.pow.upAt = 0 ∨ s.pow.upAt + 32500 ≤ s.esc + 1 then
    match bestDie (fun a b => decide (cap b ≤ cap a)) ds with
    | some d => if cap d ≠ 0 ∧ mayStepDown s d (cap d) then setCap s d (cap d - 1) else s
    | none => s
  else s

/-- CAP_LOOP_TICK (R386, R387): accepted POWER_LIMIT commands take effect and complete; then the rules run. -/
def execCapLoopTick (s : State) : Host.Outcome State Fault Refusal :=
  let waiting := s.host.cmds.filter (fun c => c.stage == 1 && c.done.isNone && byteField c.bytes 0 1 == 0x21)
  let s1 := waiting.foldl (fun s c =>
    let v := arg c 8 4
    finishCmd (wr s pgPWR F.PWR_LIMIT.W (if v = 0 then rd s pgPWR F.PWR_PLMAX.W else v)) c.q c.n 0 0 0) s
  .next (settleDemands (capRules s1))

/-- CURRENT_DEMAND (R388). -/
def execCurrentDemand (d : Fin 4) (s : State) : Host.Outcome State Fault Refusal :=
  .next (settleDemands (updPow s (fun p => { p with curAt := tabPut 0 p.curAt d.val (s.esc + 1) })))

/-- CURRENT_DEMAND_END (R388): 100 µs, 32,500 PCLK, after it began. -/
def execCurrentDemandEnd (d : Fin 4) (s : State) : Host.Outcome State Fault Refusal :=
  let t := tabGet 0 s.pow.curAt d.val
  .next (if t ≠ 0 ∧ t + 32500 ≤ s.esc + 1 then
    settleDemands (updPow s (fun p => { p with curAt := tabPut 0 p.curAt d.val 0 }))
  else s)

/-- THROT_N (R389). -/
def execThrotN (s : State) : Host.Outcome State Fault Refusal :=
  .next (if throtIn s then s
  else
    let s1 := setErr (wr s pgPWR F.PWR_THROT.THROT_IN 1) pgPWR E.PWR.THROT_N
    settleDemands (evPower (updPow s1 (fun p => { p with throtAt := s.esc + 1 })) 0x03 0xFF 0))

/-- THROT_N_END (R389). -/
def execThrotNEnd (s : State) : Host.Outcome State Fault Refusal :=
  .next (settleDemands (updPow (wr (wr s pgPWR F.PWR_THROT.THROT_IN 0) pgPWR F.PWR_THROT.THROT_STUCK 0)
    (fun p => { p with throtAt := 0 })))

/-- THROT_STUCK (R389): an assertion recognised for 30 s, once. -/
def execThrotStuck (s : State) : Host.Outcome State Fault Refusal :=
  .next (if throtIn s ∧ s.pow.throtAt + 30 * secPclk ≤ s.esc + 1 ∧ !rdB s pgPWR F.PWR_THROT.THROT_STUCK then
    evPower (wr s pgPWR F.PWR_THROT.THROT_STUCK 1) 0x04 0xFF 0
  else s)

/-- LEAK (R390): in P3 and P4 a recognition is logged and changes nothing. -/
def execLeak (s : State) : Host.Outcome State Fault Refusal :=
  .next (if 3 ≤ modState s then logRec s 1 0x0B 0 (packBytes [(0, 0x05), (1, 0xFF)])
  else
    let s1 := wr (wr s pgPWR F.PWR_THROT.LEAK_IN 1) pgPWR F.PWR_MODSTATE.LEAK_LATCH 1
    forceP3 (evPower (setErr (updPow s1 (fun p => { p with leakIn := true })) pgPWR E.PWR.LEAK) 0x05 0xFF 0) 1)

/-- Clear the leak latch, with LEAK_N high and not recognised, or low (R390). -/
def clearLeak (s : State) (high : Bool) : State :=
  if high then
    updPow (wr (wr s pgPWR F.PWR_THROT.LEAK_IN 0) pgPWR F.PWR_MODSTATE.LEAK_LATCH 0) (fun p => { p with leakIn := false })
  else setErr s pgPWR E.PWR.CFG_IGN

/-- LEAK_CLR (R390): a write of 1 while LEAK_N reads high or low. -/
def execLeakClr (high : Bool) (s : State) : Host.Outcome State Fault Refusal := .next (clearLeak s high)

/-! ## Heat (R391 to R394) -/

/-- Unit of an event for a temperature (R395). -/
def tempUnit : TempAt → Nat
  | .diode i _ => if i.val < 84 then i.val / 21 else if i.val < 92 then 4 else if i.val < 109 then 0x10 + (i.val - 92) else 0xFF
  | .stack k _ => 0x40 + k.val

/-- Degrees of a sample. -/
def tempDegrees : TempAt → Nat
  | .diode _ t => intToNat 16 (natToSigned 10 t.toNat / 4)
  | .stack _ t => t.toNat

/-- The dies whose thermal demand a unit steps. -/
def tempDies : TempAt → List Nat
  | .diode i _ => if i.val < 84 then [i.val / 21] else if i.val < 92 then [0, 1, 2, 3] else []
  | .stack k _ => [k.val / 8]

/-- Whether a sample meets the threshold that steps a demand. -/
def tempMeets : TempAt → Bool
  | .diode i t => i.val < 92 && decide (400 ≤ natToSigned 10 t.toNat)
  | .stack _ t => decide (90 ≤ t.toNat)

/-- Whether a sample meets its trip threshold (R391). -/
def tempTrips : TempAt → Bool
  | .diode i t => (i.val < 84 && decide (460 ≤ natToSigned 10 t.toNat)) ||
      (84 ≤ i.val && i.val < 92 && decide (440 ≤ natToSigned 10 t.toNat))
  | .stack _ t => decide (100 ≤ t.toNat)

/-- TEMP_HOT (R391, R395): a sample; at a threshold that steps a demand the event is raised and the demand steps. -/
def execTempHot (u : TempAt) (s : State) : Host.Outcome State Fault Refusal :=
  let s1 := sampleTemp s u
  .next (if tempMeets u then (tempDies u).foldl stepUp (evPower s1 0x06 (tempUnit u) (tempDegrees u)) else s1)

/-- THERMAL_STEP (R391): up every 100 µs while a threshold is met, down by one after 1 ms at least 3 °C below. -/
def execThermalStep (d : Fin 4) (s : State) : Host.Outcome State Fault Refusal :=
  let n := d.val
  let c := tabGet 0 s.pow.coolAt n
  .next (if hotDie s n then stepUp s n
  else if c ≠ 0 ∧ c + 325000 ≤ s.esc + 1 ∧ thermDemand s n ≠ 0 then
    updPow (setTherm s n (thermDemand s n - 1)) (fun p => { p with coolAt := tabPut 0 p.coolAt n (s.esc + 1) })
  else s)

/-- TRIP (R392): a sample at a trip threshold for 100 µs is recorded and forces P3 with cause 2. -/
def execTrip (u : TempAt) (s : State) : Host.Outcome State Fault Refusal :=
  let s1 := sampleTemp s u
  .next (if tempTrips u then
    let (sensor, stack) := match u with
      | .diode i _ => (i.val, 0)
      | .stack k _ => (0x7F, k.val)
    let s2 := wr (wr (wr s1 pgTHERM F.THERM_TRIP.SENSOR sensor) pgTHERM F.THERM_TRIP.STACK stack) pgTHERM F.THERM_TRIP.VALID 1
    let s3 := updPow (setErr s2 pgTHERM E.THERM.TRIP) (fun p => { p with trip := true })
    forceP3 (evPower s3 0x07 (tempUnit u) (tempDegrees u)) 2
  else s1)

/-- A temperature sample of an engine (R391, R392): its diode and, for a fabric engine, FAB_PORT_TEMP. -/
def sampleEngine (s : State) (e : Nat) (temp : BitVec 8) : State :=
  let s1 := sampleSens s 0 (92 + e) (4 * temp.toNat)
  if e < 16 then raiseMax (wr s1 (pgPORT e) F.FAB_PORT_TEMP.TEMP temp.toNat) (pgPORT e) F.FAB_PORT_TEMP.TEMP_MAX 0 temp.toNat
  else s1

/-- ENGINE_HOT (R391): at 85 °C the event is raised and the port's links close until ENGINE_COOL. -/
def execEngineHot (e : Fin 17) (temp : BitVec 8) (s : State) : Host.Outcome State Fault Refusal :=
  let p := e.val
  let s1 := sampleEngine s p temp
  .next (if 85 ≤ temp.toNat then
    let s2 := evPower (setErr s1 pgTHERM E.THERM.ENGINE_HOT) 0x0D (0x10 + p) temp.toNat
    if p < 16 then
      (portLinks s2 p).foldl (fun s l =>
        if usable s l && (lk s l).closeAt == 0 then
          closeDone (rerouteQueued (updLk s l (fun v => { v with closeAt := s.esc + 1 })) l) l
        else if linkState s l = 2 then setLinkState s l 5 else s)
        (updFab s2 (fun f => { f with hot := tabPut false f.hot p true }))
    else s2
  else s1)

/-- ENGINE_COOL (R391): below 80 °C the links of a port that was closed may train again. -/
def execEngineCool (e : Fin 17) (temp : BitVec 8) (s : State) : Host.Outcome State Fault Refusal :=
  let p := e.val
  let s1 := sampleEngine s p temp
  .next (if temp.toNat < 80 ∧ p < 16 ∧ tabGet false s1.fab.hot p = true then
    let s2 := updFab s1 (fun f => { f with hot := tabPut false f.hot p false })
    ((portLinks s2 p).filter (fun l => linkState s2 l == 5)).foldl beginTraining s2
  else s1)

/-- COOLANT_HOT (R394): an inlet above 40 °C for 10 s. -/
def execCoolantHot (inlet : BitVec 8) (s : State) : Host.Outcome State Fault Refusal :=
  let s1 := wr (sampleSens s 0 109 (4 * inlet.toNat)) pgTHERM F.THERM_COOLANT.INLET inlet.toNat
  .next (if 40 < inlet.toNat then
    evPower (setErr (wr s1 pgTHERM F.THERM_COOLANT.INLET_HOT 1) pgTHERM E.THERM.COOLANT) 0x08 0xFF inlet.toNat
  else s1)

/-- FLOW_LOW (R394): an outlet more than 36 °C above the inlet for 10 s. -/
def execFlowLow (inlet outlet : BitVec 8) (s : State) : Host.Outcome State Fault Refusal :=
  let s1 := sampleSens (sampleSens s 0 109 (4 * inlet.toNat)) 0 110 (4 * outlet.toNat)
  let s2 := wr (wr s1 pgTHERM F.THERM_COOLANT.INLET inlet.toNat) pgTHERM F.THERM_COOLANT.OUTLET outlet.toNat
  .next (if inlet.toNat + 36 < outlet.toNat then
    evPower (setErr (wr s2 pgTHERM F.THERM_COOLANT.FLOW_LOW 1) pgTHERM E.THERM.COOLANT) 0x09 0xFF (outlet.toNat - inlet.toNat)
  else s2)

/-- INPUT_RANGE (R504): the lower blade voltage, outside the steady range for 10 ms; at most once a second. -/
def execInputRange (v : BitVec 16) (s : State) : Host.Outcome State Fault Refusal :=
  let x := v.toNat
  .next (if (440 ≤ x ∧ x < 500) ∨ (570 < x ∧ x ≤ 600) then evLimited s 8 0x0E 0xFF x else s)

/-! ## P3 and parking (R383, R384) -/

/-- P3_ENTRY (R384 steps 4 and 5): once the links are closed and, in a commanded entry, every healthy core is tested. -/
def execP3Entry (s : State) : Host.Outcome State Fault Refusal :=
  .next (if rdB s pgPWR F.PWR_MODSTATE.BUSY ∧ rd s pgPWR F.PWR_MODSTATE.TARGET = 3 ∧ linksClosed s
      ∧ (s.pow.forced ∨ coresTested s) then
    let s1 := (List.range 32).foldl (fun s k => wr s (pgSTK k) F.HBM_STK_STATE.SREF 1) (storeTraining s)
    let s2 := finishOpt (enterState (powerOff s1) 3) s.pow.cmd 0 0 0
    let s3 := updPow s2 (fun p => { p with cmd := none, forced := false })
    -- a removal that a forced entry interrupted goes on from step 3 of R469 (R470)
    if s.pow.forced ∧ 2 ≤ rd s pgSYS F.SYS_REMOVE.PHASE ∧ rdB s pgSYS F.SYS_REMOVE.READY then
      updBoot (beginState (wr s3 pgSYS F.SYS_REMOVE.PHASE 3) 4 4 none) (fun b => { b with p4 := true })
    else s3
  else s)

/-- How many cores of a die are under test (R448). -/
def testsOn (s : State) (d : Nat) : Nat := ((dieCores d).filter (underTest s)).length

/-- A tested core in P2 is power-gated (R383). -/
def parkCore (s : State) (n : Nat) : State :=
  let d := dieOf n
  updCore (wr1 (setBlk s (pgSEQ n) stOFF) pgPWR F.PWR_DIE.PARKED d (rd1 s pgPWR F.PWR_DIE.PARKED d + 1)) n
    (fun _ => { Core.reset with parked := true })

/-- Whether a core may be parked: P2, healthy, and mapped by no held job (R381, R383). -/
def parkable (s : State) (n : Nat) : Bool :=
  modState s == 2 && !rdB s pgPWR F.PWR_MODSTATE.BUSY && coreHealthy s n && (core s n).lcore.isNone && !(core s n).parked

/-- CORE_PARK (R383): a core begins its shut-down test, at whose end it is power-gated; one whose result is valid is gated
at once. -/
def execCorePark (c : Fin 256) (s : State) : Host.Outcome State Fault Refusal :=
  let n := c.val
  .next (if parkable s n then
    if blkReady s (pgSEQ n) then (if testsOn s (dieOf n) < 8 then startTest s n false else s)
    else if (bistOf s n).valid then parkCore s n
    else s
  else s)

end Sys2Proof.Machine
end

