-- ==== Sys2Proof/Machine/BringUp.lean ====
section
/-!
DEFINITION. The commands of bring-up, self-test and repair (R440 to R459), the exit from P3 (R385), and module reset.
-/
namespace Sys2Proof.Machine

/-! ## Module reset (R441) -/

/-- Register words that fuses or flash hold: page, offset, the bits held. -/
def heldWords : List (Nat × Nat × Nat) :=
  (List.range 16).map (fun w => (pgSYS, 0x138 + 4 * w, 0xFFFFFFFF))
    ++ [(pgSYS, 0x1A4, 0xFFFFFFFF), (pgSYS, 0x1A8, 0xFFFFFFFF), (pgSYS, 0x1AC, 0xFFFFFFFF), (pgSYS, 0x1B4, 0xFF000000),
        (pgSEC, 0x100, 7), (pgSEC, 0x10C, 0x77), (pgSEC, 0x110, 0x7F), (pgSEC, 0x114, 0xFFFFFFFF), (pgSEC, 0x118, 0xFFFFFFFF),
        (pgINNK, 0x100, 8), (pgINNK, 0x12C, 0xFFFFFFFF)]

/-- The register words after a reset: those bits keep their values, everything else reads its reset value. -/
def heldRegs (s : State) : SMap Word :=
  (heldWords.foldl (fun (t : State) x =>
    wrW t x.1 x.2.1 ((rdW s x.1 x.2.1 &&& x.2.2) ||| (rdW t x.1 x.2.1 &&& (0xFFFFFFFF - x.2.2)))) State.reset).regs

/-- Module reset (R441, R409, R436): what fuses and flash hold stays, the bytes of HBM stand until their domain is built;
numbering of the log resumes at the highest number in flash plus 513. -/
def moduleReset (s : State) : State :=
  let c := cutTests s
  { State.reset with
    pending := s.pending, free := s.free, regs := heldRegs s,
    hbm := { mem := s.hbm.mem, marks := s.hbm.marks, mapped := s.hbm.mapped },
    host := { out := s.host.out },
    innk := { c.innk with logNext := if s.innk.log.isEmpty then s.innk.logNext else logNewest s + 513, buf := [], upd := none, restarts := [],
                          serviced := 0, semHeld := false, semWaitAt := 0, pendComp := [], loadFail := false, fuseCnt := [] },
    psp := { keyErased := s.psp.keyErased } }

/-! ## The start sequence (R421, R440) -/

/-- Steps 1 and 4 of R421 at a module reset: a new nonce, MEAS[0] extended with the fuse record, identity keys derived. -/
def passportReset (s : State) : State :=
  let s1 := (List.range 8).foldl (fun s i =>
    drawFree (wr1 s pgSEC F.SEC_NONCE.NONCE i (Config.freeWord s.free).toNat)) s
  let fused := rd s pgSEC F.SEC_KEYSLOT.FUSED
  let hashes := (List.range 3).flatMap (fun k =>
    (List.range 48).map (fun i => if fused.testBit k then Config.slotHash k i else 0#8))
  let rec_ := natToBytes 8 (packBytes [(0, Config.romVersion.toNat), (1, lifecycle s), (2, fused),
      (3, rd s pgSEC F.SEC_KEYSLOT.REVOKED), (4, arb s)])
    ++ natToBytes 8 (uid s) ++ sha384 hashes
  let s2 := extend s1 0 0 0 (sha384 rec_)
  if lifecycle s = 1 ∨ lifecycle s = 2 then
    if Config.idOk s2.free then drawFree (wr s2 pgSEC F.SEC_LIFECYCLE.ID_READY 1)
    else drawFree (logSec (setErr (wr s2 pgSEC F.SEC_LIFECYCLE.ID_FAIL 1) pgSEC E.SEC.ID_FAIL) 0x08 0)
  else s2

/-- A hub or die common unit in its power-up step: it is tested when that is due, else its pages are ready. -/
def bringUpUnit (s : State) (u : Nat) : State :=
  if testDue s u then updBoot (startTest s u true) (fun b => { b with tested := true })
  else (unitPages u).foldl (fun s p => setBlk s p stREADY) (consumeResult s u)

/-- The compute dies are powered (step 7): PLLs lock, Steward firmware and core microcode load, the die common units come
up, and failed cores read FAULT. -/
def powerDies (s : State) : State :=
  let s1 := wr s pgCLK F.CLK_STATE.LOCK (rd s pgCLK F.CLK_STATE.LOCK ||| 15)
  let s2 := loadType (loadType s1 2) 3
  (List.range 4).foldl (fun s d =>
    let s := setHealthy ([pgSTEWARD d, pgNOC d, pgBRIDGE d].foldl resetPage s) d
    let s := wr (wr s (pgBRIDGE d) F.BRG_STATE.HUB_UP 1) (pgBRIDGE d) F.BRG_STATE.RING_UP 1
    let s := ((dieCores d).filter (fun n => !coreHealthy s n)).foldl (fun s n => setBlk s (pgSEQ n) stFAULT) s
    bringUpUnit s (256 + d)) s2

/-- The milliseconds from a stamp to now, saturating at 16 bits. -/
def msSince (s : State) (t : Nat) : Nat := min 65535 ((s.esc - t) / 325000)

/-- Step 11 of R440: once every hub page, die, domain, enabled fabric port and healthy core is ready, the start is
complete. -/
def tryStart (s : State) : State :=
  let hub := [pgSYS, pgJOB, pgCMDQ, pgROCE, 4, 5, 6, 7, pgRTR, pgCAR, pgSEC, pgINNK, pgCLK, pgPWR, pgTHERM]
    ++ (List.range 16).map pgPORT
  let dies := (List.range 4).all (fun d => domReady s d
    && [pgSTEWARD d, pgNOC d, pgBRIDGE d].all (blkReady s) && (List.range 8).all (fun j => blkReady s (pgSTK (8 * d + j))))
  let cores := (List.range 256).all (fun n => !coreHealthy s n || (core s n).parked || blkReady s (pgSEQ n))
  if !rdB s pgSYS F.SYS_START.DONE && decide (7 ≤ s.boot.up) && decide (modState s < 3) && hub.all (blkReady s) && dies && cores then
    let kind := if s.boot.fromP3 then 2 else if s.boot.quick then 1 else 0
    let s1 := wr (wr (wr (wr s pgSYS F.SYS_START.KIND kind) pgSYS F.SYS_START.DONE 1) pgSYS F.SYS_START.TESTED (bit s.boot.tested))
      pgSYS F.SYS_START.MS (msSince s s.boot.fromEsc)
    updBoot (setErr (wr s1 pgSYS F.SYS_READY_SUMMARY.ALL 1) pgSYS E.SYS.START) (fun b => { b with up := 11 })
  else s

/-- POWER_UP (R440 steps 3 to 7): the ESC restarts at zero, the Innkeeper boots, hub blocks, optical engines and compute
dies come up; cores, stacks and domains follow by their own commands. -/
def execPowerUp (s : State) : Host.Outcome State Fault Refusal :=
  .next (if s.boot.up = 2 ∧ !s.boot.off then
    let s1 := wr (wr { s with esc := 0 } pgCLK F.CLK_STATE.REF_OK 1) pgCLK F.CLK_STATE.LOCK 16
    let s2 := bootInnk (passportReset s1) false
    if innkRuns s2 then
      let hub := [pgSYS, pgJOB, pgSEC, pgINNK, pgCLK, pgPWR, pgTHERM]
      let s3 := bringUpUnit (bringUpUnit (hub.foldl (fun s p => setBlk s p stREADY) s2) 260) 261
      let s4 := powerDies (loadType s3 4)
      let quick := (List.range 32).all (fun k => tabGet 0 s4.innk.trained k == trainKey s4)
      updBoot (loadType s4 5) (fun b => { b with up := 7, fromEsc := 0, fromP3 := false, quick := quick })
    else s2
  else s)

/-- BOOT (R421): the boot ROM starts the firmware at an Innkeeper restart, unless three within 10 minutes call for a rollback
(R405, R414), or when it has stayed in BOOT. -/
def execBoot (s : State) : Host.Outcome State Fault Refusal :=
  let st := rd s pgINNK F.INNK_STATE.STATE
  .next (if (st = 2 ∧ (recentRestarts s < 3 ∨ (slotFault s (1 - activeSlot s)).isSome)) ∨ (st = 0 ∧ 3 ≤ s.boot.up) then bootInnk s false else s)

/-- DOMAIN_READY (R440 step 10, R219): once its stacks are ready a domain is built, zeroed and its DOMAIN bit set; in
module-striped mode the one domain sets the bit of every die. -/
def execDomainReady (d : Fin 4) (s : State) : Host.Outcome State Fault Refusal :=
  let n := d.val
  let str := striped s
  let ks := if str then List.range 32 else (List.range 8).map (· + 8 * n)
  .next (if 7 ≤ s.boot.up ∧ innkRuns s ∧ diesOn s ∧ !domReady s n ∧ (!str ∨ n = 0) ∧ ks.all (fun k => blkReady s (pgSTK k)) then
    let s1 := storeTraining (rebuildDomain s n)
    let s2 := if str then (List.range 4).foldl (fun s i => wr1 s pgSYS F.SYS_READY_DIE.DOMAIN i 1) s1
      else wr1 s1 pgSYS F.SYS_READY_DIE.DOMAIN n 1
    tryStart s2
  else s)

/-- CORE_BRING_UP (R455, R448): a healthy core that is off comes up, or begins a test that is due. -/
def execCoreBringUp (c : Fin 256) (s : State) : Host.Outcome State Fault Refusal :=
  let n := c.val
  .next (if 7 ≤ s.boot.up ∧ diesOn s ∧ !rdB s pgPWR F.PWR_MODSTATE.BUSY ∧ coreHealthy s n ∧ blkState s (pgSEQ n) = stOFF
      ∧ !(core s n).parked ∧ blkReady s (pgSTEWARD (dieOf n)) ∧ (!testDue s n ∨ testsOn s (dieOf n) < 8) then
    tryStart (bringUpCore s n)
  else s)

/-- P3_EXIT (R385, R441): the dies are powered and come up, the stacks leave self-refresh, the fabric links train, and the
POWER_STATE that asked for it completes. -/
def execP3Exit (s : State) : Host.Outcome State Fault Refusal :=
  let t := rd s pgPWR F.PWR_MODSTATE.TARGET
  .next (if modState s = 3 ∧ rdB s pgPWR F.PWR_MODSTATE.BUSY ∧ t < 3 then
    let s1 := wr (updBoot s (fun b => { b with fromP3 := true, fromEsc := s.esc, tested := false })) pgSYS F.SYS_START.DONE 0
    let s2 := powerDies (enterState s1 t)
    let s3 := (List.range 32).foldl (fun s k => setBlk (wr s (pgSTK k) F.HBM_STK_STATE.SREF 0) (pgSTK k) stREADY) s2
    let s4 := (List.range 512).foldl (fun s k => setBlk s (pgCH k) stREADY) s3
    let s5 := (List.range 16).foldl (fun s p =>
      let s := setBlk s (pgPORT p) stREADY
      if rdB s (pgPORT p) F.FAB_PORT_CFG.EN then trainPort s p else s) s4
    let s6 := if t = 0 then wr s5 pgPWR F.PWR_LIMIT.W (rd s5 pgPWR F.PWR_PLMAX.W)
      else if t = 1 then wr s5 pgPWR F.PWR_LIMIT.W (rd s5 pgPWR F.PWR_P1_LIMIT.W) else s5
    updPow (finishOpt s6 s.pow.cmd 0 0 0) (fun p => { p with cmd := none, trip := false, restart := false })
  else s)

/-! ## Reset (R441, R470, R509) -/

/-- RESET_N (R441): a module reset; a removal under way is abandoned. -/
def execResetN (s : State) : Host.Outcome State Fault Refusal :=
  .next (if s.boot.off ∨ modState s = 4 then s
  else
    let s1 := moduleReset s
    if rdB s pgSYS F.SYS_REMOVE.PEND then logMgmt s1 0x10 4 else s1)

/-- RESET_IGNORED (R509). -/
def execResetIgnored (us : BitVec 8) (s : State) : Host.Outcome State Fault Refusal :=
  .next (if us.toNat < 10 then logMgmt s 0x13 us.toNat else s)

/-! ## Self-test (R447 to R459) -/

/-- The units whose shut-down test may begin now: cores in a commanded entry to P3; in an entry to P4 the cores, then the
die common units, then the hub memories, then the hub logic. -/
def shutTestOk (s : State) (u : Nat) : Bool :=
  let busy := rdB s pgPWR F.PWR_MODSTATE.BUSY
  let p3 := busy && rd s pgPWR F.PWR_MODSTATE.TARGET == 3 && !s.pow.forced && linksClosed s
  let p4 := s.boot.p4 && busy && linksClosed s
  let cores := modState s == 3 || coresTested s
  if u < 256 then (p3 || (p4 && modState s != 3)) && coreHealthy s u && blkReady s (pgSEQ u) && decide (testsOn s (dieOf u) < 8)
  else if s.boot.done.contains u || underTest s u then false
  else if u < 260 then p4 && cores
  else if u = 260 then p4 && cores && [256, 257, 258, 259].all (fun x => s.boot.done.contains x)
  else p4 && s.boot.done.contains 260

/-- SELFTEST_START (R447, R456). -/
def execSelftestStart (u : Fin 262) (s : State) : Host.Outcome State Fault Refusal :=
  .next (if shutTestOk s u.val then
    let s1 := startTest s u.val false
    if s.boot.p4 then wr s1 pgSYS F.SYS_REMOVE.PHASE 3 else s1
  else s)

/-- The lowest usable spare element for a failing element (R453, R458): on an ARRAY page entries A and B of rows or columns,
elsewhere the eight spares of the bank. -/
def freeSpare (i : Innk) (f : TestFail) : Option Nat :=
  let cands := if f.page.val % 8 = 1 ∧ 0x800 ≤ f.page.val ∧ f.page.val < 0x1000 then (if f.col then [2, 3] else [0, 1])
    else (List.range 8).map (fun k => 8 * f.bank.toNat + k)
  cands.find? (fun e => !i.repairs.any (fun r => r.page == f.page.val && r.element == e) && !i.badSpares.contains (f.page.val, e))

/-- Soft-repair failing elements one by one; false when a spare is lacking. -/
def softRepair : List TestFail → Innk → Bool × Innk
  | [], i => (true, i)
  | f :: fs, i =>
    match freeSpare i f with
    | some e => softRepair fs { i with repairs := i.repairs ++ [{ page := f.page.val, element := e, target := f.target.toNat, fused := false }] }
    | none => (false, i)

/-- Whether a finding's elements lie in the unit: the ARRAY and SPAD pages of a core, the memories of the hub. -/
def failsIn (u : Nat) (f : TestFinding) : Bool :=
  f.fails.all (fun x => if u < 256 then x.page.val == pgARRAY u || x.page.val == pgSPAD u
    else unitOfPage x.page.val == some u && u == 260)

/-- A unit's test has ended (R453, R455, R456, R459): its record is written and the unit goes on. -/
def endTest (s : State) (u : Nat) (b : Bist) : State :=
  let ok := b.state == 2 || b.state == 3
  let s1 := setBist s u b
  let s2 := if b.state = 2 then s1 else eventSelftest s1 u b.state
  let s3 := if s.boot.p4 then updBoot s2 (fun x => { x with done := x.done ++ [u] }) else s2
  if u < 256 then
    if !ok then markCoreFailed s3 u
    else if b.powerup then finishCore (resetCore (consumeResult s3 u) u) u
    else if parkable s3 u then parkCore s3 u
    else updCore (setBlk s3 (pgSEQ u) stOFF) u (fun _ => Core.reset)
  else if b.powerup then (unitPages u).foldl (fun s p => setBlk s p stREADY) (if ok then consumeResult s3 u else s3)
  else (unitPages u).foldl (fun s p => setBlk s p stOFF) s3

/-- SELFTEST_DONE (R453, R461): within the budget window, a test ends with what it found. -/
def execSelftestDone (u : Fin 262) (f : TestFinding) (s : State) : Host.Outcome State Fault Refusal :=
  let n := u.val
  let b := bistOf s n
  .next (if underTest s n ∧ s.esc + 1 < b.startAt + unitBudget n ∧ failsIn n f then
    let i := { s.innk with badSpares := s.innk.badSpares ++ f.badSpares.map (fun x => (x.1.val, x.2.toNat)) }
    let (fits, i1) := softRepair f.fails i
    let mem := f.memId != 0 || !f.fails.isEmpty
    let logic := !f.segs.isEmpty
    let st := if !logic && !mem then 2 else if !logic && fits && !f.fails.isEmpty && f.retestOk then 3 else 4
    let r : Bist := { b with
      state := st, valid := st != 4, logic := logic, mem := mem,
      segment := (f.segs.map (·.val)).foldl min 0xFF, nseg := (f.segs.eraseDups).length,
      ms := min 255 ((s.esc + 1 - b.startAt) / 325000), memId := f.memId.toNat, nrows := f.nrows.toNat, row := f.row.toNat,
      bitNo := f.bitNo.toNat, expect := f.expect, startAt := 0 }
    tryStart (endTest { s with innk := if st = 3 then i1 else { s.innk with badSpares := i.badSpares } } n r)
  else s)

/-- SELFTEST_BUDGET (R449): a unit still under test when its window closes is stopped: a logic failure with segment
0xFE. -/
def execSelftestBudget (u : Fin 262) (s : State) : Host.Outcome State Fault Refusal :=
  let n := u.val
  let b := bistOf s n
  .next (if underTest s n ∧ b.startAt + unitBudget n ≤ s.esc + 1 then
    tryStart (endTest s n { b with state := 4, valid := false, logic := true, segment := 0xFE,
                                   ms := min 255 ((s.esc + 1 - b.startAt) / 325000), startAt := 0 })
  else s)

/-- FUSE_BURN (R458): the oldest soft repair of a unit that has shut down with a good result, two at most; an entry that
fails its read-back stays soft. -/
def execFuseBurn (page : Fin 16384) (element : BitVec 8) (ok : Bool) (s : State) : Host.Outcome State Fault Refusal :=
  .next (match unitOfPage page.val with
    | none => s
    | some u =>
      let n := tabGet 0 s.innk.fuseCnt u
      match s.innk.repairs.find? (fun r => !r.fused && unitOfPage r.page == some u) with
      | none => s
      | some r =>
        if r.page = page.val ∧ r.element = element.toNat ∧ rdB s pgSYS F.SYS_REPAIR_CTRL.FUSE_EN ∧ (bistOf s u).valid
            ∧ !blkReady s page.val ∧ n < 2 ∧ innkRuns s then
          let s1 := updInnk s (fun i => { i with
            fuseCnt := tabPut 0 i.fuseCnt u (n + 1),
            repairs := i.repairs.map (fun x => if x = r then { x with fused := ok } else x) })
          logMgmt s1 0x08 (packBytes [(0, page.val), (2, element.toNat)])
        else s)

/-! ## Components (R413, R422) -/

/-- COMPONENT_LOAD (R422): the active slot's component of a type from 2 to 5 is checked, measured and loaded; Steward
firmware and microcode only while no job is held (R413). -/
def execComponentLoad (t : Fin 6) (s : State) : Host.Outcome State Fault Refusal :=
  .next (if 2 ≤ t.val ∧ innkRuns s ∧ ((t.val = 4 ∨ t.val = 5) ∨ (!anyJob s ∧ diesOn s)) then loadType s t.val else s)

/-- PENDING_COMPONENT_LOAD (R413): a die that no job holds loads what is pending for it. -/
def execPendingComponentLoad (d : Fin 4) (s : State) : Host.Outcome State Fault Refusal :=
  let n := d.val
  let tys := [2, 3].filter (fun t => (tabGet 0 s.innk.pendComp n).testBit t)
  .next (if !tys.isEmpty ∧ !dieHeld s n ∧ diesOn s ∧ innkRuns s then
    tys.foldl (fun s t => logMgmt (loadType (voidResults (setPending s n t false) n) t) 0x04 (packBytes [(0, t), (1, 1)])) s
  else s)

end Sys2Proof.Machine
end

