-- ==== Sys2Proof/Machine/Operands.lean ====
section
/-!
DEFINITION. The fields of a bundle and of its slots (R153, R158, R162, R163, R169), read from the 256 bits that program
memory holds.
-/
namespace Sys2Proof.Machine

/-- Bits `[lsb + w - 1 : lsb]` of a slot as a bit vector. -/
def sfield (v lsb w : Nat) : BitVec w := BitVec.ofNat w (natField v lsb w)

/-- A field of five bits: a scalar or vector register. -/
def freg (v lsb : Nat) : Fin 32 := Fin.ofNat 32 (natField v lsb 5)

/-- A field of three bits: a predicate, a mask register, a slot or a stack. -/
def foct (v lsb : Nat) : Fin 8 := Fin.ofNat 8 (natField v lsb 3)

/-- A field of six bits: a handle. -/
def fhandle (v lsb : Nat) : Fin 64 := Fin.ofNat 64 (natField v lsb 6)

/-- A field of four bits: a descriptor entry. -/
def fentry (v lsb : Nat) : Fin 16 := Fin.ofNat 16 (natField v lsb 4)

/-- A field of two bits: a partition. -/
def fpart (v lsb : Nat) : Fin 4 := Fin.ofNat 4 (natField v lsb 2)

/-- A field of one bit. -/
def fbit (v lsb : Nat) : Bool := v.testBit lsb

/-- The four slots of a bundle (R153). -/
def seqSlot (b : BitVec 256) : Nat := natField b.toNat 16 48
def arrSlot (b : BitVec 256) : Nat := natField b.toNat 64 32
def vecSlot (b : BitVec 256) : Nat := natField b.toNat 96 80
def strSlot (b : BitVec 256) : Nat := natField b.toNat 176 80

/-- The partition tags of a bundle. -/
def tagArr (b : BitVec 256) : Fin 4 := fpart b.toNat 1
def tagVec (b : BitVec 256) : Fin 4 := fpart b.toNat 3
def tagStr (b : BitVec 256) : Fin 4 := fpart b.toNat 5

end Sys2Proof.Machine
end

