-- ==== Sys2Proof/Machine/Optical.lean ====
section
/-!
DEFINITION. The commands of the optical ports (R226 to R248): training, flits, lane health and repair, control records,
loss and closing of links, laser feeds, and the port's configuration writes.
-/
namespace Sys2Proof.Machine

/-! ## Spare lanes (R237) -/

/-- The spare switch of a port. -/
def spareOf (s : State) (p : Nat) : SpareSw := tabGet {} s.fab.spares p

/-- Replace it; FAB_PORT_SPARE.BUSY reads 1 while either direction is in progress. -/
def setSpare (s : State) (p : Nat) (v : SpareSw) : State :=
  wr (updFab s (fun f => { f with spares := tabPut {} f.spares p v })) (pgPORT p) F.FAB_PORT_SPARE.BUSY
    (bit (v.rx.isSome || v.tx.isSome))

/-- The lowest-numbered fibre that carries no FAILED lane. -/
def freeFibre (s : State) (p : Nat) : Option Nat :=
  (List.range 8).find? (fun f => laneState s p (2 * f) != 5 && laneState s p (2 * f + 1) != 5)

/-- Send SPARE_REQ for the switch asked for, once its lane is out of the map or is only DEGRADED (steps 1 and 2). -/
def sendSpareReq (s : State) (p : Nat) : State :=
  let v := spareOf s p
  match v.rx with
  | some (l, lane, fibre) =>
    if !v.rxSent && (laneState s p lane == 3 || !((lk s l).rxMap.any (fun e => e % 16 == lane))) then
      setSpare (sendCtrl s l [(0, 0x03), (8, lane), (9, fibre)]) p { v with rxSent := true }
    else s
  | none => s

/-- The receiving end asks for the spare when it is STANDBY and SPARE_EN is 1. -/
def askSpare (s : State) (l lane : Nat) : State :=
  let p := l / 4
  let v := spareOf s p
  if laneState s p 16 = 6 ∧ v.rx = none ∧ rd s (pgPORT p) F.FAB_PORT_CFG.SPARE_EN = 1 ∧ usable s l then
    match freeFibre s p with
    | some f => sendSpareReq (setSpare s p { v with rx := some (l, lane, f), rxSent := false }) p
    | none => s
  else s

/-- Clear the switches of a port that concern a link. -/
def dropSwitch (s : State) (l : Nat) : State :=
  let v := spareOf s (l / 4)
  let keep (x : Option (Nat × Nat × Nat)) : Option (Nat × Nat × Nat) := x.filter (fun y => y.1 != l)
  setSpare s (l / 4) { v with rx := keep v.rx, tx := keep v.tx }

/-- Steps 2 to 5 restart from step 2 at a feed switch (R237). -/
def restartSwitch (s : State) (p : Nat) : State :=
  let v := spareOf s p
  sendSpareReq (setSpare s p { v with rxSent := false, tx := none }) p

/-- Install a receive map (R231, R237 step 5, R238). -/
def installMap (s : State) (l : Nat) (m : List Nat) (fibre : Nat) : State :=
  let p := l / 4
  let pg := pgPORT p
  let old := (lk s l).rxMap
  let s1 := updLk s l (fun v => { v with rxMap := m, rxNext := none })
  let s2 := if m.length < old.length then setErr s1 pg E.FAB_PORT.NARROWED else s1
  let s3 := match m.find? (fun e => decide (16 ≤ e)) with
    | some e =>
      if old.contains e then s2
      else
        let t := wr (wr (wr s2 pg F.FAB_PORT_SPARE.RX_USED 1) pg F.FAB_PORT_SPARE.RX_LANE (e - 16)) pg
          F.FAB_PORT_SPARE.RX_FIBRE fibre
        let t := setLaneState (setLaneState t p (e - 16) 4) p 16 2
        setErr (setSpare t p { spareOf t p with rx := none, rxSent := false }) pg E.FAB_PORT.SPARED
    | none =>
      if old.any (fun e => decide (16 ≤ e)) then wr s2 pg F.FAB_PORT_SPARE.RX_USED 0 else s2
  let s4 := setSpareCount (setLanes s3 l) p
  if 2 * m.length < linkWidth s4 l then linkDown s4 l 2 else sendSpareReq s4 p

/-! ## Training (R232) -/

/-- Training failed or found a mismatch. -/
def trainFail (s : State) (l state cause : Nat) : State :=
  let pg := linkPg l
  let k := l % 4
  let s1 := setLinkState (updLk s l (fun v => { v with downAt := s.esc + 1, txMap := [], rxMap := [] })) l state
  if state = 6 then eventLink (setErr s1 pg E.FAB_PORT.MISMATCH) l
  else
    let s2 := wr1 (wr1 s1 pg F.FAB_PORT_LINK.CAUSE k cause) pg F.FAB_PORT_LINK.LANES k 0
    eventLink (setErr (addWrap1 s2 pg F.FAB_PORT_RETRY.DOWNS k 1) pg (E.FAB_PORT.LINK_DOWN + k)) l

/-- The states of a link's receive lanes, and its map, after step 4: lanes that qualified are ACTIVE, the others FAILED,
and a qualified spare that is free stands for the lowest of them. -/
def qualifyLanes (s : State) (l : Nat) (qual : BitVec 17) : State :=
  let p := l / 4
  let pg := pgPORT p
  let lanes := linkLanes s l
  let own := rdB s pg F.FAB_PORT_SPARE.RX_USED && lanes.contains (rd s pg F.FAB_PORT_SPARE.RX_LANE)
  let s0 := if own then wr s pg F.FAB_PORT_SPARE.RX_USED 0 else s
  let s1 := lanes.foldl (fun s i =>
    let ok := qual.getLsbD i
    wr1 (wr1 (setLaneState s p i (if ok then 2 else 5)) pg F.FAB_LANE_STATE.LOCK i (bit ok)) pg F.FAB_LANE_STATE.LINK i
      (l % 4)) s0
  let s2 := if rdB s1 pg F.FAB_PORT_SPARE.RX_USED then s1
    else wr1 (setLaneState s1 p 16 (if qual.getLsbD 16 then 6 else 5)) pg F.FAB_LANE_STATE.LOCK 16 (bit (qual.getLsbD 16))
  let good := lanes.filter (fun i => qual.getLsbD i)
  let s3 := updLk s2 l (fun v => { v with rxMap := good })
  match lanes.find? (fun i => !qual.getLsbD i), freeFibre s3 p with
  | some i, some f =>
    if laneState s3 p 16 = 6 ∧ rd s3 pg F.FAB_PORT_CFG.SPARE_EN = 1 ∧ (spareOf s3 p).rx = none then
      let t := wr (wr (wr s3 pg F.FAB_PORT_SPARE.RX_USED 1) pg F.FAB_PORT_SPARE.RX_LANE i) pg F.FAB_PORT_SPARE.RX_FIBRE f
      let t := wr1 (setLaneState (setLaneState t p i 4) p 16 2) pg F.FAB_LANE_STATE.FIBRE 16 f
      setErr (updLk t l (fun v => { v with rxMap := mapInsert (16 + i) good })) pg E.FAB_PORT.SPARED
    else s3
  | _, _ => s3

/-- LINK_TRAINING (R232): the identity received, whether the lane numbers arrived in place, the lanes that qualified
(bit 16 the spare), the map record that the peer sent for this module's lanes, and the ack loop time. -/
def execLinkTraining (l : Fin 64) (peer : BitVec 20) (port : Fin 16) (link : Fin 4) (split : BitVec 2) (inPlace : Bool)
    (qual txLanes : BitVec 17) (txSpareLane : Fin 16) (txFibre : Fin 8) (loop_ : BitVec 12) (s : State) :
    Host.Outcome State Fault Refusal :=
  let n := l.val
  let pg := linkPg n
  let k := n % 4
  .next (if linkState s n = 2 then
    let s1 := wr1 (wr1 (wr1 (wr1 s pg F.FAB_PORT_PEER.MODULE k peer.toNat) pg F.FAB_PORT_PEER.PORT k port.val)
      pg F.FAB_PORT_PEER.LINK k link.val) pg F.FAB_PORT_PEER.VALID k 1
    if split.toNat ≠ rd s1 pg F.FAB_PORT_CFG.SPLIT ∨ !inPlace then trainFail s1 n 6 0
    else
      let s2 := qualifyLanes s1 n qual
      let tx := (mapOfRecord txLanes.toNat txSpareLane.val).filter (fun e => (linkLanes s2 n).contains (e % 16))
      let s3 := updLk s2 n (fun v => { v with txMap := tx })
      let s4 := if tx.any (fun e => decide (16 ≤ e)) then
          wr (wr (wr s3 pg F.FAB_PORT_SPARE.TX_USED 1) pg F.FAB_PORT_SPARE.TX_LANE txSpareLane.val)
            pg F.FAB_PORT_SPARE.TX_FIBRE txFibre.val
        else if rdB s3 pg F.FAB_PORT_SPARE.TX_USED && (linkLanes s3 n).contains (rd s3 pg F.FAB_PORT_SPARE.TX_LANE) then
          wr s3 pg F.FAB_PORT_SPARE.TX_USED 0
        else s3
      let w := linkWidth s4 n
      if 2 * tx.length < w ∨ 2 * (lk s4 n).rxMap.length < w then trainFail s4 n 5 6
      else
        let s5 := updLk s4 n (fun v => { v with txSeq := 0, rxSeq := 0, nak := false, retry := [], sent := [], owed := [],
                                                credit := creditInit s n, stream := [], ctrlIn := [], closeAt := 0,
                                                downAt := 0, goodAt := s.esc + 1, rxNext := none })
        let s6 := setLanes (setLinkState s5 n 3) n
        let s7 := wr1 s6 pg F.FAB_PORT_LINK.LOOP k loop_.toNat
        setSpareCount (eventLink (setErr s7 pg (E.FAB_PORT.LINK_UP + k)) n) (n / 4)
  else s)

/-! ## Flits (R229, R233, R255) -/

/-- The retry buffer and the messages sent, once an ACK has covered what it names (R233). -/
def applyAck (v : Link) (ack : Nat) : Link :=
  if v.retry.any (fun f => f.fseq == ack) then
    let gone := (v.retry.takeWhile (fun f => f.fseq != ack)).map (·.fseq) ++ [ack]
    { v with retry := v.retry.drop gone.length, sent := v.sent.filter (fun x => !gone.contains x.last) }
  else v

/-- Apply one credit return (R255). -/
def applyCredit (v : Link) (pool count : Nat) : Link :=
  if pool = 7 then v else { v with credit := tabPut 0 v.credit pool (tabGet 0 v.credit pool + count) }

/-- A lane map announced for the flit now expected takes effect (R231). -/
def mapDue (t : State) (n : Nat) (v : Link) : State :=
  match v.rxNext with
  | some (m, map) => if m = v.rxSeq then installMap t n map (rd t (linkPg n) F.FAB_PORT_SPARE.RX_FIBRE) else t
  | none => t

/-- FLIT_RECEIVE (R233): a flit of 640 bytes, and whether every codeword that carried it decoded. -/
def execFlitReceive (l : Fin 64) (flit : List Byte) (decoded : Bool) (s : State) : Host.Outcome State Fault Refusal :=
  let n := l.val
  let h := bytesToNat (flit.take 12)
  let crcOk := crc32c (flit.take 636) == bytesToNat ((flit.drop 636).take 4)
  let ty := natField h 12 2
  let fseq := natField h 0 12
  .next (if !usable s n then s
    else if !decoded || !crcOk then updLk s n (fun v => { v with nak := true })
    else
      let s0 := updLk s n (fun v => { applyAck v (natField h 14 12) with goodAt := s.esc + 1 })
      let s1 := if h.testBit 26 then addSat1 s0 (linkPg n) F.FAB_PORT_RETRY.NAKS (n % 4) 1 else s0
      let v := lk s1 n
      let s2 :=
        if ty = 0 ∨ ty = 2 then
          if fseq = v.rxSeq then
            let v1 := applyCredit (applyCredit v (natField h 64 3) (natField h 67 13)) (natField h 80 3) (natField h 83 13)
            let body := flit.drop 12
            let v2 := { v1 with rxSeq := (v.rxSeq + 1) % 4096, nak := false }
            let v3 := if ty = 0 then { v2 with stream := v2.stream ++ body.take (min (natField h 28 10) 624) }
              else { v2 with ctrlIn := v2.ctrlIn ++ [body.take 10] }
            let t := setLk s1 n v3
            mapDue t n v3
          else if (v.rxSeq + 4096 - fseq) % 4096 ≤ 2048 then s1
          else updLk s1 n (fun v => { v with nak := true })
        else s1
      closeDone s2 n)

/-- The control record at the head of a link when its CODE is `code` (R229): the record, and the state without it. -/
def takeCtrl (s : State) (l code : Nat) : Option (Nat × State) :=
  match (lk s l).ctrlIn with
  | b :: r =>
    let v := bytesToNat b
    if v % 256 = code ∧ usable s l then some (v, updLk s l (fun x => { x with ctrlIn := r })) else none
  | [] => none

/-! ## Lane health (R236) -/

/-- LANE_WINDOW (R236): an error window of a lane ends with these counts. -/
def execLaneWindow (p : Fin 16) (i : Fin 17) (csym ucw : BitVec 32) (s : State) : Host.Outcome State Fault Refusal :=
  let pg := pgPORT p.val
  let key := 32 * p.val + i.val
  let w := s.esc / 2 ^ 28
  .next (if tabGet 0 s.fab.laneWin key < w then
    let s1 := updFab s (fun f => { f with laneWin := tabPut 0 f.laneWin key w })
    let s2 := addSat1 (wr1 s1 pg F.FAB_LANE_CSYM.COUNT i.val csym.toNat) pg F.FAB_LANE_UCW.COUNT i.val ucw.toNat
    if laneState s2 p.val i.val = 2 ∧ (rd s2 pg F.FAB_PORT_CSYM_THR.THR ≤ csym.toNat
        ∨ rd s2 pg F.FAB_PORT_UCW_THR.THR ≤ ucw.toNat) then
      let s3 := setLaneState s2 p.val i.val 3
      if i.val < 16 then askSpare s3 (laneLink s3 p.val i.val) i.val else s3
    else s2
  else s)

/-- LANE_FAILED (R236, R237 step 1): a lane in service, or the spare, fails by uncorrectable codewords (0), loss of lock
(1) or loss of signal (2). -/
def execLaneFailed (p : Fin 16) (i : Fin 17) (why : Fin 3) (s : State) : Host.Outcome State Fault Refusal :=
  let pg := pgPORT p.val
  let st := laneState s p.val i.val
  .next (if st = 2 ∨ st = 3 ∨ (i.val = 16 ∧ st = 6) then
    let s1 := setLaneState s p.val i.val 5
    let s2 := if why.val = 1 then wr1 s1 pg F.FAB_LANE_STATE.LOCK i.val 0
      else if why.val = 2 then wr1 (wr1 s1 pg F.FAB_LANE_STATE.LOS i.val 1) pg F.FAB_LANE_STATE.LOCK i.val 0
      else s1
    if i.val = 16 ∧ st = 6 then s2
    else
      let lane := if i.val = 16 then rd s2 pg F.FAB_PORT_SPARE.RX_LANE else i.val
      let l := laneLink s2 p.val lane
      if usable s2 l && (lk s2 l).rxMap.any (fun e => e % 16 == lane) then
        let s3 := sendCtrl s2 l [(0, 0x02), (8, lane)]
        if 2 * ((lk s3 l).rxMap.length - 1) < linkWidth s3 l then linkDown s3 l 2
        else if i.val < 16 then askSpare s3 l lane
        else s3
      else s2
  else s)

/-! ## Control records (R229, R237, R239) -/

/-- LANE_OUT (R237 step 1): the sender drops the lane from its map. -/
def execLaneOut (l : Fin 64) (s : State) : Host.Outcome State Fault Refusal :=
  let n := l.val
  .next (match takeCtrl s n 0x02 with
    | some (r, s1) =>
      let lane := natField r 64 8
      let old := (lk s1 n).txMap
      let m := mapWithout old lane
      if m.length = old.length then s1
      else
        let s2 := updLk s1 n (fun v => { v with txMap := m })
        let s3 := if old.contains (16 + lane) then wr s2 (linkPg n) F.FAB_PORT_SPARE.TX_USED 0 else s2
        let s4 := setSpareCount (setLanes (setErr s3 (linkPg n) E.FAB_PORT.NARROWED) n) (n / 4)
        if 2 * m.length < linkWidth s4 n then linkDown s4 n 2 else sendCtrl s4 n (mapRecord s4 n)
    | none => s)

/-- SPARE_REQ (R237 steps 2 and 3): the sender tunes its spare onto the fibre. -/
def execSpareReq (l : Fin 64) (s : State) : Host.Outcome State Fault Refusal :=
  let n := l.val
  .next (match takeCtrl s n 0x03 with
    | some (r, s1) =>
      let v := spareOf s1 (n / 4)
      if rd s1 (linkPg n) F.FAB_PORT_SPARE.TX_USED = 0 then
        setSpare s1 (n / 4) { v with tx := some (n, natField r 64 4, natField r 72 3) }
      else s1
    | none => s)

/-- SPARE_QUALIFIED (R237 steps 3 and 4): the receiving end's spare receiver has qualified and SPARE_READY goes out. -/
def execSpareQualified (p : Fin 16) (s : State) : Host.Outcome State Fault Refusal :=
  let v := spareOf s p.val
  .next (match v.rx with
    | some (l, lane, f) =>
      if v.rxSent && usable s l then
        sendCtrl (wr1 (wr1 s (pgPORT p.val) F.FAB_LANE_STATE.FIBRE 16 f) (pgPORT p.val) F.FAB_LANE_STATE.LOCK 16 1) l
          [(0, 0x04), (8, lane), (9, f)]
      else s
    | none => s)

/-- SPARE_READY (R237 steps 4 and 5): the sender puts the spare in the lane's place and sends the map. -/
def execSpareReady (l : Fin 64) (s : State) : Host.Outcome State Fault Refusal :=
  let n := l.val
  let pg := linkPg n
  .next (match takeCtrl s n 0x04 with
    | some (r, s1) =>
      let lane := natField r 64 8
      let v := spareOf s1 (n / 4)
      match v.tx with
      | some (m, i, f) =>
        if m = n ∧ i = lane ∧ natField r 72 8 = f then
          let s2 := updLk s1 n (fun v => { v with txMap := mapInsert (16 + lane) (mapWithout v.txMap lane) })
          let s3 := wr (wr (wr s2 pg F.FAB_PORT_SPARE.TX_USED 1) pg F.FAB_PORT_SPARE.TX_LANE lane) pg
            F.FAB_PORT_SPARE.TX_FIBRE f
          let s4 := setErr (setSpare s3 (n / 4) { v with tx := none }) pg E.FAB_PORT.SPARED
          let s5 := setSpareCount (setLanes s4 n) (n / 4)
          sendCtrl s5 n (mapRecord s5 n)
        else s1
      | none => s1
    | none => s)

/-- MAP (R231): a new receive map from a given FSEQ. -/
def execMap (l : Fin 64) (s : State) : Host.Outcome State Fault Refusal :=
  let n := l.val
  .next (match takeCtrl s n 0x01 with
    | some (r, s1) =>
      let m := mapOfRecord (natField r 32 17) (natField r 64 4)
      let at_ := natField r 16 12
      if at_ = (lk s1 n).rxSeq then installMap s1 n m (natField r 72 3)
      else wr (updLk s1 n (fun v => { v with rxNext := some (at_, m) })) (linkPg n) F.FAB_PORT_SPARE.RX_FIBRE
        (natField r 72 3)
    | none => s)

/-- CLOSE (R239): a CLOSE record from the peer takes the link DOWN with cause 3. -/
def execClose (l : Fin 64) (s : State) : Host.Outcome State Fault Refusal :=
  .next (match takeCtrl s l.val 0x05 with
    | some (_, s1) => linkDown s1 l.val 3
    | none => s)

/-! ## Loss, retraining and closing (R239, R241) -/

/-- LINK_DEAD (R239): no flit has passed its CRC for 4 microseconds, 1,300 PCLK. -/
def execLinkDead (l : Fin 64) (s : State) : Host.Outcome State Fault Refusal :=
  .next (if usable s l.val && decide ((lk s l.val).goodAt + 1300 ≤ s.esc + 1) then linkDown s l.val 1 else s)

/-- RETRAIN_TIMER (R241): 100 ms, 32,500,000 PCLK, after a link went DOWN for a cause other than 4 or last tried. -/
def execRetrainTimer (l : Fin 64) (s : State) : Host.Outcome State Fault Refusal :=
  let v := lk s l.val
  .next (if linkState s l.val = 5 ∧ rd1 s (linkPg l.val) F.FAB_PORT_LINK.CAUSE (l.val % 4) ≠ 4
      ∧ v.downAt + 32500000 ≤ s.esc + 1 then
    beginTraining (setLk s l.val { v with downAt := s.esc + 1 }) l.val
  else s)

/-- CLOSE_TIMEOUT (R241): 100 microseconds, 32,500 PCLK, after a local close. -/
def execCloseTimeout (l : Fin 64) (s : State) : Host.Outcome State Fault Refusal :=
  let v := lk s l.val
  .next (if usable s l.val && v.closeAt != 0 && decide (v.closeAt + 32500 ≤ s.esc + 1) then linkDown s l.val 1 else s)

/-- RETRAIN (R241, R434): FAB_PORT_CMD.RETRAIN retrains a link; one that carries traffic returns its messages first and
sends LINK_LAST (log entry 10). While D3 is open it is ignored with CFG_IGN. -/
def execRetrain (l : Fin 64) (s : State) : Host.Outcome State Fault Refusal :=
  let n := l.val
  .next (if rd s pgSEC F.SEC_DEBUG.LEVEL = 3 then setErr s (linkPg n) E.FAB_PORT.CFG_IGN
  else if n % 4 < linksOf s (n / 4) then
    let s1 := dropSwitch s n
    if usable s1 n then
      let s2 := updLk (setLinkState s1 n 2) n (fun v => { v with downAt := s.esc + 1 })
      beginTraining (sendLinkLast (returnMsgs s2 n) n) n
    else beginTraining s1 n
  else s)

/-- FAB_CLOSE (R241): FAB_PORT_CMD.CLOSE drains and closes a link. -/
def execFabClose (l : Fin 64) (s : State) : Host.Outcome State Fault Refusal :=
  .next (if usable s l.val && (lk s l.val).closeAt == 0 then
    closeDone (rerouteQueued (updLk s l.val (fun v => { v with closeAt := s.esc + 1 })) l.val) l.val
  else s)

/-! ## Laser feeds (R242 to R244) -/

/-- FAB_PORT_FEED bits of feed A (0) or B (1). -/
def feedOkF (b : Nat) : Fld := if b = 0 then F.FAB_PORT_FEED.A_OK else F.FAB_PORT_FEED.B_OK

/-- FAB_PORT_FEED LOW bit of a feed. -/
def feedLowF (b : Nat) : Fld := if b = 0 then F.FAB_PORT_FEED.A_LOW else F.FAB_PORT_FEED.B_LOW

/-- A measured power in tenths of a dBm. -/
def dbm (v : BitVec 10) : Int := natToSigned 10 v.toNat

/-- Measure a feed (R243): its powers, OK and LOW; a feed that becomes LOW or loses OK sets FEED_LOW. -/
def measureFeed (s : State) (p b : Nat) (l0 l1 l2 : BitVec 10) : State :=
  let pg := pgPORT p
  let (f0, f1, f2) := if b = 0 then (F.FAB_PORT_FEED_PWR_A.L0, F.FAB_PORT_FEED_PWR_A.L1, F.FAB_PORT_FEED_PWR_A.L2)
    else (F.FAB_PORT_FEED_PWR_B.L0, F.FAB_PORT_FEED_PWR_B.L1, F.FAB_PORT_FEED_PWR_B.L2)
  let s1 := wr (wr (wr s pg f0 l0.toNat) pg f1 l1.toNat) pg f2 l2.toNat
  let ok := [l0, l1, l2].all (fun v => decide (140 ≤ dbm v))
  let low := [l0, l1, l2].any (fun v => decide (dbm v < 155))
  let worse := (rdB s pg (feedOkF b) && !ok) || (!rdB s pg (feedLowF b) && low)
  let s2 := wr (wr s1 pg (feedOkF b) (bit ok)) pg (feedLowF b) (bit low)
  if worse then setErr s2 pg E.FAB_PORT.FEED_LOW else s2

/-- Event FEED (R329): 0 OK, 1 LOW, 2 lost in the spec's order, coded by Config.code (log entry 8). -/
def eventFeed (s : State) (engine what : Nat) : State := raiseEvent s 0x0A 0 0 [(1, engine), (2, Config.code 0x0A what % 256)]

/-- Switch to a feed (R243). -/
def switchFeed (s : State) (p b : Nat) : State :=
  let pg := pgPORT p
  restartSwitch (setErr (addWrap (wr s pg F.FAB_PORT_FEED.SEL b) pg F.FAB_PORT_FEED.SWITCHES 1) pg E.FAB_PORT.FEED_SWITCH) p

/-- FEED_SWAP (R243): ignored with CFG_IGN unless the other feed is OK. -/
def execFeedSwap (p : Fin 16) (s : State) : Host.Outcome State Fault Refusal :=
  let pg := pgPORT p.val
  let o := 1 - rd s pg F.FAB_PORT_FEED.SEL
  .next (if rdB s pg (feedOkF o) then switchFeed s p.val o else setErr s pg E.FAB_PORT.CFG_IGN)

/-- FEED_LOSS (R243, R244): a feed's powers after 200 ns below +10 dBm or, with `long`, 10 ms below OK. -/
def execFeedLoss (p : Fin 16) (b : Fin 2) (l0 l1 l2 : BitVec 10) (long : Bool) (s : State) :
    Host.Outcome State Fault Refusal :=
  let pg := pgPORT p.val
  let s1 := measureFeed s p.val b.val l0 l1 l2
  let lost := [l0, l1, l2].any (fun v => decide (dbm v < 100))
  let s2 := eventFeed s1 p.val (if lost then 2 else 1)
  .next (if rd s2 pg F.FAB_PORT_FEED.SEL = b.val ∧ (lost ∨ (long ∧ rd s2 pg (feedOkF b.val) = 0)) then
    if rdB s2 pg (feedOkF (1 - b.val)) then switchFeed s2 p.val (1 - b.val)
    else
      (portLinks s2 p.val).foldl (fun s l =>
        if usable s l then linkDown s l 5 else if linkState s l = 2 then setLinkState s l 1 else s)
        (updFab s2 (fun f => { f with dark := tabPut false f.dark p.val true }))
  else s2)

/-- FEED_OK (R244): a feed becomes OK; a dark port, or one whose links wait for a feed, takes it and retrains. -/
def execFeedOk (p : Fin 16) (b : Fin 2) (l0 l1 l2 : BitVec 10) (s : State) : Host.Outcome State Fault Refusal :=
  let pg := pgPORT p.val
  let s1 := measureFeed s p.val b.val l0 l1 l2
  .next (if rdB s1 pg (feedOkF b.val) then
    let s2 := if rdB s pg (feedOkF b.val) then s1 else eventFeed s1 p.val 0
    let wait := (portLinks s2 p.val).filter (fun l => linkState s2 l == 1
      || (linkState s2 l == 5 && rd1 s2 (linkPg l) F.FAB_PORT_LINK.CAUSE (l % 4) == 5))
    if tabGet false s2.fab.dark p.val || !wait.isEmpty then
      let s3 := if rd s2 pg F.FAB_PORT_FEED.SEL ≠ b.val ∧ !rdB s2 pg (feedOkF (1 - b.val)) then switchFeed s2 p.val b.val else s2
      wait.foldl beginTraining (updFab s3 (fun f => { f with dark := tabPut false f.dark p.val false }))
    else s2
  else s1)

/-! ## Configuration writes (R230, R264) -/

/-- FAB_RTR_ID (R264, R272): ignored with CFG_IGN for a reserved ID or while a link is neither DISABLED nor DOWN. -/
def execFabRtrId (id : BitVec 20) (s : State) : Host.Outcome State Fault Refusal :=
  .next (if reservedId id.toNat || (List.range 64).any (fun l => linkState s l != 0 && linkState s l != 5) then
    setErr s pgRTR E.FAB_RTR.CFG_IGN
  else (List.range 16).foldl (fun s p => if rdB s (pgPORT p) F.FAB_PORT_CFG.EN then trainPort s p else s)
    (wr s pgRTR F.FAB_RTR_ID.ID id.toNat))

/-- SPLIT (R230): ignored with CFG_IGN while EN is 1. -/
def execSplit (p : Fin 16) (v : BitVec 2) (s : State) : Host.Outcome State Fault Refusal :=
  let pg := pgPORT p.val
  .next (if rdB s pg F.FAB_PORT_CFG.EN then setErr s pg E.FAB_PORT.CFG_IGN else wr s pg F.FAB_PORT_CFG.SPLIT v.toNat)

/-- A write of FAB_PORT_CFG.EN: clearing it takes the port's links DISABLED with their lanes dark, setting it trains
them. -/
def setPortEn (s : State) (p : Nat) (en : Bool) : State :=
  let pg := pgPORT p
  let s1 := wr s pg F.FAB_PORT_CFG.EN (bit en)
  if en then (if rdB s pg F.FAB_PORT_CFG.EN then s1 else trainPort s1 p)
  else
    let s2 := (portLinks s1 p).foldl (fun s l =>
      setLinkState (if usable s l then linkDown s l 4 else s) l 0) s1
    (List.range 17).foldl (fun s i => setLaneState s p i 0) s2

end Sys2Proof.Machine
end

