-- ==== Sys2Proof/Machine/HotPlug.lean ====
section
/-!
DEFINITION. The commands of live insertion and removal, and of the host ports' feed and links (R303, R308, R462 to R473).
-/
namespace Sys2Proof.Machine

/-! ## Insertion (R464, R471, R473) -/

/-- The module is powered (R440 step 2): a module reset, with a power-up counted. -/
def powerOn (s : State) (fromEn : Bool) : State :=
  let s1 := moduleReset s
  let s2 := wr s1 pgINNK F.INNK_BOOTCNT.COUNT ((rd s1 pgINNK F.INNK_BOOTCNT.COUNT + 1) % 2 ^ 32)
  if fromEn then addSat s2 pgSYS F.SYS_HOTPLUG_CNT.POWERUPS 1 else s2

/-- PRECHARGE_DONE (R464): a PWR_EN that waits for it powers the module. -/
def execPrechargeDone (s : State) : Host.Outcome State Fault Refusal :=
  let s1 := updBoot s (fun b => { b with precharged := true })
  .next (if s.boot.off ∧ s.boot.enWait then powerOn s1 true else s1)

/-- PWR_EN_ASSERT (R464, R471, R510): SLOT_ID is latched; with precharge complete the module is powered. -/
def execPwrEnAssert (slot : BitVec 8) (s : State) : Host.Outcome State Fault Refusal :=
  .next (if s.boot.off then
    let s1 := wr s pgSYS F.SYS_PINS.SLOT_LATCH slot.toNat
    if s.boot.precharged then powerOn s1 true else updBoot s1 (fun b => { b with enWait := true })
  else s)

/-- Everything goes off: jobs, HBM contents and every block (R469, R472). -/
def allOff (s : State) : State :=
  let t := moduleReset s
  { t with hbm := { t.hbm with mem := [], marks := [] }, boot := { off := true, up := 0, precharged := s.boot.precharged } }

/-- LOSS_OF_INPUT (R472): outside P4 the module powers down with a SURPRISE record, and units under test keep their RUNNING
records; in P4 a deasserted PWR_EN turns RTR_LED_N off (R471). -/
def execLossOfInput (low : Bool) (ms : BitVec 16) (s : State) : Host.Outcome State Fault Refusal :=
  let cause := if low then 3 else 2
  .next (if s.boot.off then s
  else if modState s = 4 then { allOff s with innk := s.innk, esc := s.esc }
  else
    let r : LogRec := { seq := s.innk.logNext, stamp := s.esc, boot := rd s pgINNK F.INNK_BOOTCNT.COUNT, cls := 2, code := 0x12, status := 0,
                        data := packBytes [(0, cause), (1, rd s pgSYS F.SYS_REMOVE.PHASE)] }
    let log := s.innk.buf.foldl logWrite (logWrite s.innk.log r)
    let s1 := updInnk s (fun i => { i with
      log := log, buf := [], logNext := i.logNext + 1,
      bist := i.bist.map (fun x => (x.1, { x.2 with startAt := 0 })) })
    let s2 := addSat (wr (wr s1 pgSYS F.SYS_PREV.CAUSE cause) pgSYS F.SYS_PREV.DONE ms.toNat) pgSYS F.SYS_HOTPLUG_CNT.LOSSES 1
    let t := allOff s2
    { t with innk := { t.innk with bist := s2.innk.bist }, boot := { t.boot with lowIn := low } })

/-- INPUT_RESTORE (R473): with PWR_EN asserted throughout, the module powers up again. -/
def execInputRestore (s : State) : Host.Outcome State Fault Refusal :=
  .next (if s.boot.off ∧ s.boot.lowIn then powerOn s false else s)

/-! ## Removal (R466 to R470) -/

/-- EJECT_N (R466, R467): a fresh assertion asks for removal; any other is logged as ignored. -/
def execEjectN (fresh : Bool) (s : State) : Host.Outcome State Fault Refusal :=
  let s1 := wr s pgSYS F.SYS_REMOVE.EJECT_IN 1
  let ignore (rule : Nat) : State := logMgmt (wr s1 pgSYS F.SYS_REMOVE.EJECT_STUCK 1) 0x11 rule
  .next (if s.boot.off then s
  else if !fresh then ignore (if modState s = 4 then 2 else 1)
  else if modState s = 4 then ignore 4
  else if rdB s pgSYS F.SYS_REMOVE.PEND || rdB s pgSYS F.SYS_REMOVE.READY then ignore 3
  else
    let s2 := setErr (wr (wr s1 pgSYS F.SYS_REMOVE.PEND 1) pgSYS F.SYS_REMOVE.PHASE 1) pgSYS E.SYS.REMOVE
    logMgmt (raiseEvent s2 0x0D 0 0 []) 0x10 1)

/-- Whether an update or a zeroization holds the entry to P4 back (R470). -/
def p4Held (s : State) : Bool := s.innk.upd.isSome || s.psp.zero.isSome

/-- The entry to P4 begins (R469 step 1); an update or a zeroization in progress completes first (R470). -/
def startP4 (s : State) (cause : Nat) (cmd : Option (Nat × Nat)) : State :=
  let s1 := beginState s 4 cause cmd
  if p4Held s then updBoot s1 (fun b => { b with p4Wait := true })
  else
    let s2 := closeLinks (closeHigh s1)
    updBoot (wr s2 pgSYS F.SYS_REMOVE.PHASE (if modState s = 3 then 3 else 2)) (fun b => { b with p4 := true, p4Wait := false, done := [] })

/-- P4_ENTRY (R469 steps 4 to 6): once every unit has been tested, training values and log records are stored and the module
turns off; an entry that waited begins. -/
def execP4Entry (s : State) : Host.Outcome State Fault Refusal :=
  .next (if s.boot.p4Wait ∧ !p4Held s then
    startP4 s (rd s pgPWR F.PWR_MODSTATE.CAUSE) s.pow.cmd
  else if s.boot.p4 ∧ rdB s pgPWR F.PWR_MODSTATE.BUSY ∧ rd s pgPWR F.PWR_MODSTATE.TARGET = 4 ∧ linksClosed s
      ∧ (modState s = 3 ∨ coresTested s) ∧ (List.range 6).all (fun k => s.boot.done.contains (256 + k)) then
    let s1 := logMgmt (finishOpt (storeTraining s) s.pow.cmd 0 0 0) 0x10 3
    let s2 := flushLog (enterState s1 4)
    let hub := [pgSYS, pgJOB, pgCMDQ, pgROCE, 4, 5, 6, 7, pgRTR, pgCAR, pgCLK, pgPWR, pgTHERM]
    let s3 := hub.foldl (fun s p => setBlk s p stOFF) ([0, 1, 2, 3].foldl hostDown (powerOff s2))
    let s4 := (List.range 4).foldl (fun s d => wr1 s pgSYS F.SYS_READY_DIE.DOMAIN d 0) s3
    let s5 := wr (wr (wr s4 pgSYS F.SYS_REMOVE.PHASE 5) pgSYS F.SYS_REMOVE.RTR 1) pgCLK F.CLK_STATE.LOCK 0
    let s6 := wr (wr s5 pgSYS F.SYS_PREV.CAUSE 1) pgSYS F.SYS_READY_SUMMARY.ALL 0
    let s7 := { s6 with hbm := { s6.hbm with mem := [], marks := [] } }
    updBoot (updPow s7 (fun p => { p with cmd := none })) (fun b => { b with p4 := false, up := 0 })
  else s)

/-! ## Host ports (R303, R308) -/

/-- A measurement of the host feed (R308): all four pages show it. -/
def measureHostFeed (s : State) (pwr : BitVec 10) : State :=
  let ok := decide (120 ≤ dbm pwr)
  let low := decide (dbm pwr < 135)
  let worse := (rdB s 4 F.HOSTETH_FEED.OK && !ok) || (!rdB s 4 F.HOSTETH_FEED.LOW && low)
  [0, 1, 2, 3].foldl (fun s i =>
    let pg := pgHOSTETH i
    let s1 := wr (wr (wr s pg F.HOSTETH_FEED.PWR pwr.toNat) pg F.HOSTETH_FEED.OK (bit ok)) pg F.HOSTETH_FEED.LOW (bit low)
    if worse then setErr s1 pg E.HOSTETH.FEED_LOW else s1) s

/-- HOST_FEED_LOSS (R308): below +8.0 dBm all four ports go dark. -/
def execHostFeedLoss (pwr : BitVec 10) (s : State) : Host.Outcome State Fault Refusal :=
  let s1 := measureHostFeed s pwr
  .next (if dbm pwr < 80 then
    let s2 := eventFeed (updHost s1 (fun h => { h with dark := true })) 16 2
    [0, 1, 2, 3].foldl (fun s i => setErr (hostDown s i) (pgHOSTETH i) E.HOSTETH.FEED_LOST) s2
  else if dbm pwr < 135 then eventFeed s1 16 1
  else s1)

/-- HOST_FEED_OK (R308): the four ports may train again. -/
def execHostFeedOk (pwr : BitVec 10) (s : State) : Host.Outcome State Fault Refusal :=
  let s1 := measureHostFeed s pwr
  .next (if 120 ≤ dbm pwr then
    let s2 := updHost s1 (fun h => { h with dark := false })
    if rdB s 4 F.HOSTETH_FEED.OK then s2 else eventFeed s2 16 0
  else s1)

/-- HOST_LINK (R303, R308): a host port's link comes up, when its port is enabled and has light, or goes down. -/
def execHostLink (i : Fin 4) (up lfault rfault : Bool) (fec : BitVec 4) (s : State) : Host.Outcome State Fault Refusal :=
  let pg := pgHOSTETH i.val
  let s1 := wr (wr s pg F.HOSTETH_STATE.LFAULT (bit lfault)) pg F.HOSTETH_STATE.RFAULT (bit rfault)
  .next (if up then
    if rdB s pg F.HOSTETH_CFG.EN ∧ !s.host.dark ∧ blkReady s pg then
      let s2 := wr s1 pg F.HOSTETH_STATE.FEC_LOCK fec.toNat
      if rdB s pg F.HOSTETH_STATE.LINK then s2
      else raiseEvent (setErr (wr s2 pg F.HOSTETH_STATE.LINK 1) pg E.HOSTETH.LINK_UP)
        0x09 0 0 [(1, 0x40 + i.val), (2, Config.code 0x0902 1 % 256), (3, Config.code 0x0903 1 % 256)]
    else s
  else hostDown s1 i.val)

end Sys2Proof.Machine
end

