-- ==== Sys2Proof/Machine/RegView.lean ====
section
/-!
DEFINITION. What each register shows (R479 to R485, R496 to R498, and the register tables of every chapter): a word of the
register file, with the fields that show other state of the module computed from it.
-/
namespace Sys2Proof.Machine

/-- Replace a field of a register word. -/
def putF (f : Fld) (v w : Nat) : Nat := natSetField w f.lsb f.width v

/-- A free number for a physical count (log entry 49). -/
def physF (s : State) (page off : Nat) (f : Fld) (w : Nat) : Nat := putF f (Config.phys (regKey page off) s.tick) w

/-! ## Header (R481, R484) -/

/-- INT_STATUS of a page (R481). -/
def intStatus (s : State) (page : Nat) : Nat := rdW s page 0x10 &&& rdW s page 0x1C

/-- SEC_LOCK (R438). -/
def secLocked (s : State) : Bool := rdB s pgSEC F.SEC_LOCK.LOCK

/-- PWR_STATE.DOMAIN: gated for a parked core and for a stack in self-refresh; off for a block that is OFF in P3 and P4
(log entry 51). -/
def pwrDomain (s : State) (page : Nat) (b : Blk) (i : Nat) : Nat :=
  if b = .hbmStk ∧ rdB s page F.HBM_STK_STATE.SREF then 1
  else if b = .hbmCh ∧ rdB s (pgSTK (i / 16)) F.HBM_STK_STATE.SREF then 1
  else if 0x800 ≤ page ∧ page < 0x1000 ∧ (core s i).parked then 1
  else if 3 ≤ modState s ∧ blkState s page = stOFF then 2
  else 0

/-- BIST_STATUS of a page (R460). -/
def bistStatus (s : State) (page : Nat) : Nat :=
  match unitOfPage page with
  | none => 0
  | some u =>
    let b := bistOf s u
    b.state + bit b.valid <<< 3 + bit b.powerup <<< 4 + bit b.logic <<< 5 + bit b.mem <<< 6
      + (if b.state = 0 then 0xFF else b.segment % 256) <<< 8 + (min 255 b.nseg) <<< 16 + (min 255 b.ms) <<< 24

/-- Spare elements of a page: four of an array, 256 of a scratchpad, two of a port; none elsewhere but for the hub memories
(R447, R453). -/
def spareElements (b : Blk) : Nat :=
  match b with
  | .array => 4
  | .spad => 256
  | .fabPort => 2
  | .caravan => 8
  | .hostEth => 8
  | .steward => 8
  | _ => 0

/-- REPAIR_COUNT of a page (R453, R458): spare elements in use, those fused, and whether no usable one remains. A port
counts its spare lanes (R248). -/
def repairCount (s : State) (page : Nat) (b : Blk) : Nat :=
  let rs := s.innk.repairs.filter (fun r => r.page == page)
  let bad := (s.innk.badSpares.filter (fun x => x.1 == page)).length
  let used := if b = .fabPort then rd s page F.REPAIR_COUNT.USED else rs.length
  let fused := (rs.filter (·.fused)).length
  used % 512 + (fused % 512) <<< 16
    + bit (spareElements b != 0 && decide (spareElements b ≤ used + bad)) <<< 31

/-- A register of the common header. -/
def hdrView (s : State) (page : Nat) (b : Blk) (i off : Nat) : Nat :=
  match off with
  | 0x08 => rdW s (statePage page) 0x08
  | 0x18 => intStatus s page
  | 0x20 => 1 + bit (secLocked s) <<< 1 + (natField (rdW s page 0x0C) 4 1) <<< 2 + (if b = .seq then 2 else 0) <<< 4
  | 0x24 =>
    pwrDomain s page b i + bit (((unitOfPage page).map (underTest s)).getD false) <<< 2
      + (if pageDie b i < 4 then dieDiv s (pageDie b i) else 0) <<< 4 + modState s <<< 8
  | 0x28 => bistStatus s page
  | 0x2C => repairCount s page b
  | _ => rdW s page off

/-! ## Core pages -/

/-- State of a partition as ARRAY_PSTATE codes it. -/
def partState (v : Part) : Nat :=
  if v.fault then 3 else if !v.q.isEmpty then 2 else if v.resident.isSome then 1 else 0

/-- Whether a partition of a core is BUSY. -/
def anyPartBusy (s : State) (n : Nat) : Bool :=
  (corePartList s n).any (fun p => partState (getPart (core s n) p) == 2)

/-- ARRAY page (R78, R79). -/
def arrayView (s : State) (n off : Nat) (w : Nat) : Nat :=
  let c := core s n
  let sum (f : Part → Nat) : Nat := ((corePartList s n).map (fun p => (f (getPart c p)) <<< (2 * p))).foldl (· + ·) 0
  match off with
  | 0x104 => sum partState
  | 0x144 => sum (fun v => v.q.length % 4)
  | _ => w

/-- STREAM_ISTAT.STATE of a slot. -/
def istat (v : Itin) : Nat :=
  match v.st with
  | .idle => 0
  | .done => 5
  | .stopping => 1
  | .run => if v.waitWhy = 6 then 3 else v.waitWhy

/-- STREAM page (R149, R150). -/
def streamView (s : State) (n off : Nat) (w : Nat) : Nat :=
  let c := core s n
  if off = 0x104 then putF F.STREAM_OUT.REQ (slotsHeld c) (putF F.STREAM_OUT.CRR (crrHeld c) w)
  else if 0x140 ≤ off ∧ off < 0x160 then
    let v := slotOf s n ((off - 0x140) / 4)
    istat v + (v.pc % 32) <<< 3 + (v.loops.length % 8) <<< 8 + (v.ctx % 16) <<< 12 + (v.credits % 4096) <<< 16
  else w

/-- SEQ_STATE.RUN. -/
def seqRun (s : State) (n : Nat) : Nat :=
  match (core s n).run with
  | .idle => 0
  | .ended => 0
  | .issuing => if seqHalted s n then 3 else 1
  | .muster .. => 2
  | .waitt .. => 2

/-- The word of program memory that SEQ_IMEM_ADDR addresses. -/
def imemWord (s : State) (n : Nat) : Nat :=
  natField (tabGet 0 (core s n).imem (rd s (pgSEQ n) F.SEQ_IMEM_ADDR.BUNDLE)).toNat (32 * rd s (pgSEQ n) F.SEQ_IMEM_ADDR.WORD) 32

/-- SEQ page (R181). -/
def seqView (s : State) (n off : Nat) (w : Nat) : Nat :=
  let c := core s n
  match off with
  | 0x104 => seqRun s n + bit (c.yieldReqAt != 0) <<< 2 + (c.pc % 4096) <<< 4 + (c.loops.length % 8) <<< 16
  | 0x12C => imemWord s n
  | 0x130 => c.taskCyc % 2 ^ 32
  | 0x134 => natField c.taskCyc 32 32
  | _ =>
    if 0x108 ≤ off ∧ off < 0x118 then
      let p := (off - 0x108) / 4
      if p < partCount (partMode s n) then
        (tabGet flNone c.flags (partCtx s n p)).toNat + (partCtx s n p % 16) <<< 8
      else 0
    else w

/-- The scale-table entry that SCALE_SEL shows. -/
def scaleShown (s : State) (n : Nat) : ScaleEnt := scaleEnt (core s n) (rd s (pgSCALE n) F.SCALE_SEL.ENTRY)

/-- SCALE page (R183). -/
def scaleView (s : State) (n off : Nat) (w : Nat) : Nat :=
  let e := scaleShown s n
  match off with
  | 0x104 => intToNat 8 e.k
  | 0x108 => e.rmax
  | 0x10C => bit e.nan
  | _ => if 0x140 ≤ off ∧ off < 0x180 then e.hist.getD ((off - 0x140) / 4) 0 else w

/-! ## Memory and fabric pages -/

/-- HBM_STK page: the domain registers stand on the page of a domain's first stack, and elsewhere only MODE reads (R223). -/
def stkView (s : State) (k off : Nat) (w : Nat) : Nat :=
  if off = 0x108 then physF s (pgSTK k) off F.HBM_STK_ODECC.COUNT w
  else if off = 0x180 then
    (if isDomPage s k then putF F.HBM_MAP_CTRL.MODE (bit (striped s)) w else bit (striped s))
  else if 0x180 ≤ off ∧ off < 0x1A0 then (if isDomPage s k then w else 0)
  else w

/-- FAB_PORT page: a lane's signal-to-noise ratio is physical. -/
def portView (s : State) (p off : Nat) (w : Nat) : Nat :=
  if 0x400 ≤ off ∧ off < 0x620 ∧ off % 0x20 = 0x10 then physF s (pgPORT p) off F.FAB_LANE_SNR.SNR w else w

/-- FAB_RTR page: the route entry and the window that the select registers name (R265, R272, R491). -/
def rtrView (s : State) (off : Nat) (w : Nat) : Nat :=
  let rt := routeAt s (rdB s pgRTR F.FAB_RTR_RT_SEL.TBL) (rd s pgRTR F.FAB_RTR_RT_SEL.IDX)
  let v := winAt s (rd s pgRTR F.FAB_WIN_SEL.IDX)
  match off with
  | 0x110 => rt % 2 ^ 32
  | 0x114 => rt / 2 ^ 32
  | 0x11C => v.base / 4096
  | 0x120 => v.size
  | 0x124 => v.epoch + bit v.r <<< 16 + bit v.w <<< 17 + bit v.a <<< 18 + bit v.opened <<< 19 + (v.ctx % 16) <<< 20 + bit v.job <<< 24
  | 0x128 => v.srcId
  | 0x12C => v.srcMask
  | 0x130 => bit v.busy <<< 2
  | _ => w

/-! ## Caravan -/

/-- Idle PCLK of a cause (R295): of one logical core, or of all under 0xFF. -/
def idleCount (s : State) (c : Nat) : Nat :=
  let l := rd s pgCAR F.CARAVAN_IDLE_SEL.LCORE
  if l < 240 then tabGet 0 s.car.idle (8 * l + c)
  else if l = 255 then ((List.range 240).map (fun l => tabGet 0 s.car.idle (8 * l + c))).foldl (· + ·) 0 % 2 ^ 64
  else 0

/-- CARAVAN page (R301). -/
def carView (s : State) (off : Nat) (w : Nat) : Nat :=
  let g := rd s pgCAR F.CARAVAN_GRP_SEL.GROUP
  match off with
  | 0x100 => s.car.active.length % 64 + (s.car.queue.length % 2048) <<< 8 + bit (fenceHolds s) <<< 19
  | 0x11C => (groupOf s g).1 % 2 ^ 18
  | 0x120 => (groupOf s g).2 % 2 ^ 19
  | 0x124 =>
    let rs := ranksOf s g (ownId s)
    (if rs.length = 1 then rs.headD 0 else 0) + bit (decide (1 < rs.length)) <<< 30 + bit (!rs.isEmpty) <<< 31
  | 0x12C => tabGet 0 s.car.ranks (rd s pgCAR F.CARAVAN_RANK_ADDR.INDEX)
  | 0x134 => (tabGet 0 s.car.plan (rd s pgCAR F.CARAVAN_PLAN_ADDR.WORD)).toNat
  | _ =>
    if 0x160 ≤ off ∧ off < 0x1A0 then
      let v := idleCount s ((off - 0x160) / 8)
      if off % 8 = 0 then v % 2 ^ 32 else natField v 32 32
    else w

/-! ## Host interface -/

/-- A queue pair. -/
def qpOf (s : State) (i : Nat) : Qp := tabGet {} s.host.qps i

/-- A memory region: index 0 is the register window and index 1 the doorbell page, whose places are fixed (R314, R331). -/
def mrOf (s : State) (i : Nat) : Mr :=
  let m : Mr := tabGet {} s.host.mrs i
  if i = 0 then { m with base := 0, size := 16384 } else if i = 1 then { m with base := 0, size := 1 } else m

/-- Rate of a queue pair in whole Gbit/s (R311). -/
def qpRate (q : Qp) : Nat := q.rate / 16 ^ q.rateExp

/-- ROCE page: the queue pair and the region that the select registers name. -/
def roceView (s : State) (off : Nat) (w : Nat) : Nat :=
  let q := qpOf s (rd s pgROCE F.ROCE_QP_SEL.IDX)
  let m := mrOf s (rd s pgROCE F.ROCE_MR_SEL.IDX)
  match off with
  | 0x10C => q.state + q.port <<< 2 + bit q.ipv6 <<< 4 + bit q.reg <<< 5 + bit q.db <<< 6 + q.mtu <<< 7
  | 0x110 => q.dqpn
  | 0x114 => q.spsn
  | 0x118 => q.rpsn
  | 0x11C => q.dmac % 2 ^ 32
  | 0x120 => q.dmac / 2 ^ 32
  | 0x124 => natField q.dip 0 32
  | 0x128 => natField q.dip 32 32
  | 0x12C => natField q.dip 64 32
  | 0x130 => natField q.dip 96 32
  | 0x134 => q.timeout + q.retry <<< 5 + q.rnr <<< 8 + q.sport <<< 16
  | 0x138 => qpRate q
  | 0x13C => q.synd + bit q.dir <<< 8
  | 0x144 => m.base
  | 0x148 => m.size
  | 0x14C => m.tag + bit m.r <<< 26 + bit m.w <<< 27 + bit m.valid <<< 28
  | _ => w

/-- Commands of a queue that have started and are not complete. -/
def activeCmds (s : State) (q : Nat) : List Cmd := s.host.cmds.filter (fun c => c.q == q && c.done.isNone)

/-- CMDQ page (R332). -/
def cmdqView (s : State) (off : Nat) (w : Nat) : Nat :=
  if off = 0x200 then putF F.CMDQ_EVQ.HELD (min 511 s.events.length) w
  else if 0x100 ≤ off ∧ off < 0x200 ∧ off % 0x40 = 0x1C then
    putF F.CMDQ_STAT.ACTIVE (min 255 (activeCmds s ((off - 0x100) / 0x40)).length) w
  else w

/-- HOSTETH page: codeword counts are physical. -/
def ethView (s : State) (i off : Nat) (w : Nat) : Nat :=
  if off = 0x144 ∨ off = 0x148 then physF s (pgHOSTETH i) off F.HOSTETH_FEC_CORR.COUNT w else w

/-! ## Stewards -/

/-- The bank whose job a Steward's table registers show: the one that runs or, with two, the newer (log entry 52). -/
def shownBank (s : State) : Nat := activeBank s

/-- STEWARD page (R360, R361). -/
def stewardView (s : State) (d off : Nat) (w : Nat) : Nat :=
  let pg := pgSTEWARD d
  let b := shownBank s
  let j := jobOf s b
  let l := rd s pg F.STEWARD_MAP_SEL.LCORE
  let x := lcoreOf j l
  let g := grantOf s b (rd s pg F.STEWARD_GRANT_SEL.CTX) (rd s pg F.STEWARD_GRANT_SEL.IDX)
  let t : Down := tabGet {} j.downs (rd s pg F.STEWARD_CTX_SEL.CTX)
  let mask (lo : Nat) : Nat :=
    ((List.range 32).map (fun i => bit ((core s (64 * d + lo + i)).lcore.isSome) <<< i)).foldl (· + ·) 0
  match off with
  | 0x110 =>
    let here := j.lcores.any (fun y => y.1 == l) && x.die == d
    (if here then (x.pcore.getD 255) else 255) + bit here <<< 8
  | 0x114 => mask 0
  | 0x118 => mask 32
  | 0x120 => g.base
  | 0x124 => g.limit
  | 0x128 => bit g.r + bit g.w <<< 1 + bit g.valid <<< 2 + bit g.trimmed <<< 3
  | 0x130 => t.status + bit (t.status != 0) <<< 8 + (t.pcore % 256) <<< 16 + (t.lcore % 256) <<< 24
  | _ => w

/-! ## Power, heat, clocks -/

/-- A temperature in quarters of a degree as whole degrees, two's complement (log entry 36). -/
def degrees (q : Int) : Nat := intToNat 8 (q / 4)

/-- CLK page. -/
def clkView (s : State) (off : Nat) (w : Nat) : Nat :=
  match off with
  | 0x108 => s.esc % 2 ^ 32
  | 0x10C => natField s.esc 32 32
  | _ => w

/-- PWR page. -/
def pwrView (s : State) (off : Nat) (w : Nat) : Nat :=
  match off with
  | 0x148 =>
    let m := rd s pgPWR F.PWR_MON_SEL.IDX
    if m < 48 then tabGet 0 s.pow.sens (sensKey 1 m)
    else if m < 72 then tabGet 0 s.pow.sens (sensKey 2 (m - 48))
    else 0
  | _ => w

/-- THERM page. -/
def thermView (s : State) (off : Nat) (w : Nat) : Nat :=
  match off with
  | 0x100 =>
    let die := [1, 2, 3].foldl (fun m d => max m (dieTemp s d)) (dieTemp s 0)
    let hbm := (List.range 32).foldl (fun m k => max m (stackTemp s k)) 0
    degrees die + (degrees (hubTemp s)) <<< 8 + (hbm % 256) <<< 16 + bit (rd s pgTHERM F.THERM_DEMAND.DIV != 0) <<< 24
  | 0x10C =>
    let i := rd s pgTHERM F.THERM_SEL.IDX
    if i < 112 then tabGet 0 s.pow.sens (sensKey 0 i) % 1024 + (tabGet 0 s.pow.sens (sensKey 7 i) % 1024) <<< 16 else 0
  | _ => w

/-! ## Innkeeper and Passport -/

/-- Innkeeper firmware version in a slot, 0 when the slot is not valid. -/
def innkVer (s : State) (k : Nat) : Nat :=
  if (slotAt s k).valid then ((compOf s k 1).map (·.ver)).getD 0 % 2 ^ 32 else 0

/-- INNK page. -/
def innkView (s : State) (off : Nat) (w : Nat) : Nat :=
  let new := logNewest s
  let old := (s.innk.log.head?.map (·.seq)).getD 0
  match off with
  | 0x104 => innkVer s 0
  | 0x108 => innkVer s 1
  | 0x118 => new % 2 ^ 32
  | 0x11C => natField new 32 32
  | 0x120 => old % 2 ^ 32
  | 0x124 => natField old 32 32
  | 0x138 => physF s pgINNK off F.INNK_SRAM_CE.COUNT w
  | 0x13C => physF s pgINNK off F.INNK_FLASH_CE.COUNT w
  | _ => w

/-- SEC page. -/
def secView (s : State) (off : Nat) (w : Nat) : Nat :=
  let i := rd s pgSEC F.SEC_MEAS_SEL.IDX
  let k := rd s pgSEC F.SEC_MEAS_SEL.WORD
  match off with
  | 0x110 => putF F.SEC_ARB.SECVER_A (slotAt s 0).secver (putF F.SEC_ARB.SECVER_B (slotAt s 1).secver w)
  | 0x120 => if i < 7 ∧ k < 12 then natField (measOf s i) (32 * k) 32 else 0
  | 0x124 => (if i < 7 then tabGet 0 s.psp.cnt i % 256 else 0) + bit s.psp.overflow <<< 8
  | _ => w

/-! ## SYS (R461, R496 to R498) -/

/-- Sum of bits: bit `i` for each index that a test holds for. -/
def bitSum (n : Nat) (p : Nat → Bool) : Nat := ((List.range n).map (fun i => bit (p i) <<< i)).foldl (· + ·) 0

/-- Hub pages in the order of SYS_READY_HUB. -/
def hubPages : List Nat :=
  [0, 1, 2, 4, 5, 6, 7, 3] ++ (List.range 16).map pgPORT ++ [8, 9, 10, 11, 12, 13, 14]

/-- A bit per hub page. -/
def hubBits (p : Nat → Bool) : Nat := bitSum 31 (fun i => p (hubPages.getD i 0))

/-- SYS_READY_DIE of a die. -/
def readyDie (s : State) (d : Nat) : Nat :=
  bit (blkReady s (pgSTEWARD d)) + bit (blkReady s (pgNOC d)) <<< 1 + bit (blkReady s (pgBRIDGE d)) <<< 2
    + (bitSum 8 (fun j => blkReady s (pgSTK (8 * d + j)))) <<< 3 + bit (domReady s d) <<< 11
    + (min 255 ((List.range 128).filter (fun k => blkReady s (pgCH (128 * d + k)))).length) <<< 16

/-- SYS_READY_SUMMARY. -/
def readySummary (s : State) (w : Nat) : Nat :=
  let hub := hubPages.all (blkReady s)
  let fabric := (List.range 16).all (fun p => !rdB s (pgPORT p) F.FAB_PORT_CFG.EN || blkReady s (pgPORT p))
  let host := [4, 5, 6, 7, 3, 2].all (blkReady s)
  let cores := ((List.range 256).filter (fun n => blkReady s (pgSEQ n))).length
  let die := bitSum 4 (fun d => readyDie s d % 2 ^ 12 == 2 ^ 12 - 1)
  bit hub + die <<< 1 + bit fabric <<< 5 + bit host <<< 6 + (natField w 7 1) <<< 7 + cores <<< 8

/-- Whether a page of a core has an interrupt. -/
def coreInt (s : State) (n : Nat) : Bool := (List.range 8).any (fun k => intStatus s (pgCore n k) != 0)

/-- SYS_INT_CORE and SYS_INT_CH words. -/
def intCore (s : State) (w : Nat) : Nat := bitSum 32 (fun i => coreInt s (32 * w + i))
def intCh (s : State) (w : Nat) : Nat := bitSum 32 (fun i => intStatus s (pgCH (32 * w + i)) != 0)

/-- SYS_INT_HUB. -/
def intHub (s : State) : Nat := hubBits (fun p => intStatus s p != 0)

/-- SYS_INT_DIE of a die. -/
def intDie (s : State) (d : Nat) : Nat :=
  bit (intStatus s (pgSTEWARD d) != 0) + bit (intStatus s (pgNOC d) != 0) <<< 1 + bit (intStatus s (pgBRIDGE d) != 0) <<< 2
    + (bitSum 8 (fun j => intStatus s (pgSTK (8 * d + j)) != 0)) <<< 3
    + bit ((List.range 4).any (fun k => intCh s (4 * d + k) != 0)) <<< 11
    + bit ((List.range 2).any (fun k => intCore s (2 * d + k) != 0)) <<< 12

/-- SYS_INT_SUMMARY: HUB, the dies, ANY. -/
def intSummary (s : State) : Nat :=
  let v := bit (intHub s != 0) + (bitSum 4 (fun d => intDie s d != 0)) <<< 1
  v + bit (v != 0) <<< 5

/-- ALERT_N is asserted (R497). -/
def alert (s : State) : Bool := rdB s pgSYS F.SYS_ALERT.EN && intSummary s != 0

/-- SYS_PINS: levels at the connector (R498, R505 to R511); the presence pins read 0, and every open input high. -/
def pins (s : State) (w : Nat) : Nat :=
  natField w 0 8 + bit (!s.boot.off) <<< 10 + 1 <<< 11 + bit (!throtIn s) <<< 12
    + bit (!rdB s pgSYS F.SYS_REMOVE.EJECT_IN) <<< 13 + bit (!s.pow.leakIn) <<< 14 + bit (!s.boot.off) <<< 16
    + bit (!alert s) <<< 17 + bit (!(rdB s pgSYS F.SYS_ALERT.LED || s.pow.trip)) <<< 18
    + bit (!rdB s pgSYS F.SYS_REMOVE.RTR) <<< 19 + (natField w 24 8) <<< 24

/-- The self-test record that SYS_BIST_SEL shows. -/
def bistShown (s : State) : Bist := ((unitOfPage (rd s pgSYS F.SYS_BIST_SEL.PAGE)).map (bistOf s)).getD {}

/-- Soft repairs that await a fuse burn (R458). -/
def repairsPend (s : State) : Nat := (s.innk.repairs.filter (fun r => !r.fused)).length

/-- SYS page. -/
def sysView (s : State) (off : Nat) (w : Nat) : Nat :=
  let b := bistShown s
  match off with
  | 0x100 => readySummary s w
  | 0x104 => hubBits (blkReady s)
  | 0x180 => b.state + b.memId <<< 8 + (min 65535 b.nrows) <<< 16
  | 0x184 => b.row % 2 ^ 24
  | 0x188 => b.bitNo % 2 ^ 11 + bit b.expect <<< 16
  | 0x18C => b.boot % 2 ^ 32
  | 0x190 => putF F.SYS_REPAIR_CTRL.PEND (min 511 (repairsPend s)) w
  | 0x1B4 => pins s w
  | 0x210 => intSummary s
  | 0x214 => intHub s
  | _ =>
    if 0x108 ≤ off ∧ off < 0x118 then readyDie s ((off - 0x108) / 4)
    else if 0x118 ≤ off ∧ off < 0x138 then bitSum 32 (fun i => blkReady s (pgSEQ (32 * ((off - 0x118) / 4) + i)))
    else if 0x218 ≤ off ∧ off < 0x228 then intDie s ((off - 0x218) / 4)
    else if 0x228 ≤ off ∧ off < 0x248 then intCore s ((off - 0x228) / 4)
    else if 0x248 ≤ off ∧ off < 0x288 then intCh s ((off - 0x248) / 4)
    else w

/-- NOC and BRIDGE pages (R500, R501): the traffic and correction counts are physical. -/
def nocView (s : State) (d off : Nat) (w : Nat) : Nat :=
  match off with
  | 0x100 => physF s (pgNOC d) off F.NOC_BYTES_LO.COUNT w
  | 0x104 => physF s (pgNOC d) off F.NOC_BYTES_HI.COUNT w
  | 0x108 => physF s (pgNOC d) off F.NOC_CE_CNT.COUNT w
  | 0x10C => putF F.NOC_FABQ.HELD (fabqHeld s d) w
  | _ => w

def bridgeView (s : State) (d off : Nat) (w : Nat) : Nat :=
  if off = 0x100 then
    physF s (pgBRIDGE d) (off + 0x800) F.BRG_STATE.RING_REP (physF s (pgBRIDGE d) off F.BRG_STATE.HUB_REP w)
  else if 0x104 ≤ off ∧ off < 0x128 then physF s (pgBRIDGE d) off F.BRG_CE_CNT.COUNT w
  else w

/-! ## Every register -/

/-- A block-specific register of a page. -/
def blockView (s : State) (b : Blk) (i off w : Nat) : Nat :=
  match b with
  | .array => arrayView s i off w
  | .spad => if off = 0x100 then putF F.SPAD_CTRL.ZERO_BUSY (bit (core s i).zeroUntil.isSome) w else w
  | .stream => streamView s i off w
  | .seq => seqView s i off w
  | .scale => scaleView s i off w
  | .hbmStk => stkView s i off w
  | .fabPort => portView s i off w
  | .fabRtr => rtrView s off w
  | .caravan => carView s off w
  | .hostEth => ethView s i off w
  | .roce => roceView s off w
  | .cmdq => cmdqView s off w
  | .steward => stewardView s i off w
  | .clk => clkView s off w
  | .pwr => pwrView s off w
  | .therm => thermView s off w
  | .innk => innkView s off w
  | .sec => secView s off w
  | .sys => sysView s off w
  | .noc => nocView s i off w
  | .bridge => bridgeView s i off w
  | .hdr | .ledger | .vec | .rng | .hbmCh | .job => w

/-- Whether the block-specific registers of a page are closed (R443, R484): its STATE is OFF, FAULT or ISOLATED. -/
def pageClosed (s : State) (page : Nat) : Bool :=
  blkState s page == stOFF || blkState s page == stFAULT || blkState s page == stISOLATED

/-- What a register reads (R443, R480, R484): zero on a reserved page, and on the block-specific part of a closed one. -/
def regView (s : State) (page off : Nat) : Nat :=
  match pageBlk page with
  | none => 0
  | some (b, i) =>
    if off < 0x100 then hdrView s page b i off % 2 ^ 32
    else if pageClosed s page then 0
    else blockView s b i off (rdW s page off) % 2 ^ 32

end Sys2Proof.Machine
end

