-- ==== Sys2Proof/Machine/RegOps.lean ====
section
/-!
DEFINITION. The mechanics of register accesses (R9, R10, R486 to R495): sources, reads with their latches, pairs of words,
ignored writes, and the application of a written word by the types of its fields.
-/
namespace Sys2Proof.Machine

/-- SRC of a source (R486). -/
def srcCode : Src → Nat
  | .roce _ => 0
  | .i3c => 1
  | .fabric => 2
  | .own => 3

/-- The number of a source's latch: each queue pair is a source of its own. -/
def srcNum : Src → Nat
  | .roce q => q.val
  | .i3c => 2048
  | .fabric => 2049
  | .own => 2050

/-! ## Pairs (R488, R489) -/

/-- The _LO words of the pairs; the _HI word of each follows it. -/
def pairFields : Blk → List Fld
  | .array => [F.ARRAY_GATED_LO.COUNT, F.ARRAY_BUSY_LO.COUNT]
  | .ledger => [F.SB_SPILL_LO.ADDR_LO]
  | .stream => [F.STREAM_BYTES_LO.COUNT, F.STREAM_POISON_LO.FIRST, F.STREAM_IMEM_LO.INSN]
  | .noc => [F.NOC_HAZ_ADDR_LO.ADDR, F.NOC_BYTES_LO.COUNT]
  | .seq => [F.SEQ_CYCLE_LO.COUNT]
  | .vec => [F.VEC_OPS_LO.COUNT]
  | .rng => [F.RNG_SEED_LO.SEED, F.RNG_WORDS_LO.COUNT]
  | .hbmStk => [F.HBM_XLATE_LO.ADDR]
  | .hbmCh => [F.HBM_CH_ERR_LOC_LO.ADDR, F.HBM_CH_BYTES_LO.COUNT, F.HBM_TG_BURSTS_LO.COUNT]
  | .fabRtr => [F.FAB_RTR_RT_LO.C0, F.FAB_RTR_MSG_LO.COUNT]
  | .caravan => [F.CARAVAN_BYTES_LO.COUNT, F.CARAVAN_IDLE_LO.COUNT]
  | .hostEth => [F.HOSTETH_MAC_LO.MAC, F.HOSTETH_RX_FRAMES_LO.COUNT, F.HOSTETH_TX_FRAMES_LO.COUNT]
  | .roce => [F.ROCE_QP_DMAC_LO.MAC]
  | .job => [F.JOB_STEPNUM_LO.NUM, F.JOB_STEPNUM_L_LO.NUM, F.JOB_ESC0_LO.ESC, F.JOB_IMAGE_LO.ADDR]
  | .steward => [F.STEWARD_INUSE_LO.MASK]
  | .clk => [F.CLK_ESC_LO.ESC]
  | .pwr => [F.PWR_THROT_TIME_LO.COUNT, F.PWR_ENERGY_LO.COUNT]
  | .innk => [F.INNK_LOG_NEW_LO.SEQ, F.INNK_LOG_OLD_LO.SEQ]
  | .sec => [F.SEC_UID_LO.UID]
  | .bridge => [F.BRG_HUB_TX_LO.COUNT, F.BRG_HUB_RX_LO.COUNT, F.BRG_RING_TX_LO.COUNT, F.BRG_RING_RX_LO.COUNT]
  | .hdr | .spad | .scale | .fabPort | .cmdq | .therm | .sys => []

/-- Whether a register is the _LO word of a pair, and whether it is the _HI word. -/
def isPairLo (b : Blk) (off : Nat) : Bool := (pairFields b).any (fldAt · off)
def isPairHi (b : Blk) (off : Nat) : Bool := decide (4 ≤ off) && isPairLo b (off - 4)

/-- Whether a register has a field that a write may change or act on. -/
def writable (b : Blk) (off : Nat) : Bool := (fieldsAt b off).any (fun f => f.ty != .ro && f.ty != .rc)

/-! ## Reads (R9, R443, R488) -/

/-- A word held for a source: a read latch or a held _LO write, as (source, page, offset, value). -/
abbrev Held := Nat × Nat × Nat × Word

/-- The entry of a source. -/
def heldOf' (l : List Held) (n : Nat) : Option Held := l.find? (fun x => x.1 == n)

/-- The entries of the other sources. -/
def heldDrop (l : List Held) (n : Nat) : List Held := l.filter (fun x => x.1 != n)

/-- Set a source's latch. -/
def setLatch (s : State) (src : Src) (page off : Nat) (v : Word) : State :=
  updHost s (fun h => { h with latches := heldDrop h.latches (srcNum src) ++ [(srcNum src, page, off, v)] })

/-- Clear a source's latch. -/
def clearLatch (s : State) (src : Src) : State :=
  updHost s (fun h => { h with latches := heldDrop h.latches (srcNum src) })

/-- What an RC field is left with by a read: zero, and the highest power for the lowest power since the last read (log entry
53). -/
def rcAfter (f : Fld) : Nat := if f = F.FAB_LANE_RXPWR.PMIN then f.rst else 0

/-- Clear the RC fields of a register. -/
def clearRc (s : State) (b : Blk) (page off : Nat) : State :=
  (fieldsAt b off).foldl (fun s f =>
    if f.ty = .rc then wrW s page off (natSetField (rdW s page off) f.lsb f.width (rcAfter f)) else s) s

/-- SEQ_IMEM_ADDR moves to the next word under AINC. -/
def imemAdvance (s : State) (n : Nat) : State :=
  let pg := pgSEQ n
  if rdB s pg F.SEQ_IMEM_ADDR.AINC then
    let k := (8 * rd s pg F.SEQ_IMEM_ADDR.BUNDLE + rd s pg F.SEQ_IMEM_ADDR.WORD + 1) % 32768
    wr (wr s pg F.SEQ_IMEM_ADDR.WORD (k % 8)) pg F.SEQ_IMEM_ADDR.BUNDLE (k / 8)
  else s

/-- The state that an outcome goes on with; the state before where it stops. -/
def after (s : State) : Host.Outcome State Fault Refusal → State
  | .next t => t
  | .fault _ => s
  | .refused _ => s

/-- A read of SYS_SEM[k] (R491): returns FREE and takes the semaphore. The Innkeeper's own read of semaphore 0 holds it, or
begins its wait (R492). -/
def takeSem (s : State) (src : Src) (k : Nat) : State :=
  let free := rd1 s pgSYS F.SYS_SEM.FREE k
  let s1 := wr1 s pgSYS F.SYS_SEM.FREE k 0
  if src = .own ∧ k = 0 then
    updInnk s1 (fun i =>
      if free = 1 then { i with semHeld := true, semWaitAt := 0 }
      else if i.semHeld ∨ i.semWaitAt ≠ 0 then i
      else { i with semWaitAt := s.esc + 1 })
  else s1

/-- What else a read of a register does: RC fields clear, a data register behind an address moves on, a semaphore is taken. -/
def readEffect (s : State) (src : Src) (b : Blk) (i page off : Nat) : State :=
  match b with
  | .seq => if off = 0x12C then imemAdvance s i else s
  | .caravan =>
    if off = 0x134 then after s (execCaravanPlanData none s)
    else if off = 0x12C then after s (execCaravanRankData none s)
    else clearRc s b page off
  | .therm =>
    if off = 0x10C then
      updPow s (fun p => { p with sens := tabPut 0 p.sens (sensKey 7 (rd s pgTHERM F.THERM_SEL.IDX)) 0 })
    else clearRc s b page off
  | .sys =>
    if 0x1C8 ≤ off ∧ off < 0x208 then takeSem s src ((off - 0x1C8) / 4)
    else if off = 0x1A0 then wr s pgSYS F.SYS_REMOVE.EJECT_STUCK 0
    else clearRc s b page off
  | .hdr | .array | .spad | .ledger | .stream | .noc | .vec | .scale | .rng | .hbmStk | .hbmCh | .fabPort | .fabRtr
  | .hostEth | .roce | .cmdq | .job | .steward | .clk | .pwr | .innk | .sec | .bridge => clearRc s b page off

/-- A read of a register by a source (R9, R487, R488): the value it returns and the state after it. -/
def regRead (s : State) (src : Src) (page off : Nat) : Word × State :=
  let v := BitVec.ofNat 32 (regView s page off)
  match pageBlk page with
  | none => (v, s)
  | some (b, i) =>
    if off < 0x100 ∨ pageClosed s page then (v, s)
    else
      let s1 := readEffect s src b i page off
      if isPairLo b off then (v, setLatch s1 src page (off + 4) (BitVec.ofNat 32 (regView s page (off + 4))))
      else
        match heldOf' s.host.latches (srcNum src) with
        | some (_, p, o, w) => if p = page ∧ o = off then (w, clearLatch s1 src) else (v, s1)
        | none => (v, s1)

/-! ## Ignored writes (R494) -/

/-- Record an ignored write: SYS_ACC holds the first since it was last read, SYS_ACC_CNT counts later ones. -/
def ignoreWrite (s : State) (src page off cause : Nat) : State :=
  let s1 :=
    if rdB s pgSYS F.SYS_ACC.VALID then addSat s pgSYS F.SYS_ACC_CNT.COUNT 1
    else wr (wr (wr (wr (wr s pgSYS F.SYS_ACC.PAGE page) pgSYS F.SYS_ACC.WORD (off / 4)) pgSYS F.SYS_ACC.CAUSE cause)
      pgSYS F.SYS_ACC.SRC src) pgSYS F.SYS_ACC.VALID 1
  setErr s1 pgSYS E.SYS.ACC_IGN

/-- An action on a block-specific register of a page, from the Innkeeper's own source (log entry 54): on a closed page it is
ignored and recorded (R443, R494). -/
def onPage (s : State) (page off : Nat) (f : State → State) : State :=
  if pageClosed s page then ignoreWrite s 3 page off 3 else f s

/-! ## Writes by type (R9, R10, R493) -/

/-- A written field by its type: RC and RO fields, and WO fields, which only act, keep what is held. -/
def fieldWrite (locked : Bool) (f : Fld) (old v : Nat) : Nat :=
  let o := natField old f.lsb f.width
  let n := natField v f.lsb f.width
  match f.ty with
  | .rw => n
  | .rwl => if locked then o else n
  | .w1c => o &&& (2 ^ f.width - 1 - n)
  | .w1s => o ||| n
  | .ro | .wo | .rc => o

/-- A written word by the types of a register's fields. -/
def wordWrite (locked : Bool) (fs : List Fld) (old v : Nat) : Nat :=
  fs.foldl (fun w f => natSetField w f.lsb f.width (fieldWrite locked f old v)) old

/-- Whether a write would change an RWL field. -/
def rwlChange (fs : List Fld) (old v : Nat) : Bool :=
  fs.any (fun f => f.ty == .rwl && natField old f.lsb f.width != natField v f.lsb f.width)

/-- Apply a written word to a register. A write that would change an RWL field while SEC_LOCK is set leaves the field and is
recorded (R493). -/
def applyWord (s : State) (src : Nat) (b : Blk) (page off v : Nat) : State :=
  let fs := fieldsAt b off
  let old := rdW s page off
  let s1 := wrW s page off (wordWrite (secLocked s) fs old v)
  if secLocked s && rwlChange fs old v then ignoreWrite s1 src page off 1 else s1

/-- ERR_CLR (R481). -/
def clearErrs (s : State) (page : Nat) : State := wrW s page 0x10 0

/-- The word with its counting fields zero. -/
def zeroCounts (fs : List Fld) (w : Nat) : Nat :=
  fs.foldl (fun w f => if f.cnt then natSetField w f.lsb f.width 0 else w) w

/-- CNT_CLR (R481): every wrapping or saturating field of a page becomes zero, in the register file and in the state that
the page shows. -/
def clearCounts (s : State) (page : Nat) : State :=
  match pageBlk page with
  | none => s
  | some (b, _) =>
    let ks := ((s.regs.filter (fun x => x.1 / 1024 == page && decide (64 ≤ x.1 % 1024))).map (fun x => x.1 % 1024 * 4))
    let s1 := ks.foldl (fun s off => wrW s page off (zeroCounts (fieldsAt b off) (rdW s page off))) s
    let s2 := match unitOfPage page with
      | some u => if bistOf s1 u = {} then s1 else setBist s1 u { bistOf s1 u with ms := 0 }
      | none => s1
    match b with
    | .caravan => updCar s2 (fun c => { c with idle := [] })
    | .sec => updPsp s2 (fun p => { p with cnt := [] })
    | _ => s2

end Sys2Proof.Machine
end

