-- ==== Sys2Proof/Machine/Seq.lean ====
section
/-!
DEFINITION. The SEQ slot operations and the bundle slot that holds NOP (R153, R158 to R161, R172, and the issue
side of R142).
-/
namespace Sys2Proof.Machine

/-- A SEQ operation that writes a 64-bit result of two scalar registers with a latency (R158). -/
def seqBinary (s : State) (n lat rd ra rb : Nat) (f : DWord → DWord → DWord) : State :=
  issueSeq s n (fun c s => addResult s n lat 0 (.sreg rd (f (sreg c ra) (sreg c rb))))

/-- NOP in the SEQ slot (R153): the bundle issues. -/
def seqNopAt (s : State) (n : Nat) : State := issueSeq s n (fun _ s => s)

/-- The meaning of NOP (R153); the tag of a NOP slot is ignored (R154). -/
def execNop (i : Issue) (slot : Slot) (s : State) : Host.Outcome State Fault Refusal :=
  .next (match slot with
    | .seq => seqNopAt s i.core.val
    | .arr => if slotOk s i.core.val 1 then markSlot s i.core.val 1 else s
    | .vec => if slotOk s i.core.val 2 then markSlot s i.core.val 2 else s
    | .str => if slotOk s i.core.val 3 then markSlot s i.core.val 3 else s)

/-- SEQ ADD (R158). -/
def execSeqAdd (c : Fin 256) (rd ra rb : Fin 32) (s : State) : Host.Outcome State Fault Refusal :=
  .next (seqBinary s c.val 1 rd.val ra.val rb.val (fun a b => a + b))

/-- SEQ SUB (R158). -/
def execSub (c : Fin 256) (rd ra rb : Fin 32) (s : State) : Host.Outcome State Fault Refusal :=
  .next (seqBinary s c.val 1 rd.val ra.val rb.val (fun a b => a - b))

/-- SEQ AND (R158). -/
def execAnd (c : Fin 256) (rd ra rb : Fin 32) (s : State) : Host.Outcome State Fault Refusal :=
  .next (seqBinary s c.val 1 rd.val ra.val rb.val (fun a b => a &&& b))

/-- SEQ OR (R158). -/
def execOr (c : Fin 256) (rd ra rb : Fin 32) (s : State) : Host.Outcome State Fault Refusal :=
  .next (seqBinary s c.val 1 rd.val ra.val rb.val (fun a b => a ||| b))

/-- SEQ XOR (R158). -/
def execXor (c : Fin 256) (rd ra rb : Fin 32) (s : State) : Host.Outcome State Fault Refusal :=
  .next (seqBinary s c.val 1 rd.val ra.val rb.val (fun a b => a ^^^ b))

/-- The shift amount of a scalar shift: S[RB][5:0] (R158). -/
def shiftAmt (b : DWord) : Nat := b.toNat % 64

/-- SEQ SHL (R158). -/
def execShl (c : Fin 256) (rd ra rb : Fin 32) (s : State) : Host.Outcome State Fault Refusal :=
  .next (seqBinary s c.val 1 rd.val ra.val rb.val (fun a b => a <<< shiftAmt b))

/-- SEQ SHR (R158). -/
def execShr (c : Fin 256) (rd ra rb : Fin 32) (s : State) : Host.Outcome State Fault Refusal :=
  .next (seqBinary s c.val 1 rd.val ra.val rb.val (fun a b => a >>> shiftAmt b))

/-- SEQ SRA (R158). -/
def execSra (c : Fin 256) (rd ra rb : Fin 32) (s : State) : Host.Outcome State Fault Refusal :=
  .next (seqBinary s c.val 1 rd.val ra.val rb.val (fun a b => a.sshiftRight (shiftAmt b)))

/-- SEQ MUL (R158), latency 3. -/
def execMul (c : Fin 256) (rd ra rb : Fin 32) (s : State) : Host.Outcome State Fault Refusal :=
  .next (seqBinary s c.val 3 rd.val ra.val rb.val (fun a b => a * b))

/-- SEQ ADDI with its signed immediate (R158). -/
def execAddi (c : Fin 256) (rd ra : Fin 32) (imm : BitVec 32) (s : State) : Host.Outcome State Fault Refusal :=
  .next (seqBinary s c.val 1 rd.val ra.val ra.val (fun a _ => a + imm.signExtend 64))

/-- The 64-bit value of LIH: IMM above the low half of S[RA] (R158). -/
def lihValue (a : DWord) (imm : BitVec 32) : DWord := imm ++ a.extractLsb' 0 32

/-- SEQ LIH (R158). -/
def execLih (c : Fin 256) (rd ra : Fin 32) (imm : BitVec 32) (s : State) : Host.Outcome State Fault Refusal :=
  .next (seqBinary s c.val 1 rd.val ra.val ra.val (fun a _ => lihValue a imm))

/-- SEQ CMP (R158); COND 6 and 7 raise ILLEGAL. -/
def execCmp (c : Fin 256) (qd : Fin 8) (ra rb : Fin 32) (cond : BitVec 3) (s : State) :
    Host.Outcome State Fault Refusal :=
  .next (issueSeq s c.val (fun k s =>
    match scalarCond cond (sreg k ra.val) (sreg k rb.val) with
    | some b => addResult s c.val 1 0 (.pred qd.val b)
    | none => recSeqAll s c.val 1 0 k.pc))

/-- SEQ QOP (R158). -/
def execQop (c : Fin 256) (qd qa qb : Fin 8) (fn : BitVec 2) (s : State) : Host.Outcome State Fault Refusal :=
  .next (issueSeq s c.val (fun k s => addResult s c.val 1 0 (.pred qd.val (predOp fn (preg k qa.val) (preg k qb.val)))))

/-- A taken branch issued now: its target issues three cycles later, and every open loop whose body the target
leaves is closed (R159). `k` is the core before the bundle. -/
def takeBranch (s : State) (n tgt : Nat) (k : Core) : State :=
  updCore s n (fun c =>
    { c with pc := tgt, nextIssue := now s n + 3,
             loops := k.loops.filter (fun l => decide (l.first ≤ tgt) && decide (tgt ≤ l.last)) })

/-- SEQ BR (R159). -/
def execBr (c : Fin 256) (q : Fin 8) (neg : Bool) (tgt : BitVec 12) (s : State) :
    Host.Outcome State Fault Refusal :=
  .next (issueSeq s c.val (fun k s => if preg k q.val != neg then takeBranch s c.val tgt.toNat k else s))

/-- Whether a LOOP at index `pc` with its END is one that R159 refuses: END not beyond it, END beyond the END of
the enclosing loop. -/
def loopBad (loops : List LoopLvl) (pc last : Nat) : Bool :=
  decide (last ≤ pc) || (match loops with
    | [] => false
    | l :: _ => decide (l.last < last))

/-- SEQ LOOP (R159): a count of 0 continues after END; a fifth open loop raises ILLEGAL. -/
def execSeqLoop (c : Fin 256) (ra : Fin 32) (last : BitVec 12) (s : State) : Host.Outcome State Fault Refusal :=
  .next (issueSeq s c.val (fun k s =>
    let count := (sreg k ra.val).toNat % 2 ^ 32
    let e := last.toNat
    if loopBad k.loops k.pc e || (4 ≤ k.loops.length && count != 0) then recSeqAll s c.val 1 0 k.pc
    else if count = 0 then
      let nx := loopNext k.loops e
      updCore s c.val (fun c => { c with pc := nx.1, loops := nx.2 })
    else updCore s c.val (fun c => { c with pc := k.pc + 1, loops := ⟨k.pc + 1, e, count - 1⟩ :: k.loops })))

/-- SPAD faults of a SEQ slot operation: against every context on the core (R68, R111). -/
def recSpadAll (s : State) (n code port bank row : Nat) : State :=
  (corePartList s n).foldl (fun s p => recSpad s n p (partCtx s n p) code port bank row) s

/-- GRANT of a SEQ slot read (R133), against every context on the core. -/
def recGrantAll (s : State) (n h : Nat) : State :=
  (corePartList s n).foldl (fun s p => recStream s n (partCtx s n p) 4 0 1 0 h) s

/-- SEQ LDS (R160): a narrow access of the 32 bytes that hold the 8 bytes asked for. -/
def execLds (c : Fin 256) (rd ra : Fin 32) (h : Fin 64) (s : State) : Host.Outcome State Fault Refusal :=
  .next (issueSeq s c.val (fun k s =>
    let n := c.val
    let off := (sreg k ra.val).toNat
    let hd := handleOf s n h.val
    let o32 := off - off % 32
    let a := handleAddr hd o32
    if off % 8 ≠ 0 then recSpadAll s n 3 4 (bankOf a) (rowOf a)
    else if boundsBad s n h.val hd o32 32 then recSpadAll s n 4 4 (bankOf a) (rowOf a)
    else if !tokOf s n h.val then recSpadAll s n 5 4 (bankOf a) (rowOf a)
    else if poisonHit s n h.val o32 32 then recGrantAll s n h.val
    else narrowAccess s n (partCtx s n 0) 0 a 32 hd.clsW (.lds rd.val (off % 32))))

/-- The special value that SEL names (R161); none for a reserved SEL. -/
def specialValue (s : State) (n sel : Nat) : Option DWord :=
  let c := core s n
  match sel with
  | 0 => some (BitVec.ofNat 64 (c.lcore.getD 0))
  | 1 => some (BitVec.ofNat 64 n)
  | 2 => some (BitVec.ofNat 64 (partMode s n + partCtx s n 0 <<< 4 + partCtx s n 1 <<< 8 + partCtx s n 2 <<< 12
      + partCtx s n 3 <<< 16))
  | 3 => some (BitVec.ofNat 64 (rd64 s pgJOB F.JOB_STEPNUM_L_LO.NUM F.JOB_STEPNUM_L_HI.NUM c.bank))
  | 4 => some (BitVec.ofNat 64 (rd1 s pgJOB F.JOB_STEPSZ_L.SZ c.bank))
  | 5 => some (BitVec.ofNat 64 c.taskCyc)
  | 6 => some (BitVec.ofNat 64 s.esc)
  | _ => none

/-- SEQ RDS (R161). -/
def execRds (c : Fin 256) (rd : Fin 32) (sel : BitVec 8) (s : State) : Host.Outcome State Fault Refusal :=
  .next (issueSeq s c.val (fun k s =>
    match specialValue s c.val sel.toNat with
    | some v => addResult s c.val 1 0 (.sreg rd.val v)
    | none => recSeqAll s c.val 1 0 k.pc))

/-- SEQ FTEST (R172). -/
def execFtest (c : Fin 256) (qd : Fin 8) (part : Fin 4) (clr : Bool) (mask : BitVec 5) (s : State) :
    Host.Outcome State Fault Refusal :=
  .next (issueSeq s c.val (fun k s =>
    let n := c.val
    if part.val < partCount (partMode s n) then
      let ctx := partCtx s n part.val
      let f := tabGet flNone k.flags ctx
      let s1 := addResult s n 1 0 (.pred qd.val (f &&& mask != 0))
      if clr then updCore s1 n (fun c => { c with flags := tabPut flNone c.flags ctx (f &&& ~~~mask) }) else s1
    else recSeqAll s n 1 0 k.pc))

/-- SEQ MUSTER (R142): the core issues no further bundle until its release. FENCE 3 and KIND 3 raise ILLEGAL
(R158). -/
def execMuster (c : Fin 256) (scope : Bool) (kind fence : BitVec 2) (s : State) :
    Host.Outcome State Fault Refusal :=
  .next (issueSeq s c.val (fun k s =>
    if kind = 3 ∨ fence = 3 then recSeqAll s c.val 1 0 k.pc
    else
      let s1 := updCore s c.val (fun k2 =>
        { k2 with run := .muster fence.toNat kind.toNat (bit scope) false, waitFrom := now s c.val, waitEsc := s.esc })
      wr s1 (pgSTREAM c.val) F.MUSTER_STAT.WAIT 1))

/-- SEQ WAITT (R160); handle 63 as its operand is BOUNDS (R97). -/
def execWaitt (c : Fin 256) (qd : Fin 8) (ra : Fin 32) (h : Fin 64) (s : State) :
    Host.Outcome State Fault Refusal :=
  .next (issueSeq s c.val (fun k s =>
    if h.val = 63 then recSpadAll s c.val 4 5 0 0
    else if tokOf s c.val h.val then addResult s c.val 1 0 (.pred qd.val true)
    else updCore s c.val (fun k' =>
      { k' with run := .waitt qd.val h.val (sreg k ra.val).toNat, waitFrom := now s c.val })))

/-- A waiting WAITT finds its token set, or its limit has passed: the next bundle issues in the following cycle
(R160). -/
def execWaittResume (c : Fin 256) (s : State) : Host.Outcome State Fault Refusal :=
  let n := c.val
  let k := core s n
  .next (match k.run with
    | .waitt qd h limit =>
      if tokOf s n h || decide (k.waitFrom + limit ≤ now s n) then
        let s1 := addResult s n 1 0 (.pred qd (tokOf s n h))
        updCore s1 n (fun c => { c with run := .issuing, nextIssue := now s n + 1 })
      else s
    | _ => s)

/-- SEQ END (R158): the core's part of the task issues nothing further. -/
def execSeqEnd (c : Fin 256) (s : State) : Host.Outcome State Fault Refusal :=
  .next (issueSeq s c.val (fun _ s => updCore s c.val (fun c => { c with run := .ended })))

end Sys2Proof.Machine
end

