-- ==== Sys2Proof/Machine/Bundle.lean ====
section
/-!
DEFINITION. One bundle of program memory issues (R153 to R169), as SEQ_CTRL.STEP makes it (R181): each slot is decoded and
runs by its meaning, in the order SEQ, ARR, VEC, STR.
-/
namespace Sys2Proof.Machine

/-- The SEQ slot (R158): a reserved opcode raises ILLEGAL. -/
def runSeqSlot (c : Fin 256) (v : Nat) (s : State) : Host.Outcome State Fault Refusal :=
  let rd := freg v 37
  let qd := foct v 39
  let ra := freg v 32
  let rb := freg v 27
  let imm : BitVec 32 := sfield v 0 32
  match natField v 42 6 with
  | 0x00 => execNop { core := c, tag := 0 } .seq s
  | 0x01 => execSeqAdd c rd ra rb s
  | 0x02 => execSub c rd ra rb s
  | 0x03 => execAnd c rd ra rb s
  | 0x04 => execOr c rd ra rb s
  | 0x05 => execXor c rd ra rb s
  | 0x06 => execShl c rd ra rb s
  | 0x07 => execShr c rd ra rb s
  | 0x08 => execSra c rd ra rb s
  | 0x09 => execMul c rd ra rb s
  | 0x0A => execAddi c rd ra imm s
  | 0x0B => execLih c rd ra imm s
  | 0x0C => execCmp c qd ra rb (sfield v 24 3) s
  | 0x0D => execQop c qd (foct v 36) (foct v 33) (sfield v 0 2) s
  | 0x0E => execBr c qd (fbit v 38) (sfield v 0 12) s
  | 0x0F => execSeqLoop c ra (sfield v 0 12) s
  | 0x10 => execLds c rd ra (fhandle v 26) s
  | 0x11 => execRds c rd (sfield v 0 8) s
  | 0x12 => execFtest c qd (fpart v 37) (fbit v 5) (sfield v 0 5) s
  | 0x13 => execMuster c (fbit v 4) (sfield v 2 2) (sfield v 0 2) s
  | 0x14 => execWaitt c qd ra (fhandle v 26) s
  | 0x3F => execSeqEnd c s
  | _ => .next (issueSeq s c.val (fun k s => recSeqAll s c.val 1 0 k.pc))

/-- The ARR slot (R162). -/
def runArrSlot (i : Issue) (v : Nat) (s : State) : Host.Outcome State Fault Refusal :=
  match natField v 28 4 with
  | 0x0 => .next s
  | 0x1 => execPass i (fentry v 24) s
  | 0x2 => execDset i (fentry v 24) (freg v 19) s
  | _ => .next (issueSlot s i 1 (fun p _ s => illegalSlot s i.core.val p 1))

/-- The VEC slot (R163, R164). -/
def runVecSlot (i : Issue) (v : Nat) (s : State) : Host.Outcome State Fault Refusal :=
  let vd := freg v 67
  let va := freg v 62
  let vb := freg v 57
  let vc := freg v 52
  let mk := foct v 49
  let ty : BitVec 2 := sfield v 47 2
  let md := foct v 44
  let cond : BitVec 3 := sfield v 41 3
  let rx := freg v 42
  let h := fhandle v 41
  let ra := freg v 36
  let len : BitVec 3 := sfield v 33 3
  let imm : BitVec 24 := sfield v 0 24
  let fmt : BitVec 8 := sfield v 39 8
  let grp := foct v 36
  let sct : BitVec 8 := sfield v 28 8
  let sctEn := fbit v 27
  let re := freg v 22
  let rt := freg v 17
  match natField v 72 8 with
  | 0x00 => .next s
  | 0x01 => execVadd i ty mk vd va vb s
  | 0x02 => execVsub i ty mk vd va vb s
  | 0x03 => execVmul i ty mk vd va vb s
  | 0x04 => execVfma i ty mk vd va vb vc s
  | 0x05 => execVmax i ty mk vd va vb s
  | 0x06 => execVmin i ty mk vd va vb s
  | 0x07 => execVabs i ty mk vd va s
  | 0x08 => execVneg i ty mk vd va s
  | 0x09 => execVsgn i ty mk vd va s
  | 0x0A => execVdiv i ty mk vd va vb s
  | 0x0B => execVsqrt i ty mk vd va s
  | 0x0C => execVexp2 i ty mk vd va s
  | 0x0D => execVlog2 i ty mk vd va s
  | 0x0E => execVcmp i ty mk md va vb cond s
  | 0x0F => execVsel i ty mk vd va vb s
  | 0x10 => execViadd i ty mk vd va vb s
  | 0x11 => execVisub i ty mk vd va vb s
  | 0x12 => execViand i ty mk vd va vb s
  | 0x13 => execVior i ty mk vd va vb s
  | 0x14 => execVixor i ty mk vd va vb s
  | 0x15 => execVishl i ty mk vd va vb s
  | 0x16 => execVishr i ty mk vd va vb s
  | 0x17 => execVftoi i ty mk vd va s
  | 0x18 => execVitof i ty mk vd va s
  | 0x19 => execVbcast i ty mk vd rx s
  | 0x1A => execVreds i ty mk rx va (sfield v 40 2) s
  | 0x1B => execVbmax i ty mk vd va s
  | 0x1C => execVscaleb i ty mk vd va vb s
  | 0x20 => execVcvt i ty vd va vc fmt grp sct sctEn re rt s
  | 0x21 => execVdec i vd va vb fmt grp sct sctEn s
  | 0x22 => execVrng i vd re rt s
  | 0x24 => execVld i vd h ra len (fbit v 32) imm s
  | 0x25 => execVst i va h ra len (fbit v 31) imm s
  | 0x26 => execVmpack i mk vd s
  | 0x27 => execVmunpk i md va s
  | 0x28 => execVscrd i vd rx s
  | 0x29 => execVscwr i va rx s
  | _ => .next (vecIssue s i false (fun _ _ s => s))

/-- The STR slot (R169). -/
def runStrSlot (i : Issue) (v : Nat) (s : State) : Host.Outcome State Fault Refusal :=
  let sl := foct v 71
  let h := fhandle v 65
  let qd := foct v 56
  let len : BitVec 6 := sfield v 50 6
  let n : BitVec 12 := sfield v 37 12
  let ra := freg v 32
  let rb := freg v 27
  let rc := freg v 22
  let tgt : BitVec 2 := sfield v 15 2
  match natField v 74 6 with
  | 0x00 => .next s
  | 0x01 => execStart i sl ra rb s
  | 0x02 => execStop i sl s
  | 0x03 => execCredit i sl n (if fbit v 49 then some h else none) s
  | 0x04 => execSend i sl h ra len s
  | 0x05 => execArm i h n s
  | 0x06 => execStrCopy i h ra (fhandle v 59) rb len s
  | 0x08 => execCourierPut i h ra rb rc tgt len qd s
  | 0x09 => execCourierGet i h ra rb rc tgt len qd s
  | 0x0A => execCourierAdd i h ra rb rc (freg v 17) tgt qd s
  | 0x0C => execPush i sl h ra s
  | 0x0D => execPop i sl h ra s
  | _ => .next (strIssue s i false (fun _ _ s => s))

/-- The bundle at the program counter of a core issues. -/
def runBundle (s : State) (c : Fin 256) : State :=
  let b := tabGet 0 (core s c.val).imem (core s c.val).pc
  let s1 := after s (runSeqSlot c (seqSlot b) s)
  let s2 := after s1 (runArrSlot { core := c, tag := tagArr b } (arrSlot b) s1)
  let s3 := after s2 (runVecSlot { core := c, tag := tagVec b } (vecSlot b) s2)
  after s3 (runStrSlot { core := c, tag := tagStr b } (strSlot b) s3)

/-- STEP (R181): while the core is halted, at debug level D2 or D3, one bundle issues and the core is halted again. -/
def stepBundle (s : State) (c : Fin 256) : State :=
  let n := c.val
  if 2 ≤ level s ∧ seqHalted s n then
    let hc := (core s n).haltCtx
    let hb := rd s (pgSEQ n) F.SEQ_CTRL.HALT
    let s1 := wr (updCore s n (fun k => { k with haltCtx := 0 })) (pgSEQ n) F.SEQ_CTRL.HALT 0
    let s2 := if canIssue s1 n then runBundle s1 c else s1
    wr (updCore s2 n (fun k => { k with haltCtx := hc })) (pgSEQ n) F.SEQ_CTRL.HALT hb
  else s

end Sys2Proof.Machine
end

