-- ==== Sys2Proof/Machine/HostOps.lean ====
section
/-!
DEFINITION. The operations of the host interface that register writes share with packets and commands: queue pairs and
regions (R310, R314), and command queues (R318, R322, R325, R327).
-/
namespace Sys2Proof.Machine

/-! ## Queue pairs and regions -/

/-- Replace a queue pair. One that is not in RTS has no read latch (R488). -/
def setQp (s : State) (i : Nat) (q : Qp) : State :=
  updHost s (fun h =>
    { h with qps := tabPut {} h.qps i q, latches := if q.state = 1 then h.latches else heldDrop h.latches i })

/-- A queue pair enters ERROR (R312, R313). -/
def qpError (s : State) (i : Nat) (q : Qp) : State :=
  setErr (setQp s i { q with state := 2, sent := [], wrOpen := false }) pgROCE E.ROCE.QP_ERROR

/-- The context staged in the ROCE page (R331); a reserved STATE or MTU acts as log entry 6 says. -/
def stagedQp (s : State) : Qp :=
  let g (f : Fld) : Nat := rd s pgROCE f
  { state := g F.ROCE_QP_CTX.STATE, port := g F.ROCE_QP_CTX.PORT, ipv6 := rdB s pgROCE F.ROCE_QP_CTX.IPV6,
    reg := rdB s pgROCE F.ROCE_QP_CTX.REG, db := rdB s pgROCE F.ROCE_QP_CTX.DB, mtu := g F.ROCE_QP_CTX.MTU,
    dqpn := g F.ROCE_QP_DQPN.QPN, spsn := g F.ROCE_QP_SPSN.PSN, rpsn := g F.ROCE_QP_RPSN.PSN,
    dmac := g F.ROCE_QP_DMAC_LO.MAC + (g F.ROCE_QP_DMAC_HI.MAC) <<< 32,
    dip := ((List.range 4).map (fun j => (rd1 s pgROCE F.ROCE_QP_DIP.ADDR j) <<< (32 * j))).foldl (· + ·) 0,
    timeout := g F.ROCE_QP_TIMER.TIMEOUT, retry := g F.ROCE_QP_TIMER.RETRY, rnr := g F.ROCE_QP_TIMER.RNR,
    sport := g F.ROCE_QP_TIMER.SPORT }

/-- ROCE_QP_SEL.WRITE (R310): a queue pair in RTS or ERROR takes only a context whose STATE is RESET. -/
def qpWriteAt (s : State) (i : Nat) : State :=
  let q := stagedQp s
  if q.state = 3 ∨ ((qpOf s i).state ≠ 0 ∧ q.state ≠ 0) then setErr s pgROCE E.ROCE.CFG_IGN
  else if q.state = 2 then qpError s i q
  else setQp s i q

/-- ROCE_MR_SEL.WRITE (R314): the staged region. -/
def mrWriteAt (s : State) (i : Nat) : State :=
  let m : Mr := { base := rd s pgROCE F.ROCE_MR_BASE.BASE, size := rd s pgROCE F.ROCE_MR_SIZE.SIZE,
                  tag := rd s pgROCE F.ROCE_MR_KEY.TAG, r := rdB s pgROCE F.ROCE_MR_KEY.R,
                  w := rdB s pgROCE F.ROCE_MR_KEY.W, valid := rdB s pgROCE F.ROCE_MR_KEY.VALID }
  updHost s (fun h => { h with mrs := tabPut {} h.mrs i m })

/-! ## Command queues -/

/-- SIZE of a queue: 2^LOG2SIZE; a value outside 4 to 16 acts as 4. -/
def queueSize (s : State) (q : Nat) : Nat :=
  let k := rd1 s pgCMDQ F.CMDQ_CTRL.LOG2SIZE q
  2 ^ (if 4 ≤ k ∧ k ≤ 16 then k else 4)

/-- Whether a queue is enabled. -/
def queueEn (s : State) (q : Nat) : Bool := rd1 s pgCMDQ F.CMDQ_CTRL.EN q != 0

/-- The four indexes of a queue. -/
def sqPi (s : State) (q : Nat) : Nat := rd1 s pgCMDQ F.CMDQ_SQ_PI.PI q
def sqCi (s : State) (q : Nat) : Nat := rd1 s pgCMDQ F.CMDQ_SQ_CI.CI q
def cqPi (s : State) (q : Nat) : Nat := rd1 s pgCMDQ F.CMDQ_CQ_PI.PI q
def cqCi (s : State) (q : Nat) : Nat := rd1 s pgCMDQ F.CMDQ_CQ_CI.CI q

/-- A difference of free-running 32-bit counts (R318). -/
def cntSub (a b : Nat) : Nat := (a + 2 ^ 32 - b) % 2 ^ 32

/-- Zero the four indexes of a queue; PHASE, which follows CQ_PI, is 1 again. -/
def zeroIndexes (s : State) (q : Nat) : State :=
  wr1 (wr1 (wr1 (wr1 s pgCMDQ F.CMDQ_SQ_PI.PI q 0) pgCMDQ F.CMDQ_SQ_CI.CI q 0) pgCMDQ F.CMDQ_CQ_PI.PI q 0)
    pgCMDQ F.CMDQ_CQ_CI.CI q 0

/-- Started commands of a queue whose record has not been written. -/
def startedCmds (s : State) (q : Nat) : List Cmd := s.host.cmds.filter (fun c => c.q == q)

/-- Writing EN as 1 (R322). -/
def queueEnableAt (s : State) (q : Nat) : State := zeroIndexes (wr1 s pgCMDQ F.CMDQ_CTRL.EN q 1) q

/-- RESET (R327): commands that have not started are discarded, and the indexes become 0 once every started command has
completed. -/
def queueResetAt (s : State) (q : Nat) : State :=
  if (startedCmds s q).isEmpty then zeroIndexes s q
  else
    updHost (wr1 s pgCMDQ F.CMDQ_SQ_PI.PI q (sqCi s q)) (fun h =>
      { h with resets := if h.resets.contains q then h.resets else h.resets ++ [q] })

/-- A waiting RESET takes place when the queue's last started command has completed. -/
def settleReset (s : State) (q : Nat) : State :=
  if s.host.resets.contains q && (startedCmds s q).isEmpty then
    updHost (zeroIndexes s q) (fun h => { h with resets := h.resets.filter (· != q) })
  else s

/-- Completion slots of a queue that are free and not reserved by started commands (R323). -/
def freeSlots (s : State) (q : Nat) : Nat :=
  queueSize s q - cntSub (cqPi s q) (cqCi s q) - (startedCmds s q).length

/-- A write of CMDQ_CTRL, SQ_BASE or CQ_BASE of a queue (R322, R327, R332). While EN is 1 a write that would change LOG2SIZE, QP,
NQP or a base leaves them and sets CFG_IGN (log entry 55). -/
def cmdqWrite (s : State) (off v : Nat) : State :=
  let q := (off - 0x100) / 0x40
  let r := off % 0x40
  let ign (s : State) : State := setErr s pgCMDQ (E.CMDQ.CFG_IGN + q)
  if r = 0x00 then
    let keep := rdW s pgCMDQ off
    let locked := queueEn s q
    let s1 := wrW s pgCMDQ off
      (if locked then natSetField (natSetField keep 0 1 (v % 2)) 2 1 (natField v 2 1)
       else natSetField (natSetField (natSetField keep 0 1 (v % 2)) 2 1 (natField v 2 1)) 4 27 (natField v 4 27))
    let s2 := if locked ∧ natField keep 4 27 ≠ natField v 4 27 then ign s1 else s1
    let s3 := if v.testBit 0 then queueEnableAt s2 q else s2
    if v.testBit 1 then queueResetAt s3 q else s3
  else if queueEn s q then (if rdW s pgCMDQ off = v % 2 ^ 30 then s else ign s)
  else wrW s pgCMDQ off (v % 2 ^ 30)

end Sys2Proof.Machine
end

