-- ==== Sys2Proof/Machine/Regs.lean ====
section
/-!
DEFINITION. The commands of the register pages (R94, R103, R149, R177, R181 to R184, R438, R481, R488 to R495), and the write
of any register by its page's rules.
-/
namespace Sys2Proof.Machine

/-! ## Core pages -/

/-- RNG_CTRL.KAT (R184): only in SERVICE; the test takes 16 CCLK. -/
def startKat (s : State) (n : Nat) : State :=
  let pg := pgRNG n
  if coreState s n = stSERVICE then
    updCore (wr s pg F.RNG_CTRL.KAT_BUSY 1) n (fun c => { c with katUntil := some (now s n + 16) })
  else setErr s pg E.RNG.SVC_IGN

/-- KAT. -/
def execKat (c : Fin 256) (s : State) : Host.Outcome State Fault Refusal :=
  .next (onPage s (pgRNG c.val) 0x108 (fun s => startKat s c.val))

/-- SPAD_CTRL.ZERO (R94): only in SERVICE; the fill finishes within 4,112 CCLK. -/
def startZeroFill (s : State) (n : Nat) : State :=
  if coreState s n = stSERVICE then updCore s n (fun c => { c with zeroUntil := some (now s n + 4112) })
  else setErr s (pgSPAD n) E.SPAD.SVC_IGN

/-- ZERO. -/
def execZero (c : Fin 256) (s : State) : Host.Outcome State Fault Refusal :=
  .next (onPage s (pgSPAD c.val) 0x100 (fun s => startZeroFill s c.val))

/-- ZERO_FILL_DONE (R94): every row is zero under class A. -/
def execZeroFillDone (c : Fin 256) (s : State) : Host.Outcome State Fault Refusal :=
  .next (if (core s c.val).zeroUntil.isSome then updCore s c.val zeroSpad else s)

/-- Return partitions of a mask from FAULT to IDLE (R69). -/
def clearParts (s : State) (n : Nat) (m : Nat) : State :=
  (List.range 4).foldl (fun s p =>
    if m.testBit p && (getPart (core s n) p).fault then
      wr1 (setPart s n p (stopPart (getPart (core s n) p) false)) (pgARRAY n) F.ARRAY_FAULT.CYCLE p 0
    else s) s

/-- PCLR. -/
def execPclr (c : Fin 256) (m : BitVec 4) (s : State) : Host.Outcome State Fault Refusal :=
  .next (onPage s (pgARRAY c.val) 0x118 (fun s => clearParts s c.val m.toNat))

/-- A write of ARRAY_PART (R67): ignored while a partition is BUSY; a change of MODE leaves no partition a tile. -/
def setArrayPart (s : State) (n v : Nat) : State :=
  let pg := pgARRAY n
  if anyPartBusy s n then setErr s pg E.ARRAY.PART_BUSY
  else
    let s1 := wrW s pg 0x100 (wordWrite false (fieldsAt .array 0x100) (rdW s pg 0x100) v)
    if partMode s1 n = partMode s n then s1
    else (List.range 4).foldl (fun s p => setPart s n p (stopPart (getPart (core s n) p) (getPart (core s n) p).fault)) s1

/-- ARRAY_PART. -/
def execArrayPart (c : Fin 256) (v : BitVec 32) (s : State) : Host.Outcome State Fault Refusal :=
  .next (onPage s (pgARRAY c.val) 0x100 (fun s => setArrayPart s c.val v.toNat))

/-- A repair write (R73): only in SERVICE; a fused entry keeps its value. -/
def setRepair (s : State) (n : Nat) (col : Bool) (v : Nat) : State :=
  let pg := pgARRAY n
  let off := if col then 0x120 else 0x11C
  if coreState s n = stSERVICE then
    let old := rdW s pg off
    let a := if old.testBit 9 then old else natSetField old 0 9 (natField v 0 9)
    wrW s pg off (if old.testBit 25 then a else natSetField a 16 9 (natField v 16 9))
  else setErr s pg E.ARRAY.REPAIR_IGN

/-- ARRAY_REPAIR. -/
def execArrayRepair (c : Fin 256) (col : Bool) (v : BitVec 32) (s : State) : Host.Outcome State Fault Refusal :=
  .next (onPage s (pgARRAY c.val) (if col then 0x120 else 0x11C) (fun s => setRepair s c.val col v.toNat))

/-- A write of LEDGER_HBASE (R98, R103): BASE and CLASS take their values, and MODE unless R103 refuses it; handle 63 keeps
MODE 0b10 (R105). -/
def setHbase (s : State) (n h v : Nat) : State :=
  let pg := pgLEDGER n
  if coreOpen s n then
    let s1 := wr1 (wr1 s pg F.LEDGER_HBASE.BASE h (natField v 0 17)) pg F.LEDGER_HBASE.CLASS h (natField v 17 1)
    let m := natField v 18 2
    if (m = 1 ∧ coreState s n ≠ stSERVICE) ∨ (m = 2 ∧ h ≠ 63) then setErr s1 pg E.LEDGER.RING_IGN
    else if h = 63 then s1
    else wr1 s1 pg F.LEDGER_HBASE.MODE h m
  else setErr s pg E.LEDGER.BUSY_IGN

/-- LEDGER_HBASE. -/
def execLedgerHbase (c : Fin 256) (h : Fin 64) (v : BitVec 32) (s : State) : Host.Outcome State Fault Refusal :=
  .next (onPage s (pgLEDGER c.val) (0x800 + 0x20 * h.val) (fun s => setHbase s c.val h.val v.toNat))

/-- STREAM_CTRL.STOP (R149): every slot of the mask stops as STOP does. -/
def stopSlots (s : State) (n m : Nat) : State :=
  if coreOpen s n then (List.range 8).foldl (fun s i => if m.testBit i then stopSlot s n i else s) s
  else setErr s (pgSTREAM n) E.STREAM.IMEM_IGN

/-- STREAM_STOP. -/
def execStreamStop (c : Fin 256) (m : BitVec 8) (s : State) : Host.Outcome State Fault Refusal :=
  .next (onPage s (pgSTREAM c.val) 0x100 (fun s => stopSlots s c.val m.toNat))

/-- SEQ_HALT (R181): HALT takes its value; it acts at debug level D2 and D3. -/
def execSeqHalt (c : Fin 256) (v : Bool) (s : State) : Host.Outcome State Fault Refusal :=
  .next (onPage s (pgSEQ c.val) 0x100 (fun s => wr s (pgSEQ c.val) F.SEQ_CTRL.HALT (bit v)))

/-- SEQ_STEP (R181). -/
def execSeqStep (c : Fin 256) (s : State) : Host.Outcome State Fault Refusal :=
  .next (onPage s (pgSEQ c.val) 0x100 (fun s => stepBundle s c))

/-- An access to SEQ_IMEM_DATA (R181): a write takes effect only in READY and SERVICE; under AINC the address advances. -/
def imemAccess (s : State) (n : Nat) (v : Option Nat) : State :=
  let pg := pgSEQ n
  match v with
  | none => imemAdvance s n
  | some v =>
    let b := rd s pg F.SEQ_IMEM_ADDR.BUNDLE
    let w := rd s pg F.SEQ_IMEM_ADDR.WORD
    let s1 :=
      if coreOpen s n then
        updCore s n (fun c =>
          let x := BitVec.ofNat 256 (natSetField (tabGet 0 c.imem b).toNat (32 * w) 32 v)
          { c with imem := tabPut 0 c.imem b x })
      else setErr s pg E.SEQ.IMEM_IGN
    imemAdvance s1 n

/-- SEQ_IMEM_DATA. -/
def execSeqImemData (c : Fin 256) (v : Option (BitVec 32)) (s : State) : Host.Outcome State Fault Refusal :=
  .next (match v with
    | none => if pageClosed s (pgSEQ c.val) then s else imemAccess s c.val none
    | some v => onPage s (pgSEQ c.val) 0x12C (fun s => imemAccess s c.val (some v.toNat)))

/-- A write of the SCALE page's entry (R183). -/
def scaleWrite (s : State) (n off v : Nat) : State :=
  let pg := pgSCALE n
  if coreOpen s n then
    let e := rd s pg F.SCALE_SEL.ENTRY
    updCore s n (fun c =>
      let x := scaleEnt c e
      let y : ScaleEnt :=
        if off = 0x104 then { x with k := if v % 256 = 0x80 then -127 else natToSigned 8 v }
        else if off = 0x108 then { x with rmax := v % 2 ^ 32 }
        else if off = 0x10C then { x with nan := x.nan && !v.testBit 0 }
        else { x with hist := x.hist.set ((off - 0x140) / 4) (v % 2 ^ 32) }
      { c with scale := tabPut {} c.scale e y })
  else setErr s pg E.SCALE.BUSY_IGN

/-! ## SEC_LOCK and semaphores -/

/-- SEC_LOCK.LOCK is written 1 (R423, R437, R438): RWL fields are locked until module reset; MEAS[6] and the security log
record it. -/
def setSecLock (s : State) : State :=
  if secLocked s then s
  else
    let s1 := wr s pgSEC F.SEC_LOCK.LOCK 1
    logSec (extendDebug s1 3 (level s)) 0x09 0

/-- SEC_LOCK. -/
def execSecLock (s : State) : Host.Outcome State Fault Refusal := .next (onPage s pgSEC 0x108 setSecLock)

/-- SYS_SEM (R491): a read of SYS_SEM[k]. -/
def execSysSem (k : Fin 16) (s : State) : Host.Outcome State Fault Refusal :=
  .next (if pageClosed s pgSYS then s else takeSem s (.roce 0) k.val)

/-- Free the semaphores of a mask. -/
def freeSems (s : State) (m : Nat) : State :=
  let s1 := (List.range 16).foldl (fun s k => if m.testBit k then wr1 s pgSYS F.SYS_SEM.FREE k 1 else s) s
  if m.testBit 0 then updInnk s1 (fun i => { i with semHeld := false }) else s1

/-- SYS_SEM_REL (R491). -/
def execSysSemRel (v : BitVec 16) (s : State) : Host.Outcome State Fault Refusal :=
  .next (onPage s pgSYS 0x1C4 (fun s => freeSems s v.toNat))

/-- SEM_BREAK (R492): the Innkeeper has waited 10 ms for semaphore 0, and takes it. -/
def execSemBreak (s : State) : Host.Outcome State Fault Refusal :=
  .next (if s.innk.semWaitAt ≠ 0 ∧ s.innk.semWaitAt + 3250000 ≤ s.esc + 1 ∧ innkRuns s then
    setErr (updInnk (wr1 s pgSYS F.SYS_SEM.FREE 0 0) (fun i => { i with semHeld := true, semWaitAt := 0 }))
      pgSYS E.SYS.SEM_BREAK
  else s)

/-! ## Any register -/

/-- FAB_PORT_CFG: SPLIT under R230 when it differs, SPARE_EN, then EN. -/
def portCfgWrite (s : State) (p v : Nat) : State :=
  let pg := pgPORT p
  let s1 := if rd s pg F.FAB_PORT_CFG.SPLIT = v % 4 then s else after s (execSplit (Fin.ofNat 16 p) (BitVec.ofNat 2 v) s)
  let s2 := wr s1 pg F.FAB_PORT_CFG.SPARE_EN (natField v 3 1)
  if rdB s pg F.FAB_PORT_CFG.EN = v.testBit 2 then s2 else setPortEn s2 p (v.testBit 2)

/-- FAB_PORT_CMD: bits act in ascending order. -/
def portCmdWrite (s : State) (p v : Nat) : State :=
  let s1 := (List.range 4).foldl (fun s k =>
    if v.testBit k then after s (execRetrain (Fin.ofNat 64 (4 * p + k)) s) else s) s
  let s2 := (List.range 4).foldl (fun s k =>
    if v.testBit (4 + k) then after s (execFabClose (Fin.ofNat 64 (4 * p + k)) s) else s) s1
  if v.testBit 8 then after s2 (execFeedSwap (Fin.ofNat 16 p) s2) else s2

/-- HBM_MAP_CTRL: MODE, then REBUILD. -/
def mapCtrlWrite (s : State) (k v : Nat) : State :=
  let s1 := after s (execMode (Fin.ofNat 32 k) (v.testBit 0) s)
  if v.testBit 1 then after s1 (execRebuild (Fin.ofNat 32 k) s1) else s1

/-- HBM_CH_CMD: bits act in ascending order. -/
def chCmdWrite (s : State) (n v : Nat) : State :=
  let c := Fin.ofNat 512 n
  let s1 := if v.testBit 0 then after s (execFail c s) else s
  let s2 := if v.testBit 1 then after s1 (execTestEnter c s1) else s1
  if v.testBit 2 then after s2 (execTestExit c s2) else s2

/-- HBM_TG_CTRL of a pseudo-channel, after its RW fields. -/
def tgCtrlAct (s : State) (n p v : Nat) : State :=
  let c := Fin.ofNat 512 n
  let q := Fin.ofNat 2 p
  let s1 := if v.testBit 0 then after s (execTgStart c q s) else s
  if v.testBit 1 then after s1 (execTgStop c q s1) else s1

/-- A written word of the CARAVAN page (R275, R301). -/
def carWrite (s : State) (src page off v : Nat) : State :=
  let g := rd s pgCAR F.CARAVAN_GRP_SEL.GROUP
  match off with
  | 0x104 => if anyJob s then setErr s pgCAR E.CARAVAN.CFG_IGN else applyWord s src .caravan page off v
  | 0x108 =>
    let s1 := applyWord s src .caravan page off v
    if v.testBit 10 then after s1 (execArmReshard (Fin.ofNat 1024 (rd s1 pgCAR F.CARAVAN_RESHARD.ENTRY)) s1) else s1
  | 0x114 => carTableWrite s (fun s => applyWord s src .caravan page off v)
  | 0x11C => carTableWrite s (fun s => updCar s (fun c =>
      { c with groups := tabPut (0, 0) c.groups g (v % 2 ^ 18, (groupOf s g).2) }))
  | 0x120 => carTableWrite s (fun s => updCar s (fun c =>
      { c with groups := tabPut (0, 0) c.groups g ((groupOf s g).1, v % 2 ^ 19) }))
  | 0x12C => after s (execCaravanRankData (some (BitVec.ofNat 32 v)) s)
  | 0x134 => after s (execCaravanPlanData (some (BitVec.ofNat 32 v)) s)
  | _ => applyWord s src .caravan page off v

/-- A written word of the FAB_RTR page. -/
def rtrWrite (s : State) (src page off v : Nat) : State :=
  match off with
  | 0x100 => after s (execFabRtrId (BitVec.ofNat 20 v) s)
  | 0x10C =>
    let s1 := applyWord s src .fabRtr page off v
    if v.testBit 11 then
      after s1 (execRtWrite (Fin.ofNat 1024 (rd s1 pgRTR F.FAB_RTR_RT_SEL.IDX)) (rdB s1 pgRTR F.FAB_RTR_RT_SEL.TBL) s1)
    else s1
  | 0x130 =>
    let s1 := if v.testBit 0 then after s (execOpen s) else s
    if v.testBit 1 then after s1 (execWinClose s1) else s1
  | _ => applyWord s src .fabRtr page off v

/-- A written word of a core's page. -/
def coreWrite (s : State) (src : Nat) (b : Blk) (n page off v : Nat) : State :=
  let plain (s : State) : State := applyWord s src b page off v
  match b with
  | .array =>
    if off = 0x100 then setArrayPart s n v
    else if off = 0x118 then clearParts (plain s) n (natField v 4 4)
    else if off = 0x11C then setRepair s n false v
    else if off = 0x120 then setRepair s n true v
    else plain s
  | .spad => if off = 0x100 ∧ v.testBit 8 then startZeroFill (plain s) n else plain s
  | .ledger =>
    if 0x800 ≤ off ∧ off % 0x20 = 0 then setHbase s n ((off - 0x800) / 0x20) v
    else if coreOpen s n then plain s
    else setErr s page E.LEDGER.BUSY_IGN
  | .stream =>
    if off = 0x100 then stopSlots s n v
    else if coreOpen s n then plain s
    else setErr s page E.STREAM.IMEM_IGN
  | .seq =>
    if off = 0x100 then (if v.testBit 1 then stepBundle (plain s) (Fin.ofNat 256 n) else plain s)
    else if off = 0x12C then imemAccess s n (some v)
    else plain s
  | .scale => if off = 0x100 then plain s else scaleWrite s n off v
  | .rng =>
    if off = 0x108 then (if v.testBit 0 then startKat s n else s)
    else if coreOpen s n then plain s
    else setErr s page E.RNG.SVC_IGN
  | _ => plain s

/-- A written word of a block-specific register, by the rules of its page. -/
def blockWrite (s : State) (src : Nat) (b : Blk) (i page off v : Nat) : State :=
  let plain (s : State) : State := applyWord s src b page off v
  match b with
  | .array | .spad | .ledger | .stream | .seq | .vec | .scale | .rng => coreWrite s src b i page off v
  | .hbmStk =>
    if off = 0x180 then mapCtrlWrite s i v
    else if 0x180 ≤ off ∧ off < 0x1A0 ∧ !isDomPage s i then s
    else if off = 0x198 then after s (execHbmXlate (Fin.ofNat 32 i) (BitVec.ofNat 10 v) s)
    else plain s
  | .hbmCh =>
    if off = 0x104 then chCmdWrite s i v
    else if off = 0x200 ∨ off = 0x240 then tgCtrlAct (plain s) i ((off - 0x200) / 0x40) v
    else plain s
  | .fabPort =>
    if off = 0x100 then portCfgWrite s i v
    else if off = 0x104 then portCmdWrite s i v
    else plain s
  | .fabRtr => rtrWrite s src page off v
  | .caravan => carWrite s src page off v
  | .hostEth =>
    if off = 0x100 then (let s1 := plain s; if v.testBit 0 then s1 else hostDown s1 i) else plain s
  | .roce =>
    if off = 0x108 then
      (let s1 := plain s; if v.testBit 11 then qpWriteAt s1 (rd s1 pgROCE F.ROCE_QP_SEL.IDX) else s1)
    else if off = 0x140 then
      (let s1 := plain s; if v.testBit 6 then mrWriteAt s1 (rd s1 pgROCE F.ROCE_MR_SEL.IDX) else s1)
    else plain s
  | .cmdq => if off % 0x40 < 0x0C ∧ off < 0x200 then cmdqWrite s off v else s
  | .pwr =>
    if off = 0x104 then (if v.testBit 0 then clearLeak s (!s.pow.leakIn) else s)
    else if off = 0x110 then
      (if 4000 ≤ v % 2 ^ 13 ∧ v % 2 ^ 13 ≤ rd s pgPWR F.PWR_PLMAX.W then plain s else setErr s pgPWR E.PWR.CFG_IGN)
    else plain s
  | .sec => if off = 0x108 then (if v.testBit 0 then setSecLock s else s) else plain s
  | .sys => if off = 0x1C4 then freeSems s (v % 65536) else plain s
  | .job | .steward | .clk | .therm | .innk | .noc | .bridge | .hdr => plain s

/-- A write of the common header (R481, R484, R493). -/
def hdrWrite (s : State) (src : Nat) (page off v : Nat) : State :=
  if off = 0x0C then
    let s1 := applyWord s src .hdr page off v
    let s2 := if v.testBit 0 then clearErrs s1 page else s1
    if v.testBit 1 then clearCounts s2 page else s2
  else applyWord s src .hdr page off v

/-- Hold a _LO word for its source; one of another pair held before is discarded (R489). -/
def holdLo (s : State) (src : Src) (page off v : Nat) : State :=
  updHost s (fun h =>
    { h with loHeld := heldDrop h.loHeld (srcNum src) ++ [(srcNum src, page, off, BitVec.ofNat 32 v)] })

/-- A _HI word takes effect together with the _LO word that its source holds for the pair (R489). -/
def pairWrite (s : State) (src : Src) (b : Blk) (i page off v : Nat) : State :=
  match heldOf' s.host.loHeld (srcNum src) with
  | some (_, p, o, w) =>
    if p = page ∧ o + 4 = off then
      let s1 := updHost s (fun h => { h with loHeld := heldDrop h.loHeld (srcNum src) })
      blockWrite (blockWrite s1 (srcCode src) b i page o w.toNat) (srcCode src) b i page off v
    else blockWrite s (srcCode src) b i page off v
  | none => blockWrite s (srcCode src) b i page off v

/-- A write of a register by a source (R486, R489, R493 to R495): the fabric writes none; a reserved page, a page protected
from RoCE, and the block-specific registers of a closed page ignore it and record it. -/
def regWrite (s : State) (src : Src) (page off v : Nat) : State :=
  if src = .fabric then s
  else
    match pageBlk page with
    | none => ignoreWrite s (srcCode src) page off 4
    | some (b, i) =>
      if srcCode src = 0 ∧ rdB s page F.BLK_CTRL.HOST_WP then ignoreWrite s (srcCode src) page off 2
      else if off < 0x100 then hdrWrite s (srcCode src) page off v
      else if !writable b off then s
      else if pageClosed s page then ignoreWrite s (srcCode src) page off 3
      else if isPairLo b off then holdLo s src page off v
      else if isPairHi b off then pairWrite s src b i page off v
      else blockWrite s (srcCode src) b i page off v

/-- REGISTER_WRITE (R494). -/
def execRegisterWrite (src : Src) (page : Fin 16384) (word : Fin 1024) (v : BitVec 32) (s : State) :
    Host.Outcome State Fault Refusal := .next (regWrite s src page.val (4 * word.val) v.toNat)

/-- PAIR_LO_WRITE (R489): a write of the _LO word of a writable pair. -/
def execPairLoWrite (src : Src) (page : Fin 16384) (word : Fin 1024) (v : BitVec 32) (s : State) :
    Host.Outcome State Fault Refusal := .next (regWrite s src page.val (4 * word.val) v.toNat)

/-- PAIR_LO_READ (R488): a read of the _LO word of a pair. -/
def execPairLoRead (src : Src) (page : Fin 16384) (word : Fin 1024) (s : State) : Host.Outcome State Fault Refusal :=
  .next (regRead s src page.val (4 * word.val)).2

/-- RC_READ (R9). -/
def execRcRead (src : Src) (page : Fin 16384) (word : Fin 1024) (s : State) : Host.Outcome State Fault Refusal :=
  .next (regRead s src page.val (4 * word.val)).2

/-- JOB_STEPNUM (R177, R489): a source writes the low or the high half of a bank's staging step number. -/
def execJobStepnum (src : Src) (b : Fin 2) (hi : Bool) (v : BitVec 32) (s : State) : Host.Outcome State Fault Refusal :=
  .next (regWrite s src pgJOB ((if hi then 0x110 else 0x10C) + 0x80 * b.val) v.toNat)

/-- ERR_CLR (R481); a reserved page ignores it. -/
def execErrClr (page : Fin 16384) (s : State) : Host.Outcome State Fault Refusal :=
  .next (match pageBlk page.val with
    | none => ignoreWrite s 3 page.val 0x0C 4
    | some _ => clearErrs s page.val)

/-- CNT_CLR (R481); a reserved page ignores it. -/
def execCntClr (page : Fin 16384) (s : State) : Host.Outcome State Fault Refusal :=
  .next (match pageBlk page.val with
    | none => ignoreWrite s 3 page.val 0x0C 4
    | some _ => clearCounts s page.val)

/-- NOC_HAZ_HIT_CLEAR (R151): HIT of a range is cleared. -/
def execNocHazHitClear (d : Fin 4) (w : Fin 4) (s : State) : Host.Outcome State Fault Refusal :=
  .next (onPage s (pgNOC d.val) (0x408 + 0x20 * w.val) (fun s => wr1 s (pgNOC d.val) F.NOC_HAZ_CTRL.HIT w.val 0))

end Sys2Proof.Machine
end

