-- ==== Sys2Proof/Machine/Host.lean ====
section
/-!
DEFINITION. The commands of the host interface: Ethernet frames and flow control (R303 to R308), RoCE packets (R309 to R313),
the RDMA address space (R314 to R316), doorbells (R317 to R319), command queues (R322 to R327) and events (R328).
-/
namespace Sys2Proof.Machine

/-! ## Sending (R305, R306) -/

/-- Whether a host port's link is up. -/
def hostUp (s : State) (i : Nat) : Bool := rdB s (pgHOSTETH i) F.HOSTETH_STATE.LINK

/-- Put a frame on a port's link. -/
def putFrame (i : Nat) (s : State) (o : Out) : State :=
  add64 (emit s o) (pgHOSTETH i) F.HOSTETH_TX_FRAMES_LO.COUNT F.HOSTETH_TX_FRAMES_HI.COUNT 0 1

/-- Key of a port's pause of a priority. -/
def pauseKey (i prio : Nat) : Nat := 8 * i + prio

/-- Whether a received pause holds the priority of a port's frames. -/
def txPaused (s : State) (i : Nat) : Bool :=
  decide (s.esc + 1 < tabGet 0 s.host.paused (pauseKey i (rd s (pgHOSTETH i) F.HOSTETH_VLAN.PCP)))

/-- Send the frames that a pause held back, once it is over. -/
def flushTx (s : State) (i : Nat) : State :=
  if txPaused s i then s
  else match tabGet [] s.host.txq i with
    | [] => s
    | os => os.foldl (putFrame i) (updHost s (fun h => { h with txq := tabPut [] h.txq i [] }))

/-- Send a frame on a port, behind those that a pause holds back. A port whose link is down sends nothing. -/
def sendFrame (s : State) (i : Nat) (o : Out) : State :=
  if hostUp s i then flushTx (updHost s (fun h => { h with txq := tabPut [] h.txq i (tabGet [] h.txq i ++ [o]) })) i else s

/-! ## Frames (R303 to R305) -/

/-- Whether a received frame passes the filters of R303 to R305. Flow-control frames carry no tag (log entry 56). -/
def frameOk (s : State) (i : Nat) (f : EthFrame) : Bool :=
  let pg := pgHOSTETH i
  let tagOk := if rdB s pg F.HOSTETH_CFG.VLAN_EN then
      (match f.tag with
       | some (vid, _) => vid.toNat == rd s pg F.HOSTETH_VLAN.VID || vid == 0
       | none => false)
    else f.tag.isNone
  f.fcsOk && decide (64 ≤ f.len.toNat) && decide (f.len.toNat ≤ 4224) && f.kind != .other && (tagOk || f.kind == .pfc)

/-- Priority of a received frame; an untagged one has 0 (log entry 56). -/
def framePrio (f : EthFrame) : Nat :=
  match f.tag with
  | some (_, p) => p.toNat
  | none => 0

/-- ETH_FRAME (R304, R306): a frame is counted; one that is filtered, or that finds the receive buffer full on a priority
other than PCP, is dropped. -/
def execEthFrame (i : Fin 4) (f : EthFrame) (full : Bool) (s : State) : Host.Outcome State Fault Refusal :=
  let pg := pgHOSTETH i.val
  .next (if hostUp s i.val then
    let s1 := add64 s pg F.HOSTETH_RX_FRAMES_LO.COUNT F.HOSTETH_RX_FRAMES_HI.COUNT 0 1
    if frameOk s i.val f && !(full && framePrio f != rd s pg F.HOSTETH_VLAN.PCP && f.kind != .pfc) then s1
    else setErr (addSat s1 pg F.HOSTETH_RX_DROP.COUNT 1) pg E.HOSTETH.DROP
  else s)

/-- The MAC address of a port. -/
def hostMac (s : State) (i : Nat) : Nat :=
  rd s (pgHOSTETH i) F.HOSTETH_MAC_LO.MAC + (rd s (pgHOSTETH i) F.HOSTETH_MAC_HI.MAC) <<< 32

/-- ARP (R304): a request for the port's configured IPv4 address is answered. -/
def execArp (i : Fin 4) (ip : BitVec 32) (s : State) : Host.Outcome State Fault Refusal :=
  .next (if ip ≠ 0 ∧ rd s (pgHOSTETH i.val) F.HOSTETH_IPV4.ADDR = ip.toNat then
    sendFrame s i.val (.arp i.val (hostMac s i.val) ip.toNat) else s)

/-- The IPv6 address of a port. -/
def hostIp6 (s : State) (i : Nat) : Nat :=
  ((List.range 4).map (fun j => (rd1 s (pgHOSTETH i) F.HOSTETH_IPV6.ADDR j) <<< (32 * j))).foldl (· + ·) 0

/-- NEIGHBOUR_SOLICITATION (R304): one for the port's configured IPv6 address is answered. -/
def execNeighbourSolicitation (i : Fin 4) (ip : BitVec 128) (s : State) : Host.Outcome State Fault Refusal :=
  .next (if ip ≠ 0 ∧ hostIp6 s i.val = ip.toNat then
    sendFrame s i.val (.neighbour i.val (hostMac s i.val) ip.toNat) else s)

/-! ## Flow control (R306) -/

/-- PFC_FRAME (R306): the pause times, in quanta of 512 bit times (1.28 ns, 52/125 PCLK), of the priorities named. -/
def execPfcFrame (i : Fin 4) (en : BitVec 8) (times : List (BitVec 16)) (s : State) : Host.Outcome State Fault Refusal :=
  let pg := pgHOSTETH i.val
  .next (if hostUp s i.val then
    let s1 := addWrap s pg F.HOSTETH_PFC_RX.COUNT 1
    let s2 := (List.range 8).foldl (fun s k =>
      if en.getLsbD k then
        let t := (times.getD k 0).toNat
        let till := if t = 0 then 0 else s.esc + 1 + (52 * t + 124) / 125
        updHost s (fun h => { h with paused := tabPut 0 h.paused (pauseKey i.val k) till })
      else s) s1
    flushTx s2 i.val
  else s)

/-- Send a pause frame for the RoCE priority. -/
def sendPause (s : State) (i quanta : Nat) : State :=
  let pg := pgHOSTETH i
  addWrap (putFrame i s (.pause i (rd s pg F.HOSTETH_VLAN.PCP) quanta)) pg F.HOSTETH_PFC_TX.COUNT 1

/-- Whether a pause frame is due: free space below XOFF with none in force, or below XON 80 µs (26,000 PCLK) after the
last. -/
def pauseDue (s : State) (i free : Nat) : Bool :=
  let pg := pgHOSTETH i
  let t := tabGet 0 s.host.xoffAt i
  hostUp s i && rdB s pg F.HOSTETH_CFG.PFC_EN
    && (if t = 0 then decide (free < rd s pg F.HOSTETH_PFC.XOFF)
        else decide (free < rd s pg F.HOSTETH_PFC.XON) && decide (t + 26000 ≤ s.esc + 1))

/-- A pause frame where one is due. -/
def pauseAt (s : State) (i free : Nat) : State :=
  let s1 := updHost s (fun h => { h with rxFree := tabPut 0 h.rxFree i free })
  if pauseDue s i free then sendPause (updHost s1 (fun h => { h with xoffAt := tabPut 0 h.xoffAt i (s.esc + 1) })) i 0xFFFF else s1

/-- PFC_XOFF (R306): free receive space, in KiB, has fallen. -/
def execPfcXoff (i : Fin 4) (free : BitVec 12) (s : State) : Host.Outcome State Fault Refusal :=
  .next (pauseAt s i.val free.toNat)

/-- PFC_XON (R306): free receive space, in KiB, has risen. -/
def execPfcXon (i : Fin 4) (free : BitVec 12) (s : State) : Host.Outcome State Fault Refusal :=
  let pg := pgHOSTETH i.val
  let s1 := updHost s (fun h => { h with rxFree := tabPut 0 h.rxFree i.val free.toNat })
  .next (if hostUp s i.val ∧ rdB s pg F.HOSTETH_CFG.PFC_EN ∧ tabGet 0 s.host.xoffAt i.val ≠ 0
      ∧ rd s pg F.HOSTETH_PFC.XON < free.toNat then
    sendPause (updHost s1 (fun h => { h with xoffAt := tabPut 0 h.xoffAt i.val 0 })) i.val 0
  else s1)

/-! ## Queue pairs: packets received (R310 to R312) -/

/-- A packet for a queue pair that is not in RTS is dropped (R310). -/
def badQp (s : State) : State := setErr (addSat s pgROCE F.ROCE_BADQP.COUNT 1) pgROCE E.ROCE.BADQP

/-- The queue pair in RTS that a QPN names. -/
def rtsQp (s : State) (qpn : Nat) : Option Nat :=
  if 0x100 ≤ qpn ∧ qpn < 0x900 ∧ (qpOf s (qpn - 0x100)).state = 1 then some (qpn - 0x100) else none

/-- A packet marked CE: a CNP, at most one per GAP microseconds (R311). -/
def markCe (s : State) (i : Nat) (ce : Bool) : State :=
  let q := qpOf s i
  if ce && (q.cnpAt == 0 || decide (q.cnpAt + 325 * rd s pgROCE F.ROCE_CNP_GAP.GAP ≤ s.esc + 1)) then
    addWrap (sendFrame (setQp s i { q with cnpAt := s.esc + 1 }) q.port (.cnp i)) pgROCE F.ROCE_CNP_TX.COUNT 1
  else s

/-- Receive a packet. -/
def onPacket (s : State) (p : RocePkt) (f : State → Nat → State) : State :=
  if hostUp s p.port.val then
    match rtsQp s p.qpn.toNat with
    | some i => f (markCe s i p.ce) i
    | none => badQp s
  else s

/-- Syndromes of NAKs (log entry 57). -/
def nakPsn : Nat := 0x60
def nakReq : Nat := 0x61
def nakAccess : Nat := 0x62
def nakOper : Nat := 0x63

/-- Send a NAK (R312): every one but PSN Sequence Error, which carries the expected PSN, moves the queue pair to ERROR. -/
def sendNak (s : State) (i psn synd : Nat) : State :=
  let q := qpOf s i
  let s1 := addSat (sendFrame s q.port (.nak i psn synd)) pgROCE F.ROCE_NAK_TX.COUNT 1
  if synd = nakPsn then setQp s1 i { q with synd := synd, dir := false }
  else setErr (qpError s1 i { q with synd := synd, dir := false }) pgROCE E.ROCE.NAK

/-- A PSN against the expected one: expected, ahead, or behind (24-bit counts). -/
def psnClass (q : Qp) (psn : Nat) : Nat :=
  let d := (psn + 2 ^ 24 - q.rpsn) % 2 ^ 24
  if d = 0 then 0 else if d < 2 ^ 23 then 1 else 2

/-- Bytes of a packet at a queue pair's MTU; the reserved value acts as 4,096 (log entry 6). -/
def mtuBytes (q : Qp) : Nat := if q.mtu = 0 then 1024 else if q.mtu = 1 then 2048 else 4096

/-- Whether an access passes R314, R315, R216 and R444. -/
def accessOk (s : State) (i : Nat) (write : Bool) (key va len : Nat) : Bool :=
  let q := qpOf s i
  let k := key % 64
  let m := mrOf s k
  let a := 4096 * m.base + va
  m.valid && m.tag == key / 64 && (if write then m.w else m.r) && decide (va + len ≤ 4096 * m.size)
    && (if k = 0 then q.reg && va % 4 == 0 && len % 4 == 0 && decide (len ≤ 4096)
        else if k = 1 then q.db
        else hbmBacked s a len && addrReady s a && addrReady s (a + len - 1))

/-! ## Doorbells (R317, R318) -/

/-- A doorbell that R317 ignores. -/
def rejectDb (s : State) (q : Nat) : State :=
  setErr (addSat1 s pgCMDQ F.CMDQ_STAT.DB_REJ q 1) pgCMDQ (E.CMDQ.DB_REJ + q)

/-- SQ_DB: the count of commands posted. -/
def sqDoorbell (s : State) (q qp v : Nat) : State :=
  if rd1 s pgCMDQ F.CMDQ_CTRL.QP q ≠ qp then rejectDb s q
  else if cntSub v (sqPi s q) ≤ queueSize s q ∧ cntSub v (sqCi s q) ≤ queueSize s q then
    wr1 s pgCMDQ F.CMDQ_SQ_PI.PI q v
  else setErr s pgCMDQ (E.CMDQ.DB_REJ + q)

/-- CQ_DB: the count of completion records consumed. -/
def cqDoorbell (s : State) (q qp v : Nat) : State :=
  if rd1 s pgCMDQ F.CMDQ_CTRL.QP q ≠ qp then rejectDb s q
  else if cntSub v (cqCi s q) ≤ cntSub (cqPi s q) (cqCi s q) then wr1 s pgCMDQ F.CMDQ_CQ_CI.CI q v
  else setErr s pgCMDQ (E.CMDQ.DB_REJ + q)

/-- SQ_DB. -/
def execSqDb (q : Fin 4) (qp : Fin 2048) (v : BitVec 32) (s : State) : Host.Outcome State Fault Refusal :=
  .next (if pageClosed s pgCMDQ then s else sqDoorbell s q.val qp.val v.toNat)

/-- CQ_DB. -/
def execCqDb (q : Fin 4) (qp : Fin 2048) (v : BitVec 32) (s : State) : Host.Outcome State Fault Refusal :=
  .next (if pageClosed s pgCMDQ then s else cqDoorbell s q.val qp.val v.toNat)

/-- A write to the doorbell page; one that is not exactly a doorbell is ignored and counted on the queue whose 16 bytes it
meets (log entry 58). -/
def doorbellWrite (s : State) (qp off : Nat) (bs : List Byte) : State :=
  let q := off / 16
  if 4 ≤ q then s
  else if bs.length = 4 ∧ off % 16 = 0 then sqDoorbell s q qp (bytesToNat bs)
  else if bs.length = 4 ∧ off % 16 = 4 then cqDoorbell s q qp (bytesToNat bs)
  else rejectDb s q

/-! ## RDMA (R309, R312, R314 to R316) -/

/-- A queue pair as the source of a register access. -/
def qpSrc (i : Nat) : Src := .roce (Fin.ofNat 2048 i)

/-- Write words to the register window in ascending order (R315). -/
def windowWrite (src : Src) : Nat → State → Nat → List Byte → State
  | 0, s, _, _ => s
  | k + 1, s, a, bs =>
    windowWrite src k (regWrite s src (a / 4096 % 16384) (a % 4096) (bytesToNat (bs.take 4))) (a + 4) (bs.drop 4)

/-- Read words of the register window in ascending order (R315). -/
def windowRead (src : Src) : Nat → State → Nat → List Byte × State
  | 0, s, _ => ([], s)
  | k + 1, s, a =>
    let (v, s1) := regRead s src (a / 4096 % 16384) (a % 4096)
    let (bs, s2) := windowRead src k s1 (a + 4)
    (natToBytes 4 v.toNat ++ bs, s2)

/-- Apply the data of an RDMA WRITE packet. -/
def rdmaApply (s : State) (i key va : Nat) (bs : List Byte) : State :=
  let k := key % 64
  if k = 0 then windowWrite (qpSrc i) (bs.length / 4) s va bs
  else if k = 1 then doorbellWrite s i va bs
  else hbmWrite s (4096 * (mrOf s k).base + va) bs { kind := 2 }

/-- One packet of an RDMA WRITE at a queue pair. -/
def writePkt (s : State) (p : RocePkt) (i : Nat) : State :=
  let q := qpOf s i
  let n := p.data.length
  let (key, va, left) := if p.first then (p.rkey.toNat, p.va.toNat, p.len.toNat) else (q.wrKey, q.wrAddr, q.wrLeft)
  match psnClass q p.psn.toNat with
  | 1 => sendNak s i q.rpsn nakPsn
  | 2 => if p.last || p.ackReq then sendFrame s q.port (.ack i p.psn.toNat) else s
  | _ =>
    if p.first = q.wrOpen ∨ (if p.last then n ≠ left ∨ mtuBytes q < n else n ≠ mtuBytes q ∨ left ≤ n) then
      sendNak s i p.psn.toNat nakReq
    else if p.first && !accessOk s i true key va left then sendNak s i p.psn.toNat nakAccess
    else
      let q1 := { q with rpsn := (q.rpsn + 1) % 2 ^ 24, wrOpen := !p.last, wrKey := key, wrAddr := va + n, wrLeft := left - n }
      let s1 := rdmaApply (setQp s i q1) i key va p.data
      if (p.last || p.ackReq) && (qpOf s1 i).state == 1 then sendFrame s1 q.port (.ack i p.psn.toNat) else s1

/-- RDMA_WRITE (R316). -/
def execRdmaWrite (p : RocePkt) (s : State) : Host.Outcome State Fault Refusal := .next (onPacket s p (fun s i => writePkt s p i))

/-- The data of a response packet, and whether it holds an uncorrectable burst. A doorbell has no readable value: its bytes
are free (log entry 58). -/
def rdmaFetch (s : State) (i key va n : Nat) : List Byte × Bool × State :=
  let k := key % 64
  if k = 0 then
    let (bs, s1) := windowRead (qpSrc i) (n / 4) s va
    (bs, false, s1)
  else if k = 1 then
    let (bs, s1) := freeBytes s n
    (bs, false, s1)
  else hbmRead s (4096 * (mrOf s k).base + va) n

/-- The response packets of an RDMA READ: each takes its data when it is formed (R316); one that would hold an
uncorrectable burst is a NAK instead (R312). -/
def readResponses (i key psn mtu : Nat) : Nat → State → Nat → Nat → Nat → State
  | 0, s, _, _, _ => s
  | k + 1, s, j, va, left =>
    let n := min mtu left
    let (bs, ue, s1) := rdmaFetch s i key va n
    let at_ := (psn + j) % 2 ^ 24
    if ue then sendNak s1 i at_ nakOper
    else readResponses i key psn mtu k (sendFrame s1 (qpOf s1 i).port (.readResp i at_ bs)) (j + 1) (va + n) (left - n)

/-- An RDMA READ request at a queue pair: its responses take as many PSNs as it has packets. -/
def readPkt (s : State) (p : RocePkt) (i : Nat) : State :=
  let q := qpOf s i
  let psn := p.psn.toNat
  let mtu := mtuBytes q
  let npk := max 1 ((p.len.toNat + mtu - 1) / mtu)
  let c := psnClass q psn
  if c = 1 then sendNak s i q.rpsn nakPsn
  else if !accessOk s i false p.rkey.toNat p.va.toNat p.len.toNat then sendNak s i psn nakAccess
  else
    let s1 := if c = 0 then setQp s i { q with rpsn := (q.rpsn + npk) % 2 ^ 24 } else s
    readResponses i p.rkey.toNat psn mtu npk s1 0 p.va.toNat p.len.toNat

/-- RDMA_READ (R316). -/
def execRdmaRead (p : RocePkt) (s : State) : Host.Outcome State Fault Refusal := .next (onPacket s p (fun s i => readPkt s p i))

/-- RECEIVED_SEND (R309): a SEND, or an opcode outside the subset, is answered NAK Invalid Request. -/
def execReceivedSend (p : RocePkt) (s : State) : Host.Outcome State Fault Refusal :=
  .next (onPacket s p (fun s i =>
    if psnClass (qpOf s i) p.psn.toNat = 1 then sendNak s i (qpOf s i).rpsn nakPsn else sendNak s i p.psn.toNat nakReq))

/-! ## Congestion (R311) -/

/-- Reduce a rate that is a multiple of 16. -/
def rateNorm : Nat → Nat → Nat × Nat
  | r, 0 => (r, 0)
  | r, e + 1 => if r % 16 = 0 then rateNorm (r / 16) e else (r, e + 1)

/-- CNP (R311): Rq becomes max(Rq × (1 − CUT/16), 1), and no further cut is made within 50 µs, 16,250 PCLK. -/
def execCnp (qpn : BitVec 24) (s : State) : Host.Outcome State Fault Refusal :=
  .next (match rtsQp s qpn.toNat with
    | none => badQp s
    | some i =>
      let q := qpOf s i
      let s1 := addWrap s pgROCE F.ROCE_CNP_RX.COUNT 1
      if q.cutAt = 0 ∨ q.cutAt + 16250 ≤ s.esc + 1 then
        let r := q.rate * (16 - rd s pgROCE F.ROCE_CC.CUT)
        let (a, e) := if r < 16 ^ (q.rateExp + 1) then (1, 0) else rateNorm r (q.rateExp + 1)
        setQp s1 i { q with rate := a, rateExp := e, cutAt := s.esc + 1 }
      else s1)

/-- RATE_INTERVAL (R311): INTERVAL microseconds without a cut set Rq to min(Rq + STEP, 400). -/
def execRateInterval (i : Fin 2048) (s : State) : Host.Outcome State Fault Refusal :=
  let q := qpOf s i.val
  .next (if max q.cutAt q.raiseAt + 325 * rd s pgROCE F.ROCE_CC.INTERVAL ≤ s.esc + 1 then
    let r := q.rate + rd s pgROCE F.ROCE_CC.STEP * 16 ^ q.rateExp
    let q1 := if 400 * 16 ^ q.rateExp ≤ r then { q with rate := 400, rateExp := 0 } else { q with rate := r }
    setQp s i.val { q1 with raiseAt := s.esc + 1 }
  else s)

/-! ## SENDs (R313, R322) -/

/-- Send a SEND on a queue pair in RTS. -/
def sendOn (s : State) (i : Nat) (bs : List Byte) : State :=
  let q := qpOf s i
  setQp (sendFrame s q.port (.send i q.spsn bs)) i
    { q with spsn := (q.spsn + 1) % 2 ^ 24, sent := q.sent ++ [(q.spsn, bs)],
             sentAt := if q.sent.isEmpty then s.esc + 1 else q.sentAt }

/-- A notification on a queue's NQP; one not in RTS is skipped (R322). -/
def notifyOn (s : State) (q : Nat) (bs : List Byte) : State :=
  let i := rd1 s pgCMDQ F.CMDQ_CTRL.NQP q
  if (qpOf s i).state = 1 then sendOn s i bs
  else setErr (addSat s pgROCE F.ROCE_NOTIFY_SKIP.COUNT 1) pgROCE E.ROCE.NOTIFY_SKIP

/-- Retransmit unacknowledged SENDs go-back-N (R313). -/
def resend (s : State) (i : Nat) (q : Qp) : State :=
  let s1 := q.sent.foldl (fun s x => sendFrame s q.port (.send i x.1 x.2)) s
  setQp (addSat s1 pgROCE F.ROCE_RETRANS.COUNT q.sent.length) i { q with sentAt := s.esc + 1 }

/-- SENDs after those that a PSN acknowledges. -/
def unacked (q : Qp) (psn : Nat) : List (Nat × List Byte) :=
  q.sent.filter (fun x => decide (0 < (x.1 + 2 ^ 24 - psn) % 2 ^ 24) && decide ((x.1 + 2 ^ 24 - psn) % 2 ^ 24 < 2 ^ 23))

/-- ACK (R312, R313): an ACK, an RNR NAK, a NAK PSN Sequence Error, or another NAK, by its syndrome (log entry 57). -/
def execAck (qpn psn : BitVec 24) (synd : BitVec 8) (s : State) : Host.Outcome State Fault Refusal :=
  .next (match rtsQp s qpn.toNat with
    | none => badQp s
    | some i =>
      let q := qpOf s i
      let before := (psn.toNat + 2 ^ 24 - 1) % 2 ^ 24
      let kind := synd.toNat / 32 % 4
      if kind = 0 then
        let xs := unacked q psn.toNat
        setQp s i { q with sent := xs, tries := 0, rnrTries := 0, sentAt := if xs.isEmpty then 0 else s.esc + 1 }
      else
        let q1 := { q with sent := unacked q before, synd := synd.toNat, dir := true }
        if kind = 1 then
          if q.rnr ≠ 7 ∧ q.rnr ≤ q.rnrTries then qpError s i q1 else resend s i { q1 with rnrTries := q.rnrTries + 1 }
        else if synd.toNat = nakPsn then
          if q.retry ≤ q.tries then qpError s i q1 else resend s i { q1 with tries := q.tries + 1 }
        else qpError s i q1)

/-- RETRANSMIT_TIMEOUT (R313): after 4.096 µs × 2^TIMEOUT, at most RETRY attempts. -/
def execRetransmitTimeout (i : Fin 2048) (s : State) : Host.Outcome State Fault Refusal :=
  let q := qpOf s i.val
  .next (if q.state = 1 ∧ !q.sent.isEmpty ∧ 13312 * 2 ^ q.timeout ≤ 10 * (s.esc + 1 - q.sentAt) then
    if q.retry ≤ q.tries then qpError s i.val q else resend s i.val { q with tries := q.tries + 1 }
  else s)

/-! ## Contexts (R310, R314) -/

/-- QP_WRITE (R310): ROCE_QP_SEL written with IDX and WRITE. -/
def execQpWrite (i : Fin 2048) (s : State) : Host.Outcome State Fault Refusal :=
  .next (onPage s pgROCE 0x108 (fun s => qpWriteAt (wr s pgROCE F.ROCE_QP_SEL.IDX i.val) i.val))

/-- MR_WRITE (R314): ROCE_MR_SEL written with IDX and WRITE. -/
def execMrWrite (i : Fin 64) (s : State) : Host.Outcome State Fault Refusal :=
  .next (onPage s pgROCE 0x140 (fun s => mrWriteAt (wr s pgROCE F.ROCE_MR_SEL.IDX i.val) i.val))

/-! ## Command queues (R322 to R327) -/

/-- Whether an opcode is listed in R326. -/
def opcListed (o : Nat) : Bool := [0x00, 0x01, 0x02, 0x03, 0x10, 0x11, 0x12, 0x20, 0x21, 0x22, 0x23, 0x24, 0x25, 0x26,
  0x30, 0x31, 0x32, 0x33, 0x34].contains o

/-- Whether a queue takes a listed opcode (R326); 4 stands for an I3C COMMAND message, which takes the MGMT set. -/
def opcQueue (o q : Nat) : Bool :=
  if o = 0x00 then true
  else if o = 0x01 ∨ o = 0x02 then q == 0 || q == 1
  else if o = 0x03 then q == 0
  else if o < 0x20 then q == 0 || q == 2 || q == 4
  else if o < 0x30 then q == 2 || q == 4
  else q == 3

/-- Start a command: BAD_OPCODE and BAD_QUEUE are its status at once. -/
def startCmd (s : State) (q n bytes : Nat) : State :=
  let o := byteField bytes 0 1
  let bad : Option (Nat × Nat × Nat) :=
    if !opcListed o then some (0x20, 0, 0) else if !opcQueue o q then some (0x21, 0, 0) else none
  updHost s (fun h => { h with cmds := h.cmds ++ [{ q := q, n := n, bytes := bytes, done := bad }] })

/-- Address of slot `k` of a queue's command ring, and of its completion ring. -/
def sqSlot (s : State) (q k : Nat) : Nat := 4096 * rd1 s pgCMDQ F.CMDQ_SQ_BASE.BASE q + 64 * (k % queueSize s q)
def cqSlot (s : State) (q c : Nat) : Nat := 4096 * rd1 s pgCMDQ F.CMDQ_CQ_BASE.BASE q + 32 * (c % queueSize s q)

/-- Whether both rings of a queue lie in ready domains (R444). -/
def ringsReady (s : State) (q : Nat) : Bool := addrReady s (sqSlot s q 0) && addrReady s (cqSlot s q 0)

/-- COMMAND_FETCH (R323): the next command, when one is posted, a completion slot is free, no RESET waits, and, under FENCE,
every earlier command has completed. -/
def execCommandFetch (q : Fin 4) (s : State) : Host.Outcome State Fault Refusal :=
  let n := sqCi s q.val
  let a := sqSlot s q.val n
  .next (if !pageClosed s pgCMDQ && queueEn s q.val && n != sqPi s q.val && decide (0 < freeSlots s q.val) && ringsReady s q.val
      && !s.host.resets.contains q.val
      && !((bytesToNat (hbmPeek s a 64)).testBit 9 && !(startedCmds s q.val).isEmpty) then
    let (bs, ue, s1) := hbmRead s a 64
    let s2 := wr1 s1 pgCMDQ F.CMDQ_SQ_CI.CI q.val ((n + 1) % 2 ^ 32)
    let s3 := startCmd s2 q.val n (bytesToNat bs)
    if !hbmBacked s a 64 then finishCmd s3 q.val n 5 0 0 else if ue then finishCmd s3 q.val n 6 0 0 else s3
  else s)

/-- A completion record (R325). -/
def recordBytes (tag slot opc q : Nat) (phase : Bool) (status detail result : Nat) : List Byte :=
  natToBytes 8 (packBytes [(0, tag), (4, slot), (6, opc), (7, q + 128 * bit phase)])
    ++ natToBytes 4 (packBytes [(0, status), (1, detail)]) ++ zeros 4 ++ natToBytes 16 result

/-- Write a record to the next slot of a queue's completion ring. -/
def putRecord (s : State) (q tag slot opc status detail result : Nat) (note : Bool) : State :=
  let c := cqPi s q
  let bs := recordBytes tag slot opc q (c / queueSize s q % 2 == 0) status detail result
  let s1 := wr1 (hbmWriteOwn s (cqSlot s q c) bs) pgCMDQ F.CMDQ_CQ_PI.PI q ((c + 1) % 2 ^ 32)
  let s2 := if status = 0 then s1 else wr1 s1 pgCMDQ F.CMDQ_STAT.LAST q status
  if note && rd1 s pgCMDQ F.CMDQ_CTRL.NOTIFY_EN q != 0 then notifyOn s2 q bs else s2

/-- Forget a command whose record has been written. -/
def dropCmd (s : State) (q n : Nat) : State :=
  updHost s (fun h => { h with cmds := h.cmds.filter (fun c => !(c.q == q && c.n == n && c.done.isSome)) })

/-- COMMAND_COMPLETE (R321, R325): the record of a completed command; the answer of an I3C message (R408), in whose record
SLOT and PHASE are free values (log entry 59). -/
def execCommandComplete (q : Fin 5) (n : BitVec 32) (s : State) : Host.Outcome State Fault Refusal :=
  .next (match s.host.cmds.find? (fun c => c.q == q.val && c.n == n.toNat && c.done.isSome) with
    | none => s
    | some c =>
      let (st, d, r) := c.done.getD (0, 0, 0)
      let tag := byteField c.bytes 4 4
      let opc := byteField c.bytes 0 1
      if q.val < 4 then
        if ringsReady s q.val then
          settleReset (putRecord (dropCmd s q.val n.toNat) q.val tag (n.toNat % queueSize s q.val) opc st d r (c.bytes.testBit 8)) q.val
        else s
      else
        let w := (Config.freeWord s.free).toNat
        let bs := recordBytes tag (w % 65536) opc 2 (w.testBit 16) st d r
        drawFree (reply (dropCmd s q.val n.toNat) (.i3c (if c.stage = 2 then 7 else 4) n.toNat) 0 0 0 bs))

/-- EVENT (R328): the oldest event that waits is recorded on the MGMT ring; events lost before are then told by an
EVENT_LOST record. -/
def execEvent (s : State) : Host.Outcome State Fault Refusal :=
  .next (match s.events with
    | [] => s
    | e :: es =>
      if !pageClosed s pgCMDQ && queueEn s 2 && decide (0 < freeSlots s 2) && ringsReady s 2 then
        let s1 := putRecord { s with events := es } 2 e.seq 0xFFFF 0xFF e.status e.detail e.result true
        if s.host.evLost = 0 then s1
        else raiseEvent (updHost s1 (fun h => { h with evLost := 0 })) 0x0F 0 0 [(4, s.host.evLost)]
      else s)

/-- QUEUE_RESET (R327). -/
def execQueueReset (q : Fin 4) (s : State) : Host.Outcome State Fault Refusal :=
  .next (onPage s pgCMDQ (0x100 + 0x40 * q.val) (fun s => queueResetAt s q.val))

/-- QUEUE_ENABLE (R322). -/
def execQueueEnable (q : Fin 4) (s : State) : Host.Outcome State Fault Refusal :=
  .next (onPage s pgCMDQ (0x100 + 0x40 * q.val) (fun s => queueEnableAt s q.val))

end Sys2Proof.Machine
end

