-- ==== Sys2Proof/Machine/Passport.lean ====
section
/-!
DEFINITION. The messages and transitions of Passport (R420, R424, R427 to R436), and how a message reaches the Innkeeper or
Passport (R407, R408, R427).
-/
namespace Sys2Proof.Machine

/-! ## Messages (R407, R408) -/

/-- Whether the I3C target answers: enabled, with an address, and the Innkeeper runs (R405, R407). -/
def i3cUp (s : State) : Bool :=
  innkRuns s && rdB s pgINNK F.INNK_I3C.EN && rdB s pgINNK F.INNK_I3C.DVALID

/-- Whether a command of the MGMT set that arrived earlier has still to run (R408). -/
def mgmtWaits (s : State) : Bool :=
  s.host.cmds.any (fun c => (c.q == 2 || c.q == 4) && c.done.isNone && c.stage == 0)

/-- The fields of a message: TYPE, TAG, body length, and the bytes after the header. -/
def msgFields (d : List Byte) : Nat × Nat × Nat × List Byte :=
  let h := bytesToNat (d.take 8)
  (byteField h 0 1, byteField h 2 2, byteField h 4 2, d.drop 8)

/-- The first Craul MGMT message of an operation, when it is a request of this type. -/
def fabricMsg (s : State) (op ty : Nat) : Option (Msg × State) :=
  match takeMgmt s op with
  | some (m, s1) =>
    let (t, _, _, _) := msgFields m.data
    if t = ty ∧ !(bytesToNat ((m.data.drop 1).take 1)).testBit 0 then some (m, s1) else none
  | none => none

/-- Types that peers may not send (R408, R427). -/
def fabricDenied (ty : Nat) : Bool := [0x03, 0x04, 0x06, 0x07, 0x15, 0x16, 0x17, 0x18].contains ty

/-- Serve a fabric message: DENIED where its type may not come from a peer, BAD_ARG where its length breaks R408. -/
def serveFabric (s : State) (m : Msg) (op : Nat) (f : State → Reply → List Byte → State) : State :=
  let (ty, tag, n, rest) := msgFields m.data
  let who : Reply := .fabric m.src (op + 1) ty tag
  if fabricDenied ty || (decide (ty < 0x10) && !rdB s pgINNK F.INNK_CFG.FAB_MGMT) then reply s who 3 0 0 []
  else if 4088 < n ∨ rest.length < n then reply s who 0x22 0 0 []
  else f s who (rest.take n)

/-- A message of a type, by the path on which it comes (R407, R427): PSP_MSG is served without the Innkeeper; everything else
waits until it runs and has run what arrived before (R408). -/
def onMsg (s : State) (v : Via) (ty : Nat) (f : State → Reply → List Byte → State) : State :=
  match v with
  | .i3c tag body =>
    if i3cUp s && !mgmtWaits s && !s.host.cmds.any (fun c => c.q == 4 && c.n == tag.toNat) then
      if 4088 < body.length then reply s (.i3c ty tag.toNat) 0x22 0 0 [] else f s (.i3c ty tag.toNat) body
    else s
  | .fabric =>
    match (if innkRuns s && !mgmtWaits s then fabricMsg s 0xC1 ty else none) with
    | some (m, s1) => serveFabric s1 m 0xC1 f
    | none =>
      match (if 0x10 ≤ ty then fabricMsg s 0xD0 ty else none) with
      | some (m, s1) => serveFabric s1 m 0xD0 f
      | none => s

/-! ## Passport messages (R427) -/

/-- Passport answers a request whose body must be empty. -/
def onEmpty (s : State) (who : Reply) (body : List Byte) (f : State → State) : State :=
  if body.isEmpty then f s else reply s who 0x22 0 0 []

/-- Little-endian words as bytes. -/
def wordBytes (ws : List Nat) : List Byte := ws.flatMap (natToBytes 4)

/-- GET_INFO. -/
def msgGetInfo (s : State) (who : Reply) (body : List Byte) : State :=
  onEmpty s who body (fun s =>
    reply s who 0 0 0 (wordBytes ([0x100, 0x104, 0x10C, 0x110, 0x114, 0x118].map (regView s pgSEC))))

/-- GET_CERT; certificates are blank once the key area is erased. -/
def msgGetCert (s : State) (who : Reply) (body : List Byte) : State :=
  let b := bytesToNat body
  let alg := byteField b 0 1
  let cert := byteField b 1 1
  let o := byteField b 4 4
  let n := byteField b 8 2
  if body.length ≠ 10 ∨ 1 < alg ∨ 1 < cert ∨ n = 0 ∨ 4080 < n then reply s who 0x22 0 0 []
  else
    let total := if s.psp.keyErased then 0 else Config.certLen alg cert
    let bs := (List.range (min n (total - o))).map (fun i => Config.certByte alg cert (o + i))
    reply s who 0 0 0 (natToBytes 4 total ++ bs)

/-- An entry of the measurement log (R424). -/
def measEntry (e : Nat × Nat × Nat × Nat × Nat) : List Byte :=
  natToBytes 4 (packBytes [(0, e.1), (1, e.2.1)]) ++ natToBytes 4 e.2.2.1 ++ natToBytes 8 e.2.2.2.1 ++ natToBytes 48 e.2.2.2.2

/-- GET_MEAS_LOG. -/
def msgGetMeasLog (s : State) (who : Reply) (body : List Byte) : State :=
  let b := bytesToNat body
  let first := byteField b 0 2
  let n := byteField b 2 1
  if body.length ≠ 3 ∨ n = 0 ∨ 63 < n then reply s who 0x22 0 0 []
  else
    let es := (s.psp.log.drop first).take n
    reply s who 0 0 0 (natToBytes 8 (packBytes [(0, s.psp.log.length), (2, bit s.psp.overflow)]) ++ es.flatMap measEntry)

/-- Bytes 0 to 511 of a report (R428). -/
def reportBytes (s : State) (nonceBytes user : List Byte) : List Byte :=
  let slot := activeSlot s
  natToBytes 8 (0x00010000 + 512 <<< 32) ++ natToBytes 8 (uid s) ++ nonceBytes ++ natToBytes 8 s.esc
    ++ natToBytes 8 (packBytes [(0, rd s pgINNK F.INNK_BOOTCNT.COUNT), (4, lifecycle s), (5, level s),
        (6, rd s pgSEC F.SEC_DEBUG.MAX), (7, modState s)])
    ++ natToBytes 8 (packBytes [(0, arb s),
        (1, rd s pgSEC F.SEC_KEYSLOT.FUSED + rd s pgSEC F.SEC_KEYSLOT.REVOKED <<< 4), (2, rd s pgSEC F.SEC_KEYSLOT.FWSLOT),
        (3, bit (rdB s pgINNK F.INNK_STATE.ROLLED) + bit (secLocked s) <<< 1 + bit s.psp.overflow <<< 2), (4, ownId s)])
    ++ natToBytes 8 (((compOf s slot 1).map (·.ver)).getD 0)
    ++ (List.range 7).flatMap (fun i => natToBytes 48 (measOf s i)) ++ user ++ zeros 32

/-- GET_REPORT. -/
def msgGetReport (s : State) (who : Reply) (body : List Byte) : State :=
  if body.length ≠ 96 then reply s who 0x22 0 0 []
  else if !rdB s pgSEC F.SEC_LIFECYCLE.ID_READY || !(lifecycle s == 1 || lifecycle s == 2) then reply s who 3 0 0 []
  else
    let m := reportBytes s (body.take 32) (body.drop 32)
    let ed := (List.range 64).map (Config.edSig m)
    let ml := (List.range 3309).map (Config.mldsaSig s.free m)
    reply (drawFree s) who 0 0 0 (m ++ ed ++ ml)

/-- GET_NONCE. -/
def msgGetNonce (s : State) (who : Reply) (body : List Byte) : State :=
  onEmpty s who body (fun s => reply s who 0 0 0 (natToBytes 32 (nonce s)))

/-- A token for an operation of KIND `kind` (R432, R436): BUSY, rejected, or accepted and acted on. -/
def onToken (s : State) (who : Reply) (kind : Nat) (t : List Byte) (f : State → State) : State :=
  if secBusy s then reply s who 0x23 0 0 []
  else match tokenFault s kind t with
    | some r => rejectToken s (bytesToNat ((t.drop 8).take 1)) (tokenTarget t) r who
    | none => f (acceptToken s (tokenSlot t))

/-- DEBUG_TOKEN (R433). -/
def msgDebugToken (s : State) (who : Reply) (body : List Byte) : State :=
  onToken s who 1 body (fun s => openLevel s (tokenTarget body) (tokenSlot body) who)

/-- LIFECYCLE_TOKEN (R430 step 1). -/
def msgLifecycleToken (s : State) (who : Reply) (body : List Byte) : State :=
  onToken s who 2 body (fun s => startZero s 3 (some (tokenTarget body)) (tokenSlot body) who)

/-- REVOKE_TOKEN (R420): the slot's fuse is blown. -/
def msgRevokeToken (s : State) (who : Reply) (body : List Byte) : State :=
  onToken s who 3 body (fun s =>
    let k := tokenTarget body
    let s1 := wr s pgSEC F.SEC_KEYSLOT.REVOKED (rd s pgSEC F.SEC_KEYSLOT.REVOKED ||| 2 ^ k)
    reply (logSec (setErr s1 pgSEC E.SEC.REVOKE) 0x05 (packBytes [(0, k), (1, tokenSlot body)])) who 0 0 0 [])

/-- DEBUG_CLOSE as a message. -/
def msgDebugCloseOp (s : State) (who : Reply) (body : List Byte) : State :=
  onEmpty s who body (fun s => reply (closeDebug s) who 0 0 0 [])

/-- A Passport message of a type; another type is answered BAD_OPCODE. -/
def passportMsg (s : State) (ty : Nat) (who : Reply) (body : List Byte) : State :=
  match ty with
  | 0x10 => msgGetInfo s who body
  | 0x11 => msgGetCert s who body
  | 0x12 => msgGetMeasLog s who body
  | 0x13 => msgGetReport s who body
  | 0x14 => msgGetNonce s who body
  | 0x15 => msgDebugToken s who body
  | 0x16 => msgLifecycleToken s who body
  | 0x17 => msgRevokeToken s who body
  | 0x18 => msgDebugCloseOp s who body
  | _ => reply s who 0x20 0 0 []

/-- GET_INFO. -/
def execGetInfo (v : Via) (s : State) : Host.Outcome State Fault Refusal := .next (onMsg s v 0x10 msgGetInfo)

/-- GET_CERT. -/
def execGetCert (v : Via) (s : State) : Host.Outcome State Fault Refusal := .next (onMsg s v 0x11 msgGetCert)

/-- GET_MEAS_LOG. -/
def execGetMeasLog (v : Via) (s : State) : Host.Outcome State Fault Refusal := .next (onMsg s v 0x12 msgGetMeasLog)

/-- GET_REPORT. -/
def execGetReport (v : Via) (s : State) : Host.Outcome State Fault Refusal := .next (onMsg s v 0x13 msgGetReport)

/-- GET_NONCE. -/
def execGetNonce (v : Via) (s : State) : Host.Outcome State Fault Refusal := .next (onMsg s v 0x14 msgGetNonce)

/-- DEBUG_TOKEN. -/
def execDebugToken (v : Via) (s : State) : Host.Outcome State Fault Refusal := .next (onMsg s v 0x15 msgDebugToken)

/-- LIFECYCLE_TOKEN. -/
def execLifecycleToken (v : Via) (s : State) : Host.Outcome State Fault Refusal := .next (onMsg s v 0x16 msgLifecycleToken)

/-- REVOKE_TOKEN. -/
def execRevokeToken (v : Via) (s : State) : Host.Outcome State Fault Refusal := .next (onMsg s v 0x17 msgRevokeToken)

/-- DEBUG_CLOSE over a management path. -/
def execMsgDebugClose (v : Via) (s : State) : Host.Outcome State Fault Refusal := .next (onMsg s v 0x18 msgDebugCloseOp)

/-! ## Zeroization and lifecycle (R430, R434, R436) -/

/-- Steps 2 to 4 of a lifecycle transition (R430). -/
def changeLife (s : State) (t : Nat) (who : Reply) : State :=
  let old := lifecycle s
  let s1 := if t = 4 then
      updPsp (updInnk s (fun i => { i with log := [], buf := [] })) (fun p => { p with keyErased := true })
    else s
  let s2 := logSec (wr s1 pgSEC F.SEC_LIFECYCLE.STATE t) 0x04 (packBytes [(0, old), (1, t)])
  updPsp (reply (flushLog s2) who 0 0 0 []) (fun p => { p with lifeAt := s.esc + 1 })

/-- ZEROIZE (R434 steps 3 and 4, R436): the memories become zero; then the level opens, or the lifecycle transition goes on.
One that a forced P3 interrupted finishes once the dies are powered again. -/
def execZeroize (s : State) : Host.Outcome State Fault Refusal :=
  .next (match s.psp.zero, s.psp.pendZero with
    | some z, _ =>
      if z.level = 3 ∧ !linksClosed s then s
      else
        let s1 := wr (zeroMemories s z.ranges) pgSEC F.SEC_DEBUG.ZERO_BUSY 0
        let s2 := logSec (setErr (updPsp s1 (fun p => { p with zero := none })) pgSEC E.SEC.ZERO_DONE) 0x03
          (packBytes [(0, z.life.getD z.level), (1, 1)])
        match z.life with
        | some t => changeLife s2 t z.who
        | none => reply (setLevel s2 z.level z.tslot) z.who 0 0 0 []
    | none, some z =>
      if diesOn s ∧ !rdB s pgPWR F.PWR_MODSTATE.BUSY then
        let s1 := wr (zeroMemories s z.ranges) pgSEC F.SEC_DEBUG.ZERO_PEND 0
        logSec (setErr (updPsp s1 (fun p => { p with pendZero := none })) pgSEC E.SEC.ZERO_DONE) 0x03
          (packBytes [(0, z.life.getD z.level), (1, 3)])
      else s
    | none, none => s)

/-- LIFECYCLE_RESET (R430 step 4): 100 ms, 32,500,000 PCLK, after the response. -/
def execLifecycleReset (s : State) : Host.Outcome State Fault Refusal :=
  .next (if s.psp.lifeAt ≠ 0 ∧ s.psp.lifeAt + 32500000 ≤ s.esc + 1 then moduleReset s else s)

end Sys2Proof.Machine
end

