-- ==== Sys2Proof/Machine/HostCmd.lean ====
section
/-!
DEFINITION. The commands of the command set of R326 other than those of jobs: memory, information, power, updates, the log,
attestation, removal and debug. The operand `q` is the queue, or 4 for an I3C COMMAND message, whose number is its TAG.
-/
namespace Sys2Proof.Machine

/-! ## Running (R326, R405, R408) -/

/-- Mark a started command as run: its `stage` becomes 1. -/
def markRun (s : State) (c : Cmd) : State :=
  updHost s (fun h => { h with cmds := h.cmds.map (fun x =>
    if x.q = c.q ∧ x.n = c.n ∧ x.done = none ∧ x.stage = 0 then { x with stage := 1 } else x) })

/-- Whether a MGMT command that arrived before this one has still to run: those run one at a time in order of arrival
(R408). -/
def mgmtBefore (s : State) (c : Cmd) : Bool :=
  (s.host.cmds.takeWhile (fun x => !(x.q == c.q && x.n == c.n))).any (fun x =>
    (x.q == 2 || x.q == 4) && x.done.isNone && x.stage == 0)

/-- Run a started command once, with its reply to `who`: MGMT and DEBUG commands wait while the Innkeeper is away, and MGMT
commands for those before them. -/
def runOnce (s : State) (q n opc : Nat) (ready : Cmd → Bool) (f : State → Cmd → State) : State :=
  runCmd s q n opc (fun c =>
    if c.stage ≠ 0 || (decide (2 ≤ q) && !innkRuns s) || ((q == 2 || q == 4) && mgmtBefore s c) || !ready c then s
    else f (markRun s c) c)

/-- Complete a command. -/
def endCmd (s : State) (c : Cmd) (status detail result : Nat) : State := finishCmd s c.q c.n status detail result

/-- Whether a range of HBM lies in ready domains (R444). -/
def rangeReady (s : State) (a len : Nat) : Bool := addrReady s a && addrReady s (a + len - 1)

/-- CMD_NOP. -/
def execCmdNop (q : Fin 5) (n : BitVec 32) (s : State) : Host.Outcome State Fault Refusal :=
  .next (runOnce s q.val n.toNat 0x00 (fun _ => true) (fun s c => endCmd s c 0 0 0))

/-! ## Memory (R326) -/

/-- Whether a range keeps the rules of R326: a local address and a length that are multiples of 32. -/
def rangeRule (a len : Nat) : Bool := a % 32 == 0 && len % 32 == 0 && decide (a < 2 ^ 42)

/-- Replace `k` bytes of a list from an offset. -/
def spliceBytes (bs : List Byte) (o : Nat) (xs : List Byte) : List Byte := bs.take o ++ xs ++ bs.drop (o + xs.length)

/-- COPY: overlapping ranges leave the overlap a free value (log entry 2), as an uncorrectable burst leaves the
destination (log entry 60). -/
def execCmdCopy (q : Fin 5) (n : BitVec 32) (s : State) : Host.Outcome State Fault Refusal :=
  .next (runOnce s q.val n.toNat 0x10 (fun c => rangeReady s (arg c 8 8) (arg c 24 8) && rangeReady s (arg c 16 8) (arg c 24 8))
    (fun s c =>
      let src := arg c 8 8
      let dst := arg c 16 8
      let len := arg c 24 8
      if !rangeRule src len || !rangeRule dst len then endCmd s c 0x22 0 0
      else if !hbmBacked s src len || !hbmBacked s dst len then endCmd s c 5 0 0
      else
        let (bs, ue, s1) := hbmRead s src len
        let lo := max src dst
        let hi := min src dst + len
        let k := if ue then len else hi - lo
        let (fs, s2) := freeBytes s1 k
        let s3 := hbmWriteOwn s2 dst (if ue then fs else if k = 0 then bs else spliceBytes bs (lo - dst) fs)
        endCmd s3 c (if ue then 6 else 0) 0 0))

/-- A 64-bit pattern repeated over `len` bytes. -/
def patternBytes (v len : Nat) : List Byte := (List.range (len / 8)).flatMap (fun _ => natToBytes 8 v)

/-- FILL. -/
def execFill (q : Fin 5) (n : BitVec 32) (s : State) : Host.Outcome State Fault Refusal :=
  .next (runOnce s q.val n.toNat 0x11 (fun c => rangeReady s (arg c 8 8) (arg c 16 8)) (fun s c =>
    let dst := arg c 8 8
    let len := arg c 16 8
    if !rangeRule dst len then endCmd s c 0x22 0 0
    else if !hbmBacked s dst len then endCmd s c 5 0 0
    else endCmd (hbmWriteOwn s dst (patternBytes (arg c 24 8) len)) c 0 0 0))

/-- CRC. -/
def execCrc (q : Fin 5) (n : BitVec 32) (s : State) : Host.Outcome State Fault Refusal :=
  .next (runOnce s q.val n.toNat 0x12 (fun c => rangeReady s (arg c 8 8) (arg c 16 8)) (fun s c =>
    let a := arg c 8 8
    let len := arg c 16 8
    if !rangeRule a len then endCmd s c 0x22 0 0
    else if !hbmBacked s a len then endCmd s c 5 0 0
    else
      let (bs, ue, s1) := hbmRead s a len
      if ue then endCmd s1 c 6 0 0 else endCmd s1 c 0 0 (crc32c bs)))

/-! ## Information and power (R326, R382, R386) -/

/-- Enabled cores (R454). -/
def enabledCores (s : State) : Nat :=
  ((List.range 256).filter (fun n => coreRole s n == 0)).length

/-- INFO. -/
def execInfo (q : Fin 5) (n : BitVec 32) (s : State) : Host.Outcome State Fault Refusal :=
  .next (runOnce s q.val n.toNat 0x20 (fun _ => true) (fun s c =>
    let gib := ((domList s).map (fun d => rd s (domPage d) F.HBM_CAP.GIB)).foldl (· + ·) 0
    endCmd s c 0 0 (packBytes [(0, ownId s), (4, natField (rdW s pgSYS 0x04) 8 8), (5, (enabledCores s - 1) % 256), (8, gib)])))

/-- POWER_LIMIT (R386): a permitted limit waits for the next cap-loop tick. -/
def execPowerLimit (q : Fin 5) (n : BitVec 32) (s : State) : Host.Outcome State Fault Refusal :=
  .next (runOnce s q.val n.toNat 0x21 (fun _ => true) (fun s c =>
    let v := arg c 8 4
    if v ≠ 0 ∧ (v < 4000 ∨ rd s pgPWR F.PWR_PLMAX.W < v) then endCmd s c 0x22 0 0 else s))

/-- Every parked core comes up again. -/
def unparkAll (s : State) : State :=
  ((s.cores.filter (fun x => x.2.parked)).map (·.1)).foldl (fun s n =>
    bringUpCore (updCore (wr1 s pgPWR F.PWR_DIE.PARKED (dieOf n) (rd1 s pgPWR F.PWR_DIE.PARKED (dieOf n) - 1)) n
      (fun k => { k with parked := false })) n) s

/-- P0, P1 or P2 from one another (R382): P1 applies PWR_P1_LIMIT, P0 applies PL_MAX. -/
def enterRun (s : State) (t : Nat) : State :=
  let s1 := enterState (if modState s = 2 then unparkAll s else s) t
  if t = 0 then wr s1 pgPWR F.PWR_LIMIT.W (rd s1 pgPWR F.PWR_PLMAX.W)
  else if t = 1 then wr s1 pgPWR F.PWR_LIMIT.W (rd s1 pgPWR F.PWR_P1_LIMIT.W)
  else s1

/-- POWER_STATE (R382, R390, R413, R430, R436, R446, R469). -/
def execPowerState (q : Fin 5) (n : BitVec 32) (s : State) : Host.Outcome State Fault Refusal :=
  .next (runOnce s q.val n.toNat 0x22 (fun _ => true) (fun s c =>
    let t := arg c 8 1
    let m := modState s
    if 4 < t then endCmd s c 0x22 0 0
    else if m = 4 then endCmd s c 0x24 3 0
    else if !rdB s pgSYS F.SYS_READY_SUMMARY.ALL || secBusy s || s.boot.p4 || s.boot.p4Wait then endCmd s c 0x23 0 0
    else if t = 4 then
      if !rdB s pgSYS F.SYS_REMOVE.READY then endCmd s c 0x24 2 0
      else if s.innk.upd.isSome then endCmd s c 0x23 0 0
      else startP4 s 0 (some (c.q, c.n))
    else if t < 3 ∧ rdB s pgPWR F.PWR_MODSTATE.LEAK_LATCH then endCmd s c 0x24 1 0
    else if t = m then endCmd s c 0 0 0
    else if t = 3 then startP3 s (some (c.q, c.n))
    else if m = 3 then beginState s t 0 (some (c.q, c.n))
    else endCmd (enterRun s t) c 0 0 0))

/-! ## The Innkeeper (R411, R413) -/

/-- UPDATE (R413): the bundle is staged from HBM and applied. -/
def execUpdate (q : Fin 5) (n : BitVec 32) (s : State) : Host.Outcome State Fault Refusal :=
  .next (runOnce s q.val n.toNat 0x23 (fun c => rangeReady s (arg c 8 8) (arg c 16 4)) (fun s c =>
    let a := arg c 8 8
    let len := arg c 16 4
    if s.innk.upd.isSome then endCmd s c 0x23 0 0
    else if !rangeRule a 0 then endCmd s c 0x22 0 0
    else if !hbmBacked s a len then endCmd s c 5 0 0
    else
      let (bs, ue, s1) := hbmRead s a (min len bundleMax)
      if ue then endCmd s1 c 6 0 0
      else
        let s2 := wr (updInnk s1 (fun i => { i with stage := [] })) pgINNK F.INNK_STAGE.BYTES 0
        applyBundle (stagePut s2 0 bs) len (.cmd c.q c.n)))

/-- LOG_READ as a command (R411). -/
def execCmdLogRead (q : Fin 5) (n : BitVec 32) (s : State) : Host.Outcome State Fault Refusal :=
  .next (runOnce s q.val n.toNat 0x24 (fun c => addrReady s (arg c 8 8)) (fun s c =>
    let a := arg c 8 8
    let rs := logRead s (arg c 16 8) (arg c 24 4)
    if !rangeRule a 0 then endCmd s c 0x22 0 0
    else if !hbmBacked s a (32 * rs.length) then endCmd s c 5 0 0
    else endCmd (hbmWriteOwn s a (rs.flatMap recBytes)) c 0 0 (packBytes [(0, rs.length), (8, logNewest s)])))

/-- ATTEST (R427): the request buffer holds one message of Passport, header included; its response is written. -/
def execAttest (q : Fin 5) (n : BitVec 32) (s : State) : Host.Outcome State Fault Refusal :=
  .next (runOnce s q.val n.toNat 0x25 (fun c => rangeReady s (arg c 8 8) (arg c 24 4) && rangeReady s (arg c 16 8) (arg c 28 4))
    (fun s c =>
      let a := arg c 8 8
      let r := arg c 16 8
      let len := arg c 24 4
      let space := arg c 28 4
      if !rangeRule a 0 || !rangeRule r 0 || len < 8 || 4096 < len then endCmd s c 0x22 0 0
      else if !hbmBacked s a len || !hbmBacked s r space then endCmd s c 5 0 0
      else
        let (bs, ue, s1) := hbmRead s a len
        let (ty, tag, k, body) := msgFields bs
        if ue then endCmd s1 c 6 0 0
        else if k ≠ body.length then endCmd s1 c 0x22 0 0
        else passportMsg s1 ty (.attest c.q c.n ty tag r space) body))

/-- REMOVE_READY (R468, R469). -/
def execRemoveReady (q : Fin 5) (n : BitVec 32) (s : State) : Host.Outcome State Fault Refusal :=
  .next (runOnce s q.val n.toNat 0x26 (fun _ => true) (fun s c =>
    if s.boot.p4 || s.boot.p4Wait then endCmd s c 0x23 0 0
    else if anyJob s then endCmd s c 0x24 1 0
    else
      let s1 := endCmd (logMgmt (wr s pgSYS F.SYS_REMOVE.READY 1) 0x10 2) c 0 0 0
      if rdB s pgSYS F.SYS_REMOVE.PEND then startP4 s1 4 none else s1))

/-! ## Debug (R326, R433, R436) -/

/-- DEBUG_OPEN (R433): length 0 opens D1; otherwise a token of KIND 1. -/
def execDebugOpen (q : Fin 5) (n : BitVec 32) (s : State) : Host.Outcome State Fault Refusal :=
  .next (runOnce s q.val n.toNat 0x30 (fun c => arg c 16 4 == 0 || rangeReady s (arg c 8 8) (arg c 16 4)) (fun s c =>
    let a := arg c 8 8
    let len := arg c 16 4
    if secBusy s then endCmd s c 0x23 0 0
    else if len = 0 then openLevel s 1 0xFF (.cmd c.q c.n)
    else if !rangeRule a 0 then endCmd s c 0x22 0 0
    else if !hbmBacked s a (min len 4096) then endCmd s c 5 0 0
    else
      let (bs, ue, s1) := hbmRead s a (min len 4096)
      if ue then endCmd s1 c 6 0 0 else msgDebugToken s1 (.cmd c.q c.n) bs))

/-- DEBUG_CLOSE (R436). -/
def execDebugClose (q : Fin 5) (n : BitVec 32) (s : State) : Host.Outcome State Fault Refusal :=
  .next (runOnce s q.val n.toNat 0x31 (fun _ => true) (fun s c => endCmd (closeDebug s) c 0 0 0))

/-- A debug command on a context: DENIED below D2, BAD_ARG for a context that does not exist. -/
def onContext (s : State) (q n opc : Nat) (f : State → Cmd → Nat → State) : State :=
  runOnce s q n opc (fun _ => true) (fun s c =>
    if level s < 2 then endCmd s c 3 0 0
    else if 16 ≤ arg c 8 1 then endCmd s c 0x22 0 0
    else f s c (arg c 8 1))

/-- HALT. -/
def execHalt (q : Fin 5) (n : BitVec 32) (s : State) : Host.Outcome State Fault Refusal :=
  .next (onContext s q.val n.toNat 0x32 (fun s c x =>
    endCmd ((ctxCores s (activeBank s) x).foldl (fun s k => updCore s k (fun v => { v with haltCtx := v.haltCtx ||| BitVec.ofNat 16 (2 ^ x) })) s) c 0 0 0))

/-- RESUME. -/
def execResume (q : Fin 5) (n : BitVec 32) (s : State) : Host.Outcome State Fault Refusal :=
  .next (onContext s q.val n.toNat 0x33 (fun s c x =>
    endCmd ((ctxCores s (activeBank s) x).foldl (fun s k => updCore s k (fun v =>
      { v with haltCtx := v.haltCtx &&& ~~~(BitVec.ofNat 16 (2 ^ x)) })) s) c 0 0 0))

/-- SNAPSHOT: the registers, handles, FLAGS and scratchpads of a halted context are copied. The spec does not give the
layout of the copy: what is copied stands in State, and the bytes of the destination are free (log entry 15). -/
def execSnapshot (q : Fin 5) (n : BitVec 32) (s : State) : Host.Outcome State Fault Refusal :=
  .next (onContext s q.val n.toNat 0x34 (fun s c x =>
    let dst := arg c 16 8
    let ks := ctxCores s (activeBank s) x
    let len := Config.snapLen ks.length
    if !rangeRule dst 0 then endCmd s c 0x22 0 0
    else if !hbmBacked s dst len then endCmd s c 5 0 0
    else if !ks.all (fun k => (core s k).haltCtx.getLsbD x) then endCmd s c 0x24 0 0
    else
      let snap : Snap := { dst := dst, cores := ks.map (fun k => { n := k, core := core s k, words := coreWords s k }) }
      let (bs, s1) := freeBytes s len
      let s2 := updHost (hbmWriteOwn s1 dst bs) (fun h => { h with snaps := h.snaps ++ [snap] })
      endCmd s2 c 0 0 0))

end Sys2Proof.Machine
end

