-- ==== Sys2Proof/Machine/Innk.lean ====
section
/-!
DEFINITION. The commands of the Innkeeper (R401, R405 to R414), its messages (R408), and the I3C and JTAG ports (R407, R433,
R512, R513).
-/
namespace Sys2Proof.Machine

/-! ## Watchdog, rollback, health (R401, R405, R413, R414) -/

/-- WATCHDOG_EXPIRY (R405): 2 s after the firmware last serviced it. -/
def execWatchdogExpiry (s : State) : Host.Outcome State Fault Refusal :=
  .next (if innkRuns s ∧ s.innk.serviced + 2 * secPclk ≤ s.esc then restartInnk s 1 else s)

/-- SRAM_UE (R401). -/
def execSramUe (s : State) : Host.Outcome State Fault Refusal := .next (if innkRuns s then restartInnk s 2 else s)

/-- ROLLBACK (R405, R414): three restarts of the active slot within 10 minutes. -/
def execRollback (s : State) : Host.Outcome State Fault Refusal :=
  .next (if rd s pgINNK F.INNK_STATE.STATE = 2 ∧ 3 ≤ recentRestarts s then rollBack s else s)

/-- HEALTH_TIMEOUT (R414): 30 s after step 7 the firmware has not set HEALTHY. -/
def execHealthTimeout (s : State) : Host.Outcome State Fault Refusal :=
  .next (match s.innk.upd with
    | some u =>
      if u.phase = 5 ∧ u.healthAt + 30 * secPclk ≤ s.esc + 1 ∧ !rdB s pgINNK F.INNK_STATE.HEALTHY then rollBack s else s
    | none => s)

/-- HEALTHY (R413 step 8, R422): firmware all of whose components loaded confirms its health. -/
def execHealthy (s : State) : Host.Outcome State Fault Refusal :=
  .next (if innkRuns s ∧ !s.innk.loadFail ∧ !rdB s pgINNK F.INNK_STATE.HEALTHY then setHealthyFw s else s)

/-- LOG_FLUSH (R409). -/
def execLogFlush (s : State) : Host.Outcome State Fault Refusal := .next (if innkRuns s then flushLog s else s)

/-! ## Sensors (R406) -/

/-- The in-band register of a sample of class 3 or 4. -/
def inBand (s : State) (cls i v : Nat) : State :=
  if cls = 3 then wr s (pgSTK i) F.HBM_STK_STATE.TEMP v
  else if cls = 4 then
    let pg := pgPORT (i / 17)
    let l := i % 17
    let s1 := wr1 s pg F.FAB_LANE_RXPWR.PWR l v
    if natToSigned 10 (v % 1024) < natToSigned 10 (rd1 s pg F.FAB_LANE_RXPWR.PMIN l) then
      wr1 s1 pg F.FAB_LANE_RXPWR.PMIN l v
    else s1
  else s

/-- SENSOR_REFRESH (R406): every 10 ms, 3,250,000 PCLK. The operand gives samples by class and index; diodes and monitors for
which it gives none keep their latest sample. -/
def execSensorRefresh (values : List (Fin 7 × Fin 272 × BitVec 16)) (s : State) : Host.Outcome State Fault Refusal :=
  .next (if innkRuns s ∧ (s.pow.snapEsc = 0 ∨ s.pow.snapEsc + 3250000 ≤ s.esc) then
    let vs := values.filter (fun x => decide (x.2.1.val < sensCount x.1.val))
    let base := s.pow.sens.filter (fun x => decide (x.1 / 1024 < 3))
    let s1 := vs.foldl (fun s x => inBand s x.1.val x.2.1.val x.2.2.toNat) s
    updPow s1 (fun p =>
      { p with snap := vs.foldl (fun m x => tabPut 0 m (sensKey x.1.val x.2.1.val) x.2.2.toNat)
                 (base.foldl (fun m x => tabPut 0 m x.1 x.2) p.snap),
               snapEsc := s.esc })
  else s)

/-! ## Messages (R408) -/

/-- GET_SENSOR. -/
def msgGetSensor (s : State) (who : Reply) (body : List Byte) : State :=
  let b := bytesToNat body
  let cls := byteField b 0 1
  let first := byteField b 2 2
  let n := byteField b 4 2
  if body.length ≠ 6 ∨ 6 < cls ∨ n = 0 ∨ 1024 < n ∨ sensCount cls < first + n then reply s who 0x22 0 0 []
  else
    reply s who 0 0 0 (natToBytes 8 s.pow.snapEsc
      ++ (List.range n).flatMap (fun i => natToBytes 2 (tabGet 0 s.pow.snap (sensKey cls (first + i)))))

/-- Source of a message's register accesses (R486). -/
def whoSrc : Reply → Src
  | .fabric .. => .fabric
  | .none => .i3c
  | .cmd .. => .i3c
  | .i3c .. => .i3c
  | .attest .. => .i3c

/-- Whether `n` words at an offset lie in the register window. -/
def windowOk (o n : Nat) : Bool := o % 4 == 0 && decide (1 ≤ n) && decide (n ≤ 1020) && decide (o + 4 * n ≤ 2 ^ 26)

/-- READ_REG. -/
def msgReadReg (s : State) (who : Reply) (body : List Byte) : State :=
  let b := bytesToNat body
  let o := byteField b 0 4
  let n := byteField b 4 2
  if body.length ≠ 6 ∨ !windowOk o n then reply s who 0x22 0 0 []
  else
    let (bs, s1) := windowRead (whoSrc who) n s o
    reply s1 who 0 0 0 bs

/-- WRITE_REG. -/
def msgWriteReg (s : State) (who : Reply) (body : List Byte) : State :=
  let o := bytesToNat (body.take 4)
  let n := (body.length - 4) / 4
  if body.length % 4 ≠ 0 ∨ body.length < 8 ∨ !windowOk o n then reply s who 0x22 0 0 []
  else reply (windowWrite (whoSrc who) n s o (body.drop 4)) who 0 0 0 []

/-- COMMAND: the command starts; COMMAND_COMPLETE answers with its record. -/
def msgCommand (s : State) (who : Reply) (body : List Byte) : State :=
  match who with
  | .i3c _ tag => if body.length ≠ 64 then reply s who 0x22 0 0 [] else startCmd s 4 tag (bytesToNat body)
  | _ => reply s who 3 0 0 []

/-- LOG_READ as a message (R411). -/
def msgLogReadOp (s : State) (who : Reply) (body : List Byte) : State :=
  let b := bytesToNat body
  let n := byteField b 8 1
  if body.length ≠ 9 ∨ n = 0 ∨ 127 < n then reply s who 0x22 0 0 []
  else reply s who 0 0 0 (natToBytes 8 (logNewest s) ++ (logRead s (byteField b 0 8) n).flatMap recBytes)

/-- UPDATE_WRITE. -/
def msgUpdateWrite (s : State) (who : Reply) (body : List Byte) : State :=
  let o := bytesToNat (body.take 4)
  let bs := body.drop 4
  if body.length < 36 ∨ o % 4096 ≠ 0 ∨ bs.length % 32 ≠ 0 ∨ bundleMax < o + bs.length then reply s who 0x22 0 0 []
  else reply (stagePut s o bs) who 0 0 0 []

/-- UPDATE_APPLY (R413): a completion record of UPDATE is its answer; BUSY while an update is in progress. -/
def msgUpdateApply (s : State) (who : Reply) (body : List Byte) : State :=
  match who with
  | .i3c _ tag =>
    if body.length ≠ 4 then reply s who 0x22 0 0 []
    else
      let s1 := updHost s (fun h => { h with cmds := h.cmds ++ [{ q := 4, n := tag, bytes := 0x23, stage := 2 }] })
      if s.innk.upd.isSome then finishCmd s1 4 tag 0x23 0 0 else applyBundle s1 (bytesToNat body) (.cmd 4 tag)
  | _ => reply s who 3 0 0 []

/-- UPDATE_STATUS. -/
def msgUpdateStatus (s : State) (who : Reply) (body : List Byte) : State :=
  onEmpty s who body (fun s => reply s who 0 0 0 (natToBytes 4 (regView s pgINNK 0x110)))

/-- GET_SENSOR. -/
def execGetSensor (v : Via) (s : State) : Host.Outcome State Fault Refusal := .next (onMsg s v 0x01 msgGetSensor)

/-- READ_REG. -/
def execReadReg (v : Via) (s : State) : Host.Outcome State Fault Refusal := .next (onMsg s v 0x02 msgReadReg)

/-- WRITE_REG. -/
def execWriteReg (v : Via) (s : State) : Host.Outcome State Fault Refusal := .next (onMsg s v 0x03 msgWriteReg)

/-- COMMAND. -/
def execCommand (v : Via) (s : State) : Host.Outcome State Fault Refusal := .next (onMsg s v 0x04 msgCommand)

/-- LOG_READ over a management path. -/
def execMsgLogRead (v : Via) (s : State) : Host.Outcome State Fault Refusal := .next (onMsg s v 0x05 msgLogReadOp)

/-- UPDATE_WRITE. -/
def execUpdateWrite (v : Via) (s : State) : Host.Outcome State Fault Refusal := .next (onMsg s v 0x06 msgUpdateWrite)

/-- UPDATE_APPLY. -/
def execUpdateApply (v : Via) (s : State) : Host.Outcome State Fault Refusal := .next (onMsg s v 0x07 msgUpdateApply)

/-- UPDATE_STATUS. -/
def execUpdateStatus (v : Via) (s : State) : Host.Outcome State Fault Refusal := .next (onMsg s v 0x08 msgUpdateStatus)

/-! ## MCTP control, I3C address, JTAG -/

/-- The answer of an MCTP control message (R407): the EID it sets, the completion code and the data after it. The formats
and codes are DSP0236's; Eltehal's IANA enterprise number is not in the spec (log entry 61). -/
def mctpAnswer (s : State) (cmd : Nat) (d : List Byte) : Option Nat × Nat × List Byte :=
  let b (i : Nat) : Nat := (d.getD i 0).toNat
  let eid := rd s pgINNK F.INNK_I3C.EID
  let bytes (xs : List Nat) : List Byte := xs.map (BitVec.ofNat 8)
  match cmd with
  | 0x01 =>
    if d.length ≠ 2 then (none, 3, [])
    else if b 0 < 2 then
      if b 1 = 0 ∨ b 1 = 0xFF then (none, 2, []) else (some (b 1), 0, bytes [0, b 1, 0])
    else (none, 2, [])
  | 0x02 => (none, 0, bytes [eid, 0, 0])
  | 0x04 =>
    if d.length ≠ 1 then (none, 3, [])
    else if b 0 = 0xFF ∨ b 0 = 0 then (none, 0, bytes [1, 0xF1, 0xF3, 0xF1, 0x00])
    else (none, 0x80, [])
  | 0x05 => (none, 0, bytes [1, 0x7F])
  | 0x06 =>
    if d.length ≠ 1 then (none, 3, [])
    else if b 0 = 0 then
      (none, 0, bytes [0xFF, 1] ++ (natToBytes 4 (Config.code 0x0407 0)).reverse ++ (natToBytes 2 (Config.code 0x0407 1)).reverse)
    else (none, 2, [])
  | _ => (none, 5, [])

/-- MCTP_CONTROL (R407): a control message with its instance and command is answered. -/
def execMctpControl (inst cmd : BitVec 8) (data : List (BitVec 8)) (s : State) : Host.Outcome State Fault Refusal :=
  .next (if i3cUp s then
    let (eid, cc, rest) := mctpAnswer s cmd.toNat data
    let s1 := match eid with
      | some e => wr s pgINNK F.INNK_I3C.EID e
      | none => s
    emit s1 (.i3c ([0#8, inst &&& 0x1F#8, cmd, BitVec.ofNat 8 cc] ++ rest))
  else s)

/-- ENTDAA (R407, R512). -/
def execEntdaa (addr : BitVec 7) (s : State) : Host.Outcome State Fault Refusal :=
  .next (if innkRuns s ∧ rdB s pgINNK F.INNK_I3C.EN then
    wr (wr s pgINNK F.INNK_I3C.DADDR addr.toNat) pgINNK F.INNK_I3C.DVALID 1
  else s)

/-- The instruction code of IDCODE, which the spec does not give (log entry 8). -/
def irIdcode : Nat := Config.code 0x0513 0 % 256

/-- The IDCODE of a B1 module (R513). -/
def idcode : Nat := 0x53240A6B

/-- JTAG_INSTRUCTION (R433, R513): below D3 every instruction but IDCODE acts as BYPASS; IDCODE shifts out the module's. -/
def execJtagInstruction (ir : BitVec 8) (s : State) : Host.Outcome State Fault Refusal :=
  .next (if s.boot.off then s
  else
    let k := ir.toNat
    let act := if k = irIdcode ∨ level s = 3 then k else 0xFF
    let s1 := updBoot s (fun b => { b with jtag := some act })
    if k = irIdcode then emit s1 (.tdo idcode) else s1)

end Sys2Proof.Machine
end

