-- ==== Sys2Proof/Machine/Dispatch.lean ====
section
/-!
DEFINITION. The dispatcher: each command goes to its meaning.
-/
namespace Sys2Proof.Machine

/-- The effect of a command on everything but the queue. -/
def exec (i : Instr) (s : State) : Host.Outcome State Fault Refusal :=
  match i with
  | .nop ix slot => Sys2Proof.Machine.execNop ix slot s
  | .seqAdd c rd ra rb => Sys2Proof.Machine.execSeqAdd c rd ra rb s
  | .sub c rd ra rb => Sys2Proof.Machine.execSub c rd ra rb s
  | .and c rd ra rb => Sys2Proof.Machine.execAnd c rd ra rb s
  | .or c rd ra rb => Sys2Proof.Machine.execOr c rd ra rb s
  | .xor c rd ra rb => Sys2Proof.Machine.execXor c rd ra rb s
  | .shl c rd ra rb => Sys2Proof.Machine.execShl c rd ra rb s
  | .shr c rd ra rb => Sys2Proof.Machine.execShr c rd ra rb s
  | .sra c rd ra rb => Sys2Proof.Machine.execSra c rd ra rb s
  | .mul c rd ra rb => Sys2Proof.Machine.execMul c rd ra rb s
  | .addi c rd ra imm => Sys2Proof.Machine.execAddi c rd ra imm s
  | .lih c rd ra imm => Sys2Proof.Machine.execLih c rd ra imm s
  | .cmp c qd ra rb cond => Sys2Proof.Machine.execCmp c qd ra rb cond s
  | .qop c qd qa qb fn => Sys2Proof.Machine.execQop c qd qa qb fn s
  | .br c q neg tgt => Sys2Proof.Machine.execBr c q neg tgt s
  | .seqLoop c ra last => Sys2Proof.Machine.execSeqLoop c ra last s
  | .lds c rd ra h => Sys2Proof.Machine.execLds c rd ra h s
  | .rds c rd sel => Sys2Proof.Machine.execRds c rd sel s
  | .ftest c qd part clr mask => Sys2Proof.Machine.execFtest c qd part clr mask s
  | .muster c scope kind fence => Sys2Proof.Machine.execMuster c scope kind fence s
  | .waitt c qd ra h => Sys2Proof.Machine.execWaitt c qd ra h s
  | .waittResume c => Sys2Proof.Machine.execWaittResume c s
  | .seqEnd c => Sys2Proof.Machine.execSeqEnd c s
  | .pass ix entry => Sys2Proof.Machine.execPass ix entry s
  | .dset ix entry vs => Sys2Proof.Machine.execDset ix entry vs s
  | .tileLoad c part => Sys2Proof.Machine.execTileLoad c part s
  | .passLatch c part => Sys2Proof.Machine.execPassLatch c part s
  | .drainRow c part => Sys2Proof.Machine.execDrainRow c part s
  | .drainComplete c part => Sys2Proof.Machine.execDrainComplete c part s
  | .arrayErr c part prow pcol residue => Sys2Proof.Machine.execArrayErr c part prow pcol residue s
  | .vadd ix ty mk vd va vb => Sys2Proof.Machine.execVadd ix ty mk vd va vb s
  | .vsub ix ty mk vd va vb => Sys2Proof.Machine.execVsub ix ty mk vd va vb s
  | .vmul ix ty mk vd va vb => Sys2Proof.Machine.execVmul ix ty mk vd va vb s
  | .vfma ix ty mk vd va vb vc => Sys2Proof.Machine.execVfma ix ty mk vd va vb vc s
  | .vmax ix ty mk vd va vb => Sys2Proof.Machine.execVmax ix ty mk vd va vb s
  | .vmin ix ty mk vd va vb => Sys2Proof.Machine.execVmin ix ty mk vd va vb s
  | .vabs ix ty mk vd va => Sys2Proof.Machine.execVabs ix ty mk vd va s
  | .vneg ix ty mk vd va => Sys2Proof.Machine.execVneg ix ty mk vd va s
  | .vsgn ix ty mk vd va => Sys2Proof.Machine.execVsgn ix ty mk vd va s
  | .vdiv ix ty mk vd va vb => Sys2Proof.Machine.execVdiv ix ty mk vd va vb s
  | .vsqrt ix ty mk vd va => Sys2Proof.Machine.execVsqrt ix ty mk vd va s
  | .vexp2 ix ty mk vd va => Sys2Proof.Machine.execVexp2 ix ty mk vd va s
  | .vlog2 ix ty mk vd va => Sys2Proof.Machine.execVlog2 ix ty mk vd va s
  | .vcmp ix ty mk md va vb cond => Sys2Proof.Machine.execVcmp ix ty mk md va vb cond s
  | .vsel ix ty mk vd va vb => Sys2Proof.Machine.execVsel ix ty mk vd va vb s
  | .viadd ix ty mk vd va vb => Sys2Proof.Machine.execViadd ix ty mk vd va vb s
  | .visub ix ty mk vd va vb => Sys2Proof.Machine.execVisub ix ty mk vd va vb s
  | .viand ix ty mk vd va vb => Sys2Proof.Machine.execViand ix ty mk vd va vb s
  | .vior ix ty mk vd va vb => Sys2Proof.Machine.execVior ix ty mk vd va vb s
  | .vixor ix ty mk vd va vb => Sys2Proof.Machine.execVixor ix ty mk vd va vb s
  | .vishl ix ty mk vd va vb => Sys2Proof.Machine.execVishl ix ty mk vd va vb s
  | .vishr ix ty mk vd va vb => Sys2Proof.Machine.execVishr ix ty mk vd va vb s
  | .vftoi ix ty mk vd va => Sys2Proof.Machine.execVftoi ix ty mk vd va s
  | .vitof ix ty mk vd va => Sys2Proof.Machine.execVitof ix ty mk vd va s
  | .vbcast ix ty mk vd ra => Sys2Proof.Machine.execVbcast ix ty mk vd ra s
  | .vreds ix ty mk rd va fn => Sys2Proof.Machine.execVreds ix ty mk rd va fn s
  | .vbmax ix ty mk vd va => Sys2Proof.Machine.execVbmax ix ty mk vd va s
  | .vscaleb ix ty mk vd va vb => Sys2Proof.Machine.execVscaleb ix ty mk vd va vb s
  | .vcvt ix ty vd va vc fmt grp sct sctEn re rt => Sys2Proof.Machine.execVcvt ix ty vd va vc fmt grp sct sctEn re rt s
  | .vdec ix vd va vb fmt grp sct sctEn => Sys2Proof.Machine.execVdec ix vd va vb fmt grp sct sctEn s
  | .vrng ix vd re rt => Sys2Proof.Machine.execVrng ix vd re rt s
  | .vld ix vd h ra len wid imm => Sys2Proof.Machine.execVld ix vd h ra len wid imm s
  | .vst ix va h ra len dlv imm => Sys2Proof.Machine.execVst ix va h ra len dlv imm s
  | .vmpack ix mk vd => Sys2Proof.Machine.execVmpack ix mk vd s
  | .vmunpk ix md va => Sys2Proof.Machine.execVmunpk ix md va s
  | .vscrd ix vd ra => Sys2Proof.Machine.execVscrd ix vd ra s
  | .vscwr ix va ra => Sys2Proof.Machine.execVscwr ix va ra s
  | .start ix sl ra rb => Sys2Proof.Machine.execStart ix sl ra rb s
  | .stop ix sl => Sys2Proof.Machine.execStop ix sl s
  | .credit ix sl n h => Sys2Proof.Machine.execCredit ix sl n h s
  | .send ix sl h ra len => Sys2Proof.Machine.execSend ix sl h ra len s
  | .arm ix h n => Sys2Proof.Machine.execArm ix h n s
  | .strCopy ix h ra h2 rb len => Sys2Proof.Machine.execStrCopy ix h ra h2 rb len s
  | .courierPut ix h ra rb rc tgt len qd => Sys2Proof.Machine.execCourierPut ix h ra rb rc tgt len qd s
  | .courierGet ix h ra rb rc tgt len qd => Sys2Proof.Machine.execCourierGet ix h ra rb rc tgt len qd s
  | .courierAdd ix h ra rb rc rd tgt qd => Sys2Proof.Machine.execCourierAdd ix h ra rb rc rd tgt qd s
  | .courierComplete c id => Sys2Proof.Machine.execCourierComplete c id s
  | .push ix k h ra => Sys2Proof.Machine.execPush ix k h ra s
  | .pop ix k h ra => Sys2Proof.Machine.execPop ix k h ra s
  | .sbWriteOutComplete c k j => Sys2Proof.Machine.execSbWriteOutComplete c k j s
  | .sbPrefetchComplete c k j => Sys2Proof.Machine.execSbPrefetchComplete c k j s
  | .itinNop c sl => Sys2Proof.Machine.execItinNop c sl s
  | .itinLoop c sl last cnt => Sys2Proof.Machine.execItinLoop c sl last cnt s
  | .seta c sl ad imm => Sys2Proof.Machine.execSeta c sl ad imm s
  | .setah c sl ad imm => Sys2Proof.Machine.execSetah c sl ad imm s
  | .adv c sl ad imm => Sys2Proof.Machine.execAdv c sl ad imm s
  | .setd c sl epoch module => Sys2Proof.Machine.execSetd c sl epoch module s
  | .cvt c sl ereg mfmt lfmt tid => Sys2Proof.Machine.execCvt c sl ereg mfmt lfmt tid s
  | .itinLoad c sl at_ al h tgt len it il => Sys2Proof.Machine.execItinLoad c sl at_ al h tgt len it il s
  | .itinStore c sl at_ tgt len it => Sys2Proof.Machine.execItinStore c sl at_ tgt len it s
  | .gather c sl at_ al h ih ai cnt il ii => Sys2Proof.Machine.execGather c sl at_ al h ih ai cnt il ii s
  | .fence c sl => Sys2Proof.Machine.execFence c sl s
  | .itinEnd c sl => Sys2Proof.Machine.execItinEnd c sl s
  | .requestComplete c id => Sys2Proof.Machine.execRequestComplete c id s
  | .deliveryComplete c id => Sys2Proof.Machine.execDeliveryComplete c id s
  | .musterArrival c => Sys2Proof.Machine.execMusterArrival c s
  | .musterRelease b => Sys2Proof.Machine.execMusterRelease b s
  | .yieldSave c => Sys2Proof.Machine.execYieldSave c s
  | .coreRestore c l => Sys2Proof.Machine.execCoreRestore c l s
  | .noYield c => Sys2Proof.Machine.execNoYield c s
  | .segmentSwitch c => Sys2Proof.Machine.execSegmentSwitch c s
  | .timesliceRequest c => Sys2Proof.Machine.execTimesliceRequest c s
  | .ctxTeardown b ctx => Sys2Proof.Machine.execCtxTeardown b ctx s
  | .scrubRead c => Sys2Proof.Machine.execScrubRead c s
  | .traceFlush c => Sys2Proof.Machine.execTraceFlush c s
  | .hbmErrWindow n => Sys2Proof.Machine.execHbmErrWindow n s
  | .relocationStart n => Sys2Proof.Machine.execRelocationStart n s
  | .granuleCopy n => Sys2Proof.Machine.execGranuleCopy n s
  | .relocationDone n => Sys2Proof.Machine.execRelocationDone n s
  | .domainRebuild d => Sys2Proof.Machine.execDomainRebuild d s
  | .patrolScrub n p => Sys2Proof.Machine.execPatrolScrub n p s
  | .refresh stk => Sys2Proof.Machine.execRefresh stk s
  | .mode stk striped => Sys2Proof.Machine.execMode stk striped s
  | .rebuild stk => Sys2Proof.Machine.execRebuild stk s
  | .hbmXlate stk hi => Sys2Proof.Machine.execHbmXlate stk hi s
  | .fail n => Sys2Proof.Machine.execFail n s
  | .testEnter n => Sys2Proof.Machine.execTestEnter n s
  | .testExit n => Sys2Proof.Machine.execTestExit n s
  | .tgStart n p => Sys2Proof.Machine.execTgStart n p s
  | .tgStop n p => Sys2Proof.Machine.execTgStop n p s
  | .tgRunEnd n p passes bursts => Sys2Proof.Machine.execTgRunEnd n p passes bursts s
  | .tgCheckFail n p slot burst bitNo expect nbits => Sys2Proof.Machine.execTgCheckFail n p slot burst bitNo expect nbits s
  | .stackTrained stk failed lanes => Sys2Proof.Machine.execStackTrained stk failed lanes s
  | .phyTrainingLoss n => Sys2Proof.Machine.execPhyTrainingLoss n s
  | .linkTraining l peer port link split inPlace qual txLanes txSpareLane txFibre loop_ => Sys2Proof.Machine.execLinkTraining l peer port link split inPlace qual txLanes txSpareLane txFibre loop_ s
  | .flitReceive l flit decoded => Sys2Proof.Machine.execFlitReceive l flit decoded s
  | .laneWindow p ix csym ucw => Sys2Proof.Machine.execLaneWindow p ix csym ucw s
  | .laneFailed p ix why => Sys2Proof.Machine.execLaneFailed p ix why s
  | .laneOut l => Sys2Proof.Machine.execLaneOut l s
  | .spareReq l => Sys2Proof.Machine.execSpareReq l s
  | .spareReady l => Sys2Proof.Machine.execSpareReady l s
  | .map l => Sys2Proof.Machine.execMap l s
  | .close l => Sys2Proof.Machine.execClose l s
  | .linkDead l => Sys2Proof.Machine.execLinkDead l s
  | .retrainTimer l => Sys2Proof.Machine.execRetrainTimer l s
  | .closeTimeout l => Sys2Proof.Machine.execCloseTimeout l s
  | .retrain l => Sys2Proof.Machine.execRetrain l s
  | .fabClose l => Sys2Proof.Machine.execFabClose l s
  | .feedSwap p => Sys2Proof.Machine.execFeedSwap p s
  | .feedLoss p b l0 l1 l2 long => Sys2Proof.Machine.execFeedLoss p b l0 l1 l2 long s
  | .feedOk p b l0 l1 l2 => Sys2Proof.Machine.execFeedOk p b l0 l1 l2 s
  | .fabRtrId id => Sys2Proof.Machine.execFabRtrId id s
  | .split p v => Sys2Proof.Machine.execSplit p v s
  | .messageArrive l => Sys2Proof.Machine.execMessageArrive l s
  | .messageForward l cls => Sys2Proof.Machine.execMessageForward l cls s
  | .creditReturn l => Sys2Proof.Machine.execCreditReturn l s
  | .write => Sys2Proof.Machine.execWrite s
  | .read => Sys2Proof.Machine.execRead s
  | .craulAdd => Sys2Proof.Machine.execCraulAdd s
  | .writeDone => Sys2Proof.Machine.execWriteDone s
  | .readData => Sys2Proof.Machine.execReadData s
  | .addOld => Sys2Proof.Machine.execAddOld s
  | .linkLast => Sys2Proof.Machine.execLinkLast s
  | .linkLastTimeout l => Sys2Proof.Machine.execLinkLastTimeout l s
  | .timeout c id => Sys2Proof.Machine.execTimeout c id s
  | .stall l cls => Sys2Proof.Machine.execStall l cls s
  | .winOpen => Sys2Proof.Machine.execOpen s
  | .winClose => Sys2Proof.Machine.execWinClose s
  | .winBusyClear ix => Sys2Proof.Machine.execWinBusyClear ix s
  | .rtWrite idx member => Sys2Proof.Machine.execRtWrite idx member s
  | .entryActivate => Sys2Proof.Machine.execEntryActivate s
  | .entryComplete e => Sys2Proof.Machine.execEntryComplete e s
  | .caravanTmo e => Sys2Proof.Machine.execCaravanTmo e s
  | .collCredit => Sys2Proof.Machine.execCollCredit s
  | .contrib => Sys2Proof.Machine.execContrib s
  | .result => Sys2Proof.Machine.execResult s
  | .a2aCount => Sys2Proof.Machine.execA2aCount s
  | .a2aRows => Sys2Proof.Machine.execA2aRows s
  | .permuteData => Sys2Proof.Machine.execPermuteData s
  | .status => Sys2Proof.Machine.execStatus s
  | .musterArrive => Sys2Proof.Machine.execMusterArrive s
  | .collMusterRelease => Sys2Proof.Machine.execCollMusterRelease s
  | .relayBlock => Sys2Proof.Machine.execRelayBlock s
  | .relayCredit => Sys2Proof.Machine.execRelayCredit s
  | .relayPassOn e => Sys2Proof.Machine.execRelayPassOn e s
  | .prefetchFallback c => Sys2Proof.Machine.execPrefetchFallback c s
  | .armReshard e => Sys2Proof.Machine.execArmReshard e s
  | .ethFrame ix f full => Sys2Proof.Machine.execEthFrame ix f full s
  | .arp ix ip => Sys2Proof.Machine.execArp ix ip s
  | .neighbourSolicitation ix ip => Sys2Proof.Machine.execNeighbourSolicitation ix ip s
  | .pfcFrame ix en times => Sys2Proof.Machine.execPfcFrame ix en times s
  | .pfcXoff ix free => Sys2Proof.Machine.execPfcXoff ix free s
  | .pfcXon ix free => Sys2Proof.Machine.execPfcXon ix free s
  | .rdmaWrite p => Sys2Proof.Machine.execRdmaWrite p s
  | .rdmaRead p => Sys2Proof.Machine.execRdmaRead p s
  | .receivedSend p => Sys2Proof.Machine.execReceivedSend p s
  | .cnp qpn => Sys2Proof.Machine.execCnp qpn s
  | .rateInterval ix => Sys2Proof.Machine.execRateInterval ix s
  | .ack qpn psn synd => Sys2Proof.Machine.execAck qpn psn synd s
  | .retransmitTimeout ix => Sys2Proof.Machine.execRetransmitTimeout ix s
  | .qpWrite ix => Sys2Proof.Machine.execQpWrite ix s
  | .mrWrite ix => Sys2Proof.Machine.execMrWrite ix s
  | .sqDb q qp v => Sys2Proof.Machine.execSqDb q qp v s
  | .cqDb q qp v => Sys2Proof.Machine.execCqDb q qp v s
  | .commandFetch q => Sys2Proof.Machine.execCommandFetch q s
  | .commandComplete q n => Sys2Proof.Machine.execCommandComplete q n s
  | .event => Sys2Proof.Machine.execEvent s
  | .queueReset q => Sys2Proof.Machine.execQueueReset q s
  | .queueEnable q => Sys2Proof.Machine.execQueueEnable q s
  | .cmdNop q n => Sys2Proof.Machine.execCmdNop q n s
  | .jobStart q n => Sys2Proof.Machine.execJobStart q n s
  | .jobStop q n => Sys2Proof.Machine.execJobStop q n s
  | .stepGo q n => Sys2Proof.Machine.execStepGo q n s
  | .cmdCopy q n => Sys2Proof.Machine.execCmdCopy q n s
  | .fill q n => Sys2Proof.Machine.execFill q n s
  | .crc q n => Sys2Proof.Machine.execCrc q n s
  | .info q n => Sys2Proof.Machine.execInfo q n s
  | .powerLimit q n => Sys2Proof.Machine.execPowerLimit q n s
  | .powerState q n => Sys2Proof.Machine.execPowerState q n s
  | .update q n => Sys2Proof.Machine.execUpdate q n s
  | .cmdLogRead q n => Sys2Proof.Machine.execCmdLogRead q n s
  | .attest q n => Sys2Proof.Machine.execAttest q n s
  | .removeReady q n => Sys2Proof.Machine.execRemoveReady q n s
  | .debugOpen q n => Sys2Proof.Machine.execDebugOpen q n s
  | .debugClose q n => Sys2Proof.Machine.execDebugClose q n s
  | .halt q n => Sys2Proof.Machine.execHalt q n s
  | .resume q n => Sys2Proof.Machine.execResume q n s
  | .snapshot q n => Sys2Proof.Machine.execSnapshot q n s
  | .jobEnd b => Sys2Proof.Machine.execJobEnd b s
  | .coreReadyMap c => Sys2Proof.Machine.execCoreReadyMap c s
  | .curfewClose b ix => Sys2Proof.Machine.execCurfewClose b ix s
  | .fallbackStart b => Sys2Proof.Machine.execFallbackStart b s
  | .dividerSwitch d => Sys2Proof.Machine.execDividerSwitch d s
  | .refLost => Sys2Proof.Machine.execRefLost s
  | .refLossP3 => Sys2Proof.Machine.execRefLossP3 s
  | .refLossHostDown => Sys2Proof.Machine.execRefLossHostDown s
  | .refBack => Sys2Proof.Machine.execRefBack s
  | .escCheck d copy => Sys2Proof.Machine.execEscCheck d copy s
  | .powerSample input d0 d1 d2 d3 mons => Sys2Proof.Machine.execPowerSample input d0 d1 d2 d3 mons s
  | .capLoopTick => Sys2Proof.Machine.execCapLoopTick s
  | .currentDemand d => Sys2Proof.Machine.execCurrentDemand d s
  | .throtN => Sys2Proof.Machine.execThrotN s
  | .throtNEnd => Sys2Proof.Machine.execThrotNEnd s
  | .throtStuck => Sys2Proof.Machine.execThrotStuck s
  | .leak => Sys2Proof.Machine.execLeak s
  | .leakClr high => Sys2Proof.Machine.execLeakClr high s
  | .tempHot u => Sys2Proof.Machine.execTempHot u s
  | .thermalStep d => Sys2Proof.Machine.execThermalStep d s
  | .trip u => Sys2Proof.Machine.execTrip u s
  | .engineHot e temp => Sys2Proof.Machine.execEngineHot e temp s
  | .coolantHot inlet => Sys2Proof.Machine.execCoolantHot inlet s
  | .flowLow inlet outlet => Sys2Proof.Machine.execFlowLow inlet outlet s
  | .p3Entry => Sys2Proof.Machine.execP3Entry s
  | .p3Exit => Sys2Proof.Machine.execP3Exit s
  | .corePark c => Sys2Proof.Machine.execCorePark c s
  | .watchdogExpiry => Sys2Proof.Machine.execWatchdogExpiry s
  | .rollback => Sys2Proof.Machine.execRollback s
  | .healthTimeout => Sys2Proof.Machine.execHealthTimeout s
  | .sramUe => Sys2Proof.Machine.execSramUe s
  | .sensorRefresh values => Sys2Proof.Machine.execSensorRefresh values s
  | .logFlush => Sys2Proof.Machine.execLogFlush s
  | .getSensor v => Sys2Proof.Machine.execGetSensor v s
  | .readReg v => Sys2Proof.Machine.execReadReg v s
  | .writeReg v => Sys2Proof.Machine.execWriteReg v s
  | .command v => Sys2Proof.Machine.execCommand v s
  | .msgLogRead v => Sys2Proof.Machine.execMsgLogRead v s
  | .updateWrite v => Sys2Proof.Machine.execUpdateWrite v s
  | .updateApply v => Sys2Proof.Machine.execUpdateApply v s
  | .updateStatus v => Sys2Proof.Machine.execUpdateStatus v s
  | .pendingComponentLoad d => Sys2Proof.Machine.execPendingComponentLoad d s
  | .boot => Sys2Proof.Machine.execBoot s
  | .componentLoad t => Sys2Proof.Machine.execComponentLoad t s
  | .getInfo v => Sys2Proof.Machine.execGetInfo v s
  | .getCert v => Sys2Proof.Machine.execGetCert v s
  | .getMeasLog v => Sys2Proof.Machine.execGetMeasLog v s
  | .getReport v => Sys2Proof.Machine.execGetReport v s
  | .getNonce v => Sys2Proof.Machine.execGetNonce v s
  | .debugToken v => Sys2Proof.Machine.execDebugToken v s
  | .lifecycleToken v => Sys2Proof.Machine.execLifecycleToken v s
  | .revokeToken v => Sys2Proof.Machine.execRevokeToken v s
  | .msgDebugClose v => Sys2Proof.Machine.execMsgDebugClose v s
  | .zeroize => Sys2Proof.Machine.execZeroize s
  | .lifecycleReset => Sys2Proof.Machine.execLifecycleReset s
  | .secLock => Sys2Proof.Machine.execSecLock s
  | .powerUp => Sys2Proof.Machine.execPowerUp s
  | .resetN => Sys2Proof.Machine.execResetN s
  | .resetIgnored us => Sys2Proof.Machine.execResetIgnored us s
  | .domainReady d => Sys2Proof.Machine.execDomainReady d s
  | .coreBringUp c => Sys2Proof.Machine.execCoreBringUp c s
  | .selftestStart u => Sys2Proof.Machine.execSelftestStart u s
  | .selftestDone u f => Sys2Proof.Machine.execSelftestDone u f s
  | .selftestBudget u => Sys2Proof.Machine.execSelftestBudget u s
  | .fuseBurn page element ok => Sys2Proof.Machine.execFuseBurn page element ok s
  | .kat c => Sys2Proof.Machine.execKat c s
  | .zero c => Sys2Proof.Machine.execZero c s
  | .zeroFillDone c => Sys2Proof.Machine.execZeroFillDone c s
  | .pclr c m => Sys2Proof.Machine.execPclr c m s
  | .arrayPart c v => Sys2Proof.Machine.execArrayPart c v s
  | .arrayRepair c col v => Sys2Proof.Machine.execArrayRepair c col v s
  | .ledgerHbase c h v => Sys2Proof.Machine.execLedgerHbase c h v s
  | .streamStop c m => Sys2Proof.Machine.execStreamStop c m s
  | .seqHalt c v => Sys2Proof.Machine.execSeqHalt c v s
  | .seqStep c => Sys2Proof.Machine.execSeqStep c s
  | .seqImemData c v => Sys2Proof.Machine.execSeqImemData c v s
  | .caravanPlanData v => Sys2Proof.Machine.execCaravanPlanData v s
  | .caravanRankData v => Sys2Proof.Machine.execCaravanRankData v s
  | .jobStepnum src b hi v => Sys2Proof.Machine.execJobStepnum src b hi v s
  | .errClr page => Sys2Proof.Machine.execErrClr page s
  | .cntClr page => Sys2Proof.Machine.execCntClr page s
  | .pairLoRead src page word => Sys2Proof.Machine.execPairLoRead src page word s
  | .pairLoWrite src page word v => Sys2Proof.Machine.execPairLoWrite src page word v s
  | .sysSem k => Sys2Proof.Machine.execSysSem k s
  | .sysSemRel v => Sys2Proof.Machine.execSysSemRel v s
  | .semBreak => Sys2Proof.Machine.execSemBreak s
  | .registerWrite src page word v => Sys2Proof.Machine.execRegisterWrite src page word v s
  | .nocHazHitClear d w => Sys2Proof.Machine.execNocHazHitClear d w s
  | .prechargeDone => Sys2Proof.Machine.execPrechargeDone s
  | .pwrEnAssert slot => Sys2Proof.Machine.execPwrEnAssert slot s
  | .ejectN fresh => Sys2Proof.Machine.execEjectN fresh s
  | .p4Entry => Sys2Proof.Machine.execP4Entry s
  | .lossOfInput low ms => Sys2Proof.Machine.execLossOfInput low ms s
  | .inputRestore => Sys2Proof.Machine.execInputRestore s
  | .inputRange v => Sys2Proof.Machine.execInputRange v s
  | .hostFeedLoss pwr => Sys2Proof.Machine.execHostFeedLoss pwr s
  | .hostLink ix up lfault rfault fec => Sys2Proof.Machine.execHostLink ix up lfault rfault fec s
  | .spareQualified p => Sys2Proof.Machine.execSpareQualified p s
  | .hostFeedOk pwr => Sys2Proof.Machine.execHostFeedOk pwr s
  | .engineCool e temp => Sys2Proof.Machine.execEngineCool e temp s
  | .currentDemandEnd d => Sys2Proof.Machine.execCurrentDemandEnd d s
  | .healthy => Sys2Proof.Machine.execHealthy s
  | .mctpControl inst cmd data => Sys2Proof.Machine.execMctpControl inst cmd data s
  | .entdaa addr => Sys2Proof.Machine.execEntdaa addr s
  | .jtagInstruction ir => Sys2Proof.Machine.execJtagInstruction ir s
  | .rcRead src page word => Sys2Proof.Machine.execRcRead src page word s

end Sys2Proof.Machine
end

