-- ==== Sys2Proof/Machine/Tick.lean ====
section
/-!
DEFINITION. What time does when no command waits: one tick of the 5.2 GHz root clock (R374, R375), with the CCLK edges of the
dies and the PCLK edges of the hub that fall on it (log entry 21).
-/
namespace Sys2Proof.Machine

/-! ## CCLK -/

/-- Whether a tick is a CCLK edge of a die: its PLL is locked and its divider's periods have passed since the last. -/
def edgeDue (s : State) (d : Nat) : Bool :=
  (rd s pgCLK F.CLK_STATE.LOCK).testBit d && decide (tabGet 0 s.pow.edgeAt d + divPeriods (dieDiv s d) ≤ s.tick)

/-- A CCLK edge of a die: its cores go on by one cycle, and their Courier messages whose data is read are sent. -/
def cclkEdge (s : State) (d : Nat) : State :=
  let s1 := updPow (dieEdge s d) (fun p => { p with edgeAt := tabPut 0 p.edgeAt d s.tick })
  ((s1.cores.map (·.1)).filter (fun n => dieOf n == d)).foldl courierPump s1

/-! ## PCLK -/

/-- The idle cause of a logical core (R295), or none. -/
def idleCause (s : State) (b : Nat) (x : LCore) : Option Nat :=
  let j := jobOf s b
  if x.ended || lcoreGone j x then none
  else match x.pcore with
    | none => some (if b = 0 ∧ jobState s 1 ≠ 0 then 0 else 1)
    | some n =>
      let k := core s n
      match k.run with
      | .muster _ kind _ _ =>
        let xs := (List.range j.nl).map (lcoreOf j)
        if xs.any (fun y => y.arrived.isNone && !lcoreGone j y) then some 2
        else if kind = 1 ∧ j.stepGate ∧ !j.permitTaken then some 3
        else match nextPos j kind with
          | some p => some (if relayMissing s b p then 4 else 5)
          | none => some 5
      | .waitt .. => some 7
      | .issuing => if k.segWait then some 7 else if dieDiv s (dieOf n) = 0 then none else some 6
      | .idle => none
      | .ended => none

/-- Count one PCLK for every idle logical core of the job held (R295). -/
def countIdle (s : State) : State :=
  let b := if jobState s 0 = 0 then 1 else 0
  (jobOf s b).lcores.foldl (fun s x =>
    match idleCause s b x.2 with
    | some c => updCar s (fun k => { k with idle := tabPut 0 k.idle (8 * x.1 + c) ((tabGet 0 k.idle (8 * x.1 + c) + 1) % 2 ^ 64) })
    | none => s) s

/-- PWR_THROT_TIME (R397): PCLK with any die above ÷4. -/
def countThrottle (s : State) : State :=
  if [0, 1, 2, 3].any (fun d => dieDiv s d != 0) then
    add64 s pgPWR F.PWR_THROT_TIME_LO.COUNT F.PWR_THROT_TIME_HI.COUNT 0 1 else s

/-- Whether a message type is one that R408 or R427 lists. -/
def typeListed (ty : Nat) : Bool := (decide (1 ≤ ty) && decide (ty ≤ 8)) || (decide (0x10 ≤ ty) && decide (ty ≤ 0x18))

/-- The first Craul MGMT message that no command serves: a request of an unlisted type is answered BAD_OPCODE (R408), and
a response or a message of a reserved OP is discarded. -/
def settleMgmt (s : State) : State :=
  match s.fab.mgmtq.find? (fun q => q.msg.op != 0xC0
      && !((q.msg.op == 0xC1 || q.msg.op == 0xD0) && typeListed (msgFields q.msg.data).1)) with
  | none => s
  | some q =>
    if q.msg.op = 0xC1 ∧ !innkRuns s then s
    else
      let s1 := returnUnits (updFab s (fun f => { f with mgmtq := f.mgmtq.erase q })) q
      let (ty, tag, _, _) := msgFields q.msg.data
      if q.msg.op = 0xC1 ∨ q.msg.op = 0xD0 then reply s1 (.fabric q.msg.src (q.msg.op + 1) ty tag) 0x20 0 0 [] else s1

/-- What is due on a host port: frames that a pause held, and a repeated pause frame (R306). -/
def portTick (s : State) (i : Nat) : State :=
  let s1 := flushTx s i
  if tabGet 0 s1.host.xoffAt i = 0 then s1 else pauseAt s1 i (tabGet 0 s1.host.rxFree i)

/-- A PCLK edge: the event stamp counts on (R355), and what counts in PCLK does. -/
def pclkEdge (s : State) : State :=
  if (rd s pgCLK F.CLK_STATE.LOCK).testBit 4 then
    settleMgmt ([0, 1, 2, 3].foldl portTick (countThrottle (countIdle { s with esc := (s.esc + 1) % 2 ^ 64 })))
  else s

/-! ## The tick -/

/-- One tick of the root clock: the CCLK edges due, die by die, then on each sixteenth tick a PCLK edge. -/
def rootTick (s : State) : State :=
  let s1 := (List.range 4).foldl (fun s d => if edgeDue s d then cclkEdge s d else s) { s with tick := s.tick + 1 }
  if s1.tick % 16 = 0 then pclkEdge s1 else s1

end Sys2Proof.Machine
end

