-- ==== Sys2Proof/Safety.lean ====
section
/-!
DEFINITION. What the statements speak of: the invariant of the module's state, the relation between a command and its
effect, and what a command leaves alone.
-/
namespace Sys2Proof.Machine

/-- A scratchpad is canonical byte memory (R80, R81), and scalar, vector and mask registers (R155) are canonical tables. -/
def coreTabsOk (spad : Memory) (sregs : SMap DWord) (vregs : SMap (BitVec 4096)) (mregs : SMap (BitVec 128)) : Prop :=
  Memory.wf spad = true ∧ smWf (fun _ => 0) sregs = true ∧ smWf (fun _ => 0) vregs = true ∧ smWf (fun _ => 0) mregs = true

/-- The tables of a core are canonical. -/
def Core.ok (c : Core) : Prop := coreTabsOk c.spad c.sregs c.vregs c.mregs

/-- The saved cores of a job are canonical (R351). -/
def Job.ok (j : Job) : Prop := ∀ l ∈ j.lcores, ∀ c, l.2.saved = some c → c.ok

/-- The invariant of the module: every table that State holds is canonical (register words, cores, cycle counts, grants,
jobs, the bytes of stacked memory and of every scratchpad), no more than 256 events wait (R328), and the hub buffer of the
event log holds no more than 512 records (R409). -/
structure State.Inv (s : State) : Prop where
  regs : smWf regDefault s.regs = true
  cores : smWf (fun _ => Core.reset) s.cores = true
  spads : ∀ e ∈ s.cores, e.2.ok
  jobs : smWf (fun _ => ({} : Job)) s.jobs = true
  saved : ∀ e ∈ s.jobs, e.2.ok
  dieCyc : smWf (fun _ => 0) s.dieCyc = true
  grants : smWf (fun _ => ({} : Grant)) s.grants = true
  mem : Memory.wf s.hbm.mem = true
  events : s.events.length ≤ 256
  buf : s.innk.buf.length ≤ 512

/-- The invariant, and the queue is `p`. -/
def Kept (p : List Instr) (s : State) : Prop := s.pending = p ∧ s.Inv

/-! ## What the statements say of a command -/

/-- The command runs at `s` and leaves a state of which `Q` holds. -/
def Does (c : Instr) (s : State) (Q : State → Prop) : Prop := ∃ t, exec c s = .next t ∧ Q t

/-- Only core `n` differs. -/
def OnlyCore (s t : State) (n : Nat) : Prop :=
  t = { s with cores := t.cores } ∧ ∀ m, m ≠ n → core t m = core s m

/-- Only the register words of the pages that `p` names differ. -/
def OnlyPages (s t : State) (p : Nat → Prop) : Prop :=
  t = { s with regs := t.regs } ∧ ∀ pg off, off < 4096 → ¬ p pg → rdW t pg off = rdW s pg off

/-- Only core `n` and the register words of the pages that `p` names differ. -/
def OnlyCorePages (s t : State) (n : Nat) (p : Nat → Prop) : Prop :=
  t = { s with cores := t.cores, regs := t.regs } ∧ (∀ m, m ≠ n → core t m = core s m)
    ∧ ∀ pg off, off < 4096 → ¬ p pg → rdW t pg off = rdW s pg off

/-- Every register word reads as before. -/
def SameRegs (s t : State) : Prop := ∀ pg off, rdW t pg off = rdW s pg off

/-- Every byte of stacked memory reads as before. -/
def SameHbm (s t : State) : Prop := ∀ a, memByte t.hbm.mem a = memByte s.hbm.mem a

/-- The program counter and the open loops after the bundle at the program counter of a core (R159). -/
def nextBundle (s : State) (n : Nat) : Nat × List LoopLvl := loopNext (core s n).loops (core s n).pc

/-- The SEQ slot of a core may issue, and the bundle after it is in program memory (R152, R159). -/
def SeqReady (s : State) (n : Nat) : Prop := canIssue s n = true ∧ (nextBundle s n).1 ≤ 4095

/-- The bundle at the program counter has issued (R152), and its SEQ operation has changed the core by `f`: nothing else
differs but what a trace of the bundle records (R194, R195). -/
def SeqIssued (s t : State) (n : Nat) (f : Core → Core) : Prop :=
  OnlyCore s t n ∧
  core t n = { f { core s n with
      lastPc := (core s n).pc, lastIssueAt := now s n + 1, nextIssue := now s n + 1,
      segWait := (core s n).switchPc == some (core s n).pc && (tabGet 0 (core s n).imem (core s n).pc).getLsbD 0,
      pc := (nextBundle s n).1, loops := (nextBundle s n).2 } with
    trace := (core t n).trace, traceSeq := (core t n).traceSeq, traceDrops := (core t n).traceDrops }

/-- A result that lands in cycle `at_` from a slot (R157). -/
def withResult (at_ x slot : Nat) (ev : LandEv) (c : Core) : Core :=
  { c with land := landInsert ⟨at_, 1, 4 * x + slot, ev⟩ c.land }

/-- Flags of a context that land in cycle `at_` (R171); none where none is raised. -/
def withFlags (at_ x ctx : Nat) (fl : Flags5) (c : Core) : Core :=
  if fl = flNone then c else withResult at_ x 2 (.flags ctx fl) c

/-- A slot operation (1 ARR, 2 VEC, 3 STR) may issue, its tag names a partition of the mode, and the partition's context is
not down (R68, R154). -/
def SlotReady (s : State) (i : Issue) (idx : Nat) : Prop :=
  slotOk s i.core.val idx = true ∧ i.tag.val < partCount (partMode s i.core.val)
    ∧ ctxDown s i.core.val (partCtx s i.core.val i.tag.val) = false

/-- A core after slot `idx` has issued in this cycle. -/
def slotUsed (s : State) (n idx : Nat) : Core :=
  { core s n with slotAt := tabPut 0 (core s n).slotAt idx (now s n + 1) }

/-- A VEC operation has issued: VEC_OPS counts it (R182), the core has changed by `f`, and nothing else differs. -/
def VecIssued (s t : State) (i : Issue) (f : Core → Core) : Prop :=
  let n := i.core.val
  t = { s with cores := t.cores, regs := t.regs } ∧ (∀ m, m ≠ n → core t m = core s m)
    ∧ core t n = f (slotUsed s n 2)
    ∧ rd64 t (pgVEC n) F.VEC_OPS_LO.COUNT F.VEC_OPS_HI.COUNT 0
        = (rd64 s (pgVEC n) F.VEC_OPS_LO.COUNT F.VEC_OPS_HI.COUNT 0 + 1) % 2 ^ 64
    ∧ ∀ pg off, off < 4096 → ¬ (pg = pgVEC n ∧ (off / 4 = F.VEC_OPS_LO.COUNT.off / 4 ∨ off / 4 = F.VEC_OPS_HI.COUNT.off / 4)) →
        rdW t pg off = rdW s pg off

/-- The change that a masked lane operation makes to its core (R164, R165): lane values of `srcs`, each lane that the mask
governs computed by `f`, land in V[vd] `lat` cycles later with the flags that those lanes raise. -/
def laneChange (s : State) (i : Issue) (lat w : Nat) (mk : Fin 8) (vd : Fin 32) (srcs : List (Fin 32))
    (f : List Nat → Nat × Flags5) (c : Core) : Core :=
  let n := i.core.val
  let m := mreg (core s n) mk.val
  let r := mapLanes w m (srcs.map (fun v => (vreg (core s n) v.val).toNat)) f
  withFlags (now s n + lat) (now s n) (partCtx s n i.tag.val) r.2
    (withResult (now s n + lat) (now s n) 2 (.vreg vd.val (maskBits m) (BitVec.ofNat 4096 r.1)) c)

/-- A scratchpad fault (R111) of `code` against context `ctx`, recorded for partition `p` of core `n`: the context is down from
the next cycle and one context fault is reported; no byte of memory and no other core changes. -/
def SpadFaults (s t : State) (n p ctx code : Nat) : Prop :=
  rd1 t (pgSPAD n) F.SPAD_FAULT.CODE p = code ∧ tabGet 0 (core t n).downAt ctx ≠ 0 ∧
  (∃ r, t.faults = s.faults ++ [r] ∧ r.ctx = ctx ∧ r.core = n ∧ r.status = spadStatus code) ∧
  (core t n).spad = (core s n).spad ∧ t.hbm = s.hbm ∧ ∀ m, m ≠ n → core t m = core s m

/-- A stream fault (R147) of `code` against context `ctx` of core `n`, in the same terms. -/
def StreamFaults (s t : State) (n ctx code : Nat) : Prop :=
  rd1 t (pgSTREAM n) F.STREAM_FAULT.CODE (ctxPart s n ctx) = code ∧ tabGet 0 (core t n).downAt ctx ≠ 0 ∧
  (∃ r, t.faults = s.faults ++ [r] ∧ r.ctx = ctx ∧ r.core = n ∧ r.status = streamStatus code) ∧
  (core t n).spad = (core s n).spad ∧ t.hbm = s.hbm ∧ ∀ m, m ≠ n → core t m = core s m

/-- Itinerary slot `sl` of core `n` becomes `v`; the core is otherwise `k` and nothing else differs. -/
def SlotBecomes (s t : State) (n sl : Nat) (k : Core) (v : Itin) : Prop :=
  OnlyCore s t n ∧ core t n = { k with slots := (core t n).slots } ∧ slotOf t n sl = v
    ∧ ∀ j, j ≠ sl → slotOf t n j = slotOf s n j

/-- The wide read of the STR slot that issues now from byte `a` (R82). -/
def strRead (s : State) (n ctx a len : Nat) (clsW : Bool) (act : AccAct) : Access :=
  { issue := now s n, bank := now s n + 2, port := .sr, part := 0, kind := 0, ord := 3, ctx := ctx,
    pieces := [(a, len)], clsW := clsW, act := act }

/-- A read of `len` bytes at offset `off` of handle `h` passes its checks: alignment, bounds, token and poison (R81, R97, R136,
R133). -/
def srOk (s : State) (n h off len : Nat) : Prop :=
  let hd := handleOf s n h
  wideReadOk (handleAddr hd off) len = true ∧ boundsBad s n h hd off len = false ∧ tokOf s n h = true
    ∧ poisonHit s n h off len = false

/-- A write of `len` bytes at offset `off` of handle `h` passes its checks (R81, R97). -/
def swOk (s : State) (n h off len : Nat) : Prop :=
  let hd := handleOf s n h
  writeOk hd.clsW (handleAddr hd off) len = true ∧ boundsBad s n h hd off len = false

end Sys2Proof.Machine
end

