-- ==== Sys2Proof/Certificates/Slice0/Obligations.lean ====
section
/-!
DEFINITION. The statements for the provers: what the commands of each family do, by the rules of the spec.
-/
open Sys2Proof (Byte DWord EthFrame Instr Issue RocePkt Slot Src TestFinding Via natField natSetField natToSigned)
open Sys2Proof.Machine

/-! ## The queue and the invariant -/

/-- The command at the front of the queue runs on the state with the queue's rest. -/
def Obligations.StepRunsFront : Prop :=
  ∀ (c : Instr) (cs : List Instr) (s : State), s.pending = c :: cs → step s = exec c { s with pending := cs }

/-- The invariant holds right after reset. -/
def Obligations.ResetInv : Prop := State.reset.Inv

/-- Every step keeps the invariant. -/
def Obligations.StepKeepsInv : Prop := ∀ s t : State, s.Inv → step s = .next t → t.Inv

/-- No command touches the queue of commands that wait. -/
def Obligations.ExecKeepsQueue : Prop :=
  ∀ (c : Instr) (s t : State), s.Inv → exec c s = .next t → t.pending = s.pending

/-! ## SEQ (R152, R157 to R161, R172) -/

/-- R158: the SEQ operations that compute a scalar result from scalar registers (a Fin 32 of 0 is S0, which reads zero). The
result lands 1 cycle later, 3 for MUL, and nothing but the core's issue state changes. -/
def Obligations.SeqArithmetic : Prop :=
  ∀ (s : State) (c : Fin 256) (rd ra rb : Fin 32) (imm : BitVec 32), s.Inv → SeqReady s c.val →
    let n := c.val
    let a := sreg (core s n) ra.val
    let b := sreg (core s n) rb.val
    let res (i : Instr) (lat : Nat) (v : DWord) : Prop :=
      Does i s (fun t => SeqIssued s t n (withResult (now s n + lat) (now s n) 0 (.sreg rd.val v)))
    res (.seqAdd c rd ra rb) 1 (BitVec.ofNat 64 ((a.toNat + b.toNat) % 2 ^ 64)) ∧
    res (.sub c rd ra rb) 1 (BitVec.ofInt 64 ((a.toNat : Int) - b.toNat)) ∧
    res (.and c rd ra rb) 1 (a &&& b) ∧
    res (.or c rd ra rb) 1 (a ||| b) ∧
    res (.xor c rd ra rb) 1 (a ^^^ b) ∧
    res (.shl c rd ra rb) 1 (BitVec.ofNat 64 (a.toNat * 2 ^ (b.toNat % 64))) ∧
    res (.shr c rd ra rb) 1 (BitVec.ofNat 64 (a.toNat / 2 ^ (b.toNat % 64))) ∧
    res (.sra c rd ra rb) 1 (BitVec.ofInt 64 (a.toInt / 2 ^ (b.toNat % 64))) ∧
    res (.mul c rd ra rb) 3 (BitVec.ofNat 64 (a.toNat * b.toNat)) ∧
    res (.addi c rd ra imm) 1 (BitVec.ofInt 64 (a.toInt + imm.toInt)) ∧
    res (.lih c rd ra imm) 1 (BitVec.ofNat 64 (imm.toNat * 2 ^ 32 + a.toNat % 2 ^ 32))

/-- R158, R161, R172: CMP, QOP, FTEST and RDS. FTEST with CLR clears the MASK bits of the context's FLAGS. -/
def Obligations.SeqTests : Prop :=
  ∀ (s : State) (c : Fin 256) (qd qa qb : Fin 8) (rd ra rb : Fin 32) (fn : BitVec 2) (part : Fin 4) (mask : BitVec 5),
    s.Inv → SeqReady s c.val →
    let n := c.val
    let k := core s n
    let a := sreg k ra.val
    let b := sreg k rb.val
    let sets (i : Instr) (v : Bool) : Prop :=
      Does i s (fun t => SeqIssued s t n (withResult (now s n + 1) (now s n) 0 (.pred qd.val v)))
    let gives (sel : BitVec 8) (v : DWord) : Prop :=
      Does (.rds c rd sel) s (fun t => SeqIssued s t n (withResult (now s n + 1) (now s n) 0 (.sreg rd.val v)))
    (sets (.cmp c qd ra rb 0) (decide (a = b)) ∧
      sets (.cmp c qd ra rb 1) (decide (a ≠ b)) ∧
      sets (.cmp c qd ra rb 2) (decide (a.toInt < b.toInt)) ∧
      sets (.cmp c qd ra rb 3) (decide (b.toInt ≤ a.toInt)) ∧
      sets (.cmp c qd ra rb 4) (decide (a.toNat < b.toNat)) ∧
      sets (.cmp c qd ra rb 5) (decide (b.toNat ≤ a.toNat))) ∧
    sets (.qop c qd qa qb fn)
      (if fn = 0 then preg k qa.val && preg k qb.val else if fn = 1 then preg k qa.val || preg k qb.val
        else if fn = 2 then preg k qa.val != preg k qb.val else preg k qa.val && !preg k qb.val) ∧
    (gives 0 (BitVec.ofNat 64 (k.lcore.getD 0)) ∧
      gives 1 (BitVec.ofNat 64 n) ∧
      gives 2 (BitVec.ofNat 64 (partMode s n + 2 ^ 4 * partCtx s n 0 + 2 ^ 8 * partCtx s n 1 + 2 ^ 12 * partCtx s n 2
        + 2 ^ 16 * partCtx s n 3)) ∧
      gives 3 (BitVec.ofNat 64 (rd64 s pgJOB F.JOB_STEPNUM_L_LO.NUM F.JOB_STEPNUM_L_HI.NUM k.bank)) ∧
      gives 4 (BitVec.ofNat 64 (rd1 s pgJOB F.JOB_STEPSZ_L.SZ k.bank)) ∧
      gives 5 (BitVec.ofNat 64 k.taskCyc) ∧
      gives 6 (BitVec.ofNat 64 s.esc)) ∧
    (part.val < partCount (partMode s n) →
      let ctx := partCtx s n part.val
      let f := tabGet flNone k.flags ctx
      sets (.ftest c qd part false mask) (decide (f &&& mask ≠ 0)) ∧
      Does (.ftest c qd part true mask) s (fun t => SeqIssued s t n (fun k' =>
        withResult (now s n + 1) (now s n) 0 (.pred qd.val (decide (f &&& mask ≠ 0)))
          { k' with flags := tabPut flNone k.flags ctx (f &&& ~~~mask) })))

/-- R152, R158, R159: NOP, BR, LOOP and END. A taken branch issues its target three cycles later and closes every open loop
whose body does not hold the target; a LOOP opens its body, or with a count of 0 goes on after its END. -/
def Obligations.SeqControl : Prop :=
  ∀ (s : State) (c : Fin 256) (tag : Fin 4) (q : Fin 8) (neg : Bool) (tgt last : BitVec 12) (ra : Fin 32),
    s.Inv → canIssue s c.val = true →
    let n := c.val
    let k := core s n
    let count := (sreg k ra.val).toNat % 2 ^ 32
    ((nextBundle s n).1 ≤ 4095 →
      Does (.nop ⟨c, tag⟩ .seq) s (fun t => SeqIssued s t n id) ∧
      (preg k q.val = neg → Does (.br c q neg tgt) s (fun t => SeqIssued s t n id))) ∧
    (preg k q.val ≠ neg → Does (.br c q neg tgt) s (fun t => SeqIssued s t n (fun k' =>
      { k' with pc := tgt.toNat, nextIssue := now s n + 3,
                loops := k.loops.filter (fun l => decide (l.first ≤ tgt.toNat ∧ tgt.toNat ≤ l.last)) }))) ∧
    (k.pc < last.toNat → (∀ l r, k.loops = l :: r → last.toNat ≤ l.last) → k.loops.length < 4 → 0 < count →
      Does (.seqLoop c ra last) s (fun t => SeqIssued s t n (fun k' =>
        { k' with pc := k.pc + 1, loops := ⟨k.pc + 1, last.toNat, count - 1⟩ :: k.loops }))) ∧
    (k.pc < last.toNat → (∀ l r, k.loops = l :: r → last.toNat ≤ l.last) → count = 0 →
      (loopNext k.loops last.toNat).1 ≤ 4095 →
      Does (.seqLoop c ra last) s (fun t => SeqIssued s t n (fun k' =>
        { k' with pc := (loopNext k.loops last.toNat).1, loops := (loopNext k.loops last.toNat).2 }))) ∧
    Does (.seqEnd c) s (fun t => SeqIssued s t n (fun k' => { k' with run := .ended }))

/-- R142, R160: MUSTER stops issue until its release; WAITT, on a handle other than 63, stops it until the token or the limit unless the token is set;
a waiting WAITT whose token is set, or whose limit has passed, issues the next bundle in the following cycle; LDS makes a narrow access of
the 32 bytes that hold the 8 asked for. -/
def Obligations.SeqWaits : Prop :=
  (∀ (s : State) (c : Fin 256) (scope : Bool) (kind fence : BitVec 2) (qd : Fin 8) (dst ra : Fin 32) (h : Fin 64),
    s.Inv → SeqReady s c.val →
    let n := c.val
    let k := core s n
    let off := (sreg k ra.val).toNat
    let o32 := off - off % 32
    let hd := handleOf s n h.val
    (kind ≠ 3 → fence ≠ 3 → Does (.muster c scope kind fence) s (fun t =>
      t = { s with cores := t.cores, regs := t.regs } ∧ rd t (pgSTREAM n) F.MUSTER_STAT.WAIT = 1
        ∧ SeqIssued s { t with regs := s.regs } n (fun k' =>
            { k' with run := .muster fence.toNat kind.toNat (if scope then 1 else 0) false, waitFrom := now s n, waitEsc := s.esc }))) ∧
    (h.val ≠ 63 → tokOf s n h.val = true → Does (.waitt c qd ra h) s (fun t =>
      SeqIssued s t n (withResult (now s n + 1) (now s n) 0 (.pred qd.val true)))) ∧
    (h.val ≠ 63 → tokOf s n h.val = false → Does (.waitt c qd ra h) s (fun t =>
      SeqIssued s t n (fun k' => { k' with run := .waitt qd.val h.val off, waitFrom := now s n }))) ∧
    (off % 8 = 0 → boundsBad s n h.val hd o32 32 = false → tokOf s n h.val = true → poisonHit s n h.val o32 32 = false →
      Does (.lds c dst ra h) s (fun t => SeqIssued s t n (fun k' => { k' with acc := k'.acc ++
        [{ issue := now s n, bank := now s n + 2, port := .nv, part := 0, kind := 0, ord := 0, ctx := partCtx s n 0,
           pieces := [(64 * hd.base + o32, 32)], clsW := hd.clsW, act := .lds dst.val (off % 32) }] })))) ∧
  ∀ (s : State) (c : Fin 256) (qd h limit : Nat), s.Inv → (core s c.val).run = .waitt qd h limit →
    let n := c.val
    (tokOf s n h = true ∨ (core s n).waitFrom + limit ≤ now s n) →
      Does (.waittResume c) s (fun t => OnlyCore s t n ∧
        core t n = { withResult (now s n + 1) (now s n) 0 (.pred qd (tokOf s n h)) (core s n) with
                     run := .issuing, nextIssue := now s n + 1 })

/-- R158, R159, R161, R180: a reserved COND, SEL, MUSTER operand or an absent partition, a fifth loop, or an END that R159
refuses, raises ILLEGAL against every context on the core: each is down from the next cycle and SEQ_FAULT tells the slot and the bundle;
no register is written. -/
def Obligations.SeqIllegal : Prop :=
  ∀ (s : State) (c : Fin 256) (i : Instr), s.Inv → SeqReady s c.val →
    let n := c.val
    let k := core s n
    (∀ p < partCount (partMode s n), ctxDown s n (partCtx s n p) = false ∧ rd1 s (pgSEQ n) F.SEQ_FAULT.CODE p = 0) →
    ((∃ qd ra rb cond, 6 ≤ cond.toNat ∧ i = .cmp c qd ra rb cond) ∨
      (∃ rd sel, 7 ≤ sel.toNat ∧ i = .rds c rd sel) ∨
      (∃ qd part clr mask, partCount (partMode s n) ≤ part.val ∧ i = .ftest c qd part clr mask) ∨
      (∃ scope kind fence, (kind = 3 ∨ fence = 3) ∧ i = .muster c scope kind fence) ∨
      (∃ ra last, last.toNat ≤ k.pc ∧ i = .seqLoop c ra last) ∨
      (∃ ra last l r, k.loops = l :: r ∧ l.last < last.toNat ∧ i = .seqLoop c ra last) ∨
      (∃ ra last, 4 ≤ k.loops.length ∧ (sreg k ra.val).toNat % 2 ^ 32 ≠ 0 ∧ i = .seqLoop c ra last)) →
    Does i s (fun t =>
      (∀ p < partCount (partMode s n), rd1 t (pgSEQ n) F.SEQ_FAULT.CODE p = 1 ∧ rd1 t (pgSEQ n) F.SEQ_FAULT.SLOT p = 0
        ∧ rd1 t (pgSEQ n) F.SEQ_FAULT.PC p = k.pc % 4096 ∧ tabGet 0 (core t n).downAt (partCtx s n p) ≠ 0) ∧
      (core t n).sregs = k.sregs ∧ (core t n).preds = k.preds ∧ (core t n).vregs = k.vregs ∧ (core t n).mregs = k.mregs ∧
      (core t n).land = k.land ∧ (core t n).spad = k.spad ∧ SameHbm s t ∧ ∀ m, m ≠ n → core t m = core s m)

/-- R155: a scalar, predicate, vector or mask result is written when it lands: S0, Q0 and M0 ignore it, a vector or mask
result changes only the bits it names, and every other register keeps its value. -/
def Obligations.ResultsWriteRegisters : Prop :=
  ∀ (s : State) (n : Nat), s.Inv →
    let k := core s n
    (∀ (r : Fin 32) (v : DWord), let t := applyLand s n (.sreg r.val v)
      OnlyCore s t n ∧ core t n = { k with sregs := (core t n).sregs }
        ∧ ∀ r' : Fin 32, sreg (core t n) r'.val = if r' = 0 then 0 else if r' = r then v else sreg k r'.val) ∧
    (∀ (q : Fin 8) (v : Bool), let t := applyLand s n (.pred q.val v)
      OnlyCore s t n ∧ core t n = { k with preds := (core t n).preds }
        ∧ ∀ q' : Fin 8, preg (core t n) q'.val = if q' = 0 then true else if q' = q then v else preg k q'.val) ∧
    (∀ (r : Fin 32) (bits v : BitVec 4096), let t := applyLand s n (.vreg r.val bits v)
      OnlyCore s t n ∧ core t n = { k with vregs := (core t n).vregs }
        ∧ ∀ (r' : Fin 32) (j : Nat), j < 4096 → (vreg (core t n) r'.val).getLsbD j
            = if r' = r ∧ bits.getLsbD j then v.getLsbD j else (vreg k r'.val).getLsbD j) ∧
    (∀ (m : Fin 8) (bits v : BitVec 128), let t := applyLand s n (.mreg m.val bits v)
      OnlyCore s t n ∧ core t n = { k with mregs := (core t n).mregs }
        ∧ ∀ (m' : Fin 8) (j : Nat), j < 128 → (mreg (core t n) m'.val).getLsbD j
            = if m' = 0 then true else if m' = m ∧ bits.getLsbD j then v.getLsbD j else (mreg k m'.val).getLsbD j)

/-! ## VEC (R156, R163 to R168, R178) -/

/-- R164, R165: the float operations of masked lanes, at their latencies, in the lane types the table permits; every active
lane is computed by the lane's exact value rounded once (`laneAdd` and its like), and no other lane is written. -/
def Obligations.VecFloatLanes : Prop :=
  ∀ (s : State) (i : Issue) (ty : BitVec 2) (mk : Fin 8) (vd va vb vc : Fin 32), s.Inv → SlotReady s i 2 →
    let w := if ty = 1 then 16 else 32
    let fmt := if ty = 1 then fmtBF16 else fmtFP32
    let runs (c : Instr) (lat w : Nat) (srcs : List (Fin 32)) (f : List Nat → Nat × Flags5) : Prop :=
      Does c s (fun t => VecIssued s t i (laneChange s i lat w mk vd srcs f))
    (ty = 0 ∨ ty = 1 →
      runs (.vadd i ty mk vd va vb) 4 w [va, vb] (fun l => laneAdd fmt (l.getD 0 0) (l.getD 1 0)) ∧
      runs (.vsub i ty mk vd va vb) 4 w [va, vb] (fun l => laneSub fmt (l.getD 0 0) (l.getD 1 0)) ∧
      runs (.vmul i ty mk vd va vb) 4 w [va, vb] (fun l => laneMul fmt (l.getD 0 0) (l.getD 1 0)) ∧
      runs (.vfma i ty mk vd va vb vc) 4 w [va, vb, vc] (fun l => laneFma fmt (l.getD 0 0) (l.getD 1 0) (l.getD 2 0)) ∧
      runs (.vmax i ty mk vd va vb) 2 w [va, vb] (fun l => laneMax fmt (l.getD 0 0) (l.getD 1 0)) ∧
      runs (.vmin i ty mk vd va vb) 2 w [va, vb] (fun l => laneMin fmt (l.getD 0 0) (l.getD 1 0)) ∧
      runs (.vabs i ty mk vd va) 2 w [va] (fun l => laneAbs fmt (l.getD 0 0)) ∧
      runs (.vneg i ty mk vd va) 2 w [va] (fun l => laneNeg fmt (l.getD 0 0)) ∧
      runs (.vsgn i ty mk vd va) 2 w [va] (fun l => laneSgn fmt (l.getD 0 0))) ∧
    runs (.vdiv i 0 mk vd va vb) 12 32 [va, vb] (fun l => fDiv (l.getD 0 0) (l.getD 1 0)) ∧
    runs (.vsqrt i 0 mk vd va) 12 32 [va] (fun l => fSqrt (l.getD 0 0)) ∧
    runs (.vexp2 i 0 mk vd va) 8 32 [va] (fun l => fExp2 (l.getD 0 0)) ∧
    runs (.vlog2 i 0 mk vd va) 8 32 [va] (fun l => fLog2 (l.getD 0 0)) ∧
    runs (.vscaleb i 0 mk vd va vb) 2 32 [va, vb] (fun l => laneScaleb (l.getD 0 0) (l.getD 1 0)) ∧
    runs (.vftoi i 0 mk vd va) 2 32 [va] (fun l => laneFtoi (l.getD 0 0)) ∧
    runs (.vitof i 2 mk vd va) 2 32 [va] (fun l => laneItof (l.getD 0 0))

/-- R164, R156: the integer operations of masked INT32 lanes, at latency 1 (VMAX and VMIN 2), which raise no flag: sums and
differences wrap, shifts go by VB[4:0], VISHR is logical, VMAX and VMIN compare as two's complement. -/
def Obligations.VecIntLanes : Prop :=
  ∀ (s : State) (i : Issue) (mk : Fin 8) (vd va vb : Fin 32), s.Inv → SlotReady s i 2 →
    let runs (c : Instr) (lat : Nat) (f : Nat → Nat → Nat) : Prop :=
      Does c s (fun t => VecIssued s t i
        (laneChange s i lat 32 mk vd [va, vb] (fun l => (f (l.getD 0 0) (l.getD 1 0), flNone))))
    runs (.viadd i 2 mk vd va vb) 1 (fun a b => (a + b) % 2 ^ 32) ∧
    runs (.visub i 2 mk vd va vb) 1 (fun a b => (a + 2 ^ 32 - b) % 2 ^ 32) ∧
    runs (.viand i 2 mk vd va vb) 1 (fun a b => a &&& b) ∧
    runs (.vior i 2 mk vd va vb) 1 (fun a b => a ||| b) ∧
    runs (.vixor i 2 mk vd va vb) 1 (fun a b => a ^^^ b) ∧
    runs (.vishl i 2 mk vd va vb) 1 (fun a b => (a * 2 ^ (b % 32)) % 2 ^ 32) ∧
    runs (.vishr i 2 mk vd va vb) 1 (fun a b => a / 2 ^ (b % 32)) ∧
    runs (.vmax i 2 mk vd va vb) 2 (fun a b => if natToSigned 32 a ≤ natToSigned 32 b then b else a) ∧
    runs (.vmin i 2 mk vd va vb) 2 (fun a b => if natToSigned 32 a ≤ natToSigned 32 b then a else b)

/-- R156, R165: when the result of a masked lane operation lands, a lane of its type that the mask governs holds the computed
value, and every other lane holds what it held. -/
def Obligations.VecMaskedWrite : Prop :=
  ∀ (s : State) (n : Nat) (w : Nat) (m : BitVec 128) (vd : Fin 32) (vs : List Nat) (f : List Nat → Nat × Flags5),
    s.Inv → w = 16 ∨ w = 32 →
    let t := applyLand s n (.vreg vd.val (maskBits m) (BitVec.ofNat 4096 (mapLanes w m vs f).1))
    ∀ j, j < 4096 / w → lane w (vreg (core t n) vd.val).toNat j =
      if m.getLsbD (j * w / 32) then (f (vs.map (fun v => lane w v j))).1 % 2 ^ w
      else lane w (vreg (core s n) vd.val).toNat j

/-- R164, R165: VCMP, VSEL, VBCAST, VREDS, VBMAX, VMPACK and VMUNPK. -/
def Obligations.VecMovesAndReductions : Prop :=
  ∀ (s : State) (i : Issue) (ty : BitVec 2) (mk md : Fin 8) (vd va vb ra dst : Fin 32) (cond : BitVec 3) (fn : BitVec 2),
    s.Inv → SlotReady s i 2 →
    let n := i.core.val
    let x := now s n
    let k := core s n
    let ctx := partCtx s n i.tag.val
    let m := mreg k mk.val
    let a := (vreg k va.val).toNat
    let b := (vreg k vb.val).toNat
    (cond ≠ 7 → ty = 0 ∨ ty = 2 → Does (.vcmp i ty mk md va vb cond) s (fun t => VecIssued s t i (fun c =>
      let rs := (List.range 128).map (fun j => if m.getLsbD j then cmpLane ty cond (lane 32 a j) (lane 32 b j) else (false, flNone))
      withFlags (x + 2) x ctx (rs.foldl (fun f r => f ||| r.2) flNone)
        (withResult (x + 2) x 2 (.mreg md.val m (BitVec.ofNat 128 (packLanes 1 (rs.map (fun r => bit r.1))))) c)))) ∧
    (ty ≠ 3 → Does (.vsel i ty mk vd va vb) s (fun t => VecIssued s t i (withResult (x + 2) x 2
      (.vreg vd.val (BitVec.allOnes 4096)
        ((vreg k va.val &&& maskBits m) ||| (vreg k vb.val &&& ~~~(maskBits m))))))) ∧
    (ty ≠ 3 → Does (.vbcast i ty mk vd ra) s (fun t => VecIssued s t i (withResult (x + 1) x 2
      (.vreg vd.val (maskBits m) (BitVec.ofNat 4096 (packLanes (if ty = 1 then 16 else 32)
        (List.replicate (if ty = 1 then 256 else 128) ((sreg k ra.val).toNat % 2 ^ (if ty = 1 then 16 else 32))))))))) ∧
    (fn ≠ 3 → Does (.vreds i 0 mk dst va fn) s (fun t => VecIssued s t i (fun c =>
      withFlags (x + 6) x ctx (redsValue fn m a).2
        (withResult (x + 6) x 2 (.sreg dst.val (BitVec.ofNat 64 (redsValue fn m a).1)) c)))) ∧
    Does (.vbmax i 0 mk vd va) s (fun t => VecIssued s t i (withResult (x + 2) x 2
      (.vreg vd.val (maskBits m) (BitVec.ofNat 4096 (packLanes 32 ((List.range 128).map (fun j =>
        maxFiniteWord (((List.range 32).filter (fun q => m.getLsbD (32 * (j / 32) + q))).map
          (fun q => lane 32 a (32 * (j / 32) + q)))))))))) ∧
    Does (.vmpack i mk vd) s (fun t => VecIssued s t i (withResult (x + 1) x 2
      (.vreg vd.val (BitVec.ofNat 4096 (2 ^ 128 - 1)) (BitVec.ofNat 4096 m.toNat)))) ∧
    Does (.vmunpk i md va) s (fun t => VecIssued s t i (withResult (x + 1) x 2
      (.mreg md.val (BitVec.allOnes 128) (BitVec.ofNat 128 (a % 2 ^ 128)))))

/-- R166, R167, R168: VCVT encodes 128 lanes into a group of VD and its scales into VC, and with SCTEN raises the entry's
running maximum; VDEC decodes a group; VRNG writes a Philox word to each lane. A stochastic operation claims the generators. -/
def Obligations.VecConversions : Prop :=
  ∀ (s : State) (i : Issue) (vd va vb re rt : Fin 32) (fmt : BitVec 8) (grp : Fin 8) (sct : BitVec 8) (sctEn : Bool),
    s.Inv → SlotReady s i 2 →
    let n := i.core.val
    let x := now s n
    let k := core s n
    let ctx := partCtx s n i.tag.val
    let fb := formatByteOf fmt
    let gs := elemBytes fb.elem 128
    let ws := (List.range 128).map (lane 32 (vreg k va.val).toNat)
    let e0 := (sreg k re.val).toNat / 4 * 4
    let tid := (sreg k rt.val).toNat % 2 ^ 32
    let claim (op : Nat) (c : Core) : Core :=
      { c with phxVec := c.phxVec ++ [{ issue := x, ctx := ctx, op := op, pc := bundlePc s n, part := i.tag.val }] }
    let sp := scalePlace fb grp.val
    (formatOk fb = true → grp.val < 512 / gs →
      (fb.scl ≠ 1 ∨ sctEn = true → Does (.vcvt i 0 vd va vb fmt grp sct sctEn re rt) s (fun t => VecIssued s t i (fun c =>
        let enc := encodeWords fb (scaleEnt k sct.toNat).k ws (roundings s n fb.rnd tid e0 128)
        let c1 := withResult (x + 6) x 2 (.vreg vd.val (byteBits (gs * grp.val) gs)
          (BitVec.ofNat 4096 (enc.data * 2 ^ (8 * (gs * grp.val))))) c
        let c2 := if sp.2 = 0 then c1
          else withResult (x + 6) x 2 (.vreg vb.val (byteBits sp.1 sp.2) (BitVec.ofNat 4096 (enc.scales * 2 ^ (8 * sp.1)))) c1
        let c3 := withFlags (x + 6) x ctx enc.flags c2
        let c4 := if sctEn then withResult (x + 7) x 2 (.rmax sct.toNat (rmaxOf ws).1 (rmaxOf ws).2) c3 else c3
        if fb.rnd then claim 0x20 c4 else c4))) ∧
      Does (.vdec i vd va vb fmt grp sct sctEn) s (fun t => VecIssued s t i (fun c =>
        let data := natField (vreg k va.val).toNat (8 * (gs * grp.val)) (8 * gs)
        let scales := natField (vreg k vb.val).toNat (8 * sp.1) (8 * sp.2)
        let rs := (List.range 128).map (fun j =>
          decodedWord (decodeElem fb.elem fb.scl (groupScale fb scales j) (j % 32 / 8) (packedElem fb.elem data j)))
        withFlags (x + 4) x ctx (rs.foldl (fun f r => f ||| r.2) flNone)
          (withResult (x + 4) x 2 (.vreg vd.val (BitVec.allOnes 4096) (BitVec.ofNat 4096 (packLanes 32 (rs.map (·.1))))) c)))) ∧
    Does (.vrng i vd re rt) s (fun t => VecIssued s t i (fun c =>
      claim 0x22 (withResult (x + 6) x 2 (.vreg vd.val (BitVec.allOnes 4096) (BitVec.ofNat 4096 (packLanes 32
        ((List.range 128).map (fun j => philoxWord (coreSeed s n) (coreStep s n) tid ((e0 + j) % 2 ^ 64)))))) c)))

/-- R165, R178: VLD and VST make one narrow access at handle H and offset S[RA] + IMM; VST with DLV is a delivery that
completes in cycle x + 10; VSCRD reads a scale-table entry, and VSCWR sets its K, unless lane 0 is a NaN, which raises IV. -/
def Obligations.VecMemoryAndScale : Prop :=
  ∀ (s : State) (i : Issue) (vd va ra : Fin 32) (h : Fin 64) (len : BitVec 3) (wid : Bool) (imm : BitVec 24),
    s.Inv → SlotReady s i 2 →
    let n := i.core.val
    let x := now s n
    let k := core s n
    let ctx := partCtx s n i.tag.val
    let off := ((sreg k ra.val).toNat + imm.toNat) % 2 ^ 64
    let l := 32 * 2 ^ len.toNat
    let hd := handleOf s n h.val
    let a := 64 * hd.base + off
    let access (act : AccAct) (c : Core) : Core := { c with acc := c.acc ++
      [{ issue := x, bank := x + 2, port := .nv, part := 0, kind := 0, ord := 2, ctx := ctx, pieces := [(a, l)],
         clsW := hd.clsW, act := act }] }
    let data := natToBytes l (vreg k va.val).toNat
    let e := (sreg k ra.val).toNat % 256
    (len.toNat ≤ 4 → a % l = 0 → boundsBad s n h.val hd off l = false →
      (¬ (wid = true ∧ len = 4) → tokOf s n h.val = true → poisonHit s n h.val off l = false →
        Does (.vld i vd h ra len wid imm) s (fun t => VecIssued s t i (access (.vld vd.val wid (4 * x + 2))))) ∧
      ((hd.clsW = true → a % 128 = 0 ∧ l % 128 = 0) →
        Does (.vst i va h ra len false imm) s (fun t => VecIssued s t i (access (.write data))) ∧
        Does (.vst i va h ra len true imm) s (fun t => VecIssued s t i (fun c =>
          { access (.write data) c with land := landInsert ⟨x + 11, 0, x + 10, .complete h.val⟩ c.land })))) ∧
    Does (.vscrd i vd ra) s (fun t => VecIssued s t i (withResult (x + 4) x 2 (.vreg vd.val (BitVec.allOnes 4096)
      (BitVec.ofNat 4096 (packLanes 32 ((scaleEnt k e).hist ++
        [(scaleEnt k e).rmax, kWord (scaleEnt k e).k, if (scaleEnt k e).nan then 0x3F800000 else 0])))))) ∧
    (∀ q, kOfWord (lane 32 (vreg k va.val).toNat 0) = some q →
      Does (.vscwr i va ra) s (fun t => VecIssued s t i (withResult (x + 1) x 2 (.scaleK e q)))) ∧
    (kOfWord (lane 32 (vreg k va.val).toNat 0) = none →
      Does (.vscwr i va ra) s (fun t => VecIssued s t i (withFlags (x + 1) x ctx flIV)))

/-- R164, R180: a type, COND or FN that the operation does not permit raises ILLEGAL against the context of the tag's
partition: SEQ_FAULT tells the VEC slot and the bundle, the context is down from the next cycle, and no result lands. -/
def Obligations.VecIllegal : Prop :=
  ∀ (s : State) (i : Issue) (mk md : Fin 8) (vd va vb vc ra dst : Fin 32), s.Inv → SlotReady s i 2 →
    let n := i.core.val
    let p := i.tag.val
    rd1 s (pgSEQ n) F.SEQ_FAULT.CODE p = 0 →
    ∀ c ∈ [Instr.vadd i 3 mk vd va vb, .vsub i 3 mk vd va vb, .vmul i 2 mk vd va vb, .vfma i 2 mk vd va vb vc, .vmax i 3 mk vd va vb,
        .vmin i 3 mk vd va vb, .vabs i 2 mk vd va, .vneg i 3 mk vd va, .vsgn i 2 mk vd va, .vdiv i 1 mk vd va vb,
        .vsqrt i 1 mk vd va, .vexp2 i 2 mk vd va, .vlog2 i 3 mk vd va, .vcmp i 1 mk md va vb 0, .vcmp i 0 mk md va vb 7,
        .vsel i 3 mk vd va vb, .viadd i 0 mk vd va vb, .visub i 1 mk vd va vb, .viand i 3 mk vd va vb, .vior i 0 mk vd va vb,
        .vixor i 1 mk vd va vb, .vishl i 3 mk vd va vb, .vishr i 0 mk vd va vb, .vftoi i 2 mk vd va, .vitof i 0 mk vd va,
        .vbcast i 3 mk vd ra, .vreds i 0 mk dst va 3, .vreds i 1 mk dst va 0, .vbmax i 1 mk vd va, .vscaleb i 2 mk vd va vb],
      Does c s (fun t => rd1 t (pgSEQ n) F.SEQ_FAULT.CODE p = 1 ∧ rd1 t (pgSEQ n) F.SEQ_FAULT.SLOT p = 2
        ∧ rd1 t (pgSEQ n) F.SEQ_FAULT.PC p = bundlePc s n % 4096 ∧ tabGet 0 (core t n).downAt (partCtx s n p) ≠ 0
        ∧ (core t n).land = (core s n).land ∧ SameHbm s t ∧ ∀ m, m ≠ n → core t m = core s m)

/-! ## Number formats and rounding (R22 to R48) -/

/-- R43, R28: a value that a format represents converts to its own encoding, under either rounding, and raises no flag. Where the
unit 2^q is finer than the value's, the multiple is exact; else to nearest keeps the multiple of 2^q nearest to m × 2^e, the even one
of two, and stochastic rounding keeps the one below, or the one above when the random bits are below the fraction times 2^24 rounded
toward zero. -/
def Obligations.RoundingRule : Prop :=
  (∀ f ∈ [fmtFP32, fmtBF16, fmtE4M3, fmtE5M2, fmtE3M2, fmtE2M3, fmtE2M1], ∀ (r : Rnd) (w : Nat), w < 2 ^ fmtWidth f →
    fvIsNaN (decodeFmt f w) = false → convertTo f false r (decodeFmt f w) = (w, flNone)) ∧
  (∀ (r : Rnd) (m : Nat) (e q : Int), q ≤ e → roundAt r m e q = (m * 2 ^ (e - q).toNat, false)) ∧
  ∀ (m u : Nat) (e q : Int), e < q →
    let d := 2 ^ (q - e).toNat
    let near := roundAt .rne m e q
    let sto := roundAt (.sr u) m e q
    (∀ j : Nat, ((m : Int) - near.1 * d).natAbs ≤ ((m : Int) - j * d).natAbs ∧
      (((m : Int) - near.1 * d).natAbs = ((m : Int) - j * d).natAbs → j = near.1 ∨ near.1 % 2 = 0)) ∧
    near.2 = decide (m % d ≠ 0) ∧ sto.2 = decide (m % d ≠ 0) ∧
    sto.1 = m / d + (if m % d ≠ 0 ∧ u < (m % d) * 2 ^ 24 / d then 1 else 0)

/-! ## ARR (R52 to R79, R162, R522) -/

/-- R153, R154, R162: a NOP in the ARR, VEC or STR slot takes its slot and does nothing else, whatever its tag; DSET copies bytes
0 to 63 of V[VS] into its descriptor entry. -/
def Obligations.SlotNopAndDset : Prop :=
  ∀ (s : State) (i : Issue) (entry : Fin 16) (vs : Fin 32), s.Inv →
    let n := i.core.val
    (∀ x ∈ [(Slot.arr, 1), (Slot.vec, 2), (Slot.str, 3)], slotOk s n x.2 = true →
      Does (.nop i x.1) s (fun t => OnlyCore s t n ∧ core t n = slotUsed s n x.2)) ∧
    (SlotReady s i 1 → Does (.dset i entry vs) s (fun t => OnlyCore s t n ∧ core t n =
      { slotUsed s n 1 with
        desc := tabPut 0 (core s n).desc entry.val (BitVec.ofNat 512 ((vreg (core s n) vs.val).toNat % 2 ^ 512)) }))

/-- R54, R57, R58: a PASS that no check refuses copies its descriptor entry into its partition's queue, with the cycles of its
tile load and its latch; no other partition and nothing else of the core changes. -/
def Obligations.PassIssues : Prop :=
  ∀ (s : State) (i : Issue) (entry : Fin 16), s.Inv → SlotReady s i 1 →
    let n := i.core.val
    let p := i.tag.val
    let k := core s n
    let d := tabGet 0 k.desc entry.val
    let v := getPart k p
    let a := now s n
    let l := (coreDim s n).load
    passFault (partMode s n) p v d = none →
    Does (.pass i entry) s (fun t => OnlyCore s t n ∧ ∃ (v' : Part) (q : Pass),
      core t n = { slotUsed s n 1 with parts := tabPut {} k.parts p v' } ∧ v'.q = v.q ++ [q] ∧ v'.fault = v.fault ∧
      q.desc = d ∧ q.a = a ∧ q.loading = false ∧ q.latched = false ∧ q.drained = 0 ∧
      v'.lastS = some q.s ∧ v'.lastE = some (q.s + 3 + dM d + (if dFO d then 128 else 0)) ∧
      v'.lastT = (if dLoad d then some q.t else v.lastT) ∧
      (v.lastS = none → v.lastE = none → v.lastT = none → q.t = a ∧ q.s = (if dLoad d then a + l - 4 else a)) ∧
      (∀ sn en tp, v.lastS = some sn → v.lastE = some en → v.lastT = some tp →
        q.t = max a (max (sn + 4) (tp + l)) ∧
        q.s = (if dLoad d then max a (max (en + 1) (q.t + l - 4)) else max a (en + 1 - 4))))

/-- R65, R76, R77: a PASS whose descriptor a check refuses records the lowest code in ARRAY_FAULT of its partition, which enters
FAULT with its passes and its tile lost; the context is down from the next cycle. -/
def Obligations.PassFaults : Prop :=
  ∀ (s : State) (i : Issue) (entry : Fin 16) (code : Nat), s.Inv → SlotReady s i 1 →
    let n := i.core.val
    let p := i.tag.val
    let d := tabGet 0 (core s n).desc entry.val
    let v := getPart (core s n) p
    rd1 s (pgARRAY n) F.ARRAY_FAULT.CODE p = 0 →
    (code = 1 ∧ formatBad d = true ∨
      code = 2 ∧ formatBad d = false ∧ (dPart d ≠ p ∨ dM d < 1 ∨ 64512 < dM d ∨ (coreDim s n).cols < dNcol d + 1 ∨ 2 ≤ dInit d) ∨
      code = 5 ∧ formatBad d = false ∧ dPart d = p ∧ shapeBad (partMode s n) d (v.resident.bind (tileDesc v)) = false ∧ 2 ≤ v.q.length) →
    Does (.pass i entry) s (fun t =>
      rd1 t (pgARRAY n) F.ARRAY_FAULT.CODE p = code ∧ rd1 t (pgARRAY n) F.ARRAY_FAULT.HANDLE p = 0xFF ∧
      rd1 t (pgARRAY n) F.ARRAY_FAULT.CYCLE p = 0 ∧
      (getPart (core t n) p).fault = true ∧ (getPart (core t n) p).q = [] ∧ (getPart (core t n) p).resident = none ∧
      tabGet 0 (core t n).downAt (partCtx s n p) ≠ 0 ∧ (core t n).spad = (core s n).spad ∧ SameHbm s t ∧
      ∀ m, m ≠ n → core t m = core s m)

/-- R58, R59: TILE_LOAD in cycle t takes TILE_H, and SCALE_H when the tile has scales, at their values; PASS_LATCH in cycle s
takes the other handles, arms DRAIN_H for one delivery and makes the pass latched. Nothing else of the core changes, and of the registers
only ARRAY_FRONT_CNT, which counts the tile. -/
def Obligations.PassLoadsAndLatches : Prop :=
  ∀ (s : State) (c : Fin 256) (part : Fin 4) (q : Pass), s.Inv →
    let n := c.val
    let p := part.val
    let k := core s n
    let v := getPart k p
    let d := q.desc
    let sh := handleOf s n (dScaleH d)
    (loadNext s n p = some q → q.t = now s n →
      takeFault s n ([⟨dTileH d, handleOf s n (dTileH d), [tileRows d (handleOf s n (dTileH d))], [tileRows d (handleOf s n (dTileH d))], true⟩] ++
        (if scaleAtT d then [⟨dScaleH d, sh, [tileScales d sh, feedScales d sh, drainScales d sh], [tileScales d sh, feedScales d sh], true⟩]
          else [])) = none →
      Does (.tileLoad c part) s (fun t => OnlyCore s t n ∧ core t n = { k with parts := tabPut {} k.parts p { v with q := v.q.map (fun x =>
        if x.id = q.id then { q with loading := true, tileH := handleOf s n (dTileH d),
                                     scaleH := if scaleAtT d then sh else q.scaleH } else x) } })) ∧
    (latchNext s n p = some q → q.s = now s n → takeFault s n (latchTakes s n d) = none → q.tileId ≠ 0 →
      Does (.passLatch c part) s (fun t => OnlyCorePages s t n (fun pg => pg = pgARRAY n) ∧
        rd t (pgARRAY n) F.ARRAY_FRONT_CNT.COUNT
          = (rd s (pgARRAY n) F.ARRAY_FRONT_CNT.COUNT + (if dLoad d then 1 else 0)) % 2 ^ 32 ∧
        core t n = { k with
          land := landInsert ⟨now s n + 1, 2, now s n, .arm (dDrainH d) 1 (partCtx s n p)⟩ k.land,
          parts := tabPut {} k.parts p { v with q := v.q.map (fun x =>
            if x.id = q.id then { q with latched := true, feedH := handleOf s n (dFeedH d), drainH := handleOf s n (dDrainH d),
                                         initH := handleOf s n (dInitH d),
                                         scaleH := if scaleAtT d then q.scaleH else handleOf s n (dScaleH d) } else x) } }))

/-- R47, R63, R522: DRAIN_ROW computes the next row of the pass, converts it and places its write, elements and scales, in
bank cycle s + m + Δ − 3 + 128·FO; the running maximum of the entry and the flags of the row land later. -/
def Obligations.DrainsRow : Prop :=
  ∀ (s : State) (c : Fin 256) (part : Fin 4) (q : Pass), s.Inv →
    let n := c.val
    let p := part.val
    let k := core s n
    let d := q.desc
    let m := q.drained
    let cs := q.s + m + (coreDim s n).delta - 9 + (if dFO d then 128 else 0)
    let tile := (((getPart k p).tiles.find? (fun t => t.1 == q.tileId)).map (·.2)).getD { desc := d }
    let row := rowResults q tile m
    let out := drainConvert s n d m row.1
    drainNext s n p = some q → now s n ≤ cs + 4 →
    Does (.drainRow c part) s (fun t => OnlyCorePages s t n (fun pg => pg = pgARRAY n) ∧
      (core t n).parts = tabPut {} k.parts p { getPart k p with
        q := (getPart k p).q.map (fun x => if x.id = q.id then { q with drained := m + 1 } else x) } ∧
      (core t n).acc = k.acc ++ [{
        issue := cs + 4, bank := cs + 6, port := .aw, part := p, kind := m, ord := q.id, ctx := partCtx s n p,
        pieces := [((drainRows d q.drainH).at m, out.bytes.length)] ++
          (if out.scales.isEmpty then [] else [((drainScales d q.drainH).at m, out.scales.length)]),
        clsW := q.drainH.clsW, act := .write (out.bytes ++ out.scales) }] ∧
      (dSctEn d = false → row.2 ||| out.flags = flNone → (core t n).land = k.land) ∧
      (dSctEn d = true → ⟨max (cs + 4) (now s n + 1), 1, 4 * now s n + 1, .rmax (dSct d) (rmaxOf row.1).1 (rmaxOf row.1).2⟩ ∈ (core t n).land) ∧
      (row.2 ||| out.flags ≠ flNone →
        ⟨max (cs + 11) (now s n + 1), 1, 4 * now s n + 1, .flags (partCtx s n p) (row.2 ||| out.flags)⟩ ∈ (core t n).land) ∧
      (core t n).sregs = k.sregs ∧ (core t n).vregs = k.vregs ∧ (core t n).mregs = k.mregs ∧ (core t n).preds = k.preds ∧
      (core t n).spad = k.spad ∧ (core t n).desc = k.desc)

/-- R57, R59: at the cycle of its token, with every row drained, the pass leaves its partition, ARRAY_PASS_CNT counts it, and
the delivery into DRAIN_H completes. -/
def Obligations.DrainCompletes : Prop :=
  ∀ (s : State) (c : Fin 256) (part : Fin 4) (q : Pass) (r : List Pass), s.Inv →
    let n := c.val
    let p := part.val
    let k := core s n
    let d := q.desc
    (getPart k p).q = q :: r → q.latched = true → q.drained = dM d →
    q.s + dM d + (coreDim s n).delta + (if dFO d then 128 else 0) ≤ now s n →
    Does (.drainComplete c part) s (fun t => OnlyCorePages s t n (fun pg => pg = pgARRAY n) ∧
      rd t (pgARRAY n) F.ARRAY_PASS_CNT.COUNT = (rd s (pgARRAY n) F.ARRAY_PASS_CNT.COUNT + 1) % 2 ^ 32 ∧
      ∃ v, core t n = { k with land := landInsert ⟨now s n + 1, 0, now s n, .complete (dDrainH d)⟩ k.land,
                               parts := tabPut {} k.parts p v } ∧ v.q = r ∧ v.fault = (getPart k p).fault ∧ v.resident = (getPart k p).resident)

/-- R67, R69, R73, R76: a parity or residue error is located and counted, and its partition faults with code 0x07. PCLR returns the partitions of its mask that are in FAULT to IDLE; ARRAY_PART takes its
value, and a change of MODE leaves no tile, unless a partition is BUSY, which sets PART_BUSY; a repair entry is written in SERVICE unless it is fused, and elsewhere the write is
ignored and sets REPAIR_IGN. -/
def Obligations.ArrayErrorsAndWrites : Prop :=
  (∀ (s : State) (c : Fin 256) (part : Fin 4) (row col : Fin 130) (residue : Bool), s.Inv →
    let n := c.val
    let p := part.val
    let pg := pgARRAY n
    p < partCount (partMode s n) → ctxDown s n (partCtx s n p) = false → rd1 s pg F.ARRAY_FAULT.CODE p = 0 →
    Does (.arrayErr c part row col residue) s (fun t =>
      rd t pg F.ARRAY_ERR_LOC.PROW = row.val ∧ rd t pg F.ARRAY_ERR_LOC.PCOL = col.val ∧
      rd t pg F.ARRAY_ERR_LOC.KIND = (if residue then 2 else 1) ∧
      rd t pg F.ARRAY_ERR_CNT.COUNT = min (rd s pg F.ARRAY_ERR_CNT.COUNT + 1) (2 ^ 32 - 1) ∧
      rd1 t pg F.ARRAY_FAULT.CODE p = 7 ∧ (getPart (core t n) p).fault = true ∧ (getPart (core t n) p).q = [] ∧
      tabGet 0 (core t n).downAt (partCtx s n p) ≠ 0 ∧ SameHbm s t ∧ ∀ m, m ≠ n → core t m = core s m)) ∧
  ∀ (s : State) (c : Fin 256) (m : BitVec 4) (v : BitVec 32) (col : Bool), s.Inv →
    let n := c.val
    let k := core s n
    let pg := pgARRAY n
    let off := if col then 0x120 else 0x11C
    pageClosed s pg = false →
    Does (.pclr c m) s (fun t => OnlyCorePages s t n (fun q => q = pg) ∧
      (∀ p < 4, m.getLsbD p = true → (getPart k p).fault = true →
        rd1 t pg F.ARRAY_FAULT.CYCLE p = 0 ∧ rd1 t pg F.ARRAY_FAULT.CODE p = rd1 s pg F.ARRAY_FAULT.CODE p) ∧
      let cleared := [0, 1, 2, 3].foldl (fun ps p =>
        if m.getLsbD p && (tabGet {} ps p).fault then tabPut {} ps p (stopPart (tabGet {} ps p) false) else ps) k.parts
      core t n = { k with parts := cleared }) ∧
    (anyPartBusy s n = false → Does (.arrayPart c v) s (fun t => OnlyCorePages s t n (fun q => q = pg) ∧
      partMode t n = v.toNat % 4 ∧ (∀ p < 4, partCtx t n p = v.toNat / 2 ^ (8 + 4 * p) % 16) ∧
      let lost := [0, 1, 2, 3].foldl (fun ps p => tabPut {} ps p (stopPart (tabGet {} ps p) (tabGet {} ps p).fault)) k.parts
      core t n = (if v.toNat % 4 = partMode s n then k else { k with parts := lost }))) ∧
    (anyPartBusy s n = true → Does (.arrayPart c v) s (fun t => t = setErr s pg E.ARRAY.PART_BUSY)) ∧
    (coreState s n = stSERVICE → Does (.arrayRepair c col v) s (fun t => OnlyPages s t (fun q => q = pg) ∧
      natField (rdW t pg off) 0 9 = (if (rdW s pg off).testBit 9 then natField (rdW s pg off) 0 9 else v.toNat % 2 ^ 9) ∧
      natField (rdW t pg off) 16 9 = (if (rdW s pg off).testBit 25 then natField (rdW s pg off) 16 9 else v.toNat / 2 ^ 16 % 2 ^ 9) ∧
      ∀ o, o < 4096 → o / 4 ≠ off / 4 → rdW t pg o = rdW s pg o)) ∧
    (coreState s n ≠ stSERVICE → Does (.arrayRepair c col v) s (fun t => t = setErr s pg E.ARRAY.REPAIR_IGN))

/-! ## STR: Itinerary control, copies, Saddlebag, Courier (R99, R105 to R110, R118, R119, R137 to R141, R169) -/

/-- R118, R121, R296: START, STOP and CREDIT on an Itinerary slot, each in its issue cycle. -/
def Obligations.ItineraryControl : Prop :=
  ∀ (s : State) (i : Issue) (sl : Fin 8) (ra rb : Fin 32) (m : BitVec 12) (h : Fin 64), s.Inv → SlotReady s i 3 →
    let n := i.core.val
    let c := core s n
    let v := slotOf s n sl.val
    let ctx := partCtx s n i.tag.val
    let u := slotUsed s n 3
    let more := { v with credits := v.credits + m.toNat,
                         fresh := (v.fresh.filter (fun x => decide (now s n < x.2))) ++ [(m.toNat, now s n + 3)] }
    (v.st = .idle ∨ v.st = .done → Does (.start i sl ra rb) s (fun t => ∃ w, SlotBecomes s t n sl.val u w ∧
      w.st = .run ∧ areg w 0 = sreg c ra.val ∧ areg w 1 = sreg c rb.val ∧ (∀ j, 2 ≤ j → areg w j = 0) ∧ w.pc = 0 ∧
      w.loops = [] ∧ w.credits = 0 ∧ w.mfmt = w.lfmt ∧ w.module = 0 ∧ w.epoch = 0 ∧ w.ctx = ctx ∧ w.readyAt = now s n + 1)) ∧
    (v.st = .run → rd1 s (pgSTREAM n) F.STREAM_FAULT.CODE (ctxPart s n ctx) = 0 →
      Does (.start i sl ra rb) s (fun t => StreamFaults s t n ctx 1 ∧ ∀ j, slotOf t n j = slotOf s n j)) ∧
    (v.st = .run → Does (.stop i sl) s (fun t =>
      SlotBecomes s t n sl.val u { v with st := if slotBusy c sl.val then .stopping else .done })) ∧
    (v.st = .idle ∨ v.st = .done → Does (.stop i sl) s (fun t => OnlyCore s t n ∧ core t n = u)) ∧
    (m ≠ 0 → c.absorb.contains sl.val = false → v.credits + m.toNat ≤ 4095 →
      Does (.credit i sl m none) s (fun t => SlotBecomes s t n sl.val u more) ∧
      (h.val ≠ 63 → Does (.credit i sl m (some h)) s (fun t => SlotBecomes s t n sl.val
        { u with land := landInsert ⟨now s n + 1, 2, now s n, .arm h.val m.toNat ctx⟩ c.land } more))) ∧
    (m ≠ 0 → c.absorb.contains sl.val = true → atMuster c = false → Does (.credit i sl m (some h)) s (fun t =>
      OnlyCore s t n ∧ core t n = { u with absorb := c.absorb.erase sl.val })) ∧
    (m ≠ 0 → c.absorb.contains sl.val = false → 4095 < v.credits + m.toNat →
      rd1 s (pgSTREAM n) F.STREAM_FAULT.CODE (ctxPart s n ctx) = 0 →
      Does (.credit i sl m none) s (fun t => StreamFaults s t n ctx 3 ∧ ∀ j, slotOf t n j = slotOf s n j))

/-- R99, R118, R119, R136, R169: ARM arms its handle; SEND queues a chunk and reads it through SR at x + 2; COPY arms its
destination for one delivery, reads at x + 2 and is complete at x + 12; a token that is not set raises LATE, a full queue OUTQ. -/
def Obligations.SendArmCopy : Prop :=
  ∀ (s : State) (i : Issue) (sl : Fin 8) (h h2 : Fin 64) (ra rb : Fin 32) (m : BitVec 12) (len : BitVec 6), s.Inv →
    SlotReady s i 3 →
    let n := i.core.val
    let c := core s n
    let p := i.tag.val
    let ctx := partCtx s n p
    let u := slotUsed s n 3
    let k := 32 * (len.toNat + 1)
    let off := (sreg c ra.val).toNat
    let off2 := (sreg c rb.val).toNat
    let hd := handleOf s n h.val
    let hd2 := handleOf s n h2.val
    let a := handleAddr hd off
    (m ≠ 0 → h.val ≠ 63 → Does (.arm i h m) s (fun t => OnlyCore s t n ∧
      core t n = { u with land := landInsert ⟨now s n + 1, 2, now s n, .arm h.val m.toNat ctx⟩ c.land })) ∧
    (m ≠ 0 → h.val = 63 → rd1 s (pgSPAD n) F.SPAD_FAULT.CODE p = 0 →
      Does (.arm i h m) s (fun t => SpadFaults s t n p ctx 4)) ∧
    (srOk s n h.val off k → c.outq.length < 32 → outBytes c + k ≤ 65536 → Does (.send i sl h ra len) s (fun t =>
      OnlyCore s t n ∧ core t n = { u with
        outq := c.outq ++ [⟨c.nextId, sl.val, k, none⟩], nextId := c.nextId + 1,
        acc := c.acc ++ [strRead s n ctx a k hd.clsW (.chunk c.nextId)] })) ∧
    (srOk s n h.val off k → 32 ≤ c.outq.length → rd1 s (pgSTREAM n) F.STREAM_FAULT.CODE (ctxPart s n ctx) = 0 →
      Does (.send i sl h ra len) s (fun t => StreamFaults s t n ctx 7 ∧ (core t n).outq = c.outq)) ∧
    (srOk s n h.val off k → swOk s n h2.val off2 k → Does (.strCopy i h ra h2 rb len) s (fun t =>
      OnlyCore s t n ∧ core t n = { u with
        land := landInsert ⟨now s n + 13, 0, now s n + 12, .complete h2.val⟩
          (landInsert ⟨now s n + 1, 2, now s n, .arm h2.val 1 ctx⟩ c.land),
        acc := c.acc ++ [strRead s n ctx a k hd.clsW (.move (handleAddr hd2 off2) hd2.clsW)] })) ∧
    (wideReadOk a k = true → boundsBad s n h.val hd off k = false → tokOf s n h.val = false →
      rd1 s (pgSPAD n) F.SPAD_FAULT.CODE p = 0 → ∀ x ∈ [Instr.send i sl h ra len, .strCopy i h ra h2 rb len],
      Does x s (fun t => SpadFaults s t n p ctx 5 ∧ (core t n).outq = c.outq ∧ (core t n).acc = c.acc))

/-- R106 to R109: PUSH and POP move the depth of their stack by one and copy 256 bytes between the handle and the record's slot,
the on-chip one or the staging one; a full or empty stack, or one the context may not use, raises its fault. -/
def Obligations.SaddlebagMoves : Prop :=
  ∀ (s : State) (i : Issue) (k : Fin 8) (h : Fin 64) (ra : Fin 32), s.Inv → SlotReady s i 3 →
    let n := i.core.val
    let c := core s n
    let p := i.tag.val
    let ctx := partCtx s n p
    let u := slotUsed s n 3
    let pg := pgLEDGER n
    let d := rd1 s pg F.SB_DEPTH.DEPTH k.val
    let cap := rd1 s pg F.SB_SLOT.CAP k.val
    let first := rd1 s pg F.SB_SLOT.FIRST k.val
    let spill := rd1 s pg F.SB_SPILL_CAP.SPILL k.val
    let off := (sreg c ra.val).toNat
    let hd := handleOf s n h.val
    let a := handleAddr hd off
    let hw := (handleOf s n 63).clsW
    let quiet := rd1 s (pgSPAD n) F.SPAD_FAULT.CODE p = 0
    let moves (t : State) (d' : Nat) (src : Nat) (w : Bool) (dst : Nat) (w' : Bool) (land : List Landing) (st : SMap Stage) : Prop :=
      OnlyCorePages s t n (fun q => q = pg) ∧ rd1 t pg F.SB_DEPTH.DEPTH k.val = d' ∧
      rd1 t pg F.SB_HWM.HWM k.val = max (rd1 s pg F.SB_HWM.HWM k.val) d' ∧
      core t n = { u with acc := c.acc ++ [strRead s n ctx src 256 w (.move dst w')], land := land, stage := st }
    let popLand := landInsert ⟨now s n + 13, 0, now s n + 12, .complete h.val⟩
      (landInsert ⟨now s n + 1, 2, now s n, .arm h.val 1 ctx⟩ c.land)
    spill ≤ 262144 → stackOk s n k.val ctx = true →
    (d < cap → srOk s n h.val off 256 → Does (.push i k h ra) s (fun t =>
      moves t (d + 1) a hd.clsW (sbSlot s n (first + d)) hw c.land c.stage)) ∧
    (cap ≤ d → d < cap + spill → srOk s n h.val off 256 → (stageOf s n k.val ((d - cap) % 16)).wout = false →
      Does (.push i k h ra) s (fun t => moves t (d + 1) a hd.clsW (sbSlot s n (first + cap + (d - cap) % 16)) hw c.land
        (tabPut {} c.stage (16 * k.val + (d - cap) % 16) { rec_ := some d, wout := true, pref := none, readyAt := now s n + 12 }))) ∧
    (0 < d → d ≤ cap → swOk s n h.val off 256 → Does (.pop i k h ra) s (fun t =>
      moves t (d - 1) (sbSlot s n (first + (d - 1))) hw a hd.clsW popLand c.stage)) ∧
    (cap < d → swOk s n h.val off 256 → (stageOf s n k.val ((d - 1 - cap) % 16)).rec_ = some (d - 1) →
      Does (.pop i k h ra) s (fun t => moves t (d - 1) (sbSlot s n (first + cap + (d - 1 - cap) % 16)) hw a hd.clsW popLand
        (tabPut {} c.stage (16 * k.val + (d - 1 - cap) % 16)
          { rec_ := none, wout := false, pref := if cap + 16 ≤ d - 1 then some (d - 1 - 16) else none, readyAt := now s n + 7 }))) ∧
    (quiet → cap + spill ≤ d → Does (.push i k h ra) s (fun t => SpadFaults s t n p ctx 6 ∧ rd1 t pg F.SB_DEPTH.DEPTH k.val = d)) ∧
    (quiet → d = 0 → Does (.pop i k h ra) s (fun t => SpadFaults s t n p ctx 7 ∧ rd1 t pg F.SB_DEPTH.DEPTH k.val = 0)) ∧
    (quiet → cap ≤ d → d < cap + spill → srOk s n h.val off 256 → (stageOf s n k.val ((d - cap) % 16)).wout = true →
      Does (.push i k h ra) s (fun t => SpadFaults s t n p ctx 5 ∧ rd1 t pg F.SB_DEPTH.DEPTH k.val = d))

/-- R107, R108: a write-out stores the staged record at its place in the spill area and counts it; a prefetch brings the record of
its place into the staging slot, which then holds it, and counts it. -/
def Obligations.SaddlebagSpill : Prop :=
  ∀ (s : State) (c : Fin 256) (k : Fin 8) (j : Fin 16) (d : Nat), s.Inv →
    let n := c.val
    let v := stageOf s n k.val j.val
    let pg := pgLEDGER n
    let ctx := rd1 s pg F.SB_SPILL_CAP.CTX k.val
    let addr := spillAddr s n k.val d
    let a := sbSlot s n (rd1 s pg F.SB_SLOT.FIRST k.val + rd1 s pg F.SB_SLOT.CAP k.val + j.val)
    v.readyAt ≤ now s n →
    (v.rec_ = some d → v.wout = true → granted s (bankOfCore s n) ctx addr 256 false true = true →
      readErrs (core s n) [(a, 256)] = [] → Does (.sbWriteOutComplete c k j) s (fun t =>
        core t n = { core s n with
          stage := tabPut {} (core s n).stage (16 * k.val + j.val) { v with wout := false },
          stored := (core s n).stored ++ [(ctx, addr, 256)] } ∧
        (∀ m, m ≠ n → core t m = core s m) ∧
        t.hbm.mem = (hbmWrite s addr (memRead (core s n).spad a 256) { kind := 0, core := n, ctx := ctx }).hbm.mem ∧
        natField (rd1 t pg F.SB_STAGE.WOUT k.val) j.val 1 = 0 ∧ natField (rd1 t pg F.SB_STAGE.HELD k.val) j.val 1 = 1 ∧
        rd t pg F.SB_WOUT_CNT.COUNT = (rd s pg F.SB_WOUT_CNT.COUNT + 1) % 2 ^ 32)) ∧
    (v.pref = some d → granted s (bankOfCore s n) ctx addr 256 true false = true → (hbmRead s addr 256).2.1 = false →
      Does (.sbPrefetchComplete c k j) s (fun t =>
        (core t n).spad = (spadWrite (core s n) (handleOf s n 63).clsW a (hbmRead s addr 256).1).spad ∧
        (core t n).stage = tabPut {} (core s n).stage (16 * k.val + j.val) { v with pref := none, rec_ := some d } ∧
        (∀ m, m ≠ n → core t m = core s m) ∧ SameHbm s t ∧
        natField (rd1 t pg F.SB_STAGE.HELD k.val) j.val 1 = 1 ∧
        rd t pg F.SB_PREF_CNT.COUNT = (rd s pg F.SB_PREF_CNT.COUNT + 1) % 2 ^ 32))

/-- R137, R138, R169: an accepted PUT, GET or ADD takes a Courier slot, counts, and writes 1 to its predicate in the next cycle;
a GET or ADD arms its handle for one delivery, a PUT reads its bytes; with all 16 slots held it writes 0 and counts a refusal. -/
def Obligations.CourierIssues : Prop :=
  ∀ (s : State) (i : Issue) (h : Fin 64) (ra rb rc dst : Fin 32) (tgt : BitVec 2) (len : BitVec 6) (qd : Fin 8) (g : Target),
    s.Inv → SlotReady s i 3 → len.toNat ≤ 7 → tgt ≠ 2 → tgt ≠ 3 →
    let n := i.core.val
    let c := core s n
    let ctx := partCtx s n i.tag.val
    let u := slotUsed s n 3
    let k := 32 * (len.toNat + 1)
    let off := (sreg c ra.val).toNat
    let hd := handleOf s n h.val
    let md := (courierDst (sreg c rc.val)).1
    let ep := (courierDst (sreg c rc.val)).2
    let answer (b : Bool) (l : List Landing) := landInsert ⟨now s n + 1, 1, 4 * now s n + 3, .pred qd.val b⟩ l
    let armed := landInsert ⟨now s n + 1, 2, now s n, .arm h.val 1 ctx⟩ c.land
    let accepted (x : Instr) (kind : ReqKind) (acc : List Access) (land : List Landing) : Prop :=
      Does x s (fun t => OnlyCorePages s t n (fun q => q = pgSTREAM n ∨ q = pgNOC (dieOf n)) ∧
        rd t (pgSTREAM n) F.COURIER_ISSUED.COUNT = (rd s (pgSTREAM n) F.COURIER_ISSUED.COUNT + 1) % 2 ^ 32 ∧
        ∃ r, core t n = { u with reqs := c.reqs ++ [r], nextId := c.nextId + 1, acc := acc, land := land } ∧
          r.id = c.nextId ∧ r.kind = kind ∧ r.tgt = g ∧ r.ctx = ctx ∧ r.h = h.val ∧ r.off = off ∧ r.hd = hd ∧ r.data = [] ∧
          (kind = .add → r.operand = sreg c dst.val))
    (crrHeld c < 16 → (∀ r ∈ c.reqs, isFabric r = false) →
      (srOk s n h.val off k → targetOf s n tgt.toNat (sreg c rb.val) md ep k 32 false = .ok g →
        courierGrant s n ctx g k false true = true →
        accepted (.courierPut i h ra rb rc tgt len qd) .put (c.acc ++ [strRead s n ctx (handleAddr hd off) k hd.clsW (.put c.nextId)])
          (answer true c.land)) ∧
      (swOk s n h.val off k → targetOf s n tgt.toNat (sreg c rb.val) md ep k 32 false = .ok g →
        courierGrant s n ctx g k true false = true →
        accepted (.courierGet i h ra rb rc tgt len qd) .get c.acc (answer true armed)) ∧
      (swOk s n h.val off 32 → targetOf s n tgt.toNat (sreg c rb.val) md ep 8 8 false = .ok g →
        courierGrant s n ctx g 8 true true = true →
        accepted (.courierAdd i h ra rb rc dst tgt qd) .add c.acc (answer true armed))) ∧
    (16 ≤ crrHeld c →
      ∀ x ∈ [Instr.courierPut i h ra rb rc tgt len qd, .courierGet i h ra rb rc tgt len qd, .courierAdd i h ra rb rc dst tgt qd],
        Does x s (fun t => OnlyCorePages s t n (fun q => q = pgSTREAM n) ∧
          core t n = { u with land := answer false c.land } ∧
          rd t (pgSTREAM n) F.COURIER_REFUSED.COUNT = min (rd s (pgSTREAM n) F.COURIER_REFUSED.COUNT + 1) (2 ^ 32 - 1)))

/-- R137, R140, R141: the oldest Courier operation to its destination takes effect there and releases its slot. On HBM a PUT
stores its bytes, a GET delivers the bytes of the target, an ADD adds its operand modulo 2^64 and delivers the old value in a
32-byte record; a PUT to a scratchpad lands there; a peer's answer lands, or raises REMOTE with its completion code. -/
def Obligations.CourierEffects : Prop :=
  ∀ (s : State) (c : Fin 256) (r : Req), s.Inv →
    let n := c.val
    let k := core s n
    let w : Writer := { kind := 1, core := n, ctx := r.ctx }
    let gone := k.reqs.filter (fun x => x.id != r.id)
    let lands (t : State) (data : List Byte) : Prop :=
      (core t n).spad = (spadWrite k r.hd.clsW (handleAddr r.hd r.off) data).spad ∧
      (core t n).land = landInsert ⟨now s n + 1, 0, now s n, .complete r.h⟩ k.land ∧ SameHbm s t
    let ends (t : State) : Prop := (core t n).reqs = gone ∧ ∀ m, m ≠ n → core t m = core s m
    k.reqs.find? (fun x => x.id == r.id && !isItin x) = some r → courierHeld k r = false → (∀ x ∈ gone, isFabric x = false) →
    (∀ a, r.tgt = .hbm a →
      let read := hbmRead s a r.bytes
      (r.kind = .put → r.data.length = r.bytes → Does (.courierComplete c r.id) s (fun t => ends t ∧
        t.hbm.mem = (hbmWrite s a r.data w).hbm.mem ∧ (core t n).spad = k.spad ∧ (core t n).land = k.land)) ∧
      (r.kind = .get → read.2.1 = false → r.lbytes = r.bytes → Does (.courierComplete c r.id) s (fun t =>
        ends t ∧ lands t read.1)) ∧
      (r.kind = .add → read.2.1 = false → r.bytes = 8 → r.lbytes = 32 → Does (.courierComplete c r.id) s (fun t => ends t ∧
        t.hbm.mem = (hbmWrite read.2.2 a (natToBytes 8 ((bytesToNat read.1 + r.operand.toNat) % 2 ^ 64)) w).hbm.mem ∧
        (core t n).spad = (spadWrite k r.hd.clsW (handleAddr r.hd r.off) (read.1 ++ zeros 24)).spad))) ∧
    (∀ l hh off m, r.tgt = .spad l hh off → r.kind = .put → r.data.length = r.bytes → pcoreOf s (bankOfCore s n) l = some m →
      swOk s m hh off r.bytes → Does (.courierComplete c r.id) s (fun t => (core t n).reqs = gone ∧
        (core t m).spad = (spadWrite (core s m) (handleOf s m hh).clsW (handleAddr (handleOf s m hh) off) r.data).spad)) ∧
    (∀ win off md ep st, r.tgt = .window win off md ep → r.kind ≠ .put → r.status = some st →
      (st = 0 → r.ue = false → r.data.length = r.lbytes → Does (.courierComplete c r.id) s (fun t => ends t ∧ lands t r.data)) ∧
      (st ≠ 0 → ctxDown s n r.ctx = false → rd1 s (pgSTREAM n) F.STREAM_FAULT.CODE (ctxPart s n r.ctx) = 0 →
        Does (.courierComplete c r.id) s (fun t => (core t n).reqs = gone ∧ (core t n).spad = k.spad ∧
          rd1 t (pgSTREAM n) F.STREAM_FAULT.CODE (ctxPart s n r.ctx) = 6 ∧
          ∃ x, t.faults = s.faults ++ [x] ∧ x.ctx = r.ctx ∧ x.status = 0x4F ∧ x.craul = st)))

/-! ## Itineraries (R120 to R132) -/

/-- R122, R123, R126: the Itinerary instructions that make no request change their slot alone, and the slot goes on in the next
cycle; a LOOP outside R123, a CVT outside R126 and a program that runs past instruction 31 raise their faults. -/
def Obligations.ItineraryPlain : Prop :=
  ∀ (s : State) (c : Fin 256) (sl ad ereg : Fin 8) (last : Fin 32) (cnt : BitVec 24) (i48 : BitVec 48) (i16 : BitVec 16)
    (i40 : BitVec 40) (epoch : BitVec 16) (md : BitVec 20) (mfmt lfmt : BitVec 8) (tid : BitVec 32), s.Inv →
    let n := c.val
    let k := core s n
    let v := slotOf s n sl.val
    let nx := loopNext v.loops v.pc
    let x := areg v ad.val
    let quiet := rd1 s (pgSTREAM n) F.STREAM_FAULT.CODE (ctxPart s n v.ctx) = 0
    let goes (i : Instr) (w : Itin) : Prop := Does i s (fun t =>
      SlotBecomes s t n sl.val k { w with pc := nx.1, loops := nx.2, readyAt := now s n + 1, waitWhy := 1 })
    let fits := v.pc < last.val ∧ v.loops.length < 6 ∧ ∀ l ∈ v.loops.head?, last.val ≤ l.last
    itinOk s n sl.val = true →
    (nx.1 ≤ 31 →
      goes (.itinNop c sl) v ∧
      goes (.seta c sl ad i48) (setA v ad.val (BitVec.ofNat 64 i48.toNat)) ∧
      goes (.setah c sl ad i16) (setA v ad.val (BitVec.ofNat 64 (i16.toNat * 2 ^ 48 + x.toNat % 2 ^ 48))) ∧
      goes (.adv c sl ad i40) (setA v ad.val (BitVec.ofInt 64 (x.toNat + i40.toInt))) ∧
      goes (.setd c sl epoch md) { v with epoch := epoch, module := md } ∧
      (cvtOk mfmt = true → cvtOk lfmt = true → goes (.cvt c sl ereg mfmt lfmt tid)
        { v with ereg := ereg.val, mfmt := mfmt, lfmt := lfmt, tid := tid }) ∧
      (slotBusy k sl.val = false → goes (.fence c sl) v)) ∧
    (slotBusy k sl.val = true → Does (.fence c sl) s (fun t => SlotBecomes s t n sl.val k { v with waitWhy := 4 })) ∧
    (fits → Does (.itinLoop c sl last cnt) s (fun t => SlotBecomes s t n sl.val k
      { v with pc := v.pc + 1, loops := ⟨v.pc + 1, last.val, cnt.toNat⟩ :: v.loops, readyAt := now s n + 1, waitWhy := 1 })) ∧
    Does (.itinEnd c sl) s (fun t => SlotBecomes s t n sl.val k { v with st := if slotBusy k sl.val then .stopping else .done }) ∧
    (quiet → ¬ fits → Does (.itinLoop c sl last cnt) s (fun t => StreamFaults s t n v.ctx 1)) ∧
    (quiet → (cvtOk mfmt && cvtOk lfmt) = false → Does (.cvt c sl ereg mfmt lfmt tid) s (fun t => StreamFaults s t n v.ctx 2)) ∧
    (quiet → 31 < nx.1 → Does (.itinNop c sl) s (fun t => StreamFaults s t n v.ctx 1))

/-- R120, R122, R124, R126, R127, R131: a LOAD, STORE or GATHER that nothing holds consumes a credit, issues its request in the
engine's cycle and counts it, and its slot goes on with A[AT] and A[AL] advanced; a STORE takes its chunks; a LOAD outside the
regions granted for reading is suppressed and counted, and completes as a delivery 4 cycles later. -/
def Obligations.ItineraryRequests : Prop :=
  ∀ (s : State) (c : Fin 256) (sl at_ al ai : Fin 8) (h ih : Fin 64) (tgt : BitVec 2) (len : BitVec 7) (cnt : BitVec 6)
    (it il ii : Bool) (g : Target), s.Inv →
    let n := c.val
    let k := core s n
    let v := slotOf s n sl.val
    let nx := loopNext v.loops v.pc
    let size := 32 * (len.toNat + 1)
    let lb := localBytes (slotConv v) size
    let off := (areg v al.val).toNat
    let pgs := fun q => q = pgSTREAM n ∨ q = pgNOC (dieOf n)
    let fab := match g with | .window .. => true | _ => false
    let after (w : Itin) : Itin := { w with
      credits := v.credits - 1, fresh := v.fresh.filter (fun x => decide (now s n < x.2)), pc := nx.1, loops := nx.2,
      readyAt := now s n + 1, waitWhy := 1 }
    let issues (x : Instr) (w : Itin) (k' : Core) (ok : Req → Prop) : Prop := Does x s (fun t => ∃ r,
      r.id = k.nextId ∧ r.slot = sl.val ∧ r.ctx = v.ctx ∧ ok r ∧ slotOf t n sl.val = after w ∧
      (∃ r' ∈ (core t n).reqs, r'.id = r.id ∧ r'.kind = r.kind ∧ r'.tgt = r.tgt ∧ r'.bytes = r.bytes) ∧
      (fab = false → OnlyCorePages s t n pgs ∧
        rd t (pgSTREAM n) F.STREAM_REQ_CNT.COUNT = (rd s (pgSTREAM n) F.STREAM_REQ_CNT.COUNT + 1) % 2 ^ 32 ∧
        core t n = { k' with reqs := k.reqs ++ [r], nextId := k.nextId + 1, lastReqAt := now s n + 1, lastSlot := sl.val,
                             slots := (core t n).slots } ∧
        ∀ j, j ≠ sl.val → slotOf t n j = slotOf s n j))
    itinOk s n sl.val = true → nx.1 ≤ 31 → creditNow v (now s n) ≠ 0 →
    (targetOf s n tgt.toNat (areg v at_.val) v.module v.epoch size 32 true = .ok g → swOk s n h.val off lb →
      (∀ a, g = .hbm a → granted s (bankOfCore s n) v.ctx a size true false = true) →
      reqWait s n v fab (fab && decide (2048 < size)) = 0 →
      issues (.itinLoad c sl at_ al h tgt len it il) (advance (advance v it at_.val size) il al.val lb) k (fun r =>
        r.kind = .load ∧ r.tgt = g ∧ r.bytes = size ∧ r.lbytes = lb ∧ r.conv = slotConv v ∧ r.h = h.val ∧ r.off = off ∧
        r.hd = handleOf s n h.val ∧ r.status = none)) ∧
    (∀ a, targetOf s n tgt.toNat (areg v at_.val) v.module v.epoch size 32 true = .ok (.hbm a) → swOk s n h.val off lb →
      granted s (bankOfCore s n) v.ctx a size true false = false →
      Does (.itinLoad c sl at_ al h tgt len it il) s (fun t => OnlyCorePages s t n (fun q => q = pgSTREAM n) ∧
        slotOf t n sl.val = after (advance (advance v it at_.val size) il al.val lb) ∧
        (core t n).reqs = k.reqs ∧ (core t n).spad = k.spad ∧
        (core t n).land = landInsert ⟨now s n + 5, 0, now s n + 4, .complete h.val⟩ k.land ∧
        rd1 t (pgSTREAM n) F.STREAM_POISON_LO.VALID h.val = 1 ∧
        rd t (pgSTREAM n) F.STREAM_SUPPRESSED.COUNT = min (rd s (pgSTREAM n) F.STREAM_SUPPRESSED.COUNT + 1) (2 ^ 32 - 1))) ∧
    (∀ bs ids, targetOf s n tgt.toNat (areg v at_.val) v.module v.epoch size 32 true = .ok g →
      (∀ a, g = .hbm a → granted s (bankOfCore s n) v.ctx a size false true = true) →
      takeChunks (k.outq.filter (fun x => x.slot == sl.val)) lb = some (some (bs, ids)) →
      reqWait s n v fab (fab && decide (2048 < size)) = 0 → convActive (slotConv v) = false →
      issues (.itinStore c sl at_ tgt len it) (advance v it at_.val size)
        { k with outq := k.outq.filter (fun x => !ids.contains x.id) } (fun r =>
          r.kind = .store ∧ r.tgt = g ∧ r.bytes = size ∧ r.data = bs ∧ r.words = 0)) ∧
    (let base := (areg v at_.val).toNat
     let io := (areg v ai.val).toNat
     let ia := handleAddr (handleOf s n ih.val) io
     let m := cnt.toNat + 1
     let idx := fun i => memNat k.spad (ia + 4 * i) 4
     reqWait s n v false false = 0 → io % 32 = 0 → boundsBad s n ih.val (handleOf s n ih.val) io (4 * m) = false →
     base < 2 ^ 42 → base % 32 = 0 → swOk s n h.val off (32 * m) → readErrs k [(ia, 4 * m)] = [] → g = .hbm base →
     (∀ i < m, granted s (bankOfCore s n) v.ctx (base + 32 * idx i) 32 true false = true) →
     issues (.gather c sl at_ al h ih ai cnt il ii) (advance (advance v il al.val (32 * m)) ii ai.val (4 * m)) k (fun r =>
       r.kind = .gather ∧ r.tgt = g ∧ r.bytes = 32 * m ∧ r.idx = (List.range m).map idx ∧ r.h = h.val ∧ r.off = off))

/-- R99, R125, R126: a STORE to HBM completes when its bytes are there; a LOAD first has the bytes of its target, then its delivery
writes them, converted, into its handle and completes; a gather's delivery writes its sectors; the request is then released. -/
def Obligations.RequestsComplete : Prop :=
  ∀ (s : State) (c : Fin 256) (r : Req), s.Inv →
    let n := c.val
    let k := core s n
    let gone := k.reqs.filter (fun x => x.id != r.id)
    let bytes (t : State) := rd64 t (pgSTREAM n) F.STREAM_BYTES_LO.COUNT F.STREAM_BYTES_HI.COUNT 0
    let others (t : State) : Prop := ∀ m, m ≠ n → core t m = core s m
    let out := convBytes s n r.conv r.conv.mfmt r.conv.lfmt r.data
    (k.reqs.find? (fun x => x.id == r.id && isItin x) = some r → r.words = 0 → r.status = none → ∀ a, r.tgt = .hbm a →
      (r.kind = .store → Does (.requestComplete c r.id) s (fun t => others t ∧ (core t n).reqs = gone ∧
        (core t n).spad = k.spad ∧ bytes t = (bytes s + r.bytes) % 2 ^ 64 ∧
        t.hbm.mem = (hbmWrite s a r.data { kind := 0, core := n, ctx := r.ctx }).hbm.mem)) ∧
      (r.kind = .load → Does (.requestComplete c r.id) s (fun t => others t ∧ SameHbm s t ∧ (core t n).spad = k.spad ∧
        bytes t = (bytes s + r.bytes) % 2 ^ 64 ∧ (core t n).reqs = k.reqs.map (fun x => if x.id = r.id then
          { x with status := some 0, data := (hbmRead s a r.bytes).1, ue := x.ue || (hbmRead s a r.bytes).2.1,
                   words := convWords r.conv r.conv.lfmt (r.bytes / cvtBytes (formatByteOf r.conv.mfmt)) } else x)))) ∧
    (k.reqs.find? (fun x => x.id == r.id && isItin x) = some r → r.kind = .store → isFabric r = true → r.status = some 0 →
      Does (.requestComplete c r.id) s (fun t => others t ∧ (core t n).reqs = gone ∧ (core t n).spad = k.spad ∧ SameHbm s t ∧
        bytes t = (bytes s + r.bytes) % 2 ^ 64)) ∧
    (k.reqs.find? (fun x => x.id == r.id && (x.kind == .load || x.kind == .gather)) = some r → r.status = some 0 → r.words = 0 →
      isFabric r = false →
      (r.ue = false → r.kind = .load → Does (.deliveryComplete c r.id) s (fun t => others t ∧ SameHbm s t ∧
        (core t n).reqs = gone ∧ (core t n).spad = (spadWrite k r.hd.clsW (handleAddr r.hd r.off) out.1).spad ∧
        (core t n).land = landInsert ⟨now s n + 1, 0, now s n, .complete r.h⟩ k.land ∧
        tabGet flNone (core t n).flags r.ctx = tabGet flNone k.flags r.ctx ||| out.2)) ∧
      (r.ue = false → r.kind = .gather → (∀ i ∈ r.idx, i ≠ 2 ^ 32) → r.hd.clsW = false → Does (.deliveryComplete c r.id) s (fun t =>
        others t ∧ SameHbm s t ∧ (core t n).reqs = gone ∧
        (core t n).spad = ((List.range r.idx.length).foldl (fun x i =>
          spadWrite x false (handleAddr r.hd r.off + 32 * i) ((r.data.drop (32 * i)).take 32)) k).spad ∧
        (core t n).land = landInsert ⟨now s n + 1, 0, now s n, .complete r.h⟩ k.land)) ∧
      (r.ue = true → ctxDown s n r.ctx = false → rd1 s (pgSTREAM n) F.STREAM_FAULT.CODE (ctxPart s n r.ctx) = 0 →
        Does (.deliveryComplete c r.id) s (fun t => others t ∧ SameHbm s t ∧ (core t n).reqs = gone ∧
          rd1 t (pgSTREAM n) F.STREAM_FAULT.CODE (ctxPart s n r.ctx) = 5 ∧ tabGet 0 (core t n).downAt r.ctx ≠ 0)))

/-! ## Musters, switches, contexts and jobs (R92, R142 to R146, R174, R175, R194, R334 to R358) -/

/-- R41, R143, R144, R146, R177, R344: an arrival whose fence is met is counted, with its KIND and SCOPE; one out of sequence takes
every context of its core down. The complete Muster of SCOPE 0 advances the job's sequence and releases every waiting core with its
status, a step-start one with the step values latched and the scale histories shifted, for a gated job against a permit only. -/
def Obligations.MusterSteps : Prop :=
  ∀ (s : State) (c : Fin 256) (b : Fin 2) (f kind scope l st : Nat), s.Inv →
    let n := c.val
    let k := core s n
    let j := jobOf s b.val
    let seq (x : State) (m : Nat) := rd x (pgSTREAM m) F.MUSTER_SEQ.SEQ
    let gated := kind = 1 ∧ j.stepGate = true ∧ j.permitTaken = false
    let permits (x : State) := rd1 x pgJOB F.JOB_GO.PERMITS b.val
    (k.run = .muster f kind scope false → k.lcore = some l → fenceMet k f = true → allDown s n = false →
      Does (.musterArrival c) s (fun t => (core t n).run = .muster f kind scope true ∧ (core t n).digest = [] ∧
        (lcoreOf (jobOf t k.bank) l).arrived = some (kind, scope) ∧ (∀ m, m ≠ n → core t m = core s m) ∧ SameHbm s t ∧
        (seq s n = (jobOf s k.bank).mseq → t.faults = s.faults ∧ (core t n).downAt = k.downAt) ∧
        (seq s n ≠ (jobOf s k.bank).mseq → ∀ x ∈ coreCtxs s n, tabGet 0 (core t n).downAt x ≠ 0))) ∧
    (musterDone s b.val = some (st, kind, 0) → (gated → permits s ≠ 0) → Does (.musterRelease b) s (fun t =>
      (jobOf t b.val).mseq = (j.mseq + 1) % 65536 ∧ (jobOf t b.val).permitTaken = false ∧
      (gated → permits t = permits s - 1) ∧ (¬ gated → permits t = permits s) ∧
      (kind = 1 → rd1 t pgJOB F.JOB_STEPSZ_L.SZ b.val = rd1 s pgJOB F.JOB_STEPSZ.SZ b.val ∧
        rd64 t pgJOB F.JOB_STEPNUM_L_LO.NUM F.JOB_STEPNUM_L_HI.NUM b.val
          = rd64 s pgJOB F.JOB_STEPNUM_LO.NUM F.JOB_STEPNUM_HI.NUM b.val) ∧
      ∀ m < 256, (core s m).bank = b.val → (core s m).lcore.isSome = true → atMuster (core s m) = true →
        (core t m).run = .issuing ∧ seq t m = (seq s m + 1) % 65536 ∧
        rd t (pgSTREAM m) F.MUSTER_STAT.WAIT = 0 ∧ rd t (pgSTREAM m) F.MUSTER_STAT.LAST = st ∧
        (core t m).scale = (if kind = 1 then (shiftScale (core s m)).scale else (core s m).scale))) ∧
    (musterDone s b.val = some (st, kind, 0) → gated → permits s = 0 → Does (.musterRelease b) s (fun t => t = s))

/-- R174, R175, R340, R350, R351, R445: a core with a switch pending at a yield point is saved and is free again; a saved logical core
is restored with its registers, scratchpad and program counter onto a free core, or loaded from its image if it has not run; a
switch that is not taken raises NO_YIELD; the segment at SWITCH gives way to the next; the waiting core is asked to yield. -/
def Obligations.CoreSwitching : Prop :=
  ∀ (s : State) (c : Fin 256) (l : Fin 240) (k' : Core), s.Inv →
    let n := c.val
    let k := core s n
    let d := dieOf n
    let b := activeBank s
    let j := jobOf s b
    let here (t : State) : Prop := (lcoreOf (jobOf t b) l.val).pcore = some n ∧ blkState t (pgSEQ n) = stBUSY
    let resumed (t : State) : Prop := (core t n).sregs = k'.sregs ∧ (core t n).vregs = k'.vregs ∧ (core t n).mregs = k'.mregs ∧
      (core t n).preds = k'.preds ∧ (core t n).spad = k'.spad ∧ (core t n).pc = k'.pc ∧ (core t n).run = k'.run
    let fresh (t : State) : Prop := (core t n).lcore = some l.val ∧ (core t n).pc = 0 ∧ (core t n).run = .issuing
    let asked (m : Nat) : Bool := (core s m).yieldReqAt != 0
    let mine := (bankCores s b).filter (fun m => dieOf m == d)
    (k.yieldReqAt ≠ 0 → k.lcore = some l.val → (yieldPending k = true ∨ allDown s n = true) → quiet k = true → k.bank = b →
      jobState s b = 2 → jobState s 1 ≠ 1 → Does (.yieldSave c) s (fun t => (core t n).lcore = none ∧
        blkState t (pgSEQ n) = (if coreHealthy s n then stREADY else stFAULT) ∧ (lcoreOf (jobOf t b) l.val).pcore = none ∧
        rd t (pgSEQ n) F.SEQ_YIELD_CNT.COUNT = (rd s (pgSEQ n) F.SEQ_YIELD_CNT.COUNT + 1) % 2 ^ 32 ∧
        ∃ x, (lcoreOf (jobOf t b) l.val).saved = some x ∧ x.sregs = k.sregs ∧ x.vregs = k.vregs ∧ x.mregs = k.mregs ∧
          x.preds = k.preds ∧ x.spad = k.spad ∧ x.pc = k.pc ∧ x.run = k.run)) ∧
    ((freeCores s d).contains n = true → jobState s b = 2 →
      ((readyOut s b d).head? = some l.val →
        ((lcoreOf j l.val).saved = some k' → Does (.coreRestore c l) s (fun t => here t ∧ resumed t ∧
          rd t (pgSTEWARD d) F.STEWARD_TS_CNT.COUNT = (rd s (pgSTEWARD d) F.STEWARD_TS_CNT.COUNT + 1) % 2 ^ 32)) ∧
        ((lcoreOf j l.val).saved = none → Does (.coreRestore c l) s (fun t => here t ∧ fresh t))) ∧
      ((outCores s b d).head? = some l.val →
        ((lcoreOf j l.val).saved = some k' → Does (.coreReadyMap c) s (fun t => here t ∧ resumed t)) ∧
        ((lcoreOf j l.val).saved = none → Does (.coreReadyMap c) s (fun t => here t ∧ fresh t)))) ∧
    (k.yieldReqAt ≠ 0 → yieldPending k = false → k.yieldReqAt + 131072 ≤ now s n + 1 → Does (.noYield c) s (fun t =>
      (∀ p < partCount (partMode s n), ctxDown s n (partCtx s n p) = false → rd1 s (pgSEQ n) F.SEQ_FAULT.CODE p = 0 →
        (∀ p' < p, partCtx s n p' ≠ partCtx s n p) → rd1 t (pgSEQ n) F.SEQ_FAULT.CODE p = 3) ∧
      (∀ x ∈ coreCtxs s n, tabGet 0 (core t n).downAt x ≠ 0) ∧ ∀ m, m ≠ n → core t m = core s m)) ∧
    (k.segWait = true → yieldStopped k = false → k.lcore.isSome = true →
      let im := readImage s (jobOf s k.bank).image
      let e := segEntry s im k.segment
      Does (.segmentSwitch c) s (fun t => OnlyCore s t n ∧ core t n = { k with
        imem := (core t n).imem, switchPc := (core t n).switchPc, segment := e.2.2.2.2, pc := e.2.2.2.1, segWait := false,
        nextIssue := now s n + 1 })) ∧
    (jobState s b = 2 → (mine.filter asked).length < (readyOut s b d).length →
      (mine.filter (fun m => !asked m)).filter (fun m => waiting (core s m)) = [n] →
      Does (.timesliceRequest c) s (fun t => OnlyCore s t n ∧ core t n = { k with yieldReqAt := now s n + 1 }))

/-- R92, R194, R196, R347: the scrubber reads its next row, and corrects it when it can; the trace records of a core go to its die's
ring; a faulted context of a job that is not stopping is torn down: it leaves UP, is DOWN with the status of its first fault, its faults are settled and its
requests, outbound chunks and Itinerary slots on every core are gone. -/
def Obligations.ScrubTraceTearDown : Prop :=
  ∀ (s : State) (c : Fin 256) (b : Fin 2) (ctx : Fin 16) (tc : TraceCfg), s.Inv →
    let n := c.val
    let k := core s n
    let pg := pgSPAD n
    let r := rd s pg F.SPAD_SCRUB_POS.ROW
    let m := rowMark k r
    let j := jobOf s b.val
    let mine := s.faults.filter (fun f => f.bank == b.val && f.ctx == ctx.val)
    (rdB s pg F.SPAD_CTRL.SCRUB_EN = true → scrubDue s n = true → Does (.scrubRead c) s (fun t =>
      OnlyCorePages s t n (fun q => q = pg) ∧ rd t pg F.SPAD_SCRUB_POS.ROW = (r + 1) % 65536 ∧ (core t n).spad = k.spad ∧
      (m.ue = 0 → (m.ce ≠ 0 ∨ m.tag = true) →
        rd t pg F.SPAD_SCRUB_CNT.COUNT = min (rd s pg F.SPAD_SCRUB_CNT.COUNT + 1) (2 ^ 32 - 1) ∧
        (core t n).marks = tabPut {} k.marks r { m with ce := 0, tag := false }) ∧
      (m = {} → core t n = { k with scrubAt := now s n + 1 }))) ∧
    (j.trace = some tc → k.bank = b.val → k.trace ≠ [] → Does (.traceFlush c) s (fun t => (core t n).trace = [] ∧
      (∀ q, q ≠ n → core t q = core s q) ∧ ∃ tc', (jobOf t b.val).trace = some tc' ∧
        (tc.stop = false → tabGet 0 tc.total (dieOf n) + k.trace.length = tabGet 0 tc'.total (dieOf n) ∧ tc'.lost = tc.lost))) ∧
    (∀ f ∈ mine, (∀ g ∈ mine, faultBefore f g = true) → (∀ g ∈ mine, faultBefore g f = true → g = f) →
      ctxGone j ctx.val = false → j.valid.getLsbD ctx.val = true → f.status ≠ 0 → j.fatal = 0 → jobState s b.val ≠ 5 →
      (∃ x < 16, x ≠ ctx.val ∧ j.valid.getLsbD x = true ∧ ctxGone j x = false) →
      Does (.ctxTeardown b ctx) s (fun t => (tabGet {} (jobOf t b.val).downs ctx.val).status = f.status ∧
        (rd1 t pgJOB F.JOB_CTX.UP b.val).testBit ctx.val = false ∧ (rd1 t pgJOB F.JOB_CTX.DOWN b.val).testBit ctx.val = true ∧
        (∀ g ∈ t.faults, ¬ (g.bank = b.val ∧ g.ctx = ctx.val)) ∧
        ∀ q ∈ ctxCores s b.val ctx.val, ∀ x ∈ (core t q).reqs, x.ctx ≠ ctx.val))

/-- R341, R342, R344, R345, R357, R358: JOB_START starts the checked image in its queue's bank, or answers BUSY or the number of the
check that fails; JOB_STOP ends the job at once or asks every core to yield; STEP_GO adds a permit; a job that is done ends; a
missed milestone is MISSED, and the job's fall-back image, once pending, starts. -/
def Obligations.JobsStartAndEnd : Prop :=
  ∀ (s : State) (q : Fin 5) (n : BitVec 32) (i : Fin 64) (bk : Fin 2) (c : Cmd) (st : Nat), s.Inv →
    let b := bk.val
    let j := jobOf s b
    let a := arg c 8 8
    let len := arg c 24 4
    let im := readImage s a
    let image := hbmRead s a (4096 * len)
    let answered (t : State) (stat det res : Nat) : Prop := ∃ x ∈ t.host.cmds, x.q = c.q ∧ x.n = c.n ∧ x.done = some (stat, det, res)
    let ended (t : State) : Prop := jobState t b = 0 ∧ jobOf t b = {} ∧ rd1 t pgJOB F.JOB_NUM.NUM b = 0 ∧
      rd1 t pgJOB F.JOB_GO.PERMITS b = 0 ∧ (∀ x < 16, ∀ y < 64, grantOf t b x y = {}) ∧
      ∀ m < 256, (core s m).bank = b → (core s m).lcore.isSome = true → (core t m).lcore = none
    let started (t : State) (img : Nat) (seed : Nat) : Prop := jobState t b = 2 ∧ t.jobNum = s.jobNum + 1 ∧
      rd1 t pgJOB F.JOB_NUM.NUM b = (s.jobNum + 1) % 2 ^ 32 ∧ rd1 t pgJOB F.JOB_GO.PERMITS b = 0 ∧ rd1 t pgJOB F.JOB_CTX.DOWN b = 0 ∧
      rd64 t pgJOB F.JOB_STEPNUM_LO.NUM F.JOB_STEPNUM_HI.NUM b = 0 ∧ (jobOf t b).image = img ∧ (jobOf t b).seed = seed ∧
      (jobOf t b).num = s.jobNum + 1
    let cmd (opc : Nat) : Prop := q.val = b ∧ cmdOf s q.val n.toNat opc = some c
    let idle := jobState s 0 = 0 ∧ jobState s 1 = 0 ∧ rd1 s pgJOB F.JOB_CURFEW_CTRL.FB_PEND 0 = 0 ∧
      rd1 s pgJOB F.JOB_CURFEW_CTRL.FB_PEND 1 = 0 ∧ bankCores s 0 = []
    let open_ := s.psp.zero.isSome = false ∧ rd s pgSEC F.SEC_DEBUG.LEVEL ≠ 3 ∧ rd s pgSYS F.SYS_REMOVE.PHASE < 2
    let takes := j.fbAddr ≠ 0 ∧ j.isFb = false ∧ rd1 s pgJOB F.JOB_CURFEW_CTRL.EN b ≠ 0
    (cmd 1 → open_ → idle → a < 2 ^ 42 → a % 4096 = 0 → (∀ m, (core s m).parked = false) → jobWaits s a = false →
      imageCheck s im len (1 - b) 2 = true → image.2.1 = false →
      (imageFault image.2.2 im len (1 - b) = none → Does (.jobStart q n) s (fun t =>
        started t a (arg c 16 8) ∧ answered t 0 0 (s.jobNum + 1))) ∧
      (∀ k, imageFault image.2.2 im len (1 - b) = some k → Does (.jobStart q n) s (fun t =>
        answered t 0x22 k 0 ∧ jobState t b = 0 ∧ t.jobNum = s.jobNum ∧ t.cores = s.cores))) ∧
    (cmd 1 → open_ → jobState s b ≠ 0 → Does (.jobStart q n) s (fun t => t = finishCmd s c.q c.n 0x23 0 0)) ∧
    (cmd 2 → jobState s b = 2 → jobState s 1 ≠ 1 → arg c 8 1 = 1 → Does (.jobStop q n) s (fun t => ended t ∧ answered t 0 0 0)) ∧
    (cmd 2 → jobState s b = 2 → jobState s 1 ≠ 1 → arg c 8 1 = 0 → bankCores s b ≠ [] → Does (.jobStop q n) s (fun t =>
      jobState t b = 5 ∧ (∀ m ∈ bankCores s b, (core t m).yieldReqAt ≠ 0) ∧ SameHbm s t)) ∧
    (cmd 3 → b = 0 → (jobOf s 0).stepGate = true →
      let p := rd1 s pgJOB F.JOB_GO.PERMITS 0
      (p ≠ 65535 → Does (.stepGo q n) s (fun t => rd1 t pgJOB F.JOB_GO.PERMITS 0 = p + 1 ∧ answered t 0 0 0 ∧ t.cores = s.cores)) ∧
      (p = 65535 → Does (.stepGo q n) s (fun t => t = finishCmd s c.q c.n 0x22 0 0))) ∧
    (jobDone s b = some st → jobState s 1 ≠ 1 → Does (.jobEnd bk) s ended) ∧
    (let m := tabGet {} j.miles i.val
     m.valid = true → mileState s b i.val = 0 → m.closes ≤ sinceStart s b → jobState s b ≠ 0 →
     (¬ (m.fallback = true ∧ takes) → Does (.curfewClose bk i) s (fun t => mileState t b i.val = 2 ∧
       rd1 t pgJOB F.JOB_CURFEW_CTRL.LAST b = i.val ∧ t.cores = s.cores ∧ t.jobs = s.jobs)) ∧
     (m.fallback = true → takes → Does (.curfewClose bk i) s (fun t => jobState t b = 0 ∧
       rd1 t pgJOB F.JOB_CURFEW_CTRL.FB_PEND b = 1 ∧ jobOf t b = { image := j.fbAddr, len := j.fbLen, seed := j.seed }))) ∧
    (rd1 s pgJOB F.JOB_CURFEW_CTRL.FB_PEND b = 1 → jobState s b = 0 → (b = 1 ∨ jobState s 1 = 0) →
      Does (.fallbackStart bk) s (fun t => started t j.image j.seed ∧ rd1 t pgJOB F.JOB_CURFEW_CTRL.FB_PEND b = 0))

/-! ## Stacked memory (R201 to R223) -/

/-- R201, R202, R207: with no map-out live and every domain no larger than its channels, distinct backed addresses are distinct places, and a
write that fits reads back as what was written. -/
def Obligations.MemoryReadsBack : Prop :=
  ∀ (s : State) (a b len : Nat) (w : Writer) (bs : List Byte), s.Inv →
    (∀ d, (getDom s d).maps = [] ∧ (getDom s d).rel = none) → (∀ d ∈ domList s, baseList s d ≠ [] ∧ domCap s d ≤ slotsR * (baseList s d).length) →
    (∀ x, hbmPlace s a = some x → hbmPlace s b = some x → a = b) ∧
    (hbmBacked s a bs.length = true → (hbmRead (hbmWrite s a bs w) a bs.length).1 = bs) ∧
    (∀ y, y < a ∨ a + bs.length ≤ y → hbmPlace s y ≠ none → hbmPeek (hbmWrite s a bs w) y 1 = hbmPeek s y 1) ∧
    (hbmRead s a len).1.length = len ∧ SameHbm s (hbmRead s a len).2.2

/-- R205, R208, R209, R212 to R215: an ONLINE channel that fails waits as FAILING, and any other ignores the cause; the first that
waits relocates, its domain 6 GiB smaller, or is PENDING; the engine copies the next granule and activates its redirect; when all
are copied the channel is MAPPED_OUT. A window's counts restart; the patrol scrubber corrects the next burst; REF2X follows the
temperature. -/
def Obligations.HbmChannels : Prop :=
  ∀ (s : State) (n : Fin 512) (p : Fin 2) (stk : Fin 32), s.Inv →
    let pg := pgCH n.val
    let d := domOf s n.val
    let v := getDom s d
    let dp := domPage d
    let st := chState s n.val
    let failing (t : State) (cause : Nat) : Prop := chState t n.val = 1 ∧ rd t pg F.HBM_CH_STATE.CAUSE = cause ∧
      getDom t d = { v with failing := v.failing ++ [n.val] } ∧ SameHbm s t ∧ t.cores = s.cores
    let key := 2 * n.val + p.val
    let k := tabGet 0 s.hbm.patrol key
    let at_ := burstKey n.val (k / 32) (1024 * p.val + 32 * (k % 32))
    let m := tabGet {} s.hbm.marks at_
    (st = 0 → Does (.fail n) s (failing · 4) ∧ Does (.phyTrainingLoss n) s (failing · 3)) ∧
    (st ≠ 0 → Does (.fail n) s (· = s) ∧ Does (.phyTrainingLoss n) s (· = s)) ∧
    (v.rel = none → v.failing.head? = some n.val → st = 1 →
      (6 ≤ headroom s d → rd s dp F.HBM_MAP_CTRL.NREDIR < 8 → Does (.relocationStart n) s (fun t => chState t n.val = 2 ∧
        rd t dp F.HBM_CAP.GIB = rd s dp F.HBM_CAP.GIB - 6 ∧ rd t dp F.HBM_HEADROOM.GIB = headroom s d - 6 ∧
        rd t dp F.HBM_MAP_CTRL.NREDIR = rd s dp F.HBM_MAP_CTRL.NREDIR + 1 ∧ rd t dp F.HBM_RELOC.BUSY = 1 ∧
        rd t dp F.HBM_RELOC.CH = n.val ∧ rd t dp F.HBM_RELOC_DONE.GRANULES = 0 ∧ SameHbm s t ∧ t.cores = s.cores ∧
        getDom t d = { v with rel := some (⟨n.val, rd s dp F.HBM_CAP.GIB * gibGranules⟩, 0), failing := v.failing.drop 1 })) ∧
      (headroom s d < 6 ∨ 8 ≤ rd s dp F.HBM_MAP_CTRL.NREDIR → Does (.relocationStart n) s (fun t => chState t n.val = 3 ∧
        t.grants = s.grants ∧ SameHbm s t ∧ t.cores = s.cores ∧ rd t dp F.HBM_CAP.GIB = rd s dp F.HBM_CAP.GIB))) ∧
    (∀ o i, v.rel = some (o, i) → o.ch = n.val →
      let f := domMapOld s d
      let src := f (nthOn f n.val true o.after 0 i)
      let dst := f (redirect f o i)
      (i < relocSize s d o → Does (.granuleCopy n) s (fun t =>
        getDom t d = { v with rel := some (o, i + 1) } ∧ rd t dp F.HBM_RELOC_DONE.GRANULES = (i + 1) % 2 ^ 22 ∧
        t.cores = s.cores ∧
        t.hbm.mem = memWrite s.hbm.mem (placeKey dst.1 dst.2 0) (memRead s.hbm.mem (placeKey src.1 src.2 0) 2048))) ∧
      (relocSize s d o ≤ i → Does (.relocationDone n) s (fun t => chState t n.val = 4 ∧ rd t dp F.HBM_RELOC.BUSY = 0 ∧
        getDom t d = { v with rel := none, maps := v.maps ++ [o] } ∧ t.hbm.mapped = s.hbm.mapped ++ [n.val] ∧ SameHbm s t))) ∧
    ((tabGet {} s.hbm.wins n.val).win < s.esc / 2 ^ 28 → Does (.hbmErrWindow n) s (fun t =>
      t = { s with hbm := { s.hbm with wins := t.hbm.wins } } ∧ tabGet {} t.hbm.wins n.val = { win := s.esc / 2 ^ 28 })) ∧
    (rd s pg F.HBM_CH_SCRUB.HOURS ≠ 0 → st ≠ 5 → Does (.patrolScrub n p) s (fun t =>
      t.hbm.patrol = tabPut 0 s.hbm.patrol key ((k + 1) % (32 * slotsR)) ∧ SameHbm s t ∧ t.cores = s.cores ∧
      t.hbm.marks = (if m.ue then s.hbm.marks else tabPut {} s.hbm.marks at_ {}) ∧
      (∀ y, m = ⟨some y, false⟩ →
        rd t pg F.HBM_CH_ERR_COUNT.COUNT = min (rd s pg F.HBM_CH_ERR_COUNT.COUNT + 1) (2 ^ 32 - 1)))) ∧
    Does (.refresh stk) s (fun t => OnlyPages s t (fun q => q = pgSTK stk.val) ∧
      rd t (pgSTK stk.val) F.HBM_STK_STATE.REF2X = (if 85 ≤ rd s (pgSTK stk.val) F.HBM_STK_STATE.TEMP then 1 else 0))

/-- R203, R216, R218 to R223: the mode, REBUILD and XLATE writes of a stack page, the rebuild of a domain, a stack's training, and
a channel in TEST with its traffic generators; each refused write is ignored and sets its error bit. -/
def Obligations.HbmMapAndTest : Prop :=
  ∀ (s : State) (n : Fin 512) (p : Fin 2) (stk : Fin 32) (d : Fin 4) (str : Bool) (hi : BitVec 10) (failed : BitVec 16)
    (lanes : BitVec 8) (passes : BitVec 16) (bursts : BitVec 64) (slot : BitVec 22) (burst : BitVec 5) (bitNo nbits : BitVec 8)
    (expect : Bool), s.Inv →
    let pg := pgCH n.val
    let sp := pgSTK stk.val
    let st := chState s n.val
    let chs := domChannels (striped s) d.val
    let out := chs.filter (leftOut s)
    let addr := rd s sp F.HBM_XLATE_LO.ADDR + hi.toNat * 2 ^ 32
    let xlate (t : State) (valid ch sl : Nat) : Prop := OnlyPages s t (fun q => q = sp) ∧
      rd t sp F.HBM_XLATE_RES.VALID = valid ∧ rd t sp F.HBM_XLATE_RES.CH = ch ∧ rd t sp F.HBM_XLATE_RES.SLOT = sl
    let only (t : State) : Prop := OnlyPages s t (fun q => q = pg)
    (str ≠ striped s →
      (stk.val = 0 → anyJob s = false → memBusy s = false → Does (.mode stk str) s (fun t => striped t = str ∧
        (∀ x ∈ domList t, rd t (domPage x) F.HBM_MAP_CTRL.BUSY = 1) ∧ SameHbm s t ∧ t.cores = s.cores)) ∧
      (stk.val ≠ 0 ∨ anyJob s = true ∨ memBusy s = true → Does (.mode stk str) s (· = setErr s sp E.HBM_STK.MAP_IGN))) ∧
    (isDomPage s stk.val = true →
      (anyJob s = false → rd s sp F.HBM_MAP_CTRL.BUSY = 0 → Does (.rebuild stk) s (fun t => OnlyPages s t (fun q => q = sp) ∧
        rd t sp F.HBM_MAP_CTRL.BUSY = 1)) ∧
      (anyJob s = true ∨ rd s sp F.HBM_MAP_CTRL.BUSY ≠ 0 → Does (.rebuild stk) s (· = setErr s sp E.HBM_STK.MAP_IGN)) ∧
      (∀ x, hbmPlace s addr = some x → (striped s = true ∨ addr / dieSpan = stk.val / 8) → x.1 < 512 → x.2.1 < 2 ^ 22 →
        Does (.hbmXlate stk hi) s (fun t => xlate t 1 x.1 x.2.1)) ∧
      (hbmPlace s addr = none → Does (.hbmXlate stk hi) s (fun t => xlate t 0 0 0))) ∧
    (d.val ∈ domList s → rd s (domPage d.val) F.HBM_MAP_CTRL.BUSY = 1 → Does (.domainRebuild d) s (fun t =>
      rd t (domPage d.val) F.HBM_MAP_CTRL.BUSY = 0 ∧ rd t (domPage d.val) F.HBM_MAP_CTRL.NREDIR = 0 ∧
      rd t (domPage d.val) F.HBM_HEADROOM.GIB = 0 ∧ rd t (domPage d.val) F.HBM_CAP.GIB = 6 * (chs.length - out.length) ∧
      (∀ x ∈ chs, chState s x = 3 → chState t x = 4) ∧ t.cores = s.cores ∧
      ∀ x ∈ chs, x ∉ out → ∀ r b, r < slotsR → b < 2048 → memByte t.hbm.mem (placeKey x r b) = 0)) ∧
    Does (.stackTrained stk failed lanes) s (fun t => blkState t sp = stREADY ∧
      rd t sp F.HBM_STK_LANES.REPAIRED = lanes.toNat ∧ SameHbm s t ∧
      ∀ c < 16, blkState t (pgCH (16 * stk.val + c)) = stREADY ∧
        (failed.getLsbD c = true → chState t (16 * stk.val + c) = 4 ∧ 16 * stk.val + c ∈ t.hbm.mapped)) ∧
    (st = 4 ∨ (st ≠ 5 ∧ anyJob s = false) → Does (.testEnter n) s (fun t => only t ∧ chState t n.val = 5 ∧
      rd t pg F.HBM_CH_STATE.PRIOR = st)) ∧
    (st ≠ 4 → anyJob s = true → Does (.testEnter n) s (· = setErr s pg E.HBM_CH.CMD_IGN)) ∧
    (st = 5 → Does (.testExit n) s (fun t => chState t n.val = rd s pg F.HBM_CH_STATE.PRIOR ∧ t.cores = s.cores ∧
        (rd s pg F.HBM_CH_STATE.PRIOR = 0 → ∀ r b, r < slotsR → b < 2048 → memByte t.hbm.mem (placeKey n.val r b) = 0) ∧
        (rd s pg F.HBM_CH_STATE.PRIOR ≠ 0 → SameHbm s t)) ∧
      Does (.tgStart n p) s (fun t => only t ∧ rd1 t pg F.HBM_TG_CTRL.BUSY p.val = 1 ∧
        rd1 t pg F.HBM_TG_FAIL_ADDR.VALID p.val = 0 ∧ rd1 t pg F.HBM_TG_PASSES.DONE p.val = 0)) ∧
    (st ≠ 5 → Does (.tgStart n p) s (· = setErr s pg E.HBM_CH.CMD_IGN)) ∧
    Does (.tgStop n p) s (fun t => only t ∧ rd1 t pg F.HBM_TG_CTRL.BUSY p.val = 0) ∧
    (tgBusy s n.val p.val = true →
      Does (.tgRunEnd n p passes bursts) s (fun t => only t ∧ rd1 t pg F.HBM_TG_CTRL.BUSY p.val = 0 ∧
        rd1 t pg F.HBM_TG_PASSES.DONE p.val = passes.toNat) ∧
      Does (.tgCheckFail n p slot burst bitNo expect nbits) s (fun t => only t ∧
        rd1 t pg F.HBM_TG_FAIL_CNT.COUNT p.val = min (rd1 s pg F.HBM_TG_FAIL_CNT.COUNT p.val + 1) (2 ^ 32 - 1) ∧
        (rd1 s pg F.HBM_TG_FAIL_ADDR.VALID p.val = 0 → rd1 t pg F.HBM_TG_FAIL_ADDR.VALID p.val = 1 ∧
          rd1 t pg F.HBM_TG_FAIL_ADDR.SLOT p.val = slot.toNat ∧ rd1 t pg F.HBM_TG_FAIL_ADDR.BURST p.val = burst.toNat ∧
          rd1 t pg F.HBM_TG_FAIL_BIT.BIT p.val = bitNo.toNat ∧ rd1 t pg F.HBM_TG_FAIL_BIT.EXPECT p.val = bit expect ∧
          rd1 t pg F.HBM_TG_FAIL_BIT.NBITS p.val = nbits.toNat + 1) ∧
        (rd1 s pg F.HBM_TG_CTRL.STOP_ON_FAIL p.val ≠ 0 → rd1 t pg F.HBM_TG_CTRL.BUSY p.val = 0)))

/-! ## Optical ports (R229 to R244, R264) -/

/-- R229, R232, R233, R239, R241: a link whose two ends agree and whose lanes all qualify comes UP on all of them with its counters
fresh; the flit expected is accepted once, any other is not and a damaged one asks for a NAK; a link goes DOWN with the cause of
what took it down, DOWN links retrain, and a close waits for the last acknowledgement. -/
def Obligations.OpticalLinks : Prop :=
  ∀ (s : State) (l : Fin 64) (peer : BitVec 20) (port : Fin 16) (link : Fin 4) (split : BitVec 2) (inPlace : Bool) (qual : BitVec 17)
    (txSpare : Fin 16) (txFibre : Fin 8) (loop_ : BitVec 12) (flit : List Byte) (b : List Byte) (r : List (List Byte)), s.Inv →
    let n := l.val
    let pg := linkPg n
    let k := n % 4
    let v := lk s n
    let w := linkWidth s n
    let h := bytesToNat (flit.take 12)
    let acked := applyAck v (natField h 14 12)
    let crcOk := crc32c (flit.take 636) = bytesToNat ((flit.drop 636).take 4)
    let same (t : State) : Prop := t.hbm = s.hbm ∧ t.jobs = s.jobs
    let down (t : State) (cause : Nat) : Prop := same t ∧ linkState t n = 5 ∧ rd1 t pg F.FAB_PORT_LINK.CAUSE k = cause ∧
      rd1 t pg F.FAB_PORT_LINK.LANES k = 0 ∧ (lk t n).txMap = [] ∧ (lk t n).rxMap = [] ∧ (lk t n).retry = [] ∧
      rd1 t pg F.FAB_PORT_RETRY.DOWNS k = (rd1 s pg F.FAB_PORT_RETRY.DOWNS k + 1) % 2 ^ F.FAB_PORT_RETRY.DOWNS.width
    let feed := if rdB s pg F.FAB_PORT_FEED.SEL then rdB s pg F.FAB_PORT_FEED.B_OK else rdB s pg F.FAB_PORT_FEED.A_OK
    let canTrain := reservedId (ownId s) = false ∧ rdB s pg F.FAB_PORT_CFG.EN = true ∧ tabGet false s.fab.hot (n / 4) = false ∧
      feed = true
    (linkState s n = 2 → split.toNat = rd s pg F.FAB_PORT_CFG.SPLIT → (∀ i ∈ linkLanes s n, qual.getLsbD i = true) →
      Does (.linkTraining l peer port link split true qual 0xFFFF txSpare txFibre loop_) s (fun t => same t ∧ t.cores = s.cores ∧
        linkState t n = 3 ∧ rd1 t pg F.FAB_PORT_PEER.MODULE k = peer.toNat ∧ rd1 t pg F.FAB_PORT_PEER.VALID k = 1 ∧
        rd1 t pg F.FAB_PORT_LINK.LANES k = w ∧ rd1 t pg F.FAB_PORT_LINK.LOOP k = loop_.toNat ∧ (lk t n).txMap = linkLanes s n ∧
        (lk t n).rxMap = linkLanes s n ∧ (lk t n).txSeq = 0 ∧ (lk t n).rxSeq = 0 ∧ (lk t n).retry = [] ∧
        (lk t n).credit = creditInit s n)) ∧
    (linkState s n = 2 → split.toNat ≠ rd s pg F.FAB_PORT_CFG.SPLIT ∨ inPlace = false →
      Does (.linkTraining l peer port link split inPlace qual 0xFFFF txSpare txFibre loop_) s (fun t => same t ∧ linkState t n = 6)) ∧
    (usable s n = true → v.closeAt = 0 → v.rxNext = none →
      (crcOk → natField h 12 2 = 0 → natField h 0 12 = v.rxSeq → Does (.flitReceive l flit true) s (fun t => same t ∧ t.cores = s.cores ∧
        (lk t n).rxSeq = (v.rxSeq + 1) % 4096 ∧ (lk t n).nak = false ∧ (lk t n).retry = acked.retry ∧ (lk t n).sent = acked.sent ∧
        (lk t n).stream = v.stream ++ (flit.drop 12).take (min (natField h 28 10) 624) ∧ (lk t n).ctrlIn = v.ctrlIn)) ∧
      (crcOk → natField h 12 2 = 0 → natField h 0 12 ≠ v.rxSeq → Does (.flitReceive l flit true) s (fun t => same t ∧
        t.cores = s.cores ∧ (lk t n).rxSeq = v.rxSeq ∧ (lk t n).stream = v.stream ∧ (lk t n).ctrlIn = v.ctrlIn)) ∧
      (¬ crcOk → Does (.flitReceive l flit true) s (fun t => same t ∧ t.regs = s.regs ∧ lk t n = { v with nak := true })) ∧
      Does (.flitReceive l flit false) s (fun t => same t ∧ t.regs = s.regs ∧ lk t n = { v with nak := true })) ∧
    (usable s n = true → v.goodAt + 1300 ≤ s.esc + 1 → Does (.linkDead l) s (down · 1)) ∧
    (usable s n = true → v.closeAt ≠ 0 → v.closeAt + 32500 ≤ s.esc + 1 → Does (.closeTimeout l) s (down · 1)) ∧
    (usable s n = true → v.ctrlIn = b :: r → bytesToNat b % 256 = 5 → Does (.close l) s (down · 3)) ∧
    (usable s n = true → v.closeAt = 0 → v.retry = [] → Does (.fabClose l) s (down · 4)) ∧
    (usable s n = true → v.closeAt = 0 → v.retry ≠ [] → Does (.fabClose l) s (fun t => same t ∧ linkState t n = linkState s n ∧
      (lk t n).closeAt = s.esc + 1 ∧ (lk t n).retry = v.retry)) ∧
    (canTrain → linkState s n = 5 → rd1 s pg F.FAB_PORT_LINK.CAUSE k ≠ 4 → v.downAt + 32500000 ≤ s.esc + 1 →
      Does (.retrainTimer l) s (fun t => same t ∧ t.cores = s.cores ∧ linkState t n = 2)) ∧
    (canTrain → rd s pgSEC F.SEC_DEBUG.LEVEL ≠ 3 → k < linksOf s (n / 4) →
      Does (.retrain l) s (fun t => same t ∧ linkState t n = 2)) ∧
    (rd s pgSEC F.SEC_DEBUG.LEVEL = 3 → Does (.retrain l) s (· = setErr s pg E.FAB_PORT.CFG_IGN))

/-- R230, R231, R236 to R238: an error window degrades an ACTIVE lane that reaches a threshold; a failed lane asks its sender to leave
it out; LANE_OUT, SPARE_REQ, SPARE_READY and MAP change the lane maps as their records say; a qualified spare is announced; SPLIT is
written only while the port is off. -/
def Obligations.OpticalLanes : Prop :=
  ∀ (s : State) (l : Fin 64) (p : Fin 16) (i : Fin 17) (csym ucw : BitVec 32) (sp : BitVec 2) (b : List Byte) (r : List (List Byte)), s.Inv →
    let n := l.val
    let pg := linkPg n
    let pp := pgPORT p.val
    let v := lk s n
    let x := bytesToNat b
    let lane := natField x 64 8
    let same (t : State) : Prop := t.hbm = s.hbm ∧ t.jobs = s.jobs ∧ t.cores = s.cores
    let sends (t : State) (m : Nat) (rec_ : List (Nat × Nat)) : Prop := ∃ f, (lk t m).retry = (lk s m).retry ++ [f] ∧ f.ctrl = true ∧
      f.fseq = (lk s m).txSeq ∧ f.body = natToBytes 10 (packBytes rec_)
    let head (code : Nat) : Prop := usable s n = true ∧ v.goodAt ≠ 0 ∧ v.ctrlIn = b :: r ∧ x % 256 = code
    let bad := rd s pp F.FAB_PORT_CSYM_THR.THR ≤ csym.toNat ∨ rd s pp F.FAB_PORT_UCW_THR.THR ≤ ucw.toNat
    (tabGet 0 s.fab.laneWin (32 * p.val + i.val) < s.esc / 2 ^ 28 → Does (.laneWindow p i csym ucw) s (fun t => same t ∧
      rd1 t pp F.FAB_LANE_CSYM.COUNT i.val = csym.toNat ∧
      rd1 t pp F.FAB_LANE_UCW.COUNT i.val = min (rd1 s pp F.FAB_LANE_UCW.COUNT i.val + ucw.toNat) (2 ^ 32 - 1) ∧
      (laneState s p.val i.val = 2 ∧ bad → laneState t p.val i.val = 3) ∧
      (¬ (laneState s p.val i.val = 2 ∧ bad) → laneState t p.val i.val = laneState s p.val i.val))) ∧
    (let m := laneLink s p.val i.val
     i.val < 16 → laneState s p.val i.val = 2 ∨ laneState s p.val i.val = 3 → laneState s p.val 16 ≠ 6 → usable s m = true →
     (lk s m).rxMap.any (fun e => e % 16 == i.val) = true → linkWidth s m ≤ 2 * ((lk s m).rxMap.length - 1) → (spareOf s p.val).rx = none →
     Does (.laneFailed p i 0) s (fun t => same t ∧ laneState t p.val i.val = 5 ∧ sends t m [(0, 2), (8, i.val)])) ∧
    (head 2 → (mapWithout v.txMap lane).length ≠ v.txMap.length → linkWidth s n ≤ 2 * (mapWithout v.txMap lane).length →
      Does (.laneOut l) s (fun t => same t ∧ (lk t n).txMap = mapWithout v.txMap lane ∧ (lk t n).ctrlIn = r ∧
        ∃ rec_, sends t n rec_ ∧ rec_.head? = some (0, 1))) ∧
    (head 3 → rd s pg F.FAB_PORT_SPARE.TX_USED = 0 → Does (.spareReq l) s (fun t => same t ∧ (lk t n).ctrlIn = r ∧
      (spareOf t (n / 4)).tx = some (n, natField x 64 4, natField x 72 3) ∧ rd t pg F.FAB_PORT_SPARE.BUSY = 1)) ∧
    (head 4 → lane < 16 → natField x 72 8 < 8 → (spareOf s (n / 4)).tx = some (n, lane, natField x 72 8) →
      Does (.spareReady l) s (fun t => same t ∧ (lk t n).txMap = mapInsert (16 + lane) (mapWithout v.txMap lane) ∧ (lk t n).ctrlIn = r ∧
        rd t pg F.FAB_PORT_SPARE.TX_USED = 1 ∧ rd t pg F.FAB_PORT_SPARE.TX_LANE = lane ∧
        rd t pg F.FAB_PORT_SPARE.TX_FIBRE = natField x 72 8 ∧ ∃ rec_, sends t n rec_ ∧ rec_.head? = some (0, 1))) ∧
    (let m := mapOfRecord (natField x 32 17) (natField x 64 4)
     head 1 → (natField x 16 12 ≠ v.rxSeq → Does (.map l) s (fun t => same t ∧ (lk t n).rxNext = some (natField x 16 12, m) ∧
        (lk t n).rxMap = v.rxMap)) ∧
      (natField x 16 12 = v.rxSeq → linkWidth s n ≤ 2 * m.length → Does (.map l) s (fun t => same t ∧ (lk t n).rxMap = m))) ∧
    (∀ m q f, (spareOf s p.val).rx = some (m, q, f) → f < 8 → (spareOf s p.val).rxSent = true → usable s m = true →
      Does (.spareQualified p) s (fun t => same t ∧ rd1 t pp F.FAB_LANE_STATE.LOCK 16 = 1 ∧ rd1 t pp F.FAB_LANE_STATE.FIBRE 16 = f ∧
        sends t m [(0, 4), (8, q), (9, f)])) ∧
    (rdB s pp F.FAB_PORT_CFG.EN = false → Does (.split p sp) s (fun t => OnlyPages s t (fun q => q = pp) ∧
      rd t pp F.FAB_PORT_CFG.SPLIT = sp.toNat)) ∧
    (rdB s pp F.FAB_PORT_CFG.EN = true → Does (.split p sp) s (· = setErr s pp E.FAB_PORT.CFG_IGN))

/-- R243, R244, R264: FEED_SWAP and the loss of the selected feed switch to the other feed when it is OK; with neither OK the port is
dark and its links go DOWN with cause 5, until a feed is OK again; the module takes an ID only while no link is in use. -/
def Obligations.OpticalFeeds : Prop :=
  ∀ (s : State) (p : Fin 16) (f : Fin 2) (l0 l1 l2 : BitVec 10) (long : Bool) (id : BitVec 20), s.Inv →
    let pg := pgPORT p.val
    let sel := rd s pg F.FAB_PORT_FEED.SEL
    let other := 1 - f.val
    let same (t : State) : Prop := t.hbm = s.hbm ∧ t.jobs = s.jobs
    let lost := dbm l0 < 100 ∨ dbm l1 < 100 ∨ dbm l2 < 100
    let good := 140 ≤ dbm l0 ∧ 140 ≤ dbm l1 ∧ 140 ≤ dbm l2
    let switched (t : State) (x : Nat) : Prop := same t ∧ t.cores = s.cores ∧ rd t pg F.FAB_PORT_FEED.SEL = x ∧
      rd t pg F.FAB_PORT_FEED.SWITCHES
        = (rd s pg F.FAB_PORT_FEED.SWITCHES + 1) % 2 ^ F.FAB_PORT_FEED.SWITCHES.width
    (rdB s pg (feedOkF (1 - sel)) = true → Does (.feedSwap p) s (switched · (1 - sel))) ∧
    (rdB s pg (feedOkF (1 - sel)) = false → Does (.feedSwap p) s (· = setErr s pg E.FAB_PORT.CFG_IGN)) ∧
    (sel = f.val → lost → rdB s pg (feedOkF other) = true → Does (.feedLoss p f l0 l1 l2 long) s (fun t => switched t other ∧
      rdB t pg (feedOkF f.val) = false)) ∧
    (sel = f.val → lost → rdB s pg (feedOkF other) = false → Does (.feedLoss p f l0 l1 l2 long) s (fun t => same t ∧
      tabGet false t.fab.dark p.val = true ∧ ∀ l ∈ portLinks s p.val, usable s l = true →
        linkState t l = 5 ∧ rd1 t pg F.FAB_PORT_LINK.CAUSE (l % 4) = 5)) ∧
    (good → sel = f.val → tabGet false s.fab.dark p.val = true → reservedId (ownId s) = false → rdB s pg F.FAB_PORT_CFG.EN = true →
      tabGet false s.fab.hot p.val = false → Does (.feedOk p f l0 l1 l2) s (fun t => same t ∧ t.cores = s.cores ∧
        rdB t pg (feedOkF f.val) = true ∧ ∀ l ∈ portLinks s p.val,
          (linkState s l = 1 ∨ (linkState s l = 5 ∧ rd1 s pg F.FAB_PORT_LINK.CAUSE (l % 4) = 5)) → linkState t l = 2)) ∧
    (reservedId id.toNat = false → (∀ l < 64, linkState s l = 0 ∨ linkState s l = 5) → Does (.fabRtrId id) s (fun t => same t ∧
      t.cores = s.cores ∧ t.fab = s.fab ∧ ownId t = id.toNat)) ∧
    (reservedId id.toNat = true ∨ (∃ l < 64, linkState s l ≠ 0 ∧ linkState s l ≠ 5) →
      Does (.fabRtrId id) s (· = setErr s pgRTR E.FAB_RTR.CFG_IGN))

/-! ## Craul (R249 to R273) -/

/-- R250, R252, R254 to R256, R265: a whole message is taken from its link's stream: discarded and counted when its CRC fails or it is
malformed, committed when it is for this module, discarded at 15 hops, and queued with one hop more otherwise; the message that
leaves first in its class begins with the credit that R254 gives it and its flits enter the retry buffer; returns owed leave in a
CTRL flit. -/
def Obligations.CraulMessages : Prop :=
  ∀ (s : State) (l : Fin 64) (cls : Fin 6), s.Inv →
    let n := l.val
    let v := lk s n
    let h := bytesToNat (v.stream.take 32)
    let len := natField h 123 13
    let m := msgOf h ((v.stream.drop 32).take len)
    let q : QMsg := { msg := m, inb := some (n, if m.pool = 1 then 6 else m.cls) }
    let same (t : State) : Prop := t.hbm = s.hbm ∧ t.jobs = s.jobs ∧ t.fab.wins = s.fab.wins ∧ t.fab.routes = s.fab.routes
    let queues (t : State) : Prop := t.fab.outq = s.fab.outq ∧ t.fab.commitq = s.fab.commitq ∧ t.fab.rspq = s.fab.rspq ∧
      t.fab.mgmtq = s.fab.mgmtq ∧ t.fab.collq = s.fab.collq
    let counted (t : State) (f : Fld) : Prop := rd t pgRTR f = min (rd s pgRTR f + 1) (2 ^ f.width - 1)
    let whole := usable s n = true ∧ v.goodAt ≠ 0 ∧ 32 + len ≤ v.stream.length
    let good := msgCrc m = m.crc ∧ malformed m = false
    let coll := m.cls = 2 ∨ m.cls = 3 ∨ m.cls = 5
    let mine (x : QMsg) : Bool := x.msg.cls == cls.val && (x.link == some n || (x.link.isNone && x.cands.contains n))
    let qs := s.fab.outq.filter mine
    (whole → (msgCrc m ≠ m.crc ∨ malformed m = true) → Does (.messageArrive l) s (fun t => same t ∧ queues t ∧ t.cores = s.cores ∧
      counted t F.FAB_RTR_CRC_ERR.COUNT ∧ (lk t n).stream = v.stream.drop (32 + len) ∧
      (lk t n).owed = tabPut 0 v.owed (if m.pool = 1 then 6 else m.cls)
        (tabGet 0 v.owed (if m.pool = 1 then 6 else m.cls) + msgUnits m))) ∧
    (whole → good → m.dst = ownId s → Does (.messageArrive l) s (fun t => same t ∧ t.cores = s.cores ∧
      t.fab.outq = s.fab.outq ∧ (lk t n).stream = v.stream.drop (32 + len) ∧
      t.fab.commitq = s.fab.commitq ++ (if m.cls = 0 then [q] else []) ∧ t.fab.rspq = s.fab.rspq ++ (if m.cls = 1 then [q] else []) ∧
      t.fab.mgmtq = s.fab.mgmtq ++ (if m.cls = 4 then [q] else []) ∧ t.fab.collq = s.fab.collq ++ (if coll then [q] else []) ∧
      rd64 t pgRTR F.FAB_RTR_MSG_LO.COUNT F.FAB_RTR_MSG_HI.COUNT 0
        = (rd64 s pgRTR F.FAB_RTR_MSG_LO.COUNT F.FAB_RTR_MSG_HI.COUNT 0 + 1) % 2 ^ 64)) ∧
    (whole → good → m.dst ≠ ownId s → m.hops = 15 → Does (.messageArrive l) s (fun t => same t ∧ queues t ∧ t.cores = s.cores ∧
      counted t F.FAB_RTR_DROP_CNT.COUNT ∧ (lk t n).stream = v.stream.drop (32 + len))) ∧
    (whole → good → m.dst ≠ ownId s → m.hops ≠ 15 → routeLost s m.dst = false → Does (.messageArrive l) s (fun t => same t ∧
      t.cores = s.cores ∧ t.regs = s.regs ∧ (lk t n).stream = v.stream.drop (32 + len) ∧ ∃ x, t.fab.outq = s.fab.outq ++ [x] ∧
      x.msg = { m with hops := m.hops + 1, cls := if coll ∧ (routeOf s m.dst).testBit 47 then 5 else m.cls } ∧ x.inb = q.inb ∧
      (coll → ∀ f, fixedLink s (routeOf s m.dst) = some f → x.link = some f) ∧
      (¬ coll → ∀ f, bestLink s m (liveCands s (routeOf s m.dst)) = some f → x.link = some f))) ∧
    (∀ x pool, (qs.find? (fun y => y.msg.express) = some x ∨ (qs.find? (fun y => y.msg.express) = none ∧ qs.head? = some x)) →
      creditFor v x.msg cls.val = some pool → usable s n = true → v.closeAt = 0 →
      v.retry.length + (cutBodies 8 (msgBytes x.msg)).length ≤ retryCap s n →
      let y := { x.msg with pool := bit (pool == 6) }
      let bodies := cutBodies 8 (msgBytes y)
      Does (.messageForward l cls) s (fun t => same t ∧ t.cores = s.cores ∧ t.regs = s.regs ∧ t.fab.outq = s.fab.outq.erase x ∧
        (lk t n).credit = tabPut 0 v.credit pool (tabGet 0 v.credit pool - msgUnits y) ∧
        (lk t n).retry.map Flit.body = v.retry.map Flit.body ++ bodies ∧ (lk t n).txSeq = (v.txSeq + bodies.length) % 4096 ∧
        ∃ z, (lk t n).sent = v.sent ++ [z] ∧ z.q.msg = y ∧ z.last = (v.txSeq + bodies.length + 4095) % 4096)) ∧
    (∀ x, (qs.find? (fun y => y.msg.express) = some x ∨ (qs.find? (fun y => y.msg.express) = none ∧ qs.head? = some x)) →
      creditFor v x.msg cls.val = none → Does (.messageForward l cls) s (· = s)) ∧
    (usable s n = true → v.owed ≠ [] → v.retry.length < retryCap s n → Does (.creditReturn l) s (fun t =>
      t = { s with fab := { s.fab with links := t.fab.links } } ∧ (lk t n).owed = (takeCredit v.owed).2 ∧
      ∃ f, (lk t n).retry = v.retry ++ [f] ∧ f.ctrl = true ∧ f.fseq = v.txSeq ∧ f.body = zeros 10 ∧ f.credit = (takeCredit v.owed).1))

/-- R251, R253, R260, R261, R271: the WRITE, READ or ADD first in the commit order is checked, and either lands at BASE + OFFSET and is
answered OK with the data that R251 gives its response, or writes nothing and is answered with the status of the first check that
fails; a response completes the request it answers, and one that answers none is counted as dropped; a request that is not
answered in time completes TIMEOUT. -/
def Obligations.CraulCommits : Prop :=
  ∀ (s : State) (q : QMsg) (r : List QMsg) (c : Fin 256) (rid : Nat), s.Inv →
    let m := q.msg
    let at_ := (winAt s m.win).base + m.offset
    let local_ := m.src = ownId s ∧ reservedId m.src = false
    let far := m.src ≠ ownId s ∧ reservedId m.src = false ∧ routeLost s m.src = false
    let same (t : State) : Prop := t.cores = s.cores ∧ t.jobs = s.jobs ∧ t.fab.commitq = r ∧ t.fab.mgmtq = s.fab.mgmtq ∧
      t.fab.collq = s.fab.collq ∧ t.fab.routes = s.fab.routes
    let answered (t : State) (op st : Nat) (data : List Byte) : Prop :=
      (local_ → t.fab.outq = s.fab.outq ∧ t.fab.rspq = s.fab.rspq ++ [{ msg := response m op st data }]) ∧
      (far → t.fab.rspq = s.fab.rspq ∧ ∃ x, t.fab.outq = s.fab.outq ++ [x] ∧ x.msg = response m op st data)
    let refused (t : State) (st : Nat) : Prop := same t ∧ answered t (0x3F + m.op) st [] ∧ t.hbm = s.hbm ∧
      t.fab.wins = s.fab.wins ∧ rd t pgRTR F.FAB_RTR_REJ_CNT.COUNT
        = min (rd s pgRTR F.FAB_RTR_REJ_CNT.COUNT + 1) (2 ^ F.FAB_RTR_REJ_CNT.COUNT.width - 1)
    let rlen := m.step % 8192
    let rres := hbmRead (markLive s m.win) at_ rlen
    let ares := hbmRead (markLive s m.win) at_ 8
    let sum := (bytesToNat ares.1 + bytesToNat (m.data.take 8)) % 2 ^ 64
    let st := m.step % 256
    let completed (op : Nat) (x : Req) : Req := { x with status := some st, data := if st = 0 ∧ op ≠ 0x40 then m.data else x.data }
    let arrives (op : Nat) (i : Instr) : Prop :=
      s.fab.rspq = q :: r → m.op = op →
        (∀ n d, findReq s m = some (n, d) → Does i s (fun t => t.fab.rspq = r ∧ t.hbm = s.hbm ∧ t.regs = s.regs ∧ t.jobs = s.jobs ∧
          (core t n).reqs = (core s n).reqs.map (fun x => if x.id = d then completed op x else x) ∧
          ∀ k, k ≠ n → core t k = core s k)) ∧
        (findReq s m = none → Does i s (fun t => t.fab.rspq = r ∧ t.cores = s.cores ∧ t.hbm = s.hbm ∧
          rd t pgRTR F.FAB_RTR_DROP_CNT.COUNT
            = min (rd s pgRTR F.FAB_RTR_DROP_CNT.COUNT + 1) (2 ^ F.FAB_RTR_DROP_CNT.COUNT.width - 1)))
    (s.fab.commitq = q :: r → (local_ ∨ far) →
      (m.op = 1 → commitCheck s m m.len = 0 → Does .write s (fun t => same t ∧ answered t 0x40 0 [] ∧
        t.hbm = (hbmWrite s at_ m.data { kind := 5 }).hbm)) ∧
      (m.op = 1 → commitCheck s m m.len ≠ 0 → Does .write s (refused · (commitCheck s m m.len))) ∧
      (m.op = 2 → commitCheck s m rlen = 0 → Does .read s (fun t => same t ∧ t.hbm = rres.2.2.hbm ∧
        answered t 0x41 (if rres.2.1 then 6 else 0) (if rres.2.1 then [] else rres.1))) ∧
      (m.op = 2 → commitCheck s m rlen ≠ 0 → Does .read s (refused · (commitCheck s m rlen))) ∧
      (m.op = 3 → commitCheck s m 8 = 0 → ares.2.1 = false → Does .craulAdd s (fun t => same t ∧
        t.hbm = (hbmWrite ares.2.2 at_ (natToBytes 8 sum) { kind := 5 }).hbm ∧ answered t 0x42 0 (ares.1 ++ zeros 24))) ∧
      (m.op = 3 → commitCheck s m 8 = 0 → ares.2.1 = true → Does .craulAdd s (fun t => same t ∧ t.hbm = ares.2.2.hbm ∧
        answered t 0x42 6 [])) ∧
      (m.op = 3 → commitCheck s m 8 ≠ 0 → Does .craulAdd s (refused · (commitCheck s m 8)))) ∧
    arrives 0x40 .writeDone ∧ arrives 0x41 .readData ∧ arrives 0x42 .addOld ∧
    (∀ x ∈ (core s c.val).reqs, x.id = rid → x.status = none → (∃ w e d f, x.tgt = .window w e d f) →
      rd s pgRTR F.FAB_RTR_RSP_LIM.PCLK ≠ 0 → x.issued + rd s pgRTR F.FAB_RTR_RSP_LIM.PCLK ≤ s.esc →
      Does (.timeout c rid) s (fun t => t.hbm = s.hbm ∧ t.fab = s.fab ∧ (∀ k, k ≠ c.val → core t k = core s k) ∧
        (core t c.val).reqs
          = (core s c.val).reqs.map (fun y => if y.id = rid ∧ y.status = none then { y with status := some 8 } else y) ∧
        (∀ pg off, off < 4096 → pg ≠ pgRTR → rdW t pg off = rdW s pg off)))

/-- R259, R262, R263, R268 to R270: OPEN takes the staged fields or is ignored; CLOSE closes at once and BUSY stands until the last commit
has landed; a route entry is replaced whole and the peers it leaves without a route are lost; LINK_LAST disposes of the held messages
by the last FSEQ that the peer accepted, and without it in 50 microseconds a peer with no other link is lost; a stalled queue is
recorded and its originators are torn down. -/
def Obligations.CraulWindowsAndLoss : Prop :=
  ∀ (s : State) (l : Fin 64) (lo : Option (Fin 64)) (cls : Fin 6) (i : Fin 4096) (idx : Fin 1024) (member : Bool) (q : QMsg)
    (m : Nat), s.Inv →
    let n := l.val
    let v := lk s n
    let sel := rd s pgRTR F.FAB_WIN_SEL.IDX
    let w := winAt s sel
    let x := winAt s i.val
    let size := rd s pgRTR F.FAB_WIN_SIZE.SIZE
    let epoch := rd s pgRTR F.FAB_WIN_ATTR.EPOCH
    let onlyWins (t : State) (wins : SMap Win) : Prop := t = { s with fab := { s.fab with wins := wins } }
    let opens : Win := { base := rd s pgRTR F.FAB_WIN_BASE.BASE * 4096, size := size, epoch := epoch,
                         r := rdB s pgRTR F.FAB_WIN_ATTR.R, w := rdB s pgRTR F.FAB_WIN_ATTR.W, a := rdB s pgRTR F.FAB_WIN_ATTR.A,
                         opened := true, ctx := rd s pgRTR F.FAB_WIN_ATTR.CTX, job := rdB s pgRTR F.FAB_WIN_ATTR.JOB, bank := 0,
                         srcId := rd s pgRTR F.FAB_WIN_SRC.SRC_ID, srcMask := rd s pgRTR F.FAB_WIN_SRCMASK.MASK,
                         live := false, busy := w.busy }
    let staged := rdW s pgRTR 0x110 + rdW s pgRTR 0x114 <<< 32
    let entry := (if member then 2048 else 0) + idx.val
    let same (t : State) : Prop := t.hbm = s.hbm ∧ t.jobs = s.jobs ∧ t.fab.wins = s.fab.wins ∧ t.fab.routes = s.fab.routes
    let gone (t : State) (p : Nat) : Prop := (∀ y ∈ t.fab.outq, y.msg.dst ≠ p) ∧
      ∀ k, ∀ r ∈ (core t k).reqs, reqTo r p = true → r.status ≠ none
    let from_ (b : Nat) (y : Nat) : Bool := (lk s y).awaitLast && peerOf s y == q.msg.src
      && rd1 s (linkPg y) F.FAB_PORT_PEER.PORT (y % 4) == b / 4 % 16 && rd1 s (linkPg y) F.FAB_PORT_PEER.LINK (y % 4) == b % 4
    let last := bytesToNat ((q.msg.data.drop 2).take 2) % 4096
    let others := (List.range 64).any (fun k => k != n && linkState s k == 3 && peerOf s k == peerOf s n)
    let key := (match lo with | some y => y.val | none => 64) * 8 + cls.val
    let link := match lo with | some y => y.val | none => 63
    let mine := match lo with
      | some y => s.fab.outq.filter (inQueue y.val cls.val)
      | none => s.fab.collq.filter (fun y => y.msg.cls == cls.val)
    let ctxs (y : QMsg) := match lo with | some _ => originsOf mine | none => awaitedCtx s y
    let lim := rd s pgRTR F.FAB_RTR_STALL_LIM.PCLK
    (w.opened = false → size ≠ 0 → epoch ≠ w.epoch → Does .winOpen s (onlyWins · (tabPut {} s.fab.wins sel opens))) ∧
    (w.opened = true ∨ size = 0 ∨ epoch = w.epoch → Does .winOpen s (· = setErr s pgRTR E.FAB_RTR.CFG_IGN)) ∧
    (w.opened = true → Does .winClose s (onlyWins · (tabPut {} s.fab.wins sel { w with opened := false, busy := w.live, live := false }))) ∧
    (w.opened = false → Does .winClose s (· = s)) ∧
    (x.busy = true → Does (.winBusyClear i) s (onlyWins · (tabPut {} s.fab.wins i.val { x with busy := false }))) ∧
    Does (.rtWrite idx member) s (fun t => t.hbm = s.hbm ∧ t.jobs = s.jobs ∧ t.fab.wins = s.fab.wins ∧
      t.fab.routes = tabPut (1 <<< 48) s.fab.routes entry staged ∧ rd t pgRTR F.FAB_RTR_RT_SEL.IDX = idx.val ∧
      rd t pgRTR F.FAB_RTR_RT_SEL.TBL = bit member ∧
      ((∃ y ∈ s.fab.outq, y.msg.dst = m) → m ≠ ownId s → routeLost t m = true → gone t m)) ∧
    (s.fab.mgmtq.find? (fun y => y.msg.op == 0xC0) = some q →
      ∀ y, (List.range 64).find? (from_ (bytesToNat (q.msg.data.take 1))) = some y → (lk s y).downAt ≠ 0 →
        (∀ h ∈ (lk s y).held, fseqReached h.last last = false → routeLost s h.q.msg.dst = false) →
        Does .linkLast s (fun t => same t ∧ t.cores = s.cores ∧ t.fab.mgmtq = s.fab.mgmtq.erase q ∧ (lk t y).held = [] ∧
          (lk t y).awaitLast = false ∧ ∃ more, t.fab.outq = s.fab.outq ++ more ∧ more.map (fun a => a.msg.dst)
            = ((lk s y).held.filter (fun h => !fseqReached h.last last)).map (fun h => h.q.msg.dst))) ∧
    (v.awaitLast = true → v.downAt ≠ 0 → v.downAt + 16250 ≤ s.esc + 1 →
      (others = false → Does (.linkLastTimeout l) s (fun t => same t ∧ gone t (peerOf s n) ∧ (lk t n).held = [] ∧
        (lk t n).awaitLast = false)) ∧
      (others = true → v.held = [] → Does (.linkLastTimeout l) s (fun t => t = { s with fab := { s.fab with links := t.fab.links } } ∧
        (lk t n).awaitLast = false))) ∧
    (v.awaitLast = false ∨ s.esc + 1 < v.downAt + 16250 → Does (.linkLastTimeout l) s (· = s)) ∧
    (∀ y r, mine = y :: r →
      (lim ≠ 0 → tabGet 0 s.fab.advAt key ≠ 0 → tabGet 0 s.fab.advAt key + lim ≤ s.esc + 1 → Does (.stall lo cls) s (fun t =>
        same t ∧ t.cores = s.cores ∧ rd t pgRTR F.FAB_RTR_STALL_INFO.LINK = link ∧ rd t pgRTR F.FAB_RTR_STALL_INFO.CLASS = cls.val ∧
        rd t pgRTR F.FAB_RTR_STALL_INFO.VALID = 1 ∧ tabGet 0 t.fab.advAt key = s.esc + 1 ∧
        t.fab.outq = s.fab.outq.filter (fun a => !(a.origin.any (fun o => (ctxs y).contains (o.1, o.2.2)))) ∧
        ∃ fs, t.faults = s.faults ++ fs ∧ fs.map (fun f => (f.bank, f.ctx)) = ctxs y ∧ ∀ f ∈ fs, f.status = 0x53)) ∧
      (lim = 0 ∨ s.esc + 1 < tabGet 0 s.fab.advAt key + lim → Does (.stall lo cls) s (· = s)))

/-! ## Caravan (R274 to R300) -/

/-- R275, R278, R279, R281, R286, R299: the head of the queue becomes active when the four conditions hold, and is torn down for a broken
rule, format or grant; an ALL_GATHER then writes its own block; a decided instance completes with its record, its arrival and its
counts; one that outlives CARAVAN_TMO ends TIMEOUT; a re-shard is armed and the tables are written only where R275 and R301 allow. -/
def Obligations.CaravanEntries : Prop :=
  ∀ (s : State) (i : Inst) (rest : List Inst) (e : Fin 1024) (w : BitVec 32), s.Inv →
    let v := insPlan s i
    let i0 := { i with actAt := s.esc + 1, lepoch := if peOpc v = 7 then (i.lepoch + 1) % 65536 else i.lepoch }
    let mayRun := s.car.active.length < 32 ∧ activeOf s i.entry = none ∧ (∀ x ∈ s.car.active, peOpc (insPlan s x) ≠ 7) ∧
      (peOpc v = 7 → s.car.active = []) ∧ (peBuf v ≤ bufFree s ∨ 16112 < peBuf v)
    let active (t : State) := t.car.active.find? (fun x => x.entry == i.entry && x.inst == i.inst)
    let torn (t : State) (st : Nat) : Prop := t.car.queue = rest ∧ t.hbm = s.hbm ∧ t.jobs = s.jobs ∧
      active t = some { i0 with status := some 7 } ∧ ∃ r, t.faults = s.faults ++ [r] ∧ r.bank = i.bank ∧ r.ctx = peCtx v ∧ r.status = st
    let started (t : State) : Prop := t.car.queue = rest ∧ t.jobs = s.jobs ∧ t.faults = s.faults ∧
      ∃ x, active t = some x ∧ x.actAt = s.esc + 1 ∧ x.lepoch = i0.lepoch ∧ x.step = i.step
    let block := hbmRead s (insSrc s i) (peCount v)
    let cores := recordCores s i
    let counted (t : State) (f : Fld) : Prop := rd t pgCAR f = min (rd s pgCAR f + 1) (2 ^ f.width - 1)
    let pend := rdB s pgCAR F.CARAVAN_RESHARD.PEND
    let word := rd s pgCAR F.CARAVAN_PLAN_ADDR.WORD
    let index := rd s pgCAR F.CARAVAN_RANK_ADDR.INDEX
    let nextWord := if rdB s pgCAR F.CARAVAN_PLAN_ADDR.AINC then (word + 1) % 16384 else word
    let nextIndex := if rdB s pgCAR F.CARAVAN_RANK_ADDR.AINC then (index + 1) % 262144 else index
    let onPage (t : State) : Prop := OnlyPages { s with car := t.car } t (fun p => p = pgCAR)
    (s.car.queue = i :: rest → ¬ mayRun → Does .entryActivate s (· = s)) ∧
    (s.car.queue = [] → Does .entryActivate s (· = s)) ∧
    (s.car.queue = i :: rest → mayRun → i.status = none →
      (boundsRule s i = true → Does .entryActivate s (torn · 0x42)) ∧
      (boundsRule s i = false → formatRule v = true → Does .entryActivate s (torn · 0x40)) ∧
      (boundsRule s i = false → formatRule v = false → grantRule s i = true → Does .entryActivate s (torn · 0x47)) ∧
      (boundsRule s i = false → formatRule v = false → grantRule s i = false →
        (peOpc v = 8 → Does .entryActivate s (fun t => started t ∧ t.hbm = s.hbm)) ∧
        (peOpc v = 3 → block.2.1 = true → Does .entryActivate s (fun t => t.car.queue = rest ∧ t.hbm = block.2.2.hbm ∧
          active t = some { i0 with status := some 6 } ∧
          ∃ r, t.faults = s.faults ++ [r] ∧ r.bank = i.bank ∧ r.ctx = peCtx v ∧ r.status = 0x4E)) ∧
        (peOpc v = 3 → block.2.1 = false → Does .entryActivate s (fun t => started t ∧
          t.hbm = (hbmWrite block.2.2 (insDst s i + insRank s i * peCount v) block.1 { kind := 3 }).hbm)))) ∧
    (activeOf s e.val = some i → ∀ st, i.status = some st → (∀ l ∈ cores, (pcoreOf s i.bank l).isSome = true) →
      Does (.entryComplete e) s (fun t => t.jobs = s.jobs ∧ t.fab = s.fab ∧ t.car.queue = s.car.queue ∧
        t.car.active = s.car.active.filter (fun x => !(x.entry == i.entry && x.inst == i.inst)) ∧
        rd t pgCAR F.CARAVAN_DONE_CNT.COUNT = (rd s pgCAR F.CARAVAN_DONE_CNT.COUNT + 1) % 2 ^ 32 ∧
        t.car.degPos = s.car.degPos ++ (if st = 0 then [] else (arriveLeft s i).map (fun p => (i.bank, i.stepNo, p))) ∧
        (st = 0 → t.hbm = s.hbm ∧ t.events = s.events) ∧
        (peOpc v = 7 → rd t pgCAR F.CARAVAN_RESHARD.PEND = 0 ∧ rd t pgCAR F.CARAVAN_RESHARD.BUSY = 0) ∧
        (st = 0x10 → counted t F.CARAVAN_SMM_CNT.COUNT) ∧ (st = 0x11 → counted t F.CARAVAN_EMM_CNT.COUNT) ∧
        (st ≠ 0 → st < 256 → rd t pgCAR F.CARAVAN_LAST.ENTRY = i.entry % 1024 ∧ rd t pgCAR F.CARAVAN_LAST.STATUS = st) ∧
        (cores = [] → t.cores = s.cores) ∧
        (∀ l x, cores = [l] → st = 0 → remoteWrite s i.bank l (peNh v) (32 * insNoff s i) (completionRecord i 0) = some x →
          t.cores = x.2.cores))) ∧
    (activeOf s e.val = some i → i.status = none ∨ (∃ l ∈ cores, pcoreOf s i.bank l = none) → Does (.entryComplete e) s (· = s)) ∧
    (let lim := rd s pgCAR F.CARAVAN_TMO.PCLK
     activeOf s e.val = some i →
      (lim ≠ 0 → i.actAt + lim ≤ s.esc + 1 → i.status = none → Does (.caravanTmo e) s (fun t =>
        t = { s with car := { s.car with active := t.car.active } } ∧ active t = some { i with status := some 8 } ∧
        ∀ y ∈ t.car.active, (y.entry ≠ i.entry ∨ y.inst ≠ i.inst) → y ∈ s.car.active)) ∧
      (lim = 0 ∨ s.esc + 1 < i.actAt + lim → Does (.caravanTmo e) s (· = s))) ∧
    (pend = true ∨ peOpc (planOf s e.val) ≠ 7 → Does (.armReshard e) s (· = setErr s pgCAR E.CARAVAN.CFG_IGN)) ∧
    (pend = false → peOpc (planOf s e.val) = 7 → Does (.armReshard e) s (fun t => OnlyPages s t (fun p => p = pgCAR) ∧
      rd t pgCAR F.CARAVAN_RESHARD.ENTRY = e.val ∧ rd t pgCAR F.CARAVAN_RESHARD.PEND = 1)) ∧
    Does (.caravanPlanData none) s (fun t => onPage t ∧ t.car = s.car ∧ rd t pgCAR F.CARAVAN_PLAN_ADDR.WORD = nextWord) ∧
    Does (.caravanRankData none) s (fun t => onPage t ∧ t.car = s.car ∧ rd t pgCAR F.CARAVAN_RANK_ADDR.INDEX = nextIndex) ∧
    (carTablesOpen s = true →
      Does (.caravanPlanData (some w)) s (fun t => onPage t ∧ t.car = { s.car with plan := tabPut 0 s.car.plan word w } ∧
        rd t pgCAR F.CARAVAN_PLAN_ADDR.WORD = nextWord) ∧
      Does (.caravanRankData (some w)) s (fun t => onPage t ∧
        t.car = { s.car with ranks := tabPut 0 s.car.ranks index (w.toNat % 2 ^ 20) } ∧
        rd t pgCAR F.CARAVAN_RANK_ADDR.INDEX = nextIndex)) ∧
    (carTablesOpen s = false →
      Does (.caravanPlanData (some w)) s (fun t => onPage t ∧ t.car = s.car ∧ rd t pgCAR F.CARAVAN_PLAN_ADDR.WORD = nextWord ∧
        ((rdW s pgCAR 0x14).testBit E.CARAVAN.CFG_IGN = false → (rdW t pgCAR 0x10).testBit E.CARAVAN.CFG_IGN = true)) ∧
      Does (.caravanRankData (some w)) s (fun t => onPage t ∧ t.car = s.car ∧ rd t pgCAR F.CARAVAN_RANK_ADDR.INDEX = nextIndex))

/-- R282 to R291, R297, R298: a message of an instance that has completed, or of no rank, is dropped, and one that is not active yet
waits; an epoch that differs tears the context down and comes before a step tag that differs, which tears nothing down; a sound
message adds its credit, contribution, result, counts, rows, permuted bytes, status or block to its instance, and what the rules
derive from it is written; a block landed on every core is passed on within the successor's limit. -/
def Obligations.CaravanMessages : Prop :=
  ∀ (s : State) (q : QMsg) (i : Inst) (r n : Nat) (x : Slice) (e : Fin 1024) (a b c d f g : Nat), s.Inv →
    let m := q.msg
    let v := insPlan s i
    let size := insSize s i
    let found (op : Nat) : Prop := takeColl s op = .take q i r
    let sound (op : Nat) : Prop := found op ∧ i.status = none ∧ m.lepoch = i.lepoch ∧ m.step = i.step
    let same (t : State) : Prop := t.jobs = s.jobs ∧ t.fab.wins = s.fab.wins ∧ t.fab.routes = s.fab.routes ∧
      t.car.queue = s.car.queue ∧ t.car.plan = s.car.plan
    let taken (t : State) (p : Inst → Prop) : Prop := same t ∧ ∃ y,
      t.car.active.find? (fun z => z.entry == i.entry && z.inst == i.inst) = some y ∧ p y
    let quiet (t : State) : Prop := t.hbm = s.hbm ∧ t.faults = s.faults
    let torn (t : State) (st : Nat) : Prop := ∃ z, t.faults = s.faults ++ [z] ∧ z.bank = i.bank ∧ z.ctx = peCtx v ∧ z.status = st
    let rule (op : Nat) (cmd : Instr) : Prop :=
      (takeColl s op = .wait → Does cmd s (· = s)) ∧
      (takeColl s op = .drop q → Does cmd s (fun t => t.hbm = s.hbm ∧ t.cores = s.cores ∧ t.car = s.car ∧
        t.fab.collq = s.fab.collq.erase q ∧ rd t pgRTR F.FAB_RTR_DROP_CNT.COUNT
          = min (rd s pgRTR F.FAB_RTR_DROP_CNT.COUNT + 1) (2 ^ F.FAB_RTR_DROP_CNT.COUNT.width - 1))) ∧
      (found op → i.status = none → m.lepoch ≠ i.lepoch → Does cmd s (fun t => t.hbm = s.hbm ∧ torn t 0x54 ∧
        taken t (fun y => y.status = some 0x11))) ∧
      (found op → i.status = none → m.lepoch = i.lepoch → m.step ≠ i.step → Does cmd s (fun t => quiet t ∧
        taken t (fun y => y.status = some 0x10)))
    let add (u w : Nat) := (convertTo fmtFP32 false .rne (addFV (decodeFmt fmtFP32 u) (decodeFmt fmtFP32 w)).1).1
    let share := shardElems s i
    let bytes := inBytes v
    let i1 : Inst := { setHeld i r (memWrite (heldOf i r) m.offset m.data) with
                       got := tabPut 0 i.got r (max (tabGet 0 i.got r) (m.offset + m.len)) }
    let ready := (List.range size).foldl (fun k y => min k (tabGet 0 i1.got y / bytes)) share
    let vals := (List.range (ready - i.done)).map (fun k => outValue v (treeSumRanks size
      ((List.range size).map (fun y => widenIn v (memNat (heldOf i1 y) ((i.done + k) * bytes) bytes)))))
    let base := ((if peOpc v = 1 then insRank s i * share else 0) + i.done) * outBytesOf v
    let lim := max m.offset (tabGet 0 i.limit r)
    let sent := tabGet 0 i.sent r
    let k := min lim (share * bytes) - sent
    let src := hbmRead s (insSrc s i + r * (share * bytes) + sent) k
    let ks := (splitWords 4 64 m.data).take (a2aExperts v)
    let blk := m.offset / 2 ^ 40
    let off := m.offset % 2 ^ 40
    let hd := handleOf s n (sliceH x blk)
    let rsent := tabGet 0 i.sent 0
    let rlim := max m.offset (tabGet 0 i.limit 0)
    let rk := min rlim (peCount v) - rsent
    let own := hbmRead s (insSrc s i + rsent) rk
    let pass := min (tabGet 0 i.limit 0) ((i.passed + 2) * peCount v) - rsent
    (∀ p ∈ [(0x80, Instr.collCredit), (0x81, .contrib), (0x82, .result), (0x83, .a2aCount), (0x84, .a2aRows), (0x85, .permuteData),
      (0x86, .status), (0xA0, .relayBlock), (0xA1, .relayCredit)], rule p.1 p.2) ∧
    treeSumRanks 6 [a, b, c, d, f, g] = add (add (add a b) (add c d)) (add f g) ∧
    treeSumRanks 3 [a, b, c] = add (add a b) c ∧
    (sound 0x81 → ready ≤ i.done → Does .contrib s (fun t => quiet t ∧
      taken t (fun y => y.got = i1.got ∧ y.held = i1.held ∧ y.done = i.done))) ∧
    (sound 0x81 → i.done < ready → Does .contrib s (fun t => t.faults = s.faults ∧ taken t (fun y => y.got = i1.got ∧ y.done = ready) ∧
      t.hbm = (hbmWrite s (insDst s i + base) (vals.flatMap (natToBytes (outBytesOf v))) { kind := 3 }).hbm)) ∧
    (sound 0x82 → Does .result s (fun t => t.faults = s.faults ∧
      taken t (fun y => y.landed = tabPut 0 i.landed r (tabGet 0 i.landed r + m.len)) ∧
      t.hbm = (hbmWrite s (insDst s i + m.offset) m.data { kind := 3 }).hbm)) ∧
    (sound 0x80 → lim ≠ 0 → (peOpc v = 1 ∨ peOpc v = 2) → src.2.1 = false → Does .collCredit s (fun t => t.faults = s.faults ∧
      t.hbm = src.2.2.hbm ∧ taken t (fun y => y.limit = tabPut 0 i.limit r lim ∧ y.sent = tabPut 0 i.sent r (sent + k)))) ∧
    (sound 0x83 → i.from_.contains r = false → i.from_.length + 1 < size → Does .a2aCount s (fun t => quiet t ∧
      taken t (fun y => y.from_ = i.from_ ++ [r] ∧ y.counts = (setCounts i r ks).counts))) ∧
    (sound 0x83 → i.from_.contains r = true → Does .a2aCount s (fun t => quiet t ∧ taken t (fun y => y.counts = i.counts))) ∧
    (sound 0x84 → Does .a2aRows s (fun t => taken t (fun y => y.got = i1.got) ∧
      t.hbm = (placeRows i r (m.len / a2aRow v + 1) s m.offset m.data).hbm)) ∧
    (sound 0x85 → granted s i.bank (peCtx v) (m.offset % 2 ^ 42) m.len false true = true → Does .permuteData s (fun t =>
      t.faults = s.faults ∧ taken t (fun _ => True) ∧ t.hbm = (hbmWrite s (m.offset % 2 ^ 42) m.data { kind := 3 }).hbm)) ∧
    (sound 0x85 → granted s i.bank (peCtx v) (m.offset % 2 ^ 42) m.len false true = false → Does .permuteData s (fun t =>
      t.hbm = s.hbm ∧ torn t 0x47 ∧ taken t (fun y => y.status = some 7))) ∧
    (sound 0x86 → let st := m.offset % 256
      (st = 0 → Does .status s (fun t => quiet t ∧ taken t (fun y => y.from_.contains r = true))) ∧
      (st = 0x11 → Does .status s (fun t => t.hbm = s.hbm ∧ torn t 0x54 ∧ taken t (fun y => y.status = some 0x11))) ∧
      (st ≠ 0 → st ≠ 0x11 → Does .status s (fun t => quiet t ∧ taken t (fun y => y.status = some st)))) ∧
    (sound 0xA0 → slicesOf s i = [x] → m.data.length = m.len → m.len ≠ 0 → x.off ≤ off → off + m.len ≤ x.off + x.len →
      (sliceOpen s i x blk = false → Does .relayBlock s (· = s)) ∧
      (sliceOpen s i x blk = true → pcoreOf s i.bank x.lcore = some n → Does .relayBlock s (fun t => t.hbm = s.hbm ∧
        (core t n).spad = (spadWrite (core s n) hd.clsW (handleAddr hd (x.hoff + (off - x.off))) m.data).spad ∧
        taken t (fun y => tabGet 0 y.landed (256 * blk) = tabGet 0 i.landed (256 * blk) + m.len)))) ∧
    (sound 0xA1 → rlim ≠ 0 → own.2.1 = false → Does .relayCredit s (fun t => t.faults = s.faults ∧ t.hbm = own.2.2.hbm ∧
      taken t (fun y => y.limit = tabPut 0 i.limit 0 rlim ∧ y.sent = tabPut 0 i.sent 0 (rsent + rk)))) ∧
    (activeOf s e.val = some i → peOpc v = 8 → i.status = none → i.passed + 1 ≤ i.done → i.passed + 3 ≤ size →
      (i.passed + 1) * peCount v ≤ rsent → (∀ z ∈ slicesOf s i, (pcoreOf s i.bank z.lcore).isSome = true) → pass ≠ 0 →
      Does (.relayPassOn e) s (fun t => t.hbm = s.hbm ∧ taken t (fun y => y.sent = tabPut 0 i.sent 0 (rsent + pass) ∧
        y.passed = if rsent + pass = (i.passed + 2) * peCount v then i.passed + 1 else i.passed))) ∧
    (activeOf s e.val = some i → (i.done < i.passed + 1 ∨ size < i.passed + 3 ∨ pass = 0) → Does (.relayPassOn e) s (· = s))

/-- R146, R278, R292, R293, R296, R298: a child's arrival is recorded until the module's own count is complete, and then goes up or, at the
root, releases; a release goes on to the children and releases the module's cores, and one with SEQ_ERR tears every context of the
job down; a Muster message from no rank of the group is dropped; a core that has waited too long is given the credit of its
prefetch records. -/
def Obligations.MustersAcrossModules : Prop :=
  ∀ (s : State) (q : QMsg) (g r child b : Nat) (c : Fin 256), s.Inv →
    let m := q.msg
    let here := takeMuster s 0x87 = some (q, some (g, r, child))
    let arrival : ChildArr := { seq := m.wepoch, kind := m.offset % 4, deg := m.offset.testBit 2, here := true }
    let s1 := updCar (consume s q) (fun c => { c with children := tabPut {} c.children child arrival })
    let j := jobOf s b
    let dropped (t : State) : Prop := t.cores = s.cores ∧ t.car = s.car ∧ t.jobs = s.jobs ∧ t.fab.collq = s.fab.collq.erase q ∧
      rd t pgRTR F.FAB_RTR_DROP_CNT.COUNT
        = min (rd s pgRTR F.FAB_RTR_DROP_CNT.COUNT + 1) (2 ^ F.FAB_RTR_DROP_CNT.COUNT.width - 1)
    let released (t : State) (y : Nat) : Prop := (jobOf t y).mseq = ((jobOf s y).mseq + 1) % 65536 ∧ (jobOf t y).sentUp = false ∧
      t.car.children = [] ∧ SameHbm s t ∧
      ∀ m < 256, (core s m).bank = y → (core s m).lcore.isSome = true → atMuster (core s m) = true → (core t m).run = .issuing
    let n := c.val
    let k := core s n
    let thr := rd s pgCAR F.CARAVAN_PREF_THR.PCLK
    let seqErr := m.offset.testBit 2
    (takeMuster s 0x87 = none → Does .musterArrive s (· = s)) ∧
    (takeMuster s 0x87 = some (q, none) → Does .musterArrive s dropped) ∧
    (here → musterDone s 0 = none → musterDone s 1 = none → Does .musterArrive s (· = s1)) ∧
    (∀ st kind, here → musterDone s 0 = some (st, kind, 1) → musterDone s 1 = none →
      (jobOf s 0).sentUp = false → kind ≠ 1 → (∃ x ∈ liveKids s g 5 r, (childAt s1 x).here = false) →
      Does .musterArrive s (· = s1)) ∧
    (∀ st kind p, here → musterDone s 0 = some (st, kind, 1) → musterDone s 1 = none →
      (jobOf s 0).sentUp = false → kind ≠ 1 → (∀ x ∈ liveKids s g 5 r, (childAt s1 x).here = true) → r ≠ 0 →
      liveParent s g 6 r = some p → Does .musterArrive s (fun t => (jobOf t 0).sentUp = true ∧ (jobOf t 0).mseq = (jobOf s 0).mseq ∧
        t.hbm = s.hbm ∧ t.car = s1.car)) ∧
    (takeMuster s 0x88 = some (q, none) → Does .collMusterRelease s dropped) ∧
    (takeMuster s 0x88 = some (q, some (g, r, child)) → bankSentUp s = some b →
      (musterDone s b = none → Does .collMusterRelease s (· = consume s q)) ∧
      (∀ st kind, musterDone s b = some (st, kind, 1) → b < 2 → Does .collMusterRelease s (fun t => released t b ∧
        ∃ fs, t.faults = s.faults ++ fs ∧ (∀ f ∈ fs, f.bank = b ∧ f.status = 0x51) ∧
          fs.map (fun f => f.ctx) = if seqErr then (List.range 16).filter (fun x => j.valid.getLsbD x) else []))) ∧
    (∀ l f kind scope arr v, k.run = .muster f kind scope arr → k.lcore = some l →
      (thr = 0 ∨ s.esc ≤ k.waitEsc + thr → Does (.prefetchFallback c) s (· = s)) ∧
      (let sl := natField v 16 3
       let amount := natField v 19 12
       thr ≠ 0 → k.waitEsc + thr < s.esc → (jobOf s k.bank).prefetch = [v] → v.testBit 63 = true → k.prefDone = [] →
        some (natField v 0 16) = nextPos (jobOf s k.bank) kind → (natField v 38 8 = 0xFF ∨ natField v 38 8 = l) →
        ((slotOf s n sl).st = .run → (slotOf s n sl).waitWhy = 2 → amount ≠ 0 → Does (.prefetchFallback c) s (fun t =>
          (core t n).prefDone = [0] ∧ (core t n).absorb = k.absorb ++ [sl] ∧ (core t n).spad = k.spad ∧ t.hbm = s.hbm ∧
          rd t pgCAR F.CARAVAN_PREF_CNT.COUNT = (rd s pgCAR F.CARAVAN_PREF_CNT.COUNT + 1) % 2 ^ 32)) ∧
        (¬ ((slotOf s n sl).st = .run ∧ (slotOf s n sl).waitWhy = 2 ∧ amount ≠ 0) → Does (.prefetchFallback c) s (fun t =>
          (core t n).prefDone = [0] ∧ (core t n).absorb = k.absorb ∧ (core t n).slots = k.slots ∧ t.hbm = s.hbm ∧
          rd t pgCAR F.CARAVAN_PREF_SKIP.COUNT
            = min (rd s pgCAR F.CARAVAN_PREF_SKIP.COUNT + 1) (2 ^ F.CARAVAN_PREF_SKIP.COUNT.width - 1)))))

/-! ## Host Ethernet and RoCE (R303 to R319) -/

/-- R303 to R319: frames are counted and filtered, addresses answered, pauses sent and obeyed; a packet is applied, answered again or
refused by its PSN, its opcode and its access; rates follow CNPs and intervals; SENDs are acknowledged, sent again or end in ERROR;
contexts, regions and doorbells are taken as their rules allow; the host feed darkens and restores the ports. -/
def Obligations.HostPortsAndRoce : Prop :=
  ∀ (s : State) (i : Fin 4) (f : EthFrame) (full : Bool) (ip : BitVec 32) (ip6 : BitVec 128) (en : BitVec 8)
    (times : List (BitVec 16)) (free : BitVec 12) (p : RocePkt) (n : Nat) (qpn psn : BitVec 24) (synd : BitVec 8) (qi : Fin 2048)
    (mi : Fin 64) (cq : Fin 4) (v : BitVec 32) (pwr : BitVec 10) (lf rf : Bool) (fec : BitVec 4), s.Inv →
    let pg := pgHOSTETH i.val
    let up := hostUp s i.val = true
    let same (t : State) : Prop := t.hbm = s.hbm ∧ t.cores = s.cores ∧ t.jobs = s.jobs ∧ t.fab = s.fab
    let clear (k : Nat) : Prop := hostUp s k = true ∧ txPaused s k = false ∧ tabGet [] s.host.txq k = []
    let sent (t : State) (o : Out) : Prop := t.host.out = s.host.out ++ [o]
    let counted (t : State) (page : Nat) (c : Fld) : Prop := rd t page c = min (rd s page c + 1) (2 ^ c.width - 1)
    let wrapped (t : State) (page : Nat) (c : Fld) : Prop := rd t page c = (rd s page c + 1) % 2 ^ c.width
    let taken := frameOk s i.val f = true ∧ (full = false ∨ framePrio f = rd s pg F.HOSTETH_VLAN.PCP ∨ f.kind = .pfc)
    let q := qpOf s n
    let pkt := hostUp s p.port.val = true ∧ rtsQp s p.qpn.toNat = some n
    let reg := p.rkey.toNat % 64
    let at_ := 4096 * (mrOf s reg).base + p.va.toNat
    let only_ := p.first = true ∧ p.last = true ∧ q.wrOpen = false ∧ p.data.length = p.len.toNat ∧ p.data.length ≤ mtuBytes q
    let nak (t : State) (code : Nat) : Prop := same t ∧ (clear q.port → sent t (.nak n (if code = nakPsn then q.rpsn else p.psn.toNat) code)) ∧
      counted t pgROCE F.ROCE_NAK_TX.COUNT ∧ (qpOf t n).synd = code ∧ (qpOf t n).state = (if code = nakPsn then 1 else 2)
    let plain := pkt ∧ p.ce = false
    let bytes := hbmRead s at_ p.len.toNat
    let qa := qpOf s qi.val
    let mine := rtsQp s qpn.toNat = some n
    let cut := q.rate * (16 - rd s pgROCE F.ROCE_CC.CUT)
    let page (pg : Nat) : Prop := pageClosed s pg = false
    let s1 := wr s pgROCE F.ROCE_QP_SEL.IDX qi.val
    let s2 := wr s pgROCE F.ROCE_MR_SEL.IDX mi.val
    let region : Mr := { base := rd s pgROCE F.ROCE_MR_BASE.BASE, size := rd s pgROCE F.ROCE_MR_SIZE.SIZE,
                         tag := rd s pgROCE F.ROCE_MR_KEY.TAG, r := rdB s pgROCE F.ROCE_MR_KEY.R,
                         w := rdB s pgROCE F.ROCE_MR_KEY.W, valid := rdB s pgROCE F.ROCE_MR_KEY.VALID }
    let bound := rd1 s pgCMDQ F.CMDQ_CTRL.QP cq.val = qi.val
    let rejected (t : State) : Prop := OnlyPages s t (fun x => x = pgCMDQ) ∧ sqPi t cq.val = sqPi s cq.val ∧
      cqCi t cq.val = cqCi s cq.val
    (up → taken → Does (.ethFrame i f full) s (fun t => OnlyPages s t (fun x => x = pg) ∧
      rd t pg F.HOSTETH_RX_DROP.COUNT = rd s pg F.HOSTETH_RX_DROP.COUNT ∧
      rd64 t pg F.HOSTETH_RX_FRAMES_LO.COUNT F.HOSTETH_RX_FRAMES_HI.COUNT 0
        = (rd64 s pg F.HOSTETH_RX_FRAMES_LO.COUNT F.HOSTETH_RX_FRAMES_HI.COUNT 0 + 1) % 2 ^ 64)) ∧
    (up → ¬ taken → Does (.ethFrame i f full) s (fun t => OnlyPages s t (fun x => x = pg) ∧ counted t pg F.HOSTETH_RX_DROP.COUNT)) ∧
    (ip ≠ 0 → rd s pg F.HOSTETH_IPV4.ADDR = ip.toNat → clear i.val → Does (.arp i ip) s (fun t => same t ∧
      sent t (.arp i.val (hostMac s i.val) ip.toNat))) ∧
    (rd s pg F.HOSTETH_IPV4.ADDR ≠ ip.toNat → Does (.arp i ip) s (· = s)) ∧
    (ip6 ≠ 0 → hostIp6 s i.val = ip6.toNat → clear i.val → Does (.neighbourSolicitation i ip6) s (fun t => same t ∧
      sent t (.neighbour i.val (hostMac s i.val) ip6.toNat))) ∧
    (hostIp6 s i.val ≠ ip6.toNat → Does (.neighbourSolicitation i ip6) s (· = s)) ∧
    (up → Does (.pfcFrame i en times) s (fun t => same t ∧ wrapped t pg F.HOSTETH_PFC_RX.COUNT ∧
      ∀ k < 8, en.getLsbD k = true → (times.getD k 0).toNat ≠ 0 →
        tabGet 0 t.host.paused (pauseKey i.val k) = s.esc + 1 + (52 * (times.getD k 0).toNat + 124) / 125)) ∧
    (pauseDue s i.val free.toNat = true → Does (.pfcXoff i free) s (fun t => same t ∧ wrapped t pg F.HOSTETH_PFC_TX.COUNT ∧
      sent t (.pause i.val (rd s pg F.HOSTETH_VLAN.PCP) 0xFFFF) ∧ tabGet 0 t.host.xoffAt i.val = s.esc + 1)) ∧
    (pauseDue s i.val free.toNat = false → Does (.pfcXoff i free) s (fun t => t.regs = s.regs ∧ same t ∧ t.host.out = s.host.out)) ∧
    (up → rdB s pg F.HOSTETH_CFG.PFC_EN = true → tabGet 0 s.host.xoffAt i.val ≠ 0 →
      (rd s pg F.HOSTETH_PFC.XON < free.toNat → Does (.pfcXon i free) s (fun t => same t ∧ wrapped t pg F.HOSTETH_PFC_TX.COUNT ∧
        sent t (.pause i.val (rd s pg F.HOSTETH_VLAN.PCP) 0))) ∧
      (free.toNat ≤ rd s pg F.HOSTETH_PFC.XON → Does (.pfcXon i free) s (fun t => t.regs = s.regs ∧ same t ∧
        t.host.out = s.host.out))) ∧
    (hostUp s p.port.val = true → rtsQp s p.qpn.toNat = none → ∀ c ∈ [Instr.rdmaWrite p, .rdmaRead p, .receivedSend p],
      Does c s (fun t => OnlyPages s t (fun x => x = pgROCE) ∧ counted t pgROCE F.ROCE_BADQP.COUNT)) ∧
    (plain → psnClass q p.psn.toNat = 1 → ∀ c ∈ [Instr.rdmaWrite p, .rdmaRead p, .receivedSend p], Does c s (nak · nakPsn)) ∧
    (plain → psnClass q p.psn.toNat = 0 → only_ → 2 ≤ reg → accessOk s n true p.rkey.toNat p.va.toNat p.len.toNat = true →
      Does (.rdmaWrite p) s (fun t => t.hbm = (hbmWrite s at_ p.data { kind := 2 }).hbm ∧ t.cores = s.cores ∧
        (qpOf t n).rpsn = (q.rpsn + 1) % 2 ^ 24 ∧ (qpOf t n).state = 1 ∧ (clear q.port → sent t (.ack n p.psn.toNat)))) ∧
    (plain → psnClass q p.psn.toNat = 0 → only_ → accessOk s n true p.rkey.toNat p.va.toNat p.len.toNat = false →
      Does (.rdmaWrite p) s (nak · nakAccess)) ∧
    (plain → psnClass q p.psn.toNat = 2 → p.last = true → Does (.rdmaWrite p) s (fun t => same t ∧ qpOf t n = q ∧
      (clear q.port → sent t (.ack n p.psn.toNat)))) ∧
    (plain → psnClass q p.psn.toNat ≠ 1 → accessOk s n false p.rkey.toNat p.va.toNat p.len.toNat = false →
      Does (.rdmaRead p) s (nak · nakAccess)) ∧
    (plain → psnClass q p.psn.toNat ≠ 1 → accessOk s n false p.rkey.toNat p.va.toNat p.len.toNat = true → 2 ≤ reg →
      0 < p.len.toNat → p.len.toNat ≤ mtuBytes q →
      (bytes.2.1 = false → Does (.rdmaRead p) s (fun t => t.hbm = bytes.2.2.hbm ∧ (qpOf t n).state = 1 ∧
        (qpOf t n).rpsn = (if psnClass q p.psn.toNat = 0 then (q.rpsn + 1) % 2 ^ 24 else q.rpsn) ∧
        (clear q.port → sent t (.readResp n (p.psn.toNat % 2 ^ 24) bytes.1)))) ∧
      (bytes.2.1 = true → Does (.rdmaRead p) s (fun t => (qpOf t n).state = 2 ∧ (qpOf t n).synd = nakOper ∧
        (clear q.port → sent t (.nak n (p.psn.toNat % 2 ^ 24) nakOper))))) ∧
    (plain → psnClass q p.psn.toNat ≠ 1 → Does (.receivedSend p) s (nak · nakReq)) ∧
    (pkt → p.ce = true → q.cnpAt = 0 → Does (.receivedSend p) s (fun t => wrapped t pgROCE F.ROCE_CNP_TX.COUNT)) ∧
    (rtsQp s qpn.toNat = none → Does (.cnp qpn) s (· = badQp s) ∧ Does (.ack qpn psn synd) s (· = badQp s)) ∧
    (mine → (q.cutAt = 0 ∨ q.cutAt + 16250 ≤ s.esc + 1) → Does (.cnp qpn) s (fun t => same t ∧ wrapped t pgROCE F.ROCE_CNP_RX.COUNT ∧
      (qpOf t n).cutAt = s.esc + 1 ∧ (cut < 16 ^ (q.rateExp + 1) → (qpOf t n).rate = 1 ∧ (qpOf t n).rateExp = 0) ∧
      (16 ^ (q.rateExp + 1) ≤ cut → (qpOf t n).rate * 16 ^ (q.rateExp + 1) = cut * 16 ^ (qpOf t n).rateExp))) ∧
    (mine → q.cutAt ≠ 0 → s.esc + 1 < q.cutAt + 16250 → Does (.cnp qpn) s (fun t => same t ∧ t.host = s.host ∧
      wrapped t pgROCE F.ROCE_CNP_RX.COUNT)) ∧
    (let due := max qa.cutAt qa.raiseAt + 325 * rd s pgROCE F.ROCE_CC.INTERVAL ≤ s.esc + 1
     let r := qa.rate + rd s pgROCE F.ROCE_CC.STEP * 16 ^ qa.rateExp
     (due → Does (.rateInterval qi) s (fun t => same t ∧ t.regs = s.regs ∧ (qpOf t qi.val).raiseAt = s.esc + 1 ∧
       (400 * 16 ^ qa.rateExp ≤ r → (qpOf t qi.val).rate = 400 ∧ (qpOf t qi.val).rateExp = 0) ∧
       (r < 400 * 16 ^ qa.rateExp → (qpOf t qi.val).rate = r ∧ (qpOf t qi.val).rateExp = qa.rateExp))) ∧
     (¬ due → Does (.rateInterval qi) s (· = s))) ∧
    (mine → synd.toNat / 32 % 4 = 0 → Does (.ack qpn psn synd) s (fun t => same t ∧ t.regs = s.regs ∧
      (qpOf t n).sent = unacked q psn.toNat ∧ (qpOf t n).tries = 0 ∧ (qpOf t n).rnrTries = 0 ∧ (qpOf t n).state = 1)) ∧
    (mine → synd.toNat = nakPsn → Does (.ack qpn psn synd) s (fun t => same t ∧ (qpOf t n).synd = nakPsn ∧ (qpOf t n).dir = true ∧
      (q.retry ≤ q.tries → (qpOf t n).state = 2 ∧ (qpOf t n).sent = []) ∧
      (q.tries < q.retry → (qpOf t n).state = 1 ∧ (qpOf t n).tries = q.tries + 1 ∧
        (qpOf t n).sent = unacked q ((psn.toNat + 2 ^ 24 - 1) % 2 ^ 24)))) ∧
    (qa.state = 1 → qa.sent ≠ [] → 13312 * 2 ^ qa.timeout ≤ 10 * (s.esc + 1 - qa.sentAt) →
      Does (.retransmitTimeout qi) s (fun t => same t ∧ (qa.retry ≤ qa.tries → (qpOf t qi.val).state = 2) ∧
        (qa.tries < qa.retry → (qpOf t qi.val).tries = qa.tries + 1 ∧ (qpOf t qi.val).sent = qa.sent ∧
          rd t pgROCE F.ROCE_RETRANS.COUNT
            = min (rd s pgROCE F.ROCE_RETRANS.COUNT + qa.sent.length) (2 ^ F.ROCE_RETRANS.COUNT.width - 1)))) ∧
    (qa.state ≠ 1 ∨ qa.sent = [] ∨ 10 * (s.esc + 1 - qa.sentAt) < 13312 * 2 ^ qa.timeout → Does (.retransmitTimeout qi) s (· = s)) ∧
    (page pgROCE →
      ((stagedQp s).state < 2 → qa.state = 0 ∨ (stagedQp s).state = 0 → Does (.qpWrite qi) s (fun t => same t ∧
        t.host.qps = tabPut {} s.host.qps qi.val (stagedQp s) ∧ t.regs = s1.regs)) ∧
      (qa.state ≠ 0 → (stagedQp s).state ≠ 0 → Does (.qpWrite qi) s (· = setErr s1 pgROCE E.ROCE.CFG_IGN)) ∧
      Does (.mrWrite mi) s (fun t => t = { s2 with host := { s.host with mrs := tabPut {} s.host.mrs mi.val region } })) ∧
    (page pgCMDQ →
      (¬ bound → Does (.sqDb cq qi v) s (fun t => rejected t ∧
          rd1 t pgCMDQ F.CMDQ_STAT.DB_REJ cq.val = min (rd1 s pgCMDQ F.CMDQ_STAT.DB_REJ cq.val + 1) 0xFFFF) ∧
        Does (.cqDb cq qi v) s (fun t => rejected t ∧
          rd1 t pgCMDQ F.CMDQ_STAT.DB_REJ cq.val = min (rd1 s pgCMDQ F.CMDQ_STAT.DB_REJ cq.val + 1) 0xFFFF)) ∧
      (bound → cntSub v.toNat (sqPi s cq.val) ≤ queueSize s cq.val → cntSub v.toNat (sqCi s cq.val) ≤ queueSize s cq.val →
        Does (.sqDb cq qi v) s (fun t => OnlyPages s t (fun x => x = pgCMDQ) ∧ sqPi t cq.val = v.toNat)) ∧
      (bound → queueSize s cq.val < cntSub v.toNat (sqPi s cq.val) ∨ queueSize s cq.val < cntSub v.toNat (sqCi s cq.val) →
        Does (.sqDb cq qi v) s rejected) ∧
      (bound → cntSub v.toNat (cqCi s cq.val) ≤ cntSub (cqPi s cq.val) (cqCi s cq.val) →
        Does (.cqDb cq qi v) s (fun t => OnlyPages s t (fun x => x = pgCMDQ) ∧ cqCi t cq.val = v.toNat)) ∧
      (bound → cntSub (cqPi s cq.val) (cqCi s cq.val) < cntSub v.toNat (cqCi s cq.val) → Does (.cqDb cq qi v) s rejected)) ∧
    (dbm pwr < 80 → Does (.hostFeedLoss pwr) s (fun t => same t ∧ t.host.dark = true ∧
      ∀ k < 4, hostUp t k = false ∧ rd t (pgHOSTETH k) F.HOSTETH_FEED.OK = 0)) ∧
    (120 ≤ dbm pwr → Does (.hostFeedOk pwr) s (fun t => same t ∧ t.host.dark = false ∧
      ∀ k < 4, rd t (pgHOSTETH k) F.HOSTETH_FEED.OK = 1 ∧ rd t (pgHOSTETH k) F.HOSTETH_FEED.PWR = pwr.toNat)) ∧
    (rdB s pg F.HOSTETH_CFG.EN = true → s.host.dark = false → blkReady s pg = true → Does (.hostLink i true lf rf fec) s (fun t =>
      same t ∧ hostUp t i.val = true ∧ rd t pg F.HOSTETH_STATE.FEC_LOCK = fec.toNat)) ∧
    Does (.hostLink i false lf rf fec) s (fun t => same t ∧ hostUp t i.val = false)

/-! ## Command queues and commands (R321 to R328, R382, R386, R411, R413, R433, R436, R468) -/

/-- R321 to R328: a queue fetches its next command when it may, and the command starts with its status decided where R326 decides it;
a completed command's record is written to the next completion slot, an I3C one's answer sent; the oldest event is recorded on the
MGMT ring; RESET and EN act on the indexes as R322 and R327 say. The SLOT and PHASE of an I3C answer are free values (log entry
59). -/
def Obligations.CommandQueues : Prop :=
  ∀ (s : State) (q : Fin 4) (n : BitVec 32) (c : Cmd) (e : Event) (es : List Event), s.Inv →
    let k := q.val
    let ci := sqCi s k
    let a := sqSlot s k ci
    let bytes := hbmRead s a 64
    let word := bytesToNat bytes.1
    let fence := (bytesToNat (hbmPeek s a 64)).testBit 9 && !(startedCmds s k).isEmpty
    let may := pageClosed s pgCMDQ = false ∧ queueEn s k = true ∧ ci ≠ sqPi s k ∧ 0 < freeSlots s k ∧ ringsReady s k = true ∧
      s.host.resets.contains k = false ∧ fence = false
    let same (t : State) : Prop := t.cores = s.cores ∧ t.jobs = s.jobs ∧ t.fab = s.fab
    let opc := natField word 0 8
    let at_ (f : Cmd → Bool) : Prop := s.host.cmds.find? f = some c
    let done := (c.done.getD (0, 0, 0))
    let record (qq : Nat) (tag slot opc st det res : Nat) := recordBytes tag slot opc qq
      (cqPi s qq / queueSize s qq % 2 == 0) st det res
    let silent (qq : Nat) (bit_ : Bool) := bit_ = false ∨ rd1 s pgCMDQ F.CMDQ_CTRL.NOTIFY_EN qq = 0
    (may → (∀ y ∈ s.host.cmds, y.q = k → y.n ≠ ci) → Does (.commandFetch q) s (fun t => same t ∧ t.hbm = bytes.2.2.hbm ∧ sqCi t k = (ci + 1) % 2 ^ 32 ∧
      ∃ x, t.host.cmds = s.host.cmds ++ [x] ∧ x.q = k ∧ x.n = ci ∧ x.bytes = word ∧ x.stage = 0 ∧
        (opcListed opc = false → x.done = some (0x20, 0, 0)) ∧
        (opcListed opc = true → opcQueue opc k = false → x.done = some (0x21, 0, 0)) ∧
        (opcListed opc = true → opcQueue opc k = true →
          x.done = if hbmBacked s a 64 = false then some (5, 0, 0) else if bytes.2.1 = true then some (6, 0, 0) else none))) ∧
    (¬ may → Does (.commandFetch q) s (· = s)) ∧
    (at_ (fun x => x.q == k && x.n == n.toNat && x.done.isSome) → ringsReady s k = true → s.host.resets.contains k = false →
      silent k (c.bytes.testBit 8) → Does (.commandComplete ⟨k, by omega⟩ n) s (fun t => same t ∧
        t.hbm = (hbmWriteOwn s (cqSlot s k (cqPi s k)) (record k (byteField c.bytes 4 4) (n.toNat % queueSize s k) (byteField c.bytes 0 1)
          done.1 done.2.1 done.2.2)).hbm ∧ cqPi t k = (cqPi s k + 1) % 2 ^ 32 ∧
        t.host.cmds = s.host.cmds.filter (fun x => !(x.q == k && x.n == n.toNat && x.done.isSome)))) ∧
    (at_ (fun x => x.q == 4 && x.n == n.toNat && x.done.isSome) → Does (.commandComplete 4 n) s (fun t => same t ∧ t.hbm = s.hbm ∧
      t.regs = s.regs ∧ (∃ m, t.host.out = s.host.out ++ [.i3c m] ∧ bytesToNat ((m.drop 16).take 1) = done.1 % 256) ∧
      t.host.cmds = s.host.cmds.filter (fun x => !(x.q == 4 && x.n == n.toNat && x.done.isSome)))) ∧
    (s.host.cmds.find? (fun x => x.q == k && x.n == n.toNat && x.done.isSome) = none →
      Does (.commandComplete ⟨k, by omega⟩ n) s (· = s)) ∧
    (let open_ := pageClosed s pgCMDQ = false ∧ queueEn s 2 = true ∧ 0 < freeSlots s 2 ∧ ringsReady s 2 = true
     let calm := ∀ d < 4, ∀ w < 4, rd1 s (pgNOC d) F.NOC_HAZ_CTRL.EN w = 0
     (s.events = e :: es → open_ → calm → s.host.evLost = 0 → silent 2 true → Does .event s (fun t => same t ∧ t.events = es ∧
       t.hbm = (hbmWriteOwn s (cqSlot s 2 (cqPi s 2)) (record 2 e.seq 0xFFFF 0xFF e.status e.detail e.result)).hbm ∧
       cqPi t 2 = (cqPi s 2 + 1) % 2 ^ 32)) ∧
     (s.events = e :: es → open_ → calm → s.host.evLost ≠ 0 → silent 2 true → es.length < 256 → Does .event s (fun t => t.host.evLost = 0 ∧
       ∃ x, t.events = es ++ [x] ∧ x.code = 0x0F ∧ x.result = 0x0F + s.host.evLost <<< 32)) ∧
     (s.events = [] ∨ ¬ open_ → Does .event s (· = s))) ∧
    (let zeroed (t : State) : Prop := sqPi t k = 0 ∧ sqCi t k = 0 ∧ cqPi t k = 0 ∧ cqCi t k = 0
     (pageClosed s pgCMDQ = false → Does (.queueEnable q) s (fun t => OnlyPages s t (fun p => p = pgCMDQ) ∧ zeroed t ∧
       queueEn t k = true)) ∧
     (pageClosed s pgCMDQ = false → startedCmds s k = [] → Does (.queueReset q) s (fun t => OnlyPages s t (fun p => p = pgCMDQ) ∧
       zeroed t ∧ queueEn t k = queueEn s k)) ∧
     (pageClosed s pgCMDQ = false → startedCmds s k ≠ [] → Does (.queueReset q) s (fun t => same t ∧ sqPi t k = sqCi s k ∧
       sqCi t k = sqCi s k ∧ cqPi t k = cqPi s k ∧ t.host.resets.contains k = true ∧ t.host.cmds = s.host.cmds)))

/-- R326, R382, R386, R411, R413, R427, R433, R436, R468: each command of memory, information, power, update, log, attestation, removal
and debug has its effect and its status; bad arguments, capacity and uncorrectable bursts have theirs. -/
def Obligations.CommandSet : Prop :=
  ∀ (s : State) (q : Fin 5) (n : BitVec 32) (c : Cmd), s.Inv →
    let ready (opc : Nat) : Prop := cmdOf s q.val n.toNat opc = some c ∧ c.stage = 0 ∧ (q.val < 2 ∨ innkRuns s = true) ∧
      ((q.val = 2 ∨ q.val = 4) → mgmtBefore s c = false)
    let answered (t : State) (st det res : Nat) : Prop := ∃ x ∈ t.host.cmds, x.q = q.val ∧ x.n = n.toNat ∧ x.done = some (st, det, res)
    let quiet (t : State) : Prop := t.hbm = s.hbm ∧ t.regs = s.regs ∧ t.cores = s.cores ∧ t.jobs = s.jobs ∧ t.fab = s.fab
    let refused (cmd : Instr) (st det : Nat) : Prop := Does cmd s (fun t => quiet t ∧ answered t st det 0)
    let same (t : State) : Prop := t.cores = s.cores ∧ t.jobs = s.jobs ∧ t.fab = s.fab
    let a8 := arg c 8 8
    let a16 := arg c 16 8
    let a24 := arg c 24 8
    let rule := rangeRule a8 a16 = true
    let ranges := rangeReady s a8 a16 = true
    let read := hbmRead s a8 a16
    let copyOk := rangeReady s a8 a24 = true ∧ rangeReady s a16 a24 = true
    let src := hbmRead s a8 a24
    let gib := ((domList s).map (fun d => rd s (domPage d) F.HBM_CAP.GIB)).foldl (· + ·) 0
    let mode := modState s
    let target := arg c 8 1
    let ctx := arg c 8 1
    let mine := ctxCores s (activeBank s) ctx
    let free_ := rdB s pgSYS F.SYS_READY_SUMMARY.ALL = true ∧ secBusy s = false ∧ s.boot.p4 = false ∧ s.boot.p4Wait = false
    let run (t : State) : Prop := modState t = target ∧ answered t 0 0 0 ∧ t.hbm = s.hbm
    let limit (t : State) := rd t pgPWR F.PWR_LIMIT.W
    let log := logRead s a16 (arg c 24 4)
    (ready 0x00 → Does (.cmdNop q n) s (fun t => quiet t ∧ answered t 0 0 0)) ∧
    (cmdOf s q.val n.toNat 0x00 = none → Does (.cmdNop q n) s (· = s)) ∧
    (ready 0x10 → copyOk → (rangeRule a8 a24 = false ∨ rangeRule a16 a24 = false → refused (.cmdCopy q n) 0x22 0) ∧
      (rangeRule a8 a24 = true → rangeRule a16 a24 = true →
        (hbmBacked s a8 a24 = false ∨ hbmBacked s a16 a24 = false → refused (.cmdCopy q n) 5 0) ∧
        (hbmBacked s a8 a24 = true → hbmBacked s a16 a24 = true → a8 + a24 ≤ a16 ∨ a16 + a24 ≤ a8 → src.2.1 = false →
          Does (.cmdCopy q n) s (fun t => same t ∧ answered t 0 0 0 ∧ t.hbm = (hbmWriteOwn src.2.2 a16 src.1).hbm)))) ∧
    (ready 0x11 → ranges → (¬ rule → refused (.fill q n) 0x22 0) ∧ (rule → hbmBacked s a8 a16 = false → refused (.fill q n) 5 0) ∧
      (rule → hbmBacked s a8 a16 = true → Does (.fill q n) s (fun t => same t ∧ answered t 0 0 0 ∧
        t.hbm = (hbmWriteOwn s a8 (patternBytes a24 a16)).hbm))) ∧
    (ready 0x12 → ranges → (¬ rule → refused (.crc q n) 0x22 0) ∧ (rule → hbmBacked s a8 a16 = false → refused (.crc q n) 5 0) ∧
      (rule → hbmBacked s a8 a16 = true → Does (.crc q n) s (fun t => same t ∧ SameHbm s t ∧
        if read.2.1 then answered t 6 0 0 else answered t 0 0 (crc32c read.1)))) ∧
    (ready 0x20 → Does (.info q n) s (fun t => quiet t ∧ answered t 0 0
      (packBytes [(0, ownId s), (4, natField (rdW s pgSYS 0x04) 8 8), (5, (enabledCores s - 1) % 256), (8, gib)]))) ∧
    (ready 0x21 → let w := arg c 8 4
      (w ≠ 0 → (w < 4000 ∨ rd s pgPWR F.PWR_PLMAX.W < w) → refused (.powerLimit q n) 0x22 0) ∧
      (w = 0 ∨ (4000 ≤ w ∧ w ≤ rd s pgPWR F.PWR_PLMAX.W) → Does (.powerLimit q n) s (fun t => quiet t ∧
        ∃ x ∈ t.host.cmds, x.q = q.val ∧ x.n = n.toNat ∧ x.stage = 1 ∧ x.done = none))) ∧
    (ready 0x22 → (4 < target → refused (.powerState q n) 0x22 0) ∧ (target ≤ 4 → mode = 4 → refused (.powerState q n) 0x24 3) ∧
      (target ≤ 4 → mode ≠ 4 → ¬ free_ → refused (.powerState q n) 0x23 0) ∧
      (mode ≠ 4 → free_ → target = 4 → rdB s pgSYS F.SYS_REMOVE.READY = false → refused (.powerState q n) 0x24 2) ∧
      (mode ≠ 4 → free_ → target < 3 → rdB s pgPWR F.PWR_MODSTATE.LEAK_LATCH = true → refused (.powerState q n) 0x24 1) ∧
      (mode ≠ 4 → free_ → rdB s pgPWR F.PWR_MODSTATE.LEAK_LATCH = false →
        (target < 4 → target = mode → Does (.powerState q n) s (fun t => quiet t ∧ answered t 0 0 0)) ∧
        (mode < 3 → target = 0 → mode ≠ 0 → Does (.powerState q n) s (fun t => run t ∧ limit t = rd s pgPWR F.PWR_PLMAX.W)) ∧
        (mode < 3 → target = 1 → mode ≠ 1 → Does (.powerState q n) s (fun t => run t ∧ limit t = rd s pgPWR F.PWR_P1_LIMIT.W)) ∧
        (mode < 2 → target = 2 → Does (.powerState q n) s (fun t => run t ∧ limit t = limit s)) ∧
        (mode < 3 → target = 3 → Does (.powerState q n) s (fun t => rd t pgPWR F.PWR_MODSTATE.TARGET = 3 ∧
          rd t pgPWR F.PWR_MODSTATE.BUSY = 1 ∧ jobState t 0 = 0 ∧ jobState t 1 = 0 ∧ t.pow.cmd = some (q.val, n.toNat))) ∧
        (mode = 3 → target < 3 → Does (.powerState q n) s (fun t => rd t pgPWR F.PWR_MODSTATE.TARGET = target ∧
          rd t pgPWR F.PWR_MODSTATE.BUSY = 1 ∧ t.pow.cmd = some (q.val, n.toNat) ∧ t.cores = s.cores)))) ∧
    (ready 0x23 → rangeReady s a8 (arg c 16 4) = true → (s.innk.upd.isSome = true → refused (.update q n) 0x23 0) ∧
      (s.innk.upd = none → rangeRule a8 0 = false → refused (.update q n) 0x22 0) ∧
      (s.innk.upd = none → rangeRule a8 0 = true → hbmBacked s a8 (arg c 16 4) = false → refused (.update q n) 5 0) ∧
      (s.innk.upd = none → rangeRule a8 0 = true → hbmBacked s a8 (arg c 16 4) = true → arg c 16 4 < 4096 →
        (hbmRead s a8 (min (arg c 16 4) bundleMax)).2.1 = false → Does (.update q n) s (fun t => same t ∧ SameHbm s t ∧
          answered t 0x24 1 0 ∧ rd t pgINNK F.INNK_UPD.LAST = 0x24))) ∧
    (ready 0x24 → addrReady s a8 = true → (rangeRule a8 0 = false → refused (.cmdLogRead q n) 0x22 0) ∧
      (rangeRule a8 0 = true → hbmBacked s a8 (32 * log.length) = false → refused (.cmdLogRead q n) 5 0) ∧
      (rangeRule a8 0 = true → hbmBacked s a8 (32 * log.length) = true → Does (.cmdLogRead q n) s (fun t => same t ∧
        t.hbm = (hbmWriteOwn s a8 (log.flatMap recBytes)).hbm ∧ answered t 0 0 (packBytes [(0, log.length), (8, logNewest s)])))) ∧
    (ready 0x25 → rangeReady s a8 (arg c 24 4) = true → rangeReady s a16 (arg c 28 4) = true →
      let msg := hbmRead s a8 (arg c 24 4)
      let head := bytesToNat (msg.1.take 8)
      (rangeRule a8 0 = false ∨ rangeRule a16 0 = false ∨ arg c 24 4 < 8 ∨ 4096 < arg c 24 4 → refused (.attest q n) 0x22 0) ∧
      (rangeRule a8 0 = true → rangeRule a16 0 = true → 8 ≤ arg c 24 4 → arg c 24 4 ≤ 4096 → hbmBacked s a8 (arg c 24 4) = true →
        hbmBacked s a16 (arg c 28 4) = true → msg.2.1 = false → byteField head 0 1 = 0x14 → byteField head 4 2 = 0 →
        arg c 24 4 = 8 → (40 ≤ arg c 28 4 → Does (.attest q n) s (fun t => same t ∧ answered t 0 0 0 ∧ t.hbm = (hbmWriteOwn msg.2.2 a16
            (rspMsg 0x14 (byteField head 2 2) 0 (natToBytes 32 (nonce s)))).hbm)) ∧
          (arg c 28 4 < 40 → Does (.attest q n) s (fun t => same t ∧ SameHbm s t ∧ answered t 0x22 0 0)))) ∧
    (ready 0x26 → (s.boot.p4 = true ∨ s.boot.p4Wait = true → refused (.removeReady q n) 0x23 0) ∧
      (s.boot.p4 = false → s.boot.p4Wait = false → anyJob s = true → refused (.removeReady q n) 0x24 1) ∧
      (s.boot.p4 = false → s.boot.p4Wait = false → anyJob s = false → rdB s pgSYS F.SYS_REMOVE.PEND = false →
        Does (.removeReady q n) s (fun t => same t ∧ t.hbm = s.hbm ∧ answered t 0 0 0 ∧ rd t pgSYS F.SYS_REMOVE.READY = 1))) ∧
    (ready 0x30 → (arg c 16 4 = 0 ∨ rangeReady s a8 (arg c 16 4) = true) → (secBusy s = true → refused (.debugOpen q n) 0x23 0) ∧
      (secBusy s = false → arg c 16 4 = 0 → level s = 0 → Does (.debugOpen q n) s (fun t => same t ∧ t.hbm = s.hbm ∧
        answered t 0 0 0 ∧ level t = 1)) ∧
      (secBusy s = false → arg c 16 4 = 0 → level s ≠ 0 → refused (.debugOpen q n) 0 0)) ∧
    (ready 0x31 → (level s = 0 → refused (.debugClose q n) 0 0) ∧
      (level s = 1 → Does (.debugClose q n) s (fun t => same t ∧ t.hbm = s.hbm ∧ answered t 0 0 0 ∧ level t = 0)) ∧
      (level s = 2 → Does (.debugClose q n) s (fun t => t.hbm = s.hbm ∧ answered t 0 0 0 ∧ level t = 1 ∧
        ∀ m, (core t m).haltCtx = 0)) ∧
      (level s = 3 → Does (.debugClose q n) s (fun t => t.hbm = s.hbm ∧ answered t 0 0 0 ∧ level t = 1))) ∧
    (∀ p ∈ [(0x32, Instr.halt q n), (0x33, .resume q n), (0x34, .snapshot q n)], ready p.1 →
      (level s < 2 → refused p.2 3 0) ∧ (2 ≤ level s → 16 ≤ ctx → refused p.2 0x22 0)) ∧
    (ready 0x32 → 2 ≤ level s → ctx < 16 → Does (.halt q n) s (fun t => t.hbm = s.hbm ∧ t.regs = s.regs ∧ answered t 0 0 0 ∧
      (∀ m ∈ mine, (core t m).haltCtx.getLsbD ctx = true) ∧ ∀ m, m ∉ mine → core t m = core s m)) ∧
    (ready 0x33 → 2 ≤ level s → ctx < 16 → Does (.resume q n) s (fun t => t.hbm = s.hbm ∧ t.regs = s.regs ∧ answered t 0 0 0 ∧
      (∀ m ∈ mine, (core t m).haltCtx.getLsbD ctx = false) ∧ ∀ m, m ∉ mine → core t m = core s m)) ∧
    (ready 0x34 → 2 ≤ level s → ctx < 16 → rangeRule a16 0 = true →
      let backed := hbmBacked s a16 (Sys2Proof.Config.snapLen mine.length) = true
      ((∃ m ∈ mine, (core s m).haltCtx.getLsbD ctx = false) → refused (.snapshot q n) (if backed then 0x24 else 5) 0) ∧
      ((∀ m ∈ mine, (core s m).haltCtx.getLsbD ctx = true) → Does (.snapshot q n) s (fun t => same t ∧
        (¬ backed → answered t 5 0 0 ∧ t.hbm = s.hbm) ∧ (backed → answered t 0 0 0 ∧
          ∃ x, t.host.snaps = s.host.snaps ++ [x] ∧ x.dst = a16 ∧ x.cores.map (fun y => (y.n, y.core)) = mine.map (fun m => (m, core s m))))))

/-! ## Clocks, power and heat (R374 to R395, R504) -/

/-- R377 to R395, R504: a divider decided takes effect at the edge; the reference, the cap loop, THROT_N, LEAK_N, the current
demand, temperatures and coolant have the effects and events of their rules; a forced cause ends every job and begins the entry to
P3; an idle core in P2 is tested and parked. -/
def Obligations.ClocksPowerHeat : Prop :=
  ∀ (s : State) (d : Fin 4) (copy : BitVec 64) (input : BitVec 13) (d0 d1 d2 d3 : BitVec 12) (mons : List (Fin 72 × BitVec 16))
    (high : Bool) (i : Fin 112) (t10 : BitVec 10) (k : Fin 32) (t8 u8 : BitVec 8) (e : Fin 17) (c : Fin 256) (v : BitVec 16)
    (cmd : Cmd), s.Inv →
    let n := d.val
    let same (t : State) : Prop := t.hbm = s.hbm ∧ t.cores = s.cores ∧ t.jobs = s.jobs ∧ t.fab = s.fab
    let pend := tabGet 0 s.pow.pend n
    let cap (x : State) (m : Nat) := tabGet 0 x.pow.cap m
    let atEdge := pend ≠ 0 ∧ pend ≤ 4 ∧ pend - 1 ≠ dieDiv s n ∧ tabGet 0 s.pow.edgeAt n = s.tick
    let lost := s.pow.lostAt
    let forced (t : State) (cause : Nat) : Prop := rd t pgPWR F.PWR_MODSTATE.TARGET = 3 ∧ rd t pgPWR F.PWR_MODSTATE.BUSY = 1 ∧
      rd t pgPWR F.PWR_MODSTATE.CAUSE = cause ∧ t.pow.forced = true ∧ jobState t 0 = 0 ∧ jobState t 1 = 0
    let on := modState s < 3
    let w := rd s pgPWR F.PWR_INST.W
    let limit := rd s pgPWR F.PWR_LIMIT.W
    let power (m : Nat) := rd1 s pgPWR F.PWR_DIE.W m
    let waiting := s.host.cmds.filter (fun x => x.stage == 1 && x.done.isNone && byteField x.bytes 0 1 == 0x21)
    let avg := ((input.toNat :: s.pow.samples).take 200).foldl (· + ·) 0 / ((input.toNat :: s.pow.samples).take 200).length
    let slowest (t : State) (m : Nat) : Prop := cap s m ≤ 3 → dieDiv s m ≠ 3 → tabGet 0 t.pow.pend m = 4
    let therm := tabGet 0 s.pow.thermAt n
    let cool := tabGet 0 s.pow.coolAt n
    let p := e.val
    let links := portLinks s p
    (atEdge → Does (.dividerSwitch d) s (fun t => same t ∧ dieDiv t n = pend - 1 ∧ (∀ m < 4, m ≠ n → dieDiv t m = dieDiv s m) ∧
      rd1 t pgCLK F.CLK_DIVCHG.COUNT n = (rd1 s pgCLK F.CLK_DIVCHG.COUNT n + 1) % 2 ^ 32)) ∧
    (pend = 0 ∨ tabGet 0 s.pow.edgeAt n ≠ s.tick → Does (.dividerSwitch d) s (· = s)) ∧
    (lost = 0 → Does .refLost s (fun t => same t ∧ rd t pgCLK F.CLK_STATE.REF_OK = 0 ∧ rd t pgCLK F.CLK_STATE.HOLDOVER = 1 ∧
      t.pow.lostAt = s.esc + 1 ∧ rd t pgCLK F.CLK_REF_LOSS.COUNT = (rd s pgCLK F.CLK_REF_LOSS.COUNT + 1) % 2 ^ 16)) ∧
    (lost ≠ 0 → Does .refLost s (· = s)) ∧
    (lost ≠ 0 → lost + 32500000 ≤ s.esc + 1 → on → Does .refLossP3 s (forced · 3)) ∧
    (lost = 0 ∨ s.esc + 1 < lost + 32500000 → Does .refLossP3 s (· = s) ∧ Does .refLossHostDown s (· = s)) ∧
    (lost ≠ 0 → lost + 3250000000 ≤ s.esc + 1 → Does .refLossHostDown s (fun t => same t ∧ rd t pgCLK F.CLK_STATE.OSC = 1 ∧
      ∀ m < 4, hostUp t m = false)) ∧
    (lost ≠ 0 → Does .refBack s (fun t => same t ∧ rd t pgCLK F.CLK_STATE.REF_OK = 1 ∧ rd t pgCLK F.CLK_STATE.HOLDOVER = 0 ∧
      rd t pgCLK F.CLK_STATE.OSC = 0 ∧ t.pow.lostAt = 0 ∧ modState t = modState s)) ∧
    (lost = 0 → Does .refBack s (· = s)) ∧
    (s.esc % 2 ^ 20 = 0 → (rd s pgCLK F.CLK_STATE.LOCK).testBit n = true → copy.toNat ≠ s.esc → Does (.escCheck d copy) s (fun t =>
      OnlyPages s t (fun x => x = pgCLK) ∧ rd t pgCLK F.CLK_ESC_CHK.COUNT
        = min (rd s pgCLK F.CLK_ESC_CHK.COUNT + 1) (2 ^ 32 - 1))) ∧
    (s.esc % 2 ^ 20 ≠ 0 ∨ copy.toNat = s.esc → Does (.escCheck d copy) s (· = s)) ∧
    Does (.powerSample input d0 d1 d2 d3 mons) s (fun t => same t ∧ rd t pgPWR F.PWR_INST.W = input.toNat ∧
      rd t pgPWR F.PWR_AVG.W = avg % 2 ^ 13 ∧ rd1 t pgPWR F.PWR_DIE.W 0 = d0.toNat ∧ rd1 t pgPWR F.PWR_DIE.W 1 = d1.toNat ∧
      rd1 t pgPWR F.PWR_DIE.W 2 = d2.toNat ∧ rd1 t pgPWR F.PWR_DIE.W 3 = d3.toNat) ∧
    (waiting = [] → 110 * limit < 100 * w → (∃ m < 4, cap s m ≠ 3) → Does .capLoopTick s (fun t => same t ∧
      (∀ m < 4, cap t m = 3) ∧ t.pow.upAt = s.esc + 1)) ∧
    (waiting = [] → 98 * limit < 100 * w → 100 * w ≤ 110 * limit → cap s n < 3 →
      (∀ m < 4, cap s m < 3 → power m < power n ∨ (power m = power n ∧ n ≤ m)) → Does .capLoopTick s (fun t => same t ∧
        cap t n = cap s n + 1 ∧ (∀ m, m ≠ n → cap t m = cap s m) ∧ t.pow.upAt = s.esc + 1)) ∧
    (waiting = [] → 100 * w ≤ 98 * limit → s.pow.upAt ≠ 0 → s.esc + 1 < s.pow.upAt + 32500 → Does .capLoopTick s (fun t => same t ∧
      t.pow.cap = s.pow.cap)) ∧
    (waiting = [] → 100 * w ≤ 98 * limit → (s.pow.upAt = 0 ∨ s.pow.upAt + 32500 ≤ s.esc + 1) → cap s n ≠ 0 →
      (∀ m < 4, cap s m < cap s n ∨ (cap s m = cap s n ∧ m ≤ n)) → Does .capLoopTick s (fun t => same t ∧
        t.pow.cap = if mayStepDown s n (cap s n) then tabPut 0 s.pow.cap n (cap s n - 1) else s.pow.cap)) ∧
    (waiting = [cmd] → let lim := arg cmd 8 4
      lim < 2 ^ 13 → Does .capLoopTick s (fun t => same t ∧
        rd t pgPWR F.PWR_LIMIT.W = (if lim = 0 then rd s pgPWR F.PWR_PLMAX.W else lim) ∧
        ∃ x ∈ t.host.cmds, x.q = cmd.q ∧ x.n = cmd.n ∧ x.done = some (0, 0, 0))) ∧
    Does (.currentDemand d) s (fun t => same t ∧ tabGet 0 t.pow.curAt n = s.esc + 1 ∧ slowest t n) ∧
    (let at_ := tabGet 0 s.pow.curAt n
     (at_ ≠ 0 → at_ + 32500 ≤ s.esc + 1 → Does (.currentDemandEnd d) s (fun t => same t ∧
       t.pow.curAt = tabPut 0 s.pow.curAt n 0)) ∧
     (at_ = 0 ∨ s.esc + 1 < at_ + 32500 → Does (.currentDemandEnd d) s (· = s))) ∧
    (throtIn s = false → Does .throtN s (fun t => same t ∧ throtIn t = true ∧ t.pow.throtAt = s.esc + 1 ∧ ∀ m < 4, slowest t m)) ∧
    (throtIn s = true → Does .throtN s (· = s)) ∧
    Does .throtNEnd s (fun t => same t ∧ throtIn t = false ∧ rd t pgPWR F.PWR_THROT.THROT_STUCK = 0) ∧
    (let stuck := throtIn s = true ∧ s.pow.throtAt + 9750000000 ≤ s.esc + 1 ∧ rdB s pgPWR F.PWR_THROT.THROT_STUCK = false
     (stuck → Does .throtStuck s (fun t => same t ∧ rd t pgPWR F.PWR_THROT.THROT_STUCK = 1 ∧ throtIn t = true)) ∧
     (¬ stuck → Does .throtStuck s (· = s))) ∧
    (on → Does .leak s (fun t => forced t 1 ∧ rd t pgPWR F.PWR_MODSTATE.LEAK_LATCH = 1 ∧ rd t pgPWR F.PWR_THROT.LEAK_IN = 1)) ∧
    (¬ on → Does .leak s (fun t => same t ∧ modState t = modState s ∧
      rd t pgPWR F.PWR_MODSTATE.LEAK_LATCH = rd s pgPWR F.PWR_MODSTATE.LEAK_LATCH)) ∧
    (high = true → Does (.leakClr high) s (fun t => same t ∧ rd t pgPWR F.PWR_MODSTATE.LEAK_LATCH = 0)) ∧
    (high = false → Does (.leakClr high) s (· = setErr s pgPWR E.PWR.CFG_IGN)) ∧
    (let temp := natToSigned 10 t10.toNat
     let die := i.val / 21
     (i.val < 84 → 420 ≤ temp → Does (.tempHot (.diode i t10)) s (fun t => same t ∧ thermDemand t die = 3 ∧
       diodeTemp t i.val = temp)) ∧
     (i.val < 92 → temp < 400 → temp ≠ 0 → Does (.tempHot (.diode i t10)) s (fun t => same t ∧ t.regs = s.regs ∧
       diodeTemp t i.val = temp)) ∧
     (i.val < 84 → 460 ≤ temp → on → Does (.trip (.diode i t10)) s (fun t => forced t 2 ∧ rd t pgTHERM F.THERM_TRIP.VALID = 1 ∧
       rd t pgTHERM F.THERM_TRIP.SENSOR = i.val ∧ t.pow.trip = true)) ∧
     (i.val < 84 → temp < 460 → temp ≠ 0 → Does (.trip (.diode i t10)) s (fun t => same t ∧ t.regs = s.regs))) ∧
    (95 ≤ t8.toNat → Does (.tempHot (.stack k t8)) s (fun t => same t ∧ thermDemand t (k.val / 8) = 3 ∧
      stackTemp t k.val = t8.toNat)) ∧
    (100 ≤ t8.toNat → on → Does (.trip (.stack k t8)) s (fun t => forced t 2 ∧ rd t pgTHERM F.THERM_TRIP.STACK = k.val)) ∧
    (hotDie s n = true → maxDie s n = false → therm = 0 ∨ therm + 32500 ≤ s.esc + 1 → Does (.thermalStep d) s (fun t => same t ∧
      thermDemand t n = min 3 (thermDemand s n + 1) ∧ ∀ m < 4, m ≠ n → thermDemand t m = thermDemand s m)) ∧
    (hotDie s n = false → cool ≠ 0 → cool + 325000 ≤ s.esc + 1 → thermDemand s n ≠ 0 → Does (.thermalStep d) s (fun t => same t ∧
      thermDemand t n = thermDemand s n - 1 ∧ ∀ m < 4, m ≠ n → thermDemand t m = thermDemand s m)) ∧
    (hotDie s n = false → cool = 0 ∨ s.esc + 1 < cool + 325000 → Does (.thermalStep d) s (· = s)) ∧
    (85 ≤ t8.toNat → Does (.engineHot e t8) s (fun t => t.hbm = s.hbm ∧ t.jobs = s.jobs ∧
      (p < 16 → tabGet false t.fab.hot p = true ∧ rd t (pgPORT p) F.FAB_PORT_TEMP.TEMP = t8.toNat ∧
        ∀ l ∈ links, usable s l = true → (lk s l).retry = [] → (lk s l).closeAt = 0 → linkState t l = 5))) ∧
    (t8.toNat < 85 → t8.toNat ≠ 0 → Does (.engineHot e t8) s (fun t => same t ∧ (p < 16 → rd t (pgPORT p) F.FAB_PORT_TEMP.TEMP = t8.toNat))) ∧
    (t8.toNat < 80 → p < 16 → tabGet false s.fab.hot p = true → Does (.engineCool e t8) s (fun t => t.hbm = s.hbm ∧ t.jobs = s.jobs ∧
      t.cores = s.cores ∧ t.fab.hot = tabPut false s.fab.hot p false)) ∧
    (80 ≤ t8.toNat → Does (.engineCool e t8) s same) ∧
    Does (.coolantHot t8) s (fun t => same t ∧ rd t pgTHERM F.THERM_COOLANT.INLET = t8.toNat ∧
      (40 < t8.toNat → rd t pgTHERM F.THERM_COOLANT.INLET_HOT = 1)) ∧
    Does (.flowLow t8 u8) s (fun t => same t ∧ rd t pgTHERM F.THERM_COOLANT.OUTLET = u8.toNat ∧
      (t8.toNat + 36 < u8.toNat → rd t pgTHERM F.THERM_COOLANT.FLOW_LOW = 1)) ∧
    (let x := v.toNat
     let low := (440 ≤ x ∧ x < 500) ∨ (570 < x ∧ x ≤ 600)
     let at_ := tabGet 0 s.pow.evAt 8
     (low → (at_ = 0 ∨ at_ + 325000000 ≤ s.esc + 1) → Does (.inputRange v) s (fun t => same t ∧
       tabGet 0 t.pow.evAt 8 = s.esc + 1 ∧ t.innk.logNext = s.innk.logNext + 1)) ∧
     (low → at_ ≠ 0 → s.esc + 1 < at_ + 325000000 → Does (.inputRange v) s (fun t => OnlyPages s t (fun y => y = pgPWR) ∧
       rd t pgPWR F.PWR_EVT_SUPP.COUNT = min (rd s pgPWR F.PWR_EVT_SUPP.COUNT + 1) (2 ^ 32 - 1))) ∧
     (¬ low → Does (.inputRange v) s (· = s))) ∧
    (rdB s pgPWR F.PWR_MODSTATE.BUSY = true → rd s pgPWR F.PWR_MODSTATE.TARGET = 3 → linksClosed s = true →
      s.pow.forced = true ∨ coresTested s = true → (s.pow.forced = false ∨ rd s pgSYS F.SYS_REMOVE.PHASE < 2) →
      Does .p3Entry s (fun t => modState t = 3 ∧ rd t pgPWR F.PWR_MODSTATE.BUSY = 0 ∧ t.cores = [] ∧ t.hbm.mem = s.hbm.mem ∧
        t.pow.forced = false ∧ (∀ m < 32, rd t (pgSTK m) F.HBM_STK_STATE.SREF = 1) ∧
        ∀ m < 256, coreState t m = stOFF)) ∧
    (rdB s pgPWR F.PWR_MODSTATE.BUSY = false ∨ linksClosed s = false → Does .p3Entry s (· = s)) ∧
    (let m := c.val
     (parkable s m = true → blkReady s (pgSEQ m) = false → (bistOf s m).valid = true → Does (.corePark c) s (fun t => t.hbm = s.hbm ∧
       (core t m).parked = true ∧ coreState t m = stOFF ∧ (∀ o, o ≠ m → core t o = core s o))) ∧
     (parkable s m = true → blkReady s (pgSEQ m) = true → testsOn s (dieOf m) < 8 → Does (.corePark c) s (fun t => t.hbm = s.hbm ∧
       coreState t m = stISOLATED ∧ underTest t m = true)) ∧
     (parkable s m = false → Does (.corePark c) s (· = s)))

/-! ## The Innkeeper and Passport (R401 to R414, R418 to R437, R513) -/

/-- R401, R405, R406, R409, R413, R414, R421, R422, R430, R434, R437: the Innkeeper's own events: a restart and its causes, the boot, a
rollback, the health of new firmware, the log, the sensors, the loads of components; SEC_LOCK, a zeroization and a lifecycle
transition. Firmware services its watchdog at boot in this model (log entry 41). -/
def Obligations.InnkeeperAndPassport : Prop :=
  ∀ (s : State) (values : List (Fin 7 × Fin 272 × BitVec 16)) (ty : Fin 6) (d : Fin 4) (z : Zero) (u : Update) (q k : Nat), s.Inv →
    let n := d.val
    let act := activeSlot s
    let st := rd s pgINNK F.INNK_STATE.STATE
    let good (i : Nat) : Prop := slotFault s i = none
    let plane (t : State) : Prop := t.hbm = s.hbm ∧ t.cores = s.cores ∧ t.jobs = s.jobs ∧ t.fab = s.fab ∧ t.car = s.car
    let restarted (cause : Nat) (t : State) : Prop := plane t ∧ t.psp = s.psp ∧ rd t pgINNK F.INNK_STATE.STATE = 2 ∧
      rd t pgINNK F.INNK_STATE.HEALTHY = 0 ∧ rd t pgINNK F.INNK_WDOG.CAUSE = cause ∧
      rd t pgINNK F.INNK_WDOG.COUNT = (rd s pgINNK F.INNK_WDOG.COUNT + 1) % 2 ^ 8 ∧ t.innk.restarts = s.esc :: s.innk.restarts ∧
      t.innk.semHeld = false ∧ (s.innk.semHeld = true → rd1 t pgSYS F.SYS_SEM.FREE 0 = 1) ∧
      t.host.cmds = s.host.cmds ∧ ∀ x ∈ t.host.latches, x.1 < 2048
    let booted (i : Nat) (rolled : Bool) (t : State) : Prop := rd t pgINNK F.INNK_STATE.STATE = 1 ∧ activeSlot t = i ∧
      rdB t pgINNK F.INNK_STATE.ROLLED = rolled ∧ rd t pgINNK F.INNK_STATE.HEALTHY = 0
    let boots := (st = 2 ∧ (recentRestarts s < 3 ∨ slotFault s (1 - act) ≠ none)) ∨ (st = 0 ∧ 3 ≤ s.boot.up)
    let rolls := st = 2 ∧ 3 ≤ recentRestarts s
    let rolledBack (t : State) : Prop := booted (1 - act) true t ∧ rd t pgINNK F.INNK_WDOG.CAUSE = 4 ∧ t.innk.upd = none ∧
      (s.innk.upd ≠ none → rd t pgINNK F.INNK_UPD.LAST = 0x24)
    let hangs := innkRuns s = true ∧ s.innk.serviced + 2 * secPclk ≤ s.esc
    let late (u : Update) : Prop := u.phase = 5 ∧ u.healthAt + 30 * secPclk ≤ s.esc + 1 ∧ rdB s pgINNK F.INNK_STATE.HEALTHY = false
    let well := innkRuns s = true ∧ s.innk.loadFail = false ∧ rdB s pgINNK F.INNK_STATE.HEALTHY = false
    let fresh := innkRuns s = true ∧ (s.pow.snapEsc = 0 ∨ s.pow.snapEsc + 3250000 ≤ s.esc)
    let measured (c : Comp) (t : State) : Prop := t.psp.meas = tabPut 0 s.psp.meas c.ty
      (bytesToNat (sha384 (natToBytes 48 (measOf s c.ty) ++ natToBytes 48 c.sha)))
    let loads := 2 ≤ ty.val ∧ innkRuns s = true ∧ (4 ≤ ty.val ∨ (anyJob s = false ∧ diesOn s = true))
    let pend := tabGet 0 s.innk.pendComp n
    let free := dieHeld s n = false ∧ diesOn s = true ∧ innkRuns s = true
    let zeroed (z : Zero) (t : State) : Prop := (∀ m a, memByte (core t m).spad a = 0) ∧
      ∀ r ∈ z.ranges, ∀ a, r.1 ≤ a → a < r.1 + r.2 → ∀ c g o, hbmPlace s a = some (c, g, o) → memByte t.hbm.mem (placeKey c g o) = 0
    (hangs → Does .watchdogExpiry s (restarted 1)) ∧ (¬ hangs → Does .watchdogExpiry s (· = s)) ∧
    (innkRuns s = true → Does .sramUe s (restarted 2)) ∧ (innkRuns s = false → Does .sramUe s (· = s)) ∧
    (boots → good act → Does .boot s (fun t => plane t ∧ booted act false t ∧ t.innk.serviced = s.esc)) ∧
    (boots → ¬ good act → good (1 - act) → Does .boot s (fun t => plane t ∧ booted (1 - act) false t)) ∧
    (boots → ¬ good act → ¬ good (1 - act) → Does .boot s (fun t => plane t ∧ rd t pgINNK F.INNK_STATE.STATE = 0)) ∧
    (¬ boots → Does .boot s (· = s)) ∧
    (rolls → good (1 - act) → Does .rollback s rolledBack) ∧ (¬ rolls ∨ ¬ good (1 - act) → Does .rollback s (· = s)) ∧
    (s.innk.upd = none → Does .healthTimeout s (· = s)) ∧
    (s.innk.upd = some u → (late u → good (1 - act) → Does .healthTimeout s rolledBack) ∧
      (¬ late u ∨ ¬ good (1 - act) → Does .healthTimeout s (· = s))) ∧
    (well → s.innk.upd = none → Does .healthy s (fun t => OnlyPages s t (fun y => y = pgINNK) ∧ rd t pgINNK F.INNK_STATE.HEALTHY = 1)) ∧
    (well → s.innk.upd = some u → u.secver ≤ 64 → u.who = .cmd q k → Does .healthy s (fun t => plane t ∧
      rd t pgINNK F.INNK_STATE.HEALTHY = 1 ∧ t.innk.upd = none ∧ arb t = max (arb s) u.secver ∧ rd t pgINNK F.INNK_UPD.LAST = 0 ∧
      ∀ x ∈ s.host.cmds, x.q = q → x.n = k → x.done = none → ∃ y ∈ t.host.cmds, ∃ r, y = { x with done := some (0, 0, r) })) ∧
    (¬ well → Does .healthy s (· = s)) ∧
    (innkRuns s = true → Does .logFlush s (fun t => t = { s with innk := t.innk } ∧
      t.innk = { s.innk with log := s.innk.buf.foldl logWrite s.innk.log, buf := [] })) ∧
    (innkRuns s = false → Does .logFlush s (· = s)) ∧
    (fresh → Does (.sensorRefresh values) s (fun t => plane t ∧ t.pow.snapEsc = s.esc ∧
      ∀ (cls : Fin 7) (i : Fin 272) (v : BitVec 16), values = [(cls, i, v)] → i.val < sensCount cls.val → v ≠ 0 →
        tabGet 0 t.pow.snap (sensKey cls.val i.val) = v.toNat)) ∧
    (¬ fresh → Does (.sensorRefresh values) s (· = s)) ∧
    (loads → ∀ c, compOf s act ty.val = some c →
      (compOk c = true → Does (.componentLoad ty) s (fun t => plane t ∧ measured c t ∧ t.regs = s.regs ∧ t.innk = s.innk)) ∧
      (compOk c = false → Does (.componentLoad ty) s (· = { s with innk := { s.innk with loadFail := true } }))) ∧
    (¬ loads ∨ compOf s act ty.val = none → Does (.componentLoad ty) s (· = s)) ∧
    (free → ∀ x, (x = 2 ∧ pend.testBit 3 = false) ∨ (x = 3 ∧ pend.testBit 2 = false) → pend.testBit x = true →
      Does (.pendingComponentLoad d) s (fun t => plane t ∧
        t.innk.pendComp = tabPut 0 s.innk.pendComp n (pend &&& (255 - 2 ^ x)) ∧ (∀ c, compOf s act x = some c → compOk c = true → measured c t) ∧
        (s.innk.buf.length < 512 → ∃ r ∈ t.innk.buf, r.cls = 2 ∧ r.code = 4 ∧ r.data = x + 2 ^ 8 ∧ r.seq = s.innk.logNext))) ∧
    (¬ free ∨ (pend.testBit 2 = false ∧ pend.testBit 3 = false) → Does (.pendingComponentLoad d) s (· = s)) ∧
    (pageClosed s pgSEC = false → secLocked s = false → Does .secLock s (fun t => secLocked t = true ∧ level t = level s ∧
      t.psp.meas = tabPut 0 s.psp.meas 6 (bytesToNat (sha384 (natToBytes 48 (measOf s 6) ++
        sha384 (natToBytes 8 (3 + level s * 2 ^ 8))))) ∧ plane t)) ∧
    (secLocked s = true → pageClosed s pgSEC = false → Does .secLock s (· = s)) ∧
    (s.psp.zero = some z → z.level ≤ 3 → z.who = .cmd q k →
      (z.level = 3 → linksClosed s = false → Does .zeroize s (· = s)) ∧
      (z.level ≠ 3 ∨ linksClosed s = true →
        (z.life = none → Does .zeroize s (fun t => zeroed z t ∧ t.psp.zero = none ∧ rd t pgSEC F.SEC_DEBUG.ZERO_BUSY = 0 ∧
          level t = z.level ∧ rd t pgSEC F.SEC_DEBUG.MAX = max z.level (rd s pgSEC F.SEC_DEBUG.MAX) ∧
          ∀ x ∈ s.host.cmds, x.q = q → x.n = k → x.done = none → { x with done := some (0, 0, 0) } ∈ t.host.cmds)) ∧
        (∀ l, z.life = some l → l = 3 ∨ l = 4 → Does .zeroize s (fun t => zeroed z t ∧ t.psp.zero = none ∧ lifecycle t = l ∧
          t.psp.lifeAt = s.esc + 1 ∧ level t = level s ∧ t.innk.buf = [] ∧ (l = 4 → t.psp.keyErased = true ∧ t.innk.log.length ≤ 1))))) ∧
    (s.psp.zero = none → s.psp.pendZero = none → Does .zeroize s (· = s)) ∧
    (s.psp.zero = none → s.psp.pendZero = some z → diesOn s = true → rdB s pgPWR F.PWR_MODSTATE.BUSY = false → Does .zeroize s (fun t =>
      zeroed z t ∧ t.psp.pendZero = none ∧ rd t pgSEC F.SEC_DEBUG.ZERO_PEND = 0 ∧ level t = level s)) ∧
    (s.psp.lifeAt ≠ 0 → s.psp.lifeAt + 32500000 ≤ s.esc + 1 → Does .lifecycleReset s (fun t => t.esc = 0 ∧ t.cores = [] ∧
      level t = 0 ∧ rd t pgSEC F.SEC_DEBUG.MAX = 0 ∧ lifecycle t = lifecycle s ∧ secLocked t = false ∧ t.boot.up = 2)) ∧
    (s.psp.lifeAt = 0 ∨ s.esc + 1 < s.psp.lifeAt + 32500000 → Does .lifecycleReset s (· = s))

/-- R407, R408, R411 to R413, R420, R424, R427 to R433, R512, R513: the messages, each answered over I3C once the Innkeeper runs and what
arrived before has run, or refused; the fabric's path; MCTP control, the dynamic address and the JTAG instruction. MCTP's formats
are DSP0236's (log entry 61), and the code of IDCODE is not in the spec (log entry 8). -/
def Obligations.ManagementMessages : Prop :=
  ∀ (s : State) (tag : BitVec 16) (body data : List (BitVec 8)) (inst ir : BitVec 8) (addr : BitVec 7) (m : Msg) (s1 : State), s.Inv →
    let v := Via.i3c tag body
    let b := bytesToNat body
    let msgs (v : Via) : List (Instr × Nat) := [(.getSensor v, 0x01), (.readReg v, 0x02), (.writeReg v, 0x03), (.command v, 0x04),
      (.msgLogRead v, 0x05), (.updateWrite v, 0x06), (.updateApply v, 0x07), (.updateStatus v, 0x08), (.getInfo v, 0x10),
      (.getCert v, 0x11), (.getMeasLog v, 0x12), (.getReport v, 0x13), (.getNonce v, 0x14), (.debugToken v, 0x15),
      (.lifecycleToken v, 0x16), (.revokeToken v, 0x17), (.msgDebugClose v, 0x18)]
    let up := i3cUp s = true ∧ mgmtWaits s = false ∧ ∀ x ∈ s.host.cmds, ¬ (x.q = 4 ∧ x.n = tag.toNat)
    let ok := up ∧ body.length ≤ 4088
    let ans (x : State) (ty st : Nat) (r : List Byte) : State :=
      { x with host := { x.host with out := x.host.out ++ [.i3c (rspMsg ty tag.toNat st r)] } }
    let tells (i : Instr) (ty st : Nat) (r : List Byte) : Prop := Does i s (· = ans s ty st r)
    let f (o w : Nat) : Nat := byteField b o w
    let sensors := body.length = 6 ∧ f 0 1 ≤ 6 ∧ 1 ≤ f 4 2 ∧ f 4 2 ≤ 1024 ∧ f 2 2 + f 4 2 ≤ sensCount (f 0 1)
    let off := bytesToNat (body.take 4)
    let words := (body.length - 4) / 4
    let cert := body.length = 10 ∧ f 0 1 ≤ 1 ∧ f 1 1 ≤ 1 ∧ 1 ≤ f 8 2 ∧ f 8 2 ≤ 4080
    let done (t : State) (r : Nat × Nat × Nat) : Prop := ∃ x ∈ t.host.cmds, x.q = 4 ∧ x.n = tag.toNat ∧ x.done = some r
    let len := bytesToNat body
    let meas := body.length = 3 ∧ 1 ≤ f 2 1 ∧ f 2 1 ≤ 63
    let signs := rdB s pgSEC F.SEC_LIFECYCLE.ID_READY = true ∧ (lifecycle s = 1 ∨ lifecycle s = 2)
    let target := tokenTarget body
    let lv := level s
    let tokens (i : Instr) (ty kind : Nat) : Prop :=
      (secBusy s = true → tells i ty 0x23 []) ∧
      (∀ r, secBusy s = false → tokenFault s kind body = some r → Does i s (fun t => t.psp = s.psp ∧ level t = lv ∧
        t.host.out = s.host.out ++ [.i3c (rspMsg ty tag.toNat 3 [BitVec.ofNat 8 r])] ∧
        rd t pgSEC F.SEC_TOKEN_REJ.LAST = r ∧ rd t pgSEC F.SEC_TOKEN_REJ.COUNT = min (rd s pgSEC F.SEC_TOKEN_REJ.COUNT + 1) (2 ^ 16 - 1)))
    let accepted (kind : Nat) : Prop := ok ∧ secBusy s = false ∧ tokenFault s kind body = none
    let starts (l : Nat) (life : Option Nat) (t : State) : Prop := (∃ x, t.psp.zero = some x ∧ x.level = l ∧ x.life = life) ∧
      rd t pgSEC F.SEC_DEBUG.ZERO_BUSY = 1 ∧ level t = lv ∧ jobState t 0 = 0 ∧ jobState t 1 = 0
    let eid (e : Nat) : Prop := data.length = 2 ∧ (data.getD 0 0).toNat < 2 ∧ (data.getD 1 0).toNat = e ∧ e ≠ 0 ∧ e ≠ 255
    let mctp (x : State) (c cc : Nat) (r : List Byte) : State :=
      { x with host := { x.host with out := x.host.out ++ [.i3c ([0#8, inst &&& 0x1F#8, BitVec.ofNat 8 c, BitVec.ofNat 8 cc] ++ r)] } }
    (∀ x ∈ msgs v, (¬ up → Does x.1 s (· = s)) ∧ (up → 4088 < body.length → tells x.1 x.2 0x22 [])) ∧
    (ok →
      (sensors → tells (.getSensor v) 0x01 0 (natToBytes 8 s.pow.snapEsc ++
        (List.range (f 4 2)).flatMap (fun i => natToBytes 2 (tabGet 0 s.pow.snap (sensKey (f 0 1) (f 2 2 + i)))))) ∧
      (¬ sensors → tells (.getSensor v) 0x01 0x22 []) ∧
      (body.length = 6 → f 0 4 % 4 = 0 → 1 ≤ f 4 2 → f 4 2 ≤ 1020 → f 0 4 + 4 * f 4 2 ≤ 2 ^ 26 → let r := windowRead .i3c (f 4 2) s (f 0 4)
        Does (.readReg v) s (· = ans r.2 0x02 0 r.1)) ∧
      (body.length ≠ 6 ∨ f 0 4 % 4 ≠ 0 ∨ f 4 2 = 0 ∨ 1020 < f 4 2 ∨ 2 ^ 26 < f 0 4 + 4 * f 4 2 → tells (.readReg v) 0x02 0x22 []) ∧
      (body.length % 4 = 0 → 8 ≤ body.length → off % 4 = 0 → words ≤ 1020 → off + 4 * words ≤ 2 ^ 26 →
        Does (.writeReg v) s (· = ans (windowWrite .i3c words s off (body.drop 4)) 0x03 0 [])) ∧
      (body.length % 4 ≠ 0 ∨ body.length < 8 ∨ off % 4 ≠ 0 ∨ 1020 < words ∨ 2 ^ 26 < off + 4 * words → tells (.writeReg v) 0x03 0x22 []) ∧
      (body.length = 64 → Does (.command v) s (fun t => t = { s with host := { s.host with cmds := t.host.cmds } } ∧
        ∃ x, t.host.cmds = s.host.cmds ++ [x] ∧ x.q = 4 ∧ x.n = tag.toNat ∧ x.bytes = b)) ∧
      (body.length ≠ 64 → tells (.command v) 0x04 0x22 []) ∧
      (body.length = 9 → 1 ≤ f 8 1 → f 8 1 ≤ 127 → tells (.msgLogRead v) 0x05 0 (natToBytes 8 (logNewest s) ++
        (((s.innk.log.filter (fun r => decide (f 0 8 ≤ r.seq))).take (f 8 1)).flatMap recBytes))) ∧
      (body.length ≠ 9 ∨ f 8 1 = 0 ∨ 127 < f 8 1 → tells (.msgLogRead v) 0x05 0x22 []) ∧
      (let bs := body.drop 4
       let fits := 36 ≤ body.length ∧ off % 4096 = 0 ∧ bs.length % 32 = 0 ∧ off + bs.length ≤ 44 * 2 ^ 20
       (fits → Does (.updateWrite v) s (fun t => t.innk.stage = (List.range bs.length).foldl (fun m i =>
           tabPut 0 m (off + i) (bs.getD i 0)) s.innk.stage ∧
         rd t pgINNK F.INNK_STAGE.BYTES = max (rd s pgINNK F.INNK_STAGE.BYTES) (off + bs.length) ∧
         t.host.out = s.host.out ++ [.i3c (rspMsg 0x06 tag.toNat 0 [])] ∧ t.cores = s.cores ∧ t.hbm = s.hbm)) ∧
       (¬ fits → tells (.updateWrite v) 0x06 0x22 [])) ∧
      (body.length = 4 →
        (s.innk.upd ≠ none → Does (.updateApply v) s (fun t => done t (0x23, 0, 0) ∧ t.innk = s.innk ∧ t.regs = s.regs)) ∧
        (∀ r, s.innk.upd = none → bundleFault s len = some r → Does (.updateApply v) s (fun t => done t (0x24, r, 0) ∧
          t.innk.slots = s.innk.slots ∧ activeSlot t = activeSlot s ∧ rd t pgINNK F.INNK_UPD.LAST = 0x24)) ∧
        (s.innk.upd = none → bundleFault s len = none → Does (.updateApply v) s (fun t => (slotAt t (1 - activeSlot s)).valid = true ∧
          activeSlot t = 1 - activeSlot s ∧ rd t pgINNK F.INNK_STATE.STATE = 2 ∧ rd t pgINNK F.INNK_WDOG.CAUSE = 3 ∧
          rd t pgINNK F.INNK_UPD.PHASE = 5 ∧ t.innk.upd ≠ none ∧ t.hbm = s.hbm ∧ t.cores = s.cores))) ∧
      (body.length ≠ 4 → tells (.updateApply v) 0x07 0x22 []) ∧
      (body = [] → tells (.updateStatus v) 0x08 0 (natToBytes 4 (regView s pgINNK 0x110)) ∧
        tells (.getInfo v) 0x10 0 ([0x100, 0x104, 0x10C, 0x110, 0x114, 0x118].flatMap (fun o => natToBytes 4 (regView s pgSEC o))) ∧
        tells (.getNonce v) 0x14 0 (natToBytes 32 (nonce s)) ∧
        Does (.msgDebugClose v) s (fun t => level t = (if lv = 0 ∨ lv = 1 then 0 else 1) ∧
          t.host.out = s.host.out ++ [.i3c (rspMsg 0x18 tag.toNat 0 [])])) ∧
      (body ≠ [] → tells (.updateStatus v) 0x08 0x22 [] ∧ tells (.getInfo v) 0x10 0x22 [] ∧ tells (.getNonce v) 0x14 0x22 [] ∧
        tells (.msgDebugClose v) 0x18 0x22 []) ∧
      (let total := if s.psp.keyErased then 0 else Sys2Proof.Config.certLen (f 0 1) (f 1 1)
       (cert → tells (.getCert v) 0x11 0 (natToBytes 4 total ++
         (List.range (min (f 8 2) (total - f 4 4))).map (fun i => Sys2Proof.Config.certByte (f 0 1) (f 1 1) (f 4 4 + i)))) ∧
       (¬ cert → tells (.getCert v) 0x11 0x22 [])) ∧
      (meas → tells (.getMeasLog v) 0x12 0 (natToBytes 8 (packBytes [(0, s.psp.log.length), (2, bit s.psp.overflow)]) ++
        (((s.psp.log.drop (f 0 2)).take (f 2 1)).flatMap measEntry))) ∧
      (¬ meas → tells (.getMeasLog v) 0x12 0x22 []) ∧
      (body.length = 96 → signs → Does (.getReport v) s (fun t => ∃ r sig, r.length = 512 ∧ sig.length = 3373 ∧
        t = { ans s 0x13 0 (r ++ sig) with free := t.free } ∧ r.take 8 = natToBytes 4 0x10000 ++ natToBytes 4 512 ∧
        (r.drop 8).take 8 = natToBytes 8 (uid s) ∧ (r.drop 16).take 32 = body.take 32 ∧ (r.drop 48).take 8 = natToBytes 8 s.esc ∧
        (r.drop 80).take 336 = (List.range 7).flatMap (fun i => natToBytes 48 (measOf s i)) ∧ (r.drop 416).take 64 = body.drop 32)) ∧
      (body.length = 96 → ¬ signs → tells (.getReport v) 0x13 3 []) ∧
      (body.length ≠ 96 → tells (.getReport v) 0x13 0x22 []) ∧
      tokens (.debugToken v) 0x15 1 ∧ tokens (.lifecycleToken v) 0x16 2 ∧ tokens (.revokeToken v) 0x17 3) ∧
    (accepted 1 → (target ≤ lv → Does (.debugToken v) s (fun t => level t = lv ∧ t.psp = s.psp ∧ t.cores = s.cores ∧
        t.host.out = s.host.out ++ [.i3c (rspMsg 0x15 tag.toNat 0 [])])) ∧
      (target = 1 → lv = 0 → Does (.debugToken v) s (fun t => level t = 1 ∧ t.psp.zero = s.psp.zero ∧ t.cores = s.cores ∧
        t.host.out = s.host.out ++ [.i3c (rspMsg 0x15 tag.toNat 0 [])])) ∧
      (2 ≤ target → lv < target → Does (.debugToken v) s (starts target none))) ∧
    (accepted 2 → Does (.lifecycleToken v) s (fun t => starts 3 (some target) t ∧ rd t pgSEC F.SEC_LIFECYCLE.TRANSIT = 1 ∧
      lifecycle t = lifecycle s)) ∧
    (accepted 3 → Does (.revokeToken v) s (fun t => rd t pgSEC F.SEC_KEYSLOT.REVOKED = rd s pgSEC F.SEC_KEYSLOT.REVOKED ||| 2 ^ target ∧
      level t = lv ∧ t.psp = s.psp ∧ t.cores = s.cores ∧ t.host.out = s.host.out ++ [.i3c (rspMsg 0x17 tag.toNat 0 [])])) ∧
    (∀ x ∈ msgs .fabric, let fields := msgFields m.data
      (fabricMsg s 0xC1 x.2 = none → fabricMsg s 0xD0 x.2 = none → Does x.1 s (· = s)) ∧
      (innkRuns s = true → mgmtWaits s = false → fabricMsg s 0xC1 x.2 = some (m, s1) →
        fabricDenied x.2 = true ∨ (x.2 < 0x10 ∧ rdB s1 pgINNK F.INNK_CFG.FAB_MGMT = false) →
        Does x.1 s (· = reply s1 (.fabric m.src 0xC2 x.2 fields.2.1) 3 0 0 []))) ∧
    (innkRuns s = false → fabricMsg s 0xD0 0x14 = some (m, s1) → (msgFields m.data).2.2.1 = 0 →
      Does (.getNonce .fabric) s (· = reply s1 (.fabric m.src 0xD1 0x14 (msgFields m.data).2.1) 0 0 0 (natToBytes 32 (nonce s1)))) ∧
    (i3cUp s = false → ∀ c, Does (.mctpControl inst c data) s (· = s)) ∧
    (i3cUp s = true → (∀ e, eid e → Does (.mctpControl inst 1 data) s (fun t => rd t pgINNK F.INNK_I3C.EID = e ∧
        t = { mctp s 1 0 [0#8, BitVec.ofNat 8 e, 0#8] with regs := t.regs } ∧ OnlyPages { s with host := t.host } t (fun y => y = pgINNK))) ∧
      Does (.mctpControl inst 2 data) s (· = mctp s 2 0 [BitVec.ofNat 8 (rd s pgINNK F.INNK_I3C.EID), 0#8, 0#8]) ∧
      Does (.mctpControl inst 5 data) s (· = mctp s 5 0 [1#8, 0x7F#8]) ∧
      Does (.mctpControl inst 9 data) s (· = mctp s 9 5 [])) ∧
    (let on := innkRuns s = true ∧ rdB s pgINNK F.INNK_I3C.EN = true
     (on → Does (.entdaa addr) s (fun t => OnlyPages s t (fun y => y = pgINNK) ∧ rd t pgINNK F.INNK_I3C.DADDR = addr.toNat ∧
       rd t pgINNK F.INNK_I3C.DVALID = 1)) ∧
     (¬ on → Does (.entdaa addr) s (· = s))) ∧
    (s.boot.off = true → Does (.jtagInstruction ir) s (· = s)) ∧
    (s.boot.off = false → let shows := ir.toNat = Sys2Proof.Config.code 0x0513 0 % 256
      (shows → Does (.jtagInstruction ir) s (fun t => t = { s with boot := t.boot, host := t.host } ∧
        t.boot.jtag = some ir.toNat ∧ t.host.out = s.host.out ++ [.tdo 0x53240A6B])) ∧
      (¬ shows → lv = 3 → Does (.jtagInstruction ir) s (fun t => t = { s with boot := { s.boot with jtag := some ir.toNat } })) ∧
      (¬ shows → lv ≠ 3 →
        Does (.jtagInstruction ir) s (fun t => t = { s with boot := { s.boot with jtag := some 0xFF } })))

/-! ## Bring-up, self-test, insertion and removal (R385, R440 to R473) -/

/-- R385, R440, R441, R447 to R458, R464 to R473, R509: power-up, module reset, the domains and cores that come up, the self-tests
and their results, the burn of a repair, and the connector's events. POWER_UP does steps 3 to 7 of R440 at once and the log's
numbering resumes 513 above the highest number in flash; both are the model's choice (log entries 29 and 38). -/
def Obligations.BringUpTestsAndHotPlug : Prop :=
  ∀ (s : State) (us slot : BitVec 8) (d : Fin 4) (c : Fin 256) (u : Fin 262) (f : TestFinding) (page : Fin 16384)
    (el : BitVec 8) (ok fresh low : Bool) (ms : BitVec 16), s.Inv →
    let n := d.val
    let m := c.val
    let x := u.val
    let on := s.boot.off = false
    let keeps (t : State) : Prop := (∀ w < 16, rd1 t pgSYS F.SYS_CORE_ROLE.ROLE w = rd1 s pgSYS F.SYS_CORE_ROLE.ROLE w) ∧
      lifecycle t = lifecycle s ∧ rd t pgSEC F.SEC_KEYSLOT.REVOKED = rd s pgSEC F.SEC_KEYSLOT.REVOKED ∧ arb t = arb s ∧
      activeSlot t = activeSlot s ∧ t.innk.slots = s.innk.slots ∧ t.innk.repairs = s.innk.repairs
    let cleared (t : State) : Prop := t.cores = [] ∧ t.jobs = [] ∧ t.esc = 0 ∧ t.dieCyc = [] ∧ t.fab = {} ∧ t.car = {} ∧
      t.psp.meas = [] ∧ t.pending = s.pending ∧ jobState t 0 = 0 ∧ jobState t 1 = 0
    let powered (t : State) : Prop := cleared t ∧ keeps t ∧ t.boot.up = 2 ∧ t.boot.off = false ∧ t.hbm.mem = s.hbm.mem
    let boots (k : Nat) (t : State) : Prop := rd t pgINNK F.INNK_BOOTCNT.COUNT = (rd s pgINNK F.INNK_BOOTCNT.COUNT + k) % 2 ^ 32
    let ups (k : Nat) (t : State) : Prop :=
      rd t pgSYS F.SYS_HOTPLUG_CNT.POWERUPS = min (rd s pgSYS F.SYS_HOTPLUG_CNT.POWERUPS + k) (2 ^ 16 - 1)
    let logged (code data : Nat) (t : State) : Prop := s.innk.buf.length < 512 → ∃ r ∈ t.innk.buf, r.cls = 2 ∧ r.code = code ∧
      r.data = data ∧ r.seq = s.innk.logNext ∧ r.stamp = s.esc
    let stks := if striped s then List.range 32 else (List.range 8).map (· + 8 * n)
    let built := 7 ≤ s.boot.up ∧ innkRuns s = true ∧ diesOn s = true ∧ domReady s n = false ∧ (striped s = false ∨ n = 0) ∧
      ∀ k ∈ stks, blkReady s (pgSTK k) = true
    let chs := (domChannels (striped s) n).filter (fun y => !leftOut s y)
    let comes := 7 ≤ s.boot.up ∧ diesOn s = true ∧ rdB s pgPWR F.PWR_MODSTATE.BUSY = false ∧ coreHealthy s m = true ∧
      blkState s (pgSEQ m) = stOFF ∧ (core s m).parked = false ∧ blkReady s (pgSTEWARD (dieOf m)) = true ∧
      (testDue s m = false ∨ testsOn s (dieOf m) < 8)
    let b := bistOf s x
    let ends := underTest s x = true ∧ s.esc + 1 < b.startAt + unitBudget x ∧ failsIn x f = true
    let late := underTest s x = true ∧ b.startAt + unitBudget x ≤ s.esc + 1
    let bad := { s.innk with badSpares := s.innk.badSpares ++ f.badSpares.map (fun y => (y.1.val, y.2.toNat)) }
    let failed (t : State) : Prop := (bistOf t x).state = 4 ∧ (x < 256 → coreRole t x = 2 ∧ ((core s x).lcore = none → blkState t (pgSEQ x) = stFAULT)) ∧
      (256 ≤ x → b.powerup = true → ∀ q ∈ unitPages x, blkReady t q = true)
    let p := page.val
    let tgt := rd s pgPWR F.PWR_MODSTATE.TARGET
    let leaves := modState s = 3 ∧ rdB s pgPWR F.PWR_MODSTATE.BUSY = true ∧ tgt < 3
    let removing := rdB s pgSYS F.SYS_REMOVE.PEND = true ∨ rdB s pgSYS F.SYS_REMOVE.READY = true
    let p4 := s.boot.p4 = true ∧ rdB s pgPWR F.PWR_MODSTATE.BUSY = true ∧ tgt = 4 ∧ linksClosed s = true ∧
      (modState s = 3 ∨ coresTested s = true) ∧ ∀ k < 6, 256 + k ∈ s.boot.done
    let p4Goes := s.boot.p4Wait = true ∧ p4Held s = false
    (s.boot.up = 2 → on → slotFault s (activeSlot s) = none → Does .powerUp s (fun t => t.esc = 0 ∧ t.boot.up = 7 ∧
      innkRuns t = true ∧ t.hbm = s.hbm ∧ t.cores = s.cores ∧ rd t pgCLK F.CLK_STATE.LOCK = 31 ∧ rd t pgCLK F.CLK_STATE.REF_OK = 1 ∧
      (∀ q ∈ [pgSYS, pgJOB, pgSEC, pgINNK, pgCLK, pgPWR, pgTHERM], blkReady t q = true) ∧
      (∀ q ∈ unitPages 260, blkState t q = if testDue s 260 then stISOLATED else stREADY) ∧
      ∀ y < 6, 0 < y → ∀ q ∈ unitPages (255 + y), blkState t q = stISOLATED ∨ blkState t q = stREADY)) ∧
    (s.boot.up ≠ 2 ∨ s.boot.off = true → Does .powerUp s (· = s)) ∧
    (on → modState s ≠ 4 → Does .resetN s (fun t => powered t ∧ boots 0 t ∧ ups 0 t ∧ t.innk.log = s.innk.log ∧
      (∀ pg off, off < 4096 → (∀ y ∈ heldWords, ¬ (y.1 = pg ∧ y.2.1 / 4 = off / 4)) →
        rdW t pg off = (regDefault (regKey pg off)).toNat))) ∧
    (s.boot.off = true ∨ modState s = 4 → Does .resetN s (· = s)) ∧
    (us.toNat < 10 → Does (.resetIgnored us) s (fun t => logged 0x13 us.toNat t ∧ t.cores = s.cores ∧ t.hbm = s.hbm ∧
      t.boot = s.boot ∧ t.innk.logNext = s.innk.logNext + 1)) ∧
    (10 ≤ us.toNat → Does (.resetIgnored us) s (· = s)) ∧
    (built → Does (.domainReady d) s (fun t => domReady t n = true ∧ (striped s = true → ∀ k < 4, domReady t k = true) ∧
      t.cores = s.cores ∧ t.jobs = s.jobs ∧ ∀ y ∈ chs, ∀ r o, r < slotsR → o < 2048 → memByte t.hbm.mem (placeKey y r o) = 0)) ∧
    (¬ built → Does (.domainReady d) s (· = s)) ∧
    (comes → Does (.coreBringUp c) s (fun t => core t m = Core.reset ∧ (∀ y, y ≠ m → core t y = core s y) ∧ t.hbm = s.hbm ∧
      (∀ k < 8, k ≠ 1 → k ≠ 7 → ∀ off < 4096, 0x100 ≤ off → rdW t (pgCore m k) off = (regDefault (regKey (pgCore m k) off)).toNat) ∧
      (testDue s m = false → coreState t m = stREADY ∧ rd t (pgRNG m) F.RNG_CTRL.KAT_PASS = 1 ∧
        t.innk.bist = tabPut {} s.innk.bist m { bistOf s m with valid := false }) ∧
      (testDue s m = true → coreState t m = stISOLATED ∧ underTest t m = true ∧ (bistOf t m).powerup = true))) ∧
    (¬ comes → Does (.coreBringUp c) s (· = s)) ∧
    (shutTestOk s x = true → Does (.selftestStart u) s (fun t => underTest t x = true ∧ (bistOf t x).powerup = false ∧
      (bistOf t x).boot = rd s pgINNK F.INNK_BOOTCNT.COUNT ∧ (∀ q ∈ unitPages x, blkState t q = stISOLATED) ∧ t.hbm = s.hbm ∧
      t.cores = s.cores ∧ (s.boot.p4 = true → rd t pgSYS F.SYS_REMOVE.PHASE = 3))) ∧
    (shutTestOk s x = false → Does (.selftestStart u) s (· = s)) ∧
    (ends → f.segs = [] → f.memId = 0 → f.fails = [] → Does (.selftestDone u f) s (fun t => (bistOf t x).state = 2 ∧
      (bistOf t x).valid = !b.powerup ∧ t.innk.repairs = s.innk.repairs ∧ t.hbm = s.hbm ∧
      (b.powerup = true → ∀ q ∈ unitPages x, blkReady t q = true))) ∧
    (∀ y e, ends → f.segs = [] → f.fails = [y] → f.retestOk = true → freeSpare bad y = some e → Does (.selftestDone u f) s (fun t =>
      (bistOf t x).state = 3 ∧
      t.innk.repairs = s.innk.repairs ++ [{ page := y.page.val, element := e, target := y.target.toNat, fused := false }])) ∧
    (ends → (f.segs ≠ [] ∨ (f.memId ≠ 0 ∧ f.fails = []) ∨ (f.fails ≠ [] ∧ f.retestOk = false)) → Does (.selftestDone u f) s failed) ∧
    (¬ ends → Does (.selftestDone u f) s (· = s)) ∧
    (late → Does (.selftestBudget u) s (fun t => failed t ∧ (bistOf t x).segment = 0xFE ∧ (bistOf t x).logic = true)) ∧
    (¬ late → Does (.selftestBudget u) s (· = s)) ∧
    (∀ y r, unitOfPage p = some y → s.innk.repairs.find? (fun r => !r.fused && unitOfPage r.page == some y) = some r →
      r.page = p → r.element = el.toNat → rdB s pgSYS F.SYS_REPAIR_CTRL.FUSE_EN = true → (bistOf s y).valid = true →
      blkReady s p = false → innkRuns s = true → let k := tabGet 0 s.innk.fuseCnt y
      (k < 2 → Does (.fuseBurn page el ok) s (fun t => logged 0x08 (p + el.toNat * 2 ^ 16) t ∧ tabGet 0 t.innk.fuseCnt y = k + 1 ∧
        t.innk.repairs = s.innk.repairs.map (fun z => if z = r then { z with fused := ok } else z))) ∧
      (2 ≤ k → Does (.fuseBurn page el ok) s (· = s))) ∧
    (rdB s pgSYS F.SYS_REPAIR_CTRL.FUSE_EN = false ∨ innkRuns s = false → Does (.fuseBurn page el ok) s (· = s)) ∧
    (leaves → Does .p3Exit s (fun t => modState t = tgt ∧ rd t pgPWR F.PWR_MODSTATE.BUSY = 0 ∧ t.hbm.mem = s.hbm.mem ∧
      t.cores = s.cores ∧ rd t pgSYS F.SYS_START.DONE = 0 ∧ t.boot.fromP3 = true ∧
      (∀ k < 32, rd t (pgSTK k) F.HBM_STK_STATE.SREF = 0 ∧ blkReady t (pgSTK k) = true) ∧
      (∀ k < 512, blkReady t (pgCH k) = true) ∧ (∀ k < 16, blkReady t (pgPORT k) = true) ∧
      (tgt = 0 → rd t pgPWR F.PWR_LIMIT.W = rd s pgPWR F.PWR_PLMAX.W) ∧
      (tgt = 1 → rd t pgPWR F.PWR_LIMIT.W = rd s pgPWR F.PWR_P1_LIMIT.W))) ∧
    (¬ leaves → Does .p3Exit s (· = s)) ∧
    (s.boot.off = true → s.boot.enWait = true → Does .prechargeDone s (fun t => powered t ∧ boots 1 t ∧ ups 1 t)) ∧
    (on ∨ s.boot.enWait = false → Does .prechargeDone s (· = { s with boot := { s.boot with precharged := true } })) ∧
    (s.boot.off = true → (s.boot.precharged = true → Does (.pwrEnAssert slot) s (fun t => powered t ∧ boots 1 t ∧ ups 1 t ∧
        rd t pgSYS F.SYS_PINS.SLOT_LATCH = slot.toNat)) ∧
      (s.boot.precharged = false → Does (.pwrEnAssert slot) s (fun t => rd t pgSYS F.SYS_PINS.SLOT_LATCH = slot.toNat ∧
        t = { s with regs := t.regs, boot := { s.boot with enWait := true } }))) ∧
    (on → Does (.pwrEnAssert slot) s (· = s)) ∧
    (on → modState s ≠ 4 → Does (.lossOfInput low ms) s (fun t => cleared t ∧ keeps t ∧ boots 0 t ∧ t.boot.off = true ∧
      t.boot.lowIn = low ∧ t.hbm.mem = [] ∧ rd t pgSYS F.SYS_PREV.CAUSE = (if low then 3 else 2) ∧
      rd t pgSYS F.SYS_HOTPLUG_CNT.LOSSES = min (rd s pgSYS F.SYS_HOTPLUG_CNT.LOSSES + 1) (2 ^ 16 - 1) ∧ t.innk.buf = [] ∧
      ∃ r, r.cls = 2 ∧ r.code = 0x12 ∧ r.data = (if low then 3 else 2) + rd s pgSYS F.SYS_REMOVE.PHASE * 2 ^ 8 ∧
        r.seq = s.innk.logNext ∧ t.innk.log = s.innk.buf.foldl logWrite (logWrite s.innk.log r))) ∧
    (on → modState s = 4 → Does (.lossOfInput low ms) s (fun t => t.boot.off = true ∧ t.innk = s.innk ∧ t.hbm.mem = [] ∧ t.cores = [])) ∧
    (s.boot.off = true → Does (.lossOfInput low ms) s (· = s) ∧ Does (.ejectN fresh) s (· = s)) ∧
    (s.boot.off = true → s.boot.lowIn = true → Does .inputRestore s (fun t => powered t ∧ boots 1 t ∧ ups 0 t)) ∧
    (on ∨ s.boot.lowIn = false → Does .inputRestore s (· = s)) ∧
    (on → fresh = true → modState s ≠ 4 → ¬ removing → Does (.ejectN fresh) s (fun t => rd t pgSYS F.SYS_REMOVE.PEND = 1 ∧
      rd t pgSYS F.SYS_REMOVE.PHASE = 1 ∧ rd t pgSYS F.SYS_REMOVE.EJECT_IN = 1 ∧ t.cores = s.cores ∧ t.hbm = s.hbm ∧ t.jobs = s.jobs ∧
      (s.events.length < 256 → ∃ e ∈ t.events, e.code = 0x0D))) ∧
    (on → fresh = false ∨ modState s = 4 ∨ removing → Does (.ejectN fresh) s (fun t => rd t pgSYS F.SYS_REMOVE.EJECT_STUCK = 1 ∧
      rd t pgSYS F.SYS_REMOVE.PEND = rd s pgSYS F.SYS_REMOVE.PEND ∧ t.cores = s.cores ∧ t.hbm = s.hbm ∧ t.events = s.events ∧
      logged 0x11 (if fresh = false then (if modState s = 4 then 2 else 1) else if modState s = 4 then 4 else 3) t)) ∧
    (p4Goes → Does .p4Entry s (fun t => t.boot.p4 = true ∧ t.boot.p4Wait = false ∧ rdB t pgPWR F.PWR_MODSTATE.BUSY = true ∧
      rd t pgPWR F.PWR_MODSTATE.TARGET = 4 ∧ rd t pgSYS F.SYS_REMOVE.PHASE = if modState s = 3 then 3 else 2)) ∧
    (¬ p4Goes → p4 → Does .p4Entry s (fun t => modState t = 4 ∧ rd t pgPWR F.PWR_MODSTATE.BUSY = 0 ∧ t.hbm.mem = [] ∧ t.cores = [] ∧
      rd t pgSYS F.SYS_REMOVE.PHASE = 5 ∧ rd t pgSYS F.SYS_REMOVE.RTR = 1 ∧ t.innk.buf.length ≤ 4 ∧ t.boot.p4 = false ∧ rd t pgCLK F.CLK_STATE.LOCK = 0)) ∧
    (¬ p4Goes → ¬ p4 → Does .p4Entry s (· = s))

/-! ## Register pages (R9, R94, R98, R103, R149, R151, R177, R181, R184, R481, R488 to R495) -/

/-- R94, R98, R103, R149, R151, R177, R181, R184, R481, R488 to R495: the register commands. A write that a closed or reserved page
ignores is recorded; the commands of a page that name no source are the Innkeeper's own (SRC 3, the model's choice: log entry
54), and an RC read leaves zero, the lowest power its highest code (log entry 53). -/
def Obligations.RegisterCommands : Prop :=
  ∀ (s : State) (c : Fin 256) (h : Fin 64) (page : Fin 16384) (word : Fin 1024) (k : Fin 16) (d w : Fin 4) (b : Fin 2)
    (m8 : BitVec 8) (m16 : BitVec 16) (v v' : BitVec 32) (x : Bool) (src : Src), s.Inv →
    let n := c.val
    let p := page.val
    let off := 4 * word.val
    let closed (pg : Nat) : Prop := pageClosed s pg = true
    let recorded (pg o cause code : Nat) (t : State) : Prop := OnlyPages s t (fun y => y = pgSYS) ∧
      (rdB s pgSYS F.SYS_ACC.VALID = false → rd t pgSYS F.SYS_ACC.VALID = 1 ∧ rd t pgSYS F.SYS_ACC.PAGE = pg ∧
        rd t pgSYS F.SYS_ACC.WORD = o / 4 ∧ rd t pgSYS F.SYS_ACC.CAUSE = cause ∧ rd t pgSYS F.SYS_ACC.SRC = code) ∧
      (rdB s pgSYS F.SYS_ACC.VALID = true → rdW t pgSYS F.SYS_ACC.VALID.off = rdW s pgSYS F.SYS_ACC.VALID.off ∧
        rd t pgSYS F.SYS_ACC_CNT.COUNT = min (rd s pgSYS F.SYS_ACC_CNT.COUNT + 1) (2 ^ 32 - 1)) ∧
      ((rdW s pgSYS 0x14).testBit E.SYS.ACC_IGN = false → (rdW t pgSYS 0x10).testBit E.SYS.ACC_IGN = true)
    let service := coreState s n = stSERVICE
    let isOpen := coreOpen s n = true
    let only (pg : Nat) (t : State) : Prop := OnlyPages s t (fun y => y = pg)
    let ent := rd s (pgSEQ n) F.SEQ_IMEM_ADDR.BUNDLE
    let wd := rd s (pgSEQ n) F.SEQ_IMEM_ADDR.WORD
    let bundle (t : State) (i : Nat) : Nat := (tabGet 0 (core t n).imem i).toNat
    let moved (t : State) : Prop :=
      8 * rd t (pgSEQ n) F.SEQ_IMEM_ADDR.BUNDLE + rd t (pgSEQ n) F.SEQ_IMEM_ADDR.WORD
        = (8 * ent + wd + (if rdB s (pgSEQ n) F.SEQ_IMEM_ADDR.AINC then 1 else 0)) % 32768
    let lift := wr (updCore s n (fun y => { y with haltCtx := 0 })) (pgSEQ n) F.SEQ_CTRL.HALT 0
    let put : BitVec 256 := BitVec.ofNat 256 (natSetField (bundle s ent) (32 * wd) 32 v.toNat)
    let sem (t : State) (i : Nat) := rd1 t pgSYS F.SYS_SEM.FREE i
    let me := srcNum src
    (closed (pgSEQ n) → Does (.kat c) s (recorded (pgRNG n) 0x108 3 3) ∧ Does (.zero c) s (recorded (pgSPAD n) 0x100 3 3) ∧
      Does (.ledgerHbase c h v) s (recorded (pgLEDGER n) (0x800 + 0x20 * h.val) 3 3) ∧
      Does (.streamStop c m8) s (recorded (pgSTREAM n) 0x100 3 3) ∧ Does (.seqHalt c x) s (recorded (pgSEQ n) 0x100 3 3) ∧
      Does (.seqStep c) s (recorded (pgSEQ n) 0x100 3 3) ∧ Does (.seqImemData c (some v)) s (recorded (pgSEQ n) 0x12C 3 3) ∧
      Does (.seqImemData c none) s (· = s)) ∧
    (service → Does (.kat c) s (fun t => OnlyCorePages s t n (fun y => y = pgRNG n) ∧ rd t (pgRNG n) F.RNG_CTRL.KAT_BUSY = 1 ∧
        core t n = { core s n with katUntil := some (now s n + 16) }) ∧
      Does (.zero c) s (fun t => OnlyCore s t n ∧ core t n = { core s n with zeroUntil := some (now s n + 4112) })) ∧
    (¬ service → ¬ closed (pgSEQ n) → Does (.kat c) s (· = setErr s (pgRNG n) E.RNG.SVC_IGN) ∧
      Does (.zero c) s (· = setErr s (pgSPAD n) E.SPAD.SVC_IGN)) ∧
    ((core s n).zeroUntil ≠ none → Does (.zeroFillDone c) s (fun t => OnlyCore s t n ∧
      core t n = { core s n with spad := [], rowW := [], marks := [], zeroUntil := none })) ∧
    ((core s n).zeroUntil = none → Does (.zeroFillDone c) s (· = s)) ∧
    (isOpen → let mode := natField v.toNat 18 2
      let held := rd1 s (pgLEDGER n) F.LEDGER_HBASE.MODE h.val
      let bad := (mode = 1 ∧ ¬ service) ∨ (mode = 2 ∧ h.val ≠ 63)
      Does (.ledgerHbase c h v) s (fun t => only (pgLEDGER n) t ∧
        rd1 t (pgLEDGER n) F.LEDGER_HBASE.BASE h.val = natField v.toNat 0 17 ∧
        rd1 t (pgLEDGER n) F.LEDGER_HBASE.CLASS h.val = natField v.toNat 17 1 ∧
        (bad ∨ h.val = 63 → rd1 t (pgLEDGER n) F.LEDGER_HBASE.MODE h.val = held) ∧
        (¬ bad → h.val ≠ 63 → rd1 t (pgLEDGER n) F.LEDGER_HBASE.MODE h.val = mode))) ∧
    (isOpen → Does (.streamStop c m8) s (fun t => OnlyCore s t n ∧ core t n = { core s n with slots := (core t n).slots } ∧
      ∀ i < 8, let q := slotOf s n i
        slotOf t n i = if m8.getLsbD i = true ∧ q.st = .run then { q with st := if slotBusy (core s n) i then .stopping else .done }
          else q)) ∧
    (¬ isOpen → ¬ closed (pgSEQ n) → Does (.ledgerHbase c h v) s (· = setErr s (pgLEDGER n) E.LEDGER.BUSY_IGN) ∧
      Does (.streamStop c m8) s (· = setErr s (pgSTREAM n) E.STREAM.IMEM_IGN)) ∧
    (¬ closed (pgSEQ n) →
      Does (.seqHalt c x) s (fun t => only (pgSEQ n) t ∧ rdB t (pgSEQ n) F.SEQ_CTRL.HALT = x) ∧
      (level s < 2 ∨ seqHalted s n = false → Does (.seqStep c) s (· = s)) ∧
      (2 ≤ level s → seqHalted s n = true → SeqReady lift n → bundle s (core s n).pc = 0 →
        Does (.seqStep c) s (fun t => OnlyCorePages s t n (fun y => y = pgSEQ n) ∧ seqHalted t n = true ∧
          (core t n).pc = (nextBundle s n).1 ∧ (core t n).loops = (nextBundle s n).2 ∧ (core t n).lastIssueAt = now s n + 1)) ∧
      Does (.seqImemData c none) s (fun t => only (pgSEQ n) t ∧ moved t) ∧
      (isOpen → Does (.seqImemData c (some v)) s (fun t => OnlyCorePages s t n (fun y => y = pgSEQ n) ∧ moved t ∧
        core t n = { core s n with imem := tabPut 0 (core s n).imem ent put })) ∧
      (¬ isOpen → Does (.seqImemData c (some v)) s (fun t => only (pgSEQ n) t ∧ moved t ∧
        ((rdW s (pgSEQ n) 0x14).testBit E.SEQ.IMEM_IGN = false → (rdW t (pgSEQ n) 0x10).testBit E.SEQ.IMEM_IGN = true)))) ∧
    (pageBlk p = none → Does (.errClr page) s (recorded p 0x0C 4 3) ∧ Does (.cntClr page) s (recorded p 0x0C 4 3) ∧
      (src ≠ .fabric → Does (.registerWrite src page word v) s (recorded p off 4 (srcCode src)))) ∧
    (∀ blk i, pageBlk p = some (blk, i) →
      Does (.errClr page) s (fun t => only p t ∧ rdW t p 0x10 = 0 ∧ ∀ o < 4096, o / 4 ≠ 4 → rdW t p o = rdW s p o) ∧
      Does (.cntClr page) s (fun t => (∀ pg o, o < 4096 → pg ≠ p ∨ o < 0x100 → rdW t pg o = rdW s pg o) ∧
        (∀ o < 4096, 0x100 ≤ o → o % 4 = 0 → ∀ f ∈ fieldsAt blk o, f.cnt = true → natField (rdW t p o) f.lsb f.width = 0) ∧
        t.hbm = s.hbm ∧ t.cores = s.cores ∧ t.jobs = s.jobs ∧ t.fab = s.fab) ∧
      (off < 0x100 ∨ closed p → Does (.rcRead src page word) s (· = s) ∧ Does (.pairLoRead src page word) s (· = s)) ∧
      (0x100 ≤ off → ¬ closed p → blk ≠ .seq → blk ≠ .caravan → blk ≠ .therm → blk ≠ .sys →
        Does (.rcRead src page word) s (fun t => rdW t p off = (fieldsAt blk off).foldl (fun y f =>
            if f.ty = .rc then natSetField y f.lsb f.width (rcAfter f) else y) (rdW s p off) ∧
          (∀ pg o, o < 4096 → pg ≠ p ∨ o / 4 ≠ word.val → rdW t pg o = rdW s pg o) ∧
          t = { s with regs := t.regs, host := { s.host with latches := t.host.latches } })) ∧
      (0x100 ≤ off → ¬ closed p → isPairLo blk off = true → blk ≠ .seq → blk ≠ .caravan → blk ≠ .therm → blk ≠ .sys →
        let hi := BitVec.ofNat 32 (regView s p (off + 4))
        Does (.pairLoRead src page word) s (fun t => heldOf' t.host.latches me = some (me, p, off + 4, hi) ∧
          (∀ y, y ≠ me → heldOf' t.host.latches y = heldOf' s.host.latches y) ∧
          (isPairLo blk (off + 4) = false → pageClosed t p = false → (regRead t src p (off + 4)).1 = hi ∧
            heldOf' (regRead t src p (off + 4)).2.host.latches me = none))) ∧
      (0x100 ≤ off → ¬ closed p → writable blk off = true → isPairLo blk off = true → src ≠ .fabric →
        (srcCode src = 0 → rdB s p F.BLK_CTRL.HOST_WP = false) →
        Does (.pairLoWrite src page word v) s (fun t => t = { s with host := t.host } ∧
          t.host = { s.host with loHeld := t.host.loHeld } ∧ heldOf' t.host.loHeld me = some (me, p, off, v) ∧
          ∀ y, y ≠ me → heldOf' t.host.loHeld y = heldOf' s.host.loHeld y)) ∧
      (∀ q, src = .roce q → rdB s p F.BLK_CTRL.HOST_WP = true → Does (.registerWrite src page word v) s (recorded p off 2 0) ∧
        Does (.pairLoWrite src page word v) s (recorded p off 2 0)) ∧
      (src ≠ .fabric → (srcCode src = 0 → rdB s p F.BLK_CTRL.HOST_WP = false) →
        (word.val = 4 → Does (.registerWrite src page word v) s (fun t => only p t ∧
          rdW t p 0x10 = rdW s p 0x10 &&& (2 ^ 32 - 1 - v.toNat))) ∧
        (word.val = 5 ∨ word.val = 7 → Does (.registerWrite src page word v) s (fun t => only p t ∧ rdW t p off = v.toNat ∧
          ∀ o < 4096, o / 4 ≠ word.val → rdW t p o = rdW s p o)) ∧
        (word.val = 3 → v.toNat % 4 = 0 → secLocked s = false → Does (.registerWrite src page word v) s (fun t => only p t ∧
          rd t p F.BLK_CTRL.HOST_WP = natField v.toNat 4 1)) ∧
        (word.val = 3 → v.toNat % 4 = 0 → secLocked s = true → natField v.toNat 4 1 ≠ rd s p F.BLK_CTRL.HOST_WP →
          Does (.registerWrite src page word v) s (recorded p off 1 (srcCode src))) ∧
        (0x100 ≤ off → writable blk off = true → closed p →
          Does (.registerWrite src page word v) s (recorded p off 3 (srcCode src))) ∧
        (0x100 ≤ off → writable blk off = false → Does (.registerWrite src page word v) s (· = s)))) ∧
    Does (.registerWrite .fabric page word v) s (· = s) ∧
    (¬ closed pgJOB → src ≠ .fabric → (srcCode src = 0 → rdB s pgJOB F.BLK_CTRL.HOST_WP = false) →
      Does (.jobStepnum src b false v) s (fun t => t.regs = s.regs ∧
        heldOf' t.host.loHeld me = some (me, pgJOB, 0x10C + 0x80 * b.val, v)) ∧
      (heldOf' s.host.loHeld me = some (me, pgJOB, 0x10C + 0x80 * b.val, v') →
        Does (.jobStepnum src b true v) s (fun t => rd1 t pgJOB F.JOB_STEPNUM_LO.NUM b.val = v'.toNat ∧
          rd1 t pgJOB F.JOB_STEPNUM_HI.NUM b.val = v.toNat ∧ heldOf' t.host.loHeld me = none ∧ t.cores = s.cores ∧ t.hbm = s.hbm)) ∧
      (heldOf' s.host.loHeld me = none → Does (.jobStepnum src b true v) s (fun t => only pgJOB t ∧
        rd1 t pgJOB F.JOB_STEPNUM_HI.NUM b.val = v.toNat ∧ rd1 t pgJOB F.JOB_STEPNUM_LO.NUM b.val = rd1 s pgJOB F.JOB_STEPNUM_LO.NUM b.val))) ∧
    (¬ closed pgSYS →
      Does (.sysSem k) s (fun t => only pgSYS t ∧ sem t k.val = 0 ∧ ∀ i < 16, i ≠ k.val → sem t i = sem s i) ∧
      Does (.sysSemRel m16) s (fun t => (∀ i < 16, sem t i = if m16.getLsbD i then 1 else sem s i) ∧
        t = { s with regs := t.regs, innk := t.innk } ∧
        t.innk = { s.innk with semHeld := s.innk.semHeld && !m16.getLsbD 0 })) ∧
    (let waited := s.innk.semWaitAt ≠ 0 ∧ s.innk.semWaitAt + 3250000 ≤ s.esc + 1 ∧ innkRuns s = true
     (waited → Does .semBreak s (fun t => sem t 0 = 0 ∧ t = { s with regs := t.regs, innk := t.innk } ∧
       t.innk = { s.innk with semHeld := true, semWaitAt := 0 } ∧
       ((rdW s pgSYS 0x14).testBit E.SYS.SEM_BREAK = false → (rdW t pgSYS 0x10).testBit E.SYS.SEM_BREAK = true))) ∧
     (¬ waited → Does .semBreak s (· = s))) ∧
    (¬ closed (pgNOC d.val) → Does (.nocHazHitClear d w) s (fun t => only (pgNOC d.val) t ∧
      rd1 t (pgNOC d.val) F.NOC_HAZ_CTRL.HIT w.val = 0))

/-! ## Interrupts and pins (R496, R497) -/

/-- R496: the interrupt summaries of the SYS page: the bit of a hub page in SYS_INT_HUB (in the order of SYS_READY_HUB), those of a
die's pages, channels and cores, and the summary of them all, are set exactly while their sources are. -/
def Obligations.InterruptSummaries : Prop :=
  ∀ s : State, pageClosed s pgSYS = false →
    let word (off : Nat) : Nat := regView s pgSYS off
    let on (p : Nat) : Prop := intStatus s p ≠ 0
    let hub : List Nat := [pgSYS, pgJOB, pgCMDQ, 4, 5, 6, 7, pgROCE] ++ (List.range 16).map pgPORT ++
      [pgRTR, pgCAR, pgSEC, pgINNK, pgCLK, pgPWR, pgTHERM]
    (∀ i < 31, (word 0x214).testBit i = true ↔ on (hub.getD i 0)) ∧
    (∀ d < 4, let w := word (0x218 + 4 * d)
      (w.testBit 0 = true ↔ on (pgSTEWARD d)) ∧ (w.testBit 1 = true ↔ on (pgNOC d)) ∧ (w.testBit 2 = true ↔ on (pgBRIDGE d)) ∧
      (∀ j < 8, w.testBit (3 + j) = true ↔ on (pgSTK (8 * d + j))) ∧
      (w.testBit 11 = true ↔ ∃ k < 128, on (pgCH (128 * d + k))) ∧
      (w.testBit 12 = true ↔ ∃ n < 64, ∃ k < 8, on (pgCore (64 * d + n) k))) ∧
    (∀ n < 256, (word (0x228 + 4 * (n / 32))).testBit (n % 32) = true ↔ ∃ k < 8, on (pgCore n k)) ∧
    (∀ n < 512, (word (0x248 + 4 * (n / 32))).testBit (n % 32) = true ↔ on (pgCH n)) ∧
    ((word 0x210).testBit 0 = true ↔ word 0x214 ≠ 0) ∧
    (∀ d < 4, (word 0x210).testBit (1 + d) = true ↔ word (0x218 + 4 * d) ≠ 0) ∧
    ((word 0x210).testBit 5 = true ↔ ∃ p < 16384, pageBlk p ≠ none ∧ on p)

/-- R497: ALERT_N, as SYS_PINS shows it (0 asserted), is asserted exactly while SYS_ALERT.EN and SYS_INT_SUMMARY.ANY are 1, and
FAULT_LED_N exactly while SYS_ALERT.LED is 1 or a thermal trip holds it. -/
def Obligations.AlertAndFaultPins : Prop :=
  ∀ s : State, pageClosed s pgSYS = false →
    ((regView s pgSYS 0x1B4).testBit 17 = false ↔
      rdB s pgSYS F.SYS_ALERT.EN = true ∧ (regView s pgSYS 0x210).testBit 5 = true) ∧
    ((regView s pgSYS 0x1B4).testBit 18 = false ↔ rdB s pgSYS F.SYS_ALERT.LED = true ∨ s.pow.trip = true)
end

