-- ==== Sys2Proof/Laws/SMap.lean ====
section
/-!
SUPPORT. What the sparse tables do: reading after writing, and that every operation keeps the canonical form.
-/
namespace Sys2Proof.Machine

variable {α : Type} [DecidableEq α]

/-- A key below every key of a table reads as the default. -/
theorem smGet_below (d : Nat → α) (m : SMap α) (lo k : Nat) (h : smWfFrom d lo m = true) (hk : k < lo) :
    smGet d m k = d k := by
  cases m with
  | nil => rfl
  | cons e r =>
    obtain ⟨j, v⟩ := e
    simp only [smWfFrom, Bool.and_eq_true, decide_eq_true_eq] at h
    have : k < j := by omega
    simp [smGet, this]

/-- The form from a bound holds from every lower one. -/
theorem smWfFrom_mono (d : Nat → α) (m : SMap α) (lo hi : Nat) (hl : lo ≤ hi) (h : smWfFrom d hi m = true) :
    smWfFrom d lo m = true := by
  cases m with
  | nil => rfl
  | cons e r =>
    obtain ⟨j, v⟩ := e
    simp only [smWfFrom, Bool.and_eq_true, decide_eq_true_eq] at h ⊢
    exact ⟨⟨by omega, h.1.2⟩, h.2⟩

/-- Writing keeps the canonical form above a bound that the key does not go below. -/
theorem smPut_wfFrom (d : Nat → α) (m : SMap α) (lo k : Nat) (v : α) (hk : lo ≤ k) (h : smWfFrom d lo m = true) :
    smWfFrom d lo (smPut d m k v) = true := by
  induction m generalizing lo with
  | nil =>
    simp only [smPut]
    split
    · rfl
    · simp [smWfFrom, hk, *]
  | cons e r ih =>
    obtain ⟨j, w⟩ := e
    simp only [smWfFrom, Bool.and_eq_true, decide_eq_true_eq] at h
    obtain ⟨⟨h1, h2⟩, h3⟩ := h
    simp only [smPut]
    split
    · split
      · simp [smWfFrom, *]
      · simp only [smWfFrom, Bool.and_eq_true, decide_eq_true_eq]
        exact ⟨⟨hk, by assumption⟩, ⟨by omega, h2⟩, h3⟩
    · split
      · split
        · exact smWfFrom_mono d r lo (j + 1) (by omega) h3
        · subst_vars
          simp [smWfFrom, *]
      · simp only [smWfFrom, Bool.and_eq_true, decide_eq_true_eq]
        exact ⟨⟨h1, h2⟩, ih (j + 1) (by omega) h3⟩

/-- Writing keeps the canonical form. -/
theorem smPut_wf (d : Nat → α) (m : SMap α) (k : Nat) (v : α) (h : smWf d m = true) : smWf d (smPut d m k v) = true :=
  smPut_wfFrom d m 0 k v (Nat.zero_le k) h

/-- A key reads as what was last written to it. -/
theorem smGet_put_same (d : Nat → α) (m : SMap α) (k : Nat) (v : α) (h : smWf d m = true) :
    smGet d (smPut d m k v) k = v := by
  suffices H : ∀ lo, smWfFrom d lo m = true → smGet d (smPut d m k v) k = v from H 0 h
  clear h
  induction m with
  | nil =>
    intro lo _
    simp only [smPut]
    split <;> simp_all [smGet]
  | cons e r ih =>
    obtain ⟨j, w⟩ := e
    intro lo h
    simp only [smWfFrom, Bool.and_eq_true, decide_eq_true_eq] at h
    simp only [smPut]
    split
    · split
      · simp_all [smGet]
      · simp [smGet]
    · split
      · split
        · subst_vars
          have := smGet_below d r (j + 1) j h.2 (by omega)
          simp_all
        · simp [smGet]
      · simp only [smGet]
        have h1 : ¬ k < j := by assumption
        have h2 : ¬ j = k := by assumption
        simp only [h1, h2, if_false]
        exact ih (j + 1) h.2

/-- Every other key reads as before. -/
theorem smGet_put_other (d : Nat → α) (m : SMap α) (k k' : Nat) (v : α) (h : smWf d m = true) (hk : k' ≠ k) :
    smGet d (smPut d m k v) k' = smGet d m k' := by
  suffices H : ∀ lo, smWfFrom d lo m = true → smGet d (smPut d m k v) k' = smGet d m k' from H 0 h
  clear h
  induction m with
  | nil =>
    intro lo _
    simp only [smPut]
    split
    · rfl
    · simp only [smGet]
      split
      · rfl
      · simp [Ne.symm hk]
  | cons e r ih =>
    obtain ⟨j, w⟩ := e
    intro lo h
    simp only [smWfFrom, Bool.and_eq_true, decide_eq_true_eq] at h
    simp only [smPut]
    split
    · split
      · rfl
      · have hkj : k < j := by assumption
        simp only [smGet]
        split
        · have : k' < j := by omega
          simp [this]
        · simp [Ne.symm hk]
    · split
      · subst_vars
        split
        · simp only [smGet]
          split
          · have := smGet_below d r (j + 1) k' h.2 (by omega)
            simp [this]
          · simp [Ne.symm hk]
        · simp only [smGet]
          split
          · rfl
          · simp [Ne.symm hk]
      · simp only [smGet]
        split
        · rfl
        · split
          · rfl
          · exact ih (j + 1) h.2

/-- Filtering keeps the form above any bound. -/
theorem smWfFrom_filter (d : Nat → α) (p : Nat × α → Bool) (m : SMap α) (lo : Nat) (h : smWfFrom d lo m = true) :
    smWfFrom d lo (m.filter p) = true := by
  induction m generalizing lo with
  | nil => rfl
  | cons e r ih =>
    obtain ⟨j, v⟩ := e
    simp only [smWfFrom, Bool.and_eq_true, decide_eq_true_eq] at h
    simp only [List.filter]
    split
    · simp only [smWfFrom, Bool.and_eq_true, decide_eq_true_eq]
      exact ⟨h.1, ih (j + 1) h.2⟩
    · exact smWfFrom_mono d _ lo (j + 1) (by omega) (ih (j + 1) h.2)

/-- Dropping keys keeps the canonical form. -/
theorem tabDrop_wf (d : Nat → α) (p : Nat → Bool) (m : SMap α) (h : smWf d m = true) : smWf d (tabDrop p m) = true :=
  smWfFrom_filter d _ m 0 h

/-- A dropped key reads as the default and every other key as before. -/
theorem smGet_drop (d : Nat → α) (p : Nat → Bool) (m : SMap α) (k : Nat) (h : smWf d m = true) :
    smGet d (tabDrop p m) k = if p k then d k else smGet d m k := by
  suffices H : ∀ lo, smWfFrom d lo m = true → smGet d (tabDrop p m) k = if p k then d k else smGet d m k from H 0 h
  clear h
  induction m with
  | nil => intro lo _; simp [tabDrop, smGet]
  | cons e r ih =>
    obtain ⟨j, v⟩ := e
    intro lo h
    simp only [smWfFrom, Bool.and_eq_true, decide_eq_true_eq] at h
    have hr := ih (j + 1) h.2
    simp only [tabDrop] at hr ⊢
    simp only [List.filter]
    by_cases hpj : p j = true
    · simp only [hpj, Bool.not_true]
      rw [hr]
      by_cases hk : p k = true
      · simp [hk]
      · have hne : ¬ j = k := by rintro rfl; exact hk hpj
        simp only [hk, smGet, hne, if_false]
        by_cases hlt : k < j
        · simp [hlt, smGet_below d r (j + 1) k h.2 (by omega)]
        · simp [hlt]
    · simp only [hpj, Bool.not_false, smGet]
      by_cases hlt : k < j
      · simp [hlt]
      · by_cases he : j = k
        · subst he
          simp [hpj]
        · simp [hlt, he, hr]

theorem tabPut_wf (d : α) (m : SMap α) (k : Nat) (v : α) (h : smWf (fun _ => d) m = true) :
    smWf (fun _ => d) (tabPut d m k v) = true := smPut_wf _ m k v h

theorem tabGet_put_same (d : α) (m : SMap α) (k : Nat) (v : α) (h : smWf (fun _ => d) m = true) :
    tabGet d (tabPut d m k v) k = v := smGet_put_same _ m k v h

theorem tabGet_put_other (d : α) (m : SMap α) (k k' : Nat) (v : α) (h : smWf (fun _ => d) m = true) (hk : k' ≠ k) :
    tabGet d (tabPut d m k v) k' = tabGet d m k' := smGet_put_other _ m k k' v h hk

/-! ## Byte memory -/

theorem memPut_wf (m : Memory) (a : Nat) (v : Byte) (h : m.wf = true) : Memory.wf (memPut m a v) = true :=
  smPut_wf _ m a v h

theorem memWrite_wf (bs : List Byte) : ∀ (m : Memory) (a : Nat), m.wf = true → Memory.wf (memWrite m a bs) = true := by
  induction bs with
  | nil => intro m a h; exact h
  | cons b r ih => intro m a h; exact ih _ _ (memPut_wf m a b h)

theorem memDrop_wf (p : Nat → Bool) (m : Memory) (h : m.wf = true) : Memory.wf (tabDrop p m) = true :=
  tabDrop_wf _ p m h

/-- A byte outside the bytes written reads as before. -/
theorem memByte_write_other (bs : List Byte) : ∀ (m : Memory) (a b : Nat), m.wf = true →
    (b < a ∨ a + bs.length ≤ b) → memByte (memWrite m a bs) b = memByte m b := by
  induction bs with
  | nil => intro m a b _ _; rfl
  | cons x r ih =>
    intro m a b h hb
    simp only [List.length_cons] at hb
    have h1 := memPut_wf m a x h
    rw [memWrite, ih _ _ _ h1 (by omega)]
    exact tabGet_put_other memEmpty m a b x h (by omega)

/-- A byte inside the bytes written reads as written. -/
theorem memByte_write_same (bs : List Byte) : ∀ (m : Memory) (a i : Nat), m.wf = true → (hi : i < bs.length) →
    memByte (memWrite m a bs) (a + i) = bs[i] := by
  induction bs with
  | nil => intro m a i _ hi; simp at hi
  | cons x r ih =>
    intro m a i h hi
    have h1 := memPut_wf m a x h
    cases i with
    | zero =>
      rw [memWrite, Nat.add_zero, memByte_write_other r _ _ _ h1 (by omega)]
      exact tabGet_put_same memEmpty m a x h
    | succ i =>
      have := ih (memPut m a x) (a + 1) i h1 (by simpa using hi)
      simpa [memWrite, Nat.add_assoc, Nat.add_comm 1 i] using this

/-- Bytes read back as written. -/
theorem memRead_write (bs : List Byte) : ∀ (m : Memory) (a : Nat), m.wf = true →
    memRead (memWrite m a bs) a bs.length = bs := by
  induction bs with
  | nil => intro m a _; rfl
  | cons x r ih =>
    intro m a h
    have h1 := memPut_wf m a x h
    simp only [List.length_cons, memRead, memWrite]
    rw [memByte_write_other r _ _ _ h1 (by omega), ih _ _ h1]
    congr 1
    exact tabGet_put_same memEmpty m a x h

end Sys2Proof.Machine
end

