-- ==== Sys2Proof/Laws/Bytes.lean ====
section
/-!
SUPPORT. Bytes and numbers: a number survives its bytes, a field of whole bytes is those bytes, ranges of memory join, and
CRC-32C is a 32-bit number.
-/
namespace Sys2Proof.Machine

theorem natToBytes_length (n v : Nat) : (natToBytes n v).length = n := by
  induction n generalizing v with
  | zero => rfl
  | succ n ih => simp [natToBytes, ih]

theorem bytesToNat_lt (bs : List Byte) : bytesToNat bs < 256 ^ bs.length := by
  induction bs with
  | nil => simp [bytesToNat]
  | cons b r ih =>
    have := b.isLt
    simp only [bytesToNat, List.length_cons, Nat.pow_succ]
    omega

/-- The bytes of a number give back its low part. -/
theorem bytesToNat_natToBytes (n v : Nat) : bytesToNat (natToBytes n v) = v % 256 ^ n := by
  induction n generalizing v with
  | zero => simp [natToBytes, bytesToNat, Nat.mod_one]
  | succ n ih =>
    simp only [natToBytes, bytesToNat, ih, BitVec.toNat_ofNat, Nat.pow_succ]
    have := Nat.mod_mul (x := v) (a := 256) (b := 256 ^ n)
    rw [Nat.mul_comm (256 ^ n) 256, this]

theorem bytesToNat_append (a b : List Byte) : bytesToNat (a ++ b) = bytesToNat a + 256 ^ a.length * bytesToNat b := by
  induction a with
  | nil => simp [bytesToNat]
  | cons x r ih =>
    simp only [List.cons_append, bytesToNat, ih, List.length_cons, Nat.pow_succ]
    rw [Nat.mul_add, Nat.mul_comm (256 ^ r.length) 256, Nat.mul_assoc]
    omega

/-- Whole bytes of a number are those bytes. -/
theorem bytesToNat_slice (bs : List Byte) (o n : Nat) (h : o + n ≤ bs.length) :
    bytesToNat bs / 256 ^ o % 256 ^ n = bytesToNat ((bs.drop o).take n) := by
  have hs : bs = bs.take o ++ ((bs.drop o).take n ++ (bs.drop o).drop n) := by
    rw [List.take_append_drop, List.take_append_drop]
  have ha : (bs.take o).length = o := by simp; omega
  have hb : ((bs.drop o).take n).length = n := by simp; omega
  conv => lhs; rw [hs]
  rw [bytesToNat_append, bytesToNat_append, ha, hb]
  have l1 := bytesToNat_lt (bs.take o)
  have l2 := bytesToNat_lt ((bs.drop o).take n)
  rw [ha] at l1
  rw [hb] at l2
  have p : 0 < 256 ^ o := Nat.pow_pos (by omega)
  rw [Nat.add_mul_div_left _ _ p, Nat.div_eq_of_lt l1, Nat.zero_add, Nat.add_mul_mod_self_left, Nat.mod_eq_of_lt l2]

/-- A field of whole bytes of a number read from bytes is those bytes. -/
theorem natField_bytes (bs : List Byte) (o n : Nat) (h : o + n ≤ bs.length) :
    natField (bytesToNat bs) (8 * o) (8 * n) = bytesToNat ((bs.drop o).take n) := by
  rw [natField, Nat.shiftRight_eq_div_pow, Nat.pow_mul, Nat.pow_mul]
  exact bytesToNat_slice bs o n h

theorem crcShift_lt (n r : Nat) (h : r < 2 ^ 32) : crcShift n r < 2 ^ 32 := by
  induction n generalizing r with
  | zero => exact h
  | succ n ih =>
    simp only [crcShift]
    split
    · exact ih _ (Nat.xor_lt_two_pow (by omega) (by decide))
    · exact ih _ (by omega)

theorem crcRun_lt (bs : List Byte) (r : Nat) (h : r < 2 ^ 32) : crcRun r bs < 2 ^ 32 := by
  induction bs generalizing r with
  | nil => exact h
  | cons b t ih =>
    have := b.isLt
    exact ih _ (crcShift_lt 8 _ (Nat.xor_lt_two_pow h (by omega)))

/-- A CRC has 32 bits. -/
theorem crc32c_lt (bs : List Byte) : crc32c bs < 2 ^ 32 :=
  Nat.xor_lt_two_pow (crcRun_lt bs _ (by decide)) (by decide)

theorem memRead_length (m : Memory) (a n : Nat) : (memRead m a n).length = n := by
  induction n generalizing a with
  | zero => rfl
  | succ n ih => simp [memRead, ih]

/-- Two ranges in a row are one. -/
theorem memRead_append (m : Memory) (a j n : Nat) : memRead m a j ++ memRead m (a + j) n = memRead m a (j + n) := by
  induction j generalizing a with
  | zero => simp [memRead]
  | succ j ih =>
    have := ih (a + 1)
    simp only [memRead, List.cons_append, Nat.succ_add]
    rw [show a + (j + 1) = a + 1 + j by omega, this]

theorem memRead_drop (m : Memory) (a j n : Nat) : (memRead m a (j + n)).drop j = memRead m (a + j) n := by
  rw [← memRead_append, List.drop_append_of_le_length (by simp [memRead_length]), List.drop_eq_nil_of_le (by simp [memRead_length]),
    List.nil_append]

theorem memRead_take (m : Memory) (a j n : Nat) : (memRead m a (j + n)).take j = memRead m a j := by
  rw [← memRead_append, List.take_append_of_le_length (by simp [memRead_length]), List.take_of_length_le (by simp [memRead_length])]

/-- Memories that agree on a range read the same there. -/
theorem memRead_congr (m m' : Memory) (a n : Nat) (h : ∀ x, a ≤ x → x < a + n → memByte m x = memByte m' x) :
    memRead m a n = memRead m' a n := by
  induction n generalizing a with
  | zero => rfl
  | succ n ih =>
    simp only [memRead]
    rw [h a (Nat.le_refl a) (by omega), ih (a + 1) (fun x h1 h2 => h x (by omega) (by omega))]

end Sys2Proof.Machine
end

