-- ==== Sys2Proof/Laws/State.lean ====
section
/-!
SUPPORT. The fields of State after each primitive update: everything an update does not touch is as before, true by
computation, so that no proof unfolds a record update.
-/
namespace Sys2Proof.Machine


/-! wrW -/

@[simp] theorem wrW_pending (s : State) (page off v : Nat) : (wrW s page off v).pending = s.pending := rfl
@[simp] theorem wrW_cores (s : State) (page off v : Nat) : (wrW s page off v).cores = s.cores := rfl
@[simp] theorem wrW_dieCyc (s : State) (page off v : Nat) : (wrW s page off v).dieCyc = s.dieCyc := rfl
@[simp] theorem wrW_esc (s : State) (page off v : Nat) : (wrW s page off v).esc = s.esc := rfl
@[simp] theorem wrW_hbm (s : State) (page off v : Nat) : (wrW s page off v).hbm = s.hbm := rfl
@[simp] theorem wrW_grants (s : State) (page off v : Nat) : (wrW s page off v).grants = s.grants := rfl
@[simp] theorem wrW_fab (s : State) (page off v : Nat) : (wrW s page off v).fab = s.fab := rfl
@[simp] theorem wrW_jobs (s : State) (page off v : Nat) : (wrW s page off v).jobs = s.jobs := rfl
@[simp] theorem wrW_jobNum (s : State) (page off v : Nat) : (wrW s page off v).jobNum = s.jobNum := rfl
@[simp] theorem wrW_car (s : State) (page off v : Nat) : (wrW s page off v).car = s.car := rfl
@[simp] theorem wrW_host (s : State) (page off v : Nat) : (wrW s page off v).host = s.host := rfl
@[simp] theorem wrW_pow (s : State) (page off v : Nat) : (wrW s page off v).pow = s.pow := rfl
@[simp] theorem wrW_innk (s : State) (page off v : Nat) : (wrW s page off v).innk = s.innk := rfl
@[simp] theorem wrW_psp (s : State) (page off v : Nat) : (wrW s page off v).psp = s.psp := rfl
@[simp] theorem wrW_boot (s : State) (page off v : Nat) : (wrW s page off v).boot = s.boot := rfl
@[simp] theorem wrW_tick (s : State) (page off v : Nat) : (wrW s page off v).tick = s.tick := rfl
@[simp] theorem wrW_faults (s : State) (page off v : Nat) : (wrW s page off v).faults = s.faults := rfl
@[simp] theorem wrW_events (s : State) (page off v : Nat) : (wrW s page off v).events = s.events := rfl
@[simp] theorem wrW_free (s : State) (page off v : Nat) : (wrW s page off v).free = s.free := rfl

/-! wr2 -/

@[simp] theorem wr2_pending (s : State) (page : Nat) (f : Fld) (i j v : Nat) : (wr2 s page f i j v).pending = s.pending := rfl
@[simp] theorem wr2_cores (s : State) (page : Nat) (f : Fld) (i j v : Nat) : (wr2 s page f i j v).cores = s.cores := rfl
@[simp] theorem wr2_dieCyc (s : State) (page : Nat) (f : Fld) (i j v : Nat) : (wr2 s page f i j v).dieCyc = s.dieCyc := rfl
@[simp] theorem wr2_esc (s : State) (page : Nat) (f : Fld) (i j v : Nat) : (wr2 s page f i j v).esc = s.esc := rfl
@[simp] theorem wr2_hbm (s : State) (page : Nat) (f : Fld) (i j v : Nat) : (wr2 s page f i j v).hbm = s.hbm := rfl
@[simp] theorem wr2_grants (s : State) (page : Nat) (f : Fld) (i j v : Nat) : (wr2 s page f i j v).grants = s.grants := rfl
@[simp] theorem wr2_fab (s : State) (page : Nat) (f : Fld) (i j v : Nat) : (wr2 s page f i j v).fab = s.fab := rfl
@[simp] theorem wr2_jobs (s : State) (page : Nat) (f : Fld) (i j v : Nat) : (wr2 s page f i j v).jobs = s.jobs := rfl
@[simp] theorem wr2_jobNum (s : State) (page : Nat) (f : Fld) (i j v : Nat) : (wr2 s page f i j v).jobNum = s.jobNum := rfl
@[simp] theorem wr2_car (s : State) (page : Nat) (f : Fld) (i j v : Nat) : (wr2 s page f i j v).car = s.car := rfl
@[simp] theorem wr2_host (s : State) (page : Nat) (f : Fld) (i j v : Nat) : (wr2 s page f i j v).host = s.host := rfl
@[simp] theorem wr2_pow (s : State) (page : Nat) (f : Fld) (i j v : Nat) : (wr2 s page f i j v).pow = s.pow := rfl
@[simp] theorem wr2_innk (s : State) (page : Nat) (f : Fld) (i j v : Nat) : (wr2 s page f i j v).innk = s.innk := rfl
@[simp] theorem wr2_psp (s : State) (page : Nat) (f : Fld) (i j v : Nat) : (wr2 s page f i j v).psp = s.psp := rfl
@[simp] theorem wr2_boot (s : State) (page : Nat) (f : Fld) (i j v : Nat) : (wr2 s page f i j v).boot = s.boot := rfl
@[simp] theorem wr2_tick (s : State) (page : Nat) (f : Fld) (i j v : Nat) : (wr2 s page f i j v).tick = s.tick := rfl
@[simp] theorem wr2_faults (s : State) (page : Nat) (f : Fld) (i j v : Nat) : (wr2 s page f i j v).faults = s.faults := rfl
@[simp] theorem wr2_events (s : State) (page : Nat) (f : Fld) (i j v : Nat) : (wr2 s page f i j v).events = s.events := rfl
@[simp] theorem wr2_free (s : State) (page : Nat) (f : Fld) (i j v : Nat) : (wr2 s page f i j v).free = s.free := rfl

/-! wr1 -/

@[simp] theorem wr1_pending (s : State) (page : Nat) (f : Fld) (i v : Nat) : (wr1 s page f i v).pending = s.pending := rfl
@[simp] theorem wr1_cores (s : State) (page : Nat) (f : Fld) (i v : Nat) : (wr1 s page f i v).cores = s.cores := rfl
@[simp] theorem wr1_dieCyc (s : State) (page : Nat) (f : Fld) (i v : Nat) : (wr1 s page f i v).dieCyc = s.dieCyc := rfl
@[simp] theorem wr1_esc (s : State) (page : Nat) (f : Fld) (i v : Nat) : (wr1 s page f i v).esc = s.esc := rfl
@[simp] theorem wr1_hbm (s : State) (page : Nat) (f : Fld) (i v : Nat) : (wr1 s page f i v).hbm = s.hbm := rfl
@[simp] theorem wr1_grants (s : State) (page : Nat) (f : Fld) (i v : Nat) : (wr1 s page f i v).grants = s.grants := rfl
@[simp] theorem wr1_fab (s : State) (page : Nat) (f : Fld) (i v : Nat) : (wr1 s page f i v).fab = s.fab := rfl
@[simp] theorem wr1_jobs (s : State) (page : Nat) (f : Fld) (i v : Nat) : (wr1 s page f i v).jobs = s.jobs := rfl
@[simp] theorem wr1_jobNum (s : State) (page : Nat) (f : Fld) (i v : Nat) : (wr1 s page f i v).jobNum = s.jobNum := rfl
@[simp] theorem wr1_car (s : State) (page : Nat) (f : Fld) (i v : Nat) : (wr1 s page f i v).car = s.car := rfl
@[simp] theorem wr1_host (s : State) (page : Nat) (f : Fld) (i v : Nat) : (wr1 s page f i v).host = s.host := rfl
@[simp] theorem wr1_pow (s : State) (page : Nat) (f : Fld) (i v : Nat) : (wr1 s page f i v).pow = s.pow := rfl
@[simp] theorem wr1_innk (s : State) (page : Nat) (f : Fld) (i v : Nat) : (wr1 s page f i v).innk = s.innk := rfl
@[simp] theorem wr1_psp (s : State) (page : Nat) (f : Fld) (i v : Nat) : (wr1 s page f i v).psp = s.psp := rfl
@[simp] theorem wr1_boot (s : State) (page : Nat) (f : Fld) (i v : Nat) : (wr1 s page f i v).boot = s.boot := rfl
@[simp] theorem wr1_tick (s : State) (page : Nat) (f : Fld) (i v : Nat) : (wr1 s page f i v).tick = s.tick := rfl
@[simp] theorem wr1_faults (s : State) (page : Nat) (f : Fld) (i v : Nat) : (wr1 s page f i v).faults = s.faults := rfl
@[simp] theorem wr1_events (s : State) (page : Nat) (f : Fld) (i v : Nat) : (wr1 s page f i v).events = s.events := rfl
@[simp] theorem wr1_free (s : State) (page : Nat) (f : Fld) (i v : Nat) : (wr1 s page f i v).free = s.free := rfl

/-! wr -/

@[simp] theorem wr_pending (s : State) (page : Nat) (f : Fld) (v : Nat) : (wr s page f v).pending = s.pending := rfl
@[simp] theorem wr_cores (s : State) (page : Nat) (f : Fld) (v : Nat) : (wr s page f v).cores = s.cores := rfl
@[simp] theorem wr_dieCyc (s : State) (page : Nat) (f : Fld) (v : Nat) : (wr s page f v).dieCyc = s.dieCyc := rfl
@[simp] theorem wr_esc (s : State) (page : Nat) (f : Fld) (v : Nat) : (wr s page f v).esc = s.esc := rfl
@[simp] theorem wr_hbm (s : State) (page : Nat) (f : Fld) (v : Nat) : (wr s page f v).hbm = s.hbm := rfl
@[simp] theorem wr_grants (s : State) (page : Nat) (f : Fld) (v : Nat) : (wr s page f v).grants = s.grants := rfl
@[simp] theorem wr_fab (s : State) (page : Nat) (f : Fld) (v : Nat) : (wr s page f v).fab = s.fab := rfl
@[simp] theorem wr_jobs (s : State) (page : Nat) (f : Fld) (v : Nat) : (wr s page f v).jobs = s.jobs := rfl
@[simp] theorem wr_jobNum (s : State) (page : Nat) (f : Fld) (v : Nat) : (wr s page f v).jobNum = s.jobNum := rfl
@[simp] theorem wr_car (s : State) (page : Nat) (f : Fld) (v : Nat) : (wr s page f v).car = s.car := rfl
@[simp] theorem wr_host (s : State) (page : Nat) (f : Fld) (v : Nat) : (wr s page f v).host = s.host := rfl
@[simp] theorem wr_pow (s : State) (page : Nat) (f : Fld) (v : Nat) : (wr s page f v).pow = s.pow := rfl
@[simp] theorem wr_innk (s : State) (page : Nat) (f : Fld) (v : Nat) : (wr s page f v).innk = s.innk := rfl
@[simp] theorem wr_psp (s : State) (page : Nat) (f : Fld) (v : Nat) : (wr s page f v).psp = s.psp := rfl
@[simp] theorem wr_boot (s : State) (page : Nat) (f : Fld) (v : Nat) : (wr s page f v).boot = s.boot := rfl
@[simp] theorem wr_tick (s : State) (page : Nat) (f : Fld) (v : Nat) : (wr s page f v).tick = s.tick := rfl
@[simp] theorem wr_faults (s : State) (page : Nat) (f : Fld) (v : Nat) : (wr s page f v).faults = s.faults := rfl
@[simp] theorem wr_events (s : State) (page : Nat) (f : Fld) (v : Nat) : (wr s page f v).events = s.events := rfl
@[simp] theorem wr_free (s : State) (page : Nat) (f : Fld) (v : Nat) : (wr s page f v).free = s.free := rfl

/-! wr64 -/

@[simp] theorem wr64_pending (s : State) (page : Nat) (lo hi : Fld) (i v : Nat) : (wr64 s page lo hi i v).pending = s.pending := rfl
@[simp] theorem wr64_cores (s : State) (page : Nat) (lo hi : Fld) (i v : Nat) : (wr64 s page lo hi i v).cores = s.cores := rfl
@[simp] theorem wr64_dieCyc (s : State) (page : Nat) (lo hi : Fld) (i v : Nat) : (wr64 s page lo hi i v).dieCyc = s.dieCyc := rfl
@[simp] theorem wr64_esc (s : State) (page : Nat) (lo hi : Fld) (i v : Nat) : (wr64 s page lo hi i v).esc = s.esc := rfl
@[simp] theorem wr64_hbm (s : State) (page : Nat) (lo hi : Fld) (i v : Nat) : (wr64 s page lo hi i v).hbm = s.hbm := rfl
@[simp] theorem wr64_grants (s : State) (page : Nat) (lo hi : Fld) (i v : Nat) : (wr64 s page lo hi i v).grants = s.grants := rfl
@[simp] theorem wr64_fab (s : State) (page : Nat) (lo hi : Fld) (i v : Nat) : (wr64 s page lo hi i v).fab = s.fab := rfl
@[simp] theorem wr64_jobs (s : State) (page : Nat) (lo hi : Fld) (i v : Nat) : (wr64 s page lo hi i v).jobs = s.jobs := rfl
@[simp] theorem wr64_jobNum (s : State) (page : Nat) (lo hi : Fld) (i v : Nat) : (wr64 s page lo hi i v).jobNum = s.jobNum := rfl
@[simp] theorem wr64_car (s : State) (page : Nat) (lo hi : Fld) (i v : Nat) : (wr64 s page lo hi i v).car = s.car := rfl
@[simp] theorem wr64_host (s : State) (page : Nat) (lo hi : Fld) (i v : Nat) : (wr64 s page lo hi i v).host = s.host := rfl
@[simp] theorem wr64_pow (s : State) (page : Nat) (lo hi : Fld) (i v : Nat) : (wr64 s page lo hi i v).pow = s.pow := rfl
@[simp] theorem wr64_innk (s : State) (page : Nat) (lo hi : Fld) (i v : Nat) : (wr64 s page lo hi i v).innk = s.innk := rfl
@[simp] theorem wr64_psp (s : State) (page : Nat) (lo hi : Fld) (i v : Nat) : (wr64 s page lo hi i v).psp = s.psp := rfl
@[simp] theorem wr64_boot (s : State) (page : Nat) (lo hi : Fld) (i v : Nat) : (wr64 s page lo hi i v).boot = s.boot := rfl
@[simp] theorem wr64_tick (s : State) (page : Nat) (lo hi : Fld) (i v : Nat) : (wr64 s page lo hi i v).tick = s.tick := rfl
@[simp] theorem wr64_faults (s : State) (page : Nat) (lo hi : Fld) (i v : Nat) : (wr64 s page lo hi i v).faults = s.faults := rfl
@[simp] theorem wr64_events (s : State) (page : Nat) (lo hi : Fld) (i v : Nat) : (wr64 s page lo hi i v).events = s.events := rfl
@[simp] theorem wr64_free (s : State) (page : Nat) (lo hi : Fld) (i v : Nat) : (wr64 s page lo hi i v).free = s.free := rfl

/-! addWrap1 -/

@[simp] theorem addWrap1_pending (s : State) (page : Nat) (f : Fld) (i n : Nat) : (addWrap1 s page f i n).pending = s.pending := rfl
@[simp] theorem addWrap1_cores (s : State) (page : Nat) (f : Fld) (i n : Nat) : (addWrap1 s page f i n).cores = s.cores := rfl
@[simp] theorem addWrap1_dieCyc (s : State) (page : Nat) (f : Fld) (i n : Nat) : (addWrap1 s page f i n).dieCyc = s.dieCyc := rfl
@[simp] theorem addWrap1_esc (s : State) (page : Nat) (f : Fld) (i n : Nat) : (addWrap1 s page f i n).esc = s.esc := rfl
@[simp] theorem addWrap1_hbm (s : State) (page : Nat) (f : Fld) (i n : Nat) : (addWrap1 s page f i n).hbm = s.hbm := rfl
@[simp] theorem addWrap1_grants (s : State) (page : Nat) (f : Fld) (i n : Nat) : (addWrap1 s page f i n).grants = s.grants := rfl
@[simp] theorem addWrap1_fab (s : State) (page : Nat) (f : Fld) (i n : Nat) : (addWrap1 s page f i n).fab = s.fab := rfl
@[simp] theorem addWrap1_jobs (s : State) (page : Nat) (f : Fld) (i n : Nat) : (addWrap1 s page f i n).jobs = s.jobs := rfl
@[simp] theorem addWrap1_jobNum (s : State) (page : Nat) (f : Fld) (i n : Nat) : (addWrap1 s page f i n).jobNum = s.jobNum := rfl
@[simp] theorem addWrap1_car (s : State) (page : Nat) (f : Fld) (i n : Nat) : (addWrap1 s page f i n).car = s.car := rfl
@[simp] theorem addWrap1_host (s : State) (page : Nat) (f : Fld) (i n : Nat) : (addWrap1 s page f i n).host = s.host := rfl
@[simp] theorem addWrap1_pow (s : State) (page : Nat) (f : Fld) (i n : Nat) : (addWrap1 s page f i n).pow = s.pow := rfl
@[simp] theorem addWrap1_innk (s : State) (page : Nat) (f : Fld) (i n : Nat) : (addWrap1 s page f i n).innk = s.innk := rfl
@[simp] theorem addWrap1_psp (s : State) (page : Nat) (f : Fld) (i n : Nat) : (addWrap1 s page f i n).psp = s.psp := rfl
@[simp] theorem addWrap1_boot (s : State) (page : Nat) (f : Fld) (i n : Nat) : (addWrap1 s page f i n).boot = s.boot := rfl
@[simp] theorem addWrap1_tick (s : State) (page : Nat) (f : Fld) (i n : Nat) : (addWrap1 s page f i n).tick = s.tick := rfl
@[simp] theorem addWrap1_faults (s : State) (page : Nat) (f : Fld) (i n : Nat) : (addWrap1 s page f i n).faults = s.faults := rfl
@[simp] theorem addWrap1_events (s : State) (page : Nat) (f : Fld) (i n : Nat) : (addWrap1 s page f i n).events = s.events := rfl
@[simp] theorem addWrap1_free (s : State) (page : Nat) (f : Fld) (i n : Nat) : (addWrap1 s page f i n).free = s.free := rfl

/-! addSat1 -/

@[simp] theorem addSat1_pending (s : State) (page : Nat) (f : Fld) (i n : Nat) : (addSat1 s page f i n).pending = s.pending := rfl
@[simp] theorem addSat1_cores (s : State) (page : Nat) (f : Fld) (i n : Nat) : (addSat1 s page f i n).cores = s.cores := rfl
@[simp] theorem addSat1_dieCyc (s : State) (page : Nat) (f : Fld) (i n : Nat) : (addSat1 s page f i n).dieCyc = s.dieCyc := rfl
@[simp] theorem addSat1_esc (s : State) (page : Nat) (f : Fld) (i n : Nat) : (addSat1 s page f i n).esc = s.esc := rfl
@[simp] theorem addSat1_hbm (s : State) (page : Nat) (f : Fld) (i n : Nat) : (addSat1 s page f i n).hbm = s.hbm := rfl
@[simp] theorem addSat1_grants (s : State) (page : Nat) (f : Fld) (i n : Nat) : (addSat1 s page f i n).grants = s.grants := rfl
@[simp] theorem addSat1_fab (s : State) (page : Nat) (f : Fld) (i n : Nat) : (addSat1 s page f i n).fab = s.fab := rfl
@[simp] theorem addSat1_jobs (s : State) (page : Nat) (f : Fld) (i n : Nat) : (addSat1 s page f i n).jobs = s.jobs := rfl
@[simp] theorem addSat1_jobNum (s : State) (page : Nat) (f : Fld) (i n : Nat) : (addSat1 s page f i n).jobNum = s.jobNum := rfl
@[simp] theorem addSat1_car (s : State) (page : Nat) (f : Fld) (i n : Nat) : (addSat1 s page f i n).car = s.car := rfl
@[simp] theorem addSat1_host (s : State) (page : Nat) (f : Fld) (i n : Nat) : (addSat1 s page f i n).host = s.host := rfl
@[simp] theorem addSat1_pow (s : State) (page : Nat) (f : Fld) (i n : Nat) : (addSat1 s page f i n).pow = s.pow := rfl
@[simp] theorem addSat1_innk (s : State) (page : Nat) (f : Fld) (i n : Nat) : (addSat1 s page f i n).innk = s.innk := rfl
@[simp] theorem addSat1_psp (s : State) (page : Nat) (f : Fld) (i n : Nat) : (addSat1 s page f i n).psp = s.psp := rfl
@[simp] theorem addSat1_boot (s : State) (page : Nat) (f : Fld) (i n : Nat) : (addSat1 s page f i n).boot = s.boot := rfl
@[simp] theorem addSat1_tick (s : State) (page : Nat) (f : Fld) (i n : Nat) : (addSat1 s page f i n).tick = s.tick := rfl
@[simp] theorem addSat1_faults (s : State) (page : Nat) (f : Fld) (i n : Nat) : (addSat1 s page f i n).faults = s.faults := rfl
@[simp] theorem addSat1_events (s : State) (page : Nat) (f : Fld) (i n : Nat) : (addSat1 s page f i n).events = s.events := rfl
@[simp] theorem addSat1_free (s : State) (page : Nat) (f : Fld) (i n : Nat) : (addSat1 s page f i n).free = s.free := rfl

/-! addWrap -/

@[simp] theorem addWrap_pending (s : State) (page : Nat) (f : Fld) (n : Nat) : (addWrap s page f n).pending = s.pending := rfl
@[simp] theorem addWrap_cores (s : State) (page : Nat) (f : Fld) (n : Nat) : (addWrap s page f n).cores = s.cores := rfl
@[simp] theorem addWrap_dieCyc (s : State) (page : Nat) (f : Fld) (n : Nat) : (addWrap s page f n).dieCyc = s.dieCyc := rfl
@[simp] theorem addWrap_esc (s : State) (page : Nat) (f : Fld) (n : Nat) : (addWrap s page f n).esc = s.esc := rfl
@[simp] theorem addWrap_hbm (s : State) (page : Nat) (f : Fld) (n : Nat) : (addWrap s page f n).hbm = s.hbm := rfl
@[simp] theorem addWrap_grants (s : State) (page : Nat) (f : Fld) (n : Nat) : (addWrap s page f n).grants = s.grants := rfl
@[simp] theorem addWrap_fab (s : State) (page : Nat) (f : Fld) (n : Nat) : (addWrap s page f n).fab = s.fab := rfl
@[simp] theorem addWrap_jobs (s : State) (page : Nat) (f : Fld) (n : Nat) : (addWrap s page f n).jobs = s.jobs := rfl
@[simp] theorem addWrap_jobNum (s : State) (page : Nat) (f : Fld) (n : Nat) : (addWrap s page f n).jobNum = s.jobNum := rfl
@[simp] theorem addWrap_car (s : State) (page : Nat) (f : Fld) (n : Nat) : (addWrap s page f n).car = s.car := rfl
@[simp] theorem addWrap_host (s : State) (page : Nat) (f : Fld) (n : Nat) : (addWrap s page f n).host = s.host := rfl
@[simp] theorem addWrap_pow (s : State) (page : Nat) (f : Fld) (n : Nat) : (addWrap s page f n).pow = s.pow := rfl
@[simp] theorem addWrap_innk (s : State) (page : Nat) (f : Fld) (n : Nat) : (addWrap s page f n).innk = s.innk := rfl
@[simp] theorem addWrap_psp (s : State) (page : Nat) (f : Fld) (n : Nat) : (addWrap s page f n).psp = s.psp := rfl
@[simp] theorem addWrap_boot (s : State) (page : Nat) (f : Fld) (n : Nat) : (addWrap s page f n).boot = s.boot := rfl
@[simp] theorem addWrap_tick (s : State) (page : Nat) (f : Fld) (n : Nat) : (addWrap s page f n).tick = s.tick := rfl
@[simp] theorem addWrap_faults (s : State) (page : Nat) (f : Fld) (n : Nat) : (addWrap s page f n).faults = s.faults := rfl
@[simp] theorem addWrap_events (s : State) (page : Nat) (f : Fld) (n : Nat) : (addWrap s page f n).events = s.events := rfl
@[simp] theorem addWrap_free (s : State) (page : Nat) (f : Fld) (n : Nat) : (addWrap s page f n).free = s.free := rfl

/-! addSat -/

@[simp] theorem addSat_pending (s : State) (page : Nat) (f : Fld) (n : Nat) : (addSat s page f n).pending = s.pending := rfl
@[simp] theorem addSat_cores (s : State) (page : Nat) (f : Fld) (n : Nat) : (addSat s page f n).cores = s.cores := rfl
@[simp] theorem addSat_dieCyc (s : State) (page : Nat) (f : Fld) (n : Nat) : (addSat s page f n).dieCyc = s.dieCyc := rfl
@[simp] theorem addSat_esc (s : State) (page : Nat) (f : Fld) (n : Nat) : (addSat s page f n).esc = s.esc := rfl
@[simp] theorem addSat_hbm (s : State) (page : Nat) (f : Fld) (n : Nat) : (addSat s page f n).hbm = s.hbm := rfl
@[simp] theorem addSat_grants (s : State) (page : Nat) (f : Fld) (n : Nat) : (addSat s page f n).grants = s.grants := rfl
@[simp] theorem addSat_fab (s : State) (page : Nat) (f : Fld) (n : Nat) : (addSat s page f n).fab = s.fab := rfl
@[simp] theorem addSat_jobs (s : State) (page : Nat) (f : Fld) (n : Nat) : (addSat s page f n).jobs = s.jobs := rfl
@[simp] theorem addSat_jobNum (s : State) (page : Nat) (f : Fld) (n : Nat) : (addSat s page f n).jobNum = s.jobNum := rfl
@[simp] theorem addSat_car (s : State) (page : Nat) (f : Fld) (n : Nat) : (addSat s page f n).car = s.car := rfl
@[simp] theorem addSat_host (s : State) (page : Nat) (f : Fld) (n : Nat) : (addSat s page f n).host = s.host := rfl
@[simp] theorem addSat_pow (s : State) (page : Nat) (f : Fld) (n : Nat) : (addSat s page f n).pow = s.pow := rfl
@[simp] theorem addSat_innk (s : State) (page : Nat) (f : Fld) (n : Nat) : (addSat s page f n).innk = s.innk := rfl
@[simp] theorem addSat_psp (s : State) (page : Nat) (f : Fld) (n : Nat) : (addSat s page f n).psp = s.psp := rfl
@[simp] theorem addSat_boot (s : State) (page : Nat) (f : Fld) (n : Nat) : (addSat s page f n).boot = s.boot := rfl
@[simp] theorem addSat_tick (s : State) (page : Nat) (f : Fld) (n : Nat) : (addSat s page f n).tick = s.tick := rfl
@[simp] theorem addSat_faults (s : State) (page : Nat) (f : Fld) (n : Nat) : (addSat s page f n).faults = s.faults := rfl
@[simp] theorem addSat_events (s : State) (page : Nat) (f : Fld) (n : Nat) : (addSat s page f n).events = s.events := rfl
@[simp] theorem addSat_free (s : State) (page : Nat) (f : Fld) (n : Nat) : (addSat s page f n).free = s.free := rfl

/-! add64 -/

@[simp] theorem add64_pending (s : State) (page : Nat) (lo hi : Fld) (i n : Nat) : (add64 s page lo hi i n).pending = s.pending := rfl
@[simp] theorem add64_cores (s : State) (page : Nat) (lo hi : Fld) (i n : Nat) : (add64 s page lo hi i n).cores = s.cores := rfl
@[simp] theorem add64_dieCyc (s : State) (page : Nat) (lo hi : Fld) (i n : Nat) : (add64 s page lo hi i n).dieCyc = s.dieCyc := rfl
@[simp] theorem add64_esc (s : State) (page : Nat) (lo hi : Fld) (i n : Nat) : (add64 s page lo hi i n).esc = s.esc := rfl
@[simp] theorem add64_hbm (s : State) (page : Nat) (lo hi : Fld) (i n : Nat) : (add64 s page lo hi i n).hbm = s.hbm := rfl
@[simp] theorem add64_grants (s : State) (page : Nat) (lo hi : Fld) (i n : Nat) : (add64 s page lo hi i n).grants = s.grants := rfl
@[simp] theorem add64_fab (s : State) (page : Nat) (lo hi : Fld) (i n : Nat) : (add64 s page lo hi i n).fab = s.fab := rfl
@[simp] theorem add64_jobs (s : State) (page : Nat) (lo hi : Fld) (i n : Nat) : (add64 s page lo hi i n).jobs = s.jobs := rfl
@[simp] theorem add64_jobNum (s : State) (page : Nat) (lo hi : Fld) (i n : Nat) : (add64 s page lo hi i n).jobNum = s.jobNum := rfl
@[simp] theorem add64_car (s : State) (page : Nat) (lo hi : Fld) (i n : Nat) : (add64 s page lo hi i n).car = s.car := rfl
@[simp] theorem add64_host (s : State) (page : Nat) (lo hi : Fld) (i n : Nat) : (add64 s page lo hi i n).host = s.host := rfl
@[simp] theorem add64_pow (s : State) (page : Nat) (lo hi : Fld) (i n : Nat) : (add64 s page lo hi i n).pow = s.pow := rfl
@[simp] theorem add64_innk (s : State) (page : Nat) (lo hi : Fld) (i n : Nat) : (add64 s page lo hi i n).innk = s.innk := rfl
@[simp] theorem add64_psp (s : State) (page : Nat) (lo hi : Fld) (i n : Nat) : (add64 s page lo hi i n).psp = s.psp := rfl
@[simp] theorem add64_boot (s : State) (page : Nat) (lo hi : Fld) (i n : Nat) : (add64 s page lo hi i n).boot = s.boot := rfl
@[simp] theorem add64_tick (s : State) (page : Nat) (lo hi : Fld) (i n : Nat) : (add64 s page lo hi i n).tick = s.tick := rfl
@[simp] theorem add64_faults (s : State) (page : Nat) (lo hi : Fld) (i n : Nat) : (add64 s page lo hi i n).faults = s.faults := rfl
@[simp] theorem add64_events (s : State) (page : Nat) (lo hi : Fld) (i n : Nat) : (add64 s page lo hi i n).events = s.events := rfl
@[simp] theorem add64_free (s : State) (page : Nat) (lo hi : Fld) (i n : Nat) : (add64 s page lo hi i n).free = s.free := rfl

/-! setErr -/

@[simp] theorem setErr_pending (s : State) (page n : Nat) : (setErr s page n).pending = s.pending := by unfold setErr; split <;> rfl
@[simp] theorem setErr_cores (s : State) (page n : Nat) : (setErr s page n).cores = s.cores := by unfold setErr; split <;> rfl
@[simp] theorem setErr_dieCyc (s : State) (page n : Nat) : (setErr s page n).dieCyc = s.dieCyc := by unfold setErr; split <;> rfl
@[simp] theorem setErr_esc (s : State) (page n : Nat) : (setErr s page n).esc = s.esc := by unfold setErr; split <;> rfl
@[simp] theorem setErr_hbm (s : State) (page n : Nat) : (setErr s page n).hbm = s.hbm := by unfold setErr; split <;> rfl
@[simp] theorem setErr_grants (s : State) (page n : Nat) : (setErr s page n).grants = s.grants := by unfold setErr; split <;> rfl
@[simp] theorem setErr_fab (s : State) (page n : Nat) : (setErr s page n).fab = s.fab := by unfold setErr; split <;> rfl
@[simp] theorem setErr_jobs (s : State) (page n : Nat) : (setErr s page n).jobs = s.jobs := by unfold setErr; split <;> rfl
@[simp] theorem setErr_jobNum (s : State) (page n : Nat) : (setErr s page n).jobNum = s.jobNum := by unfold setErr; split <;> rfl
@[simp] theorem setErr_car (s : State) (page n : Nat) : (setErr s page n).car = s.car := by unfold setErr; split <;> rfl
@[simp] theorem setErr_host (s : State) (page n : Nat) : (setErr s page n).host = s.host := by unfold setErr; split <;> rfl
@[simp] theorem setErr_pow (s : State) (page n : Nat) : (setErr s page n).pow = s.pow := by unfold setErr; split <;> rfl
@[simp] theorem setErr_innk (s : State) (page n : Nat) : (setErr s page n).innk = s.innk := by unfold setErr; split <;> rfl
@[simp] theorem setErr_psp (s : State) (page n : Nat) : (setErr s page n).psp = s.psp := by unfold setErr; split <;> rfl
@[simp] theorem setErr_boot (s : State) (page n : Nat) : (setErr s page n).boot = s.boot := by unfold setErr; split <;> rfl
@[simp] theorem setErr_tick (s : State) (page n : Nat) : (setErr s page n).tick = s.tick := by unfold setErr; split <;> rfl
@[simp] theorem setErr_faults (s : State) (page n : Nat) : (setErr s page n).faults = s.faults := by unfold setErr; split <;> rfl
@[simp] theorem setErr_events (s : State) (page n : Nat) : (setErr s page n).events = s.events := by unfold setErr; split <;> rfl
@[simp] theorem setErr_free (s : State) (page n : Nat) : (setErr s page n).free = s.free := by unfold setErr; split <;> rfl

/-! resetPage -/

@[simp] theorem resetPage_pending (s : State) (page : Nat) : (resetPage s page).pending = s.pending := rfl
@[simp] theorem resetPage_cores (s : State) (page : Nat) : (resetPage s page).cores = s.cores := rfl
@[simp] theorem resetPage_dieCyc (s : State) (page : Nat) : (resetPage s page).dieCyc = s.dieCyc := rfl
@[simp] theorem resetPage_esc (s : State) (page : Nat) : (resetPage s page).esc = s.esc := rfl
@[simp] theorem resetPage_hbm (s : State) (page : Nat) : (resetPage s page).hbm = s.hbm := rfl
@[simp] theorem resetPage_grants (s : State) (page : Nat) : (resetPage s page).grants = s.grants := rfl
@[simp] theorem resetPage_fab (s : State) (page : Nat) : (resetPage s page).fab = s.fab := rfl
@[simp] theorem resetPage_jobs (s : State) (page : Nat) : (resetPage s page).jobs = s.jobs := rfl
@[simp] theorem resetPage_jobNum (s : State) (page : Nat) : (resetPage s page).jobNum = s.jobNum := rfl
@[simp] theorem resetPage_car (s : State) (page : Nat) : (resetPage s page).car = s.car := rfl
@[simp] theorem resetPage_host (s : State) (page : Nat) : (resetPage s page).host = s.host := rfl
@[simp] theorem resetPage_pow (s : State) (page : Nat) : (resetPage s page).pow = s.pow := rfl
@[simp] theorem resetPage_innk (s : State) (page : Nat) : (resetPage s page).innk = s.innk := rfl
@[simp] theorem resetPage_psp (s : State) (page : Nat) : (resetPage s page).psp = s.psp := rfl
@[simp] theorem resetPage_boot (s : State) (page : Nat) : (resetPage s page).boot = s.boot := rfl
@[simp] theorem resetPage_tick (s : State) (page : Nat) : (resetPage s page).tick = s.tick := rfl
@[simp] theorem resetPage_faults (s : State) (page : Nat) : (resetPage s page).faults = s.faults := rfl
@[simp] theorem resetPage_events (s : State) (page : Nat) : (resetPage s page).events = s.events := rfl
@[simp] theorem resetPage_free (s : State) (page : Nat) : (resetPage s page).free = s.free := rfl

/-! setBlk -/

@[simp] theorem setBlk_pending (s : State) (page st : Nat) : (setBlk s page st).pending = s.pending := rfl
@[simp] theorem setBlk_cores (s : State) (page st : Nat) : (setBlk s page st).cores = s.cores := rfl
@[simp] theorem setBlk_dieCyc (s : State) (page st : Nat) : (setBlk s page st).dieCyc = s.dieCyc := rfl
@[simp] theorem setBlk_esc (s : State) (page st : Nat) : (setBlk s page st).esc = s.esc := rfl
@[simp] theorem setBlk_hbm (s : State) (page st : Nat) : (setBlk s page st).hbm = s.hbm := rfl
@[simp] theorem setBlk_grants (s : State) (page st : Nat) : (setBlk s page st).grants = s.grants := rfl
@[simp] theorem setBlk_fab (s : State) (page st : Nat) : (setBlk s page st).fab = s.fab := rfl
@[simp] theorem setBlk_jobs (s : State) (page st : Nat) : (setBlk s page st).jobs = s.jobs := rfl
@[simp] theorem setBlk_jobNum (s : State) (page st : Nat) : (setBlk s page st).jobNum = s.jobNum := rfl
@[simp] theorem setBlk_car (s : State) (page st : Nat) : (setBlk s page st).car = s.car := rfl
@[simp] theorem setBlk_host (s : State) (page st : Nat) : (setBlk s page st).host = s.host := rfl
@[simp] theorem setBlk_pow (s : State) (page st : Nat) : (setBlk s page st).pow = s.pow := rfl
@[simp] theorem setBlk_innk (s : State) (page st : Nat) : (setBlk s page st).innk = s.innk := rfl
@[simp] theorem setBlk_psp (s : State) (page st : Nat) : (setBlk s page st).psp = s.psp := rfl
@[simp] theorem setBlk_boot (s : State) (page st : Nat) : (setBlk s page st).boot = s.boot := rfl
@[simp] theorem setBlk_tick (s : State) (page st : Nat) : (setBlk s page st).tick = s.tick := rfl
@[simp] theorem setBlk_faults (s : State) (page st : Nat) : (setBlk s page st).faults = s.faults := rfl
@[simp] theorem setBlk_events (s : State) (page st : Nat) : (setBlk s page st).events = s.events := rfl
@[simp] theorem setBlk_free (s : State) (page st : Nat) : (setBlk s page st).free = s.free := rfl

/-! setCore -/

@[simp] theorem setCore_pending (s : State) (n : Nat) (c : Core) : (setCore s n c).pending = s.pending := rfl
@[simp] theorem setCore_regs (s : State) (n : Nat) (c : Core) : (setCore s n c).regs = s.regs := rfl
@[simp] theorem setCore_dieCyc (s : State) (n : Nat) (c : Core) : (setCore s n c).dieCyc = s.dieCyc := rfl
@[simp] theorem setCore_esc (s : State) (n : Nat) (c : Core) : (setCore s n c).esc = s.esc := rfl
@[simp] theorem setCore_hbm (s : State) (n : Nat) (c : Core) : (setCore s n c).hbm = s.hbm := rfl
@[simp] theorem setCore_grants (s : State) (n : Nat) (c : Core) : (setCore s n c).grants = s.grants := rfl
@[simp] theorem setCore_fab (s : State) (n : Nat) (c : Core) : (setCore s n c).fab = s.fab := rfl
@[simp] theorem setCore_jobs (s : State) (n : Nat) (c : Core) : (setCore s n c).jobs = s.jobs := rfl
@[simp] theorem setCore_jobNum (s : State) (n : Nat) (c : Core) : (setCore s n c).jobNum = s.jobNum := rfl
@[simp] theorem setCore_car (s : State) (n : Nat) (c : Core) : (setCore s n c).car = s.car := rfl
@[simp] theorem setCore_host (s : State) (n : Nat) (c : Core) : (setCore s n c).host = s.host := rfl
@[simp] theorem setCore_pow (s : State) (n : Nat) (c : Core) : (setCore s n c).pow = s.pow := rfl
@[simp] theorem setCore_innk (s : State) (n : Nat) (c : Core) : (setCore s n c).innk = s.innk := rfl
@[simp] theorem setCore_psp (s : State) (n : Nat) (c : Core) : (setCore s n c).psp = s.psp := rfl
@[simp] theorem setCore_boot (s : State) (n : Nat) (c : Core) : (setCore s n c).boot = s.boot := rfl
@[simp] theorem setCore_tick (s : State) (n : Nat) (c : Core) : (setCore s n c).tick = s.tick := rfl
@[simp] theorem setCore_faults (s : State) (n : Nat) (c : Core) : (setCore s n c).faults = s.faults := rfl
@[simp] theorem setCore_events (s : State) (n : Nat) (c : Core) : (setCore s n c).events = s.events := rfl
@[simp] theorem setCore_free (s : State) (n : Nat) (c : Core) : (setCore s n c).free = s.free := rfl

/-! updCore -/

@[simp] theorem updCore_pending (s : State) (n : Nat) (f : Core → Core) : (updCore s n f).pending = s.pending := rfl
@[simp] theorem updCore_regs (s : State) (n : Nat) (f : Core → Core) : (updCore s n f).regs = s.regs := rfl
@[simp] theorem updCore_dieCyc (s : State) (n : Nat) (f : Core → Core) : (updCore s n f).dieCyc = s.dieCyc := rfl
@[simp] theorem updCore_esc (s : State) (n : Nat) (f : Core → Core) : (updCore s n f).esc = s.esc := rfl
@[simp] theorem updCore_hbm (s : State) (n : Nat) (f : Core → Core) : (updCore s n f).hbm = s.hbm := rfl
@[simp] theorem updCore_grants (s : State) (n : Nat) (f : Core → Core) : (updCore s n f).grants = s.grants := rfl
@[simp] theorem updCore_fab (s : State) (n : Nat) (f : Core → Core) : (updCore s n f).fab = s.fab := rfl
@[simp] theorem updCore_jobs (s : State) (n : Nat) (f : Core → Core) : (updCore s n f).jobs = s.jobs := rfl
@[simp] theorem updCore_jobNum (s : State) (n : Nat) (f : Core → Core) : (updCore s n f).jobNum = s.jobNum := rfl
@[simp] theorem updCore_car (s : State) (n : Nat) (f : Core → Core) : (updCore s n f).car = s.car := rfl
@[simp] theorem updCore_host (s : State) (n : Nat) (f : Core → Core) : (updCore s n f).host = s.host := rfl
@[simp] theorem updCore_pow (s : State) (n : Nat) (f : Core → Core) : (updCore s n f).pow = s.pow := rfl
@[simp] theorem updCore_innk (s : State) (n : Nat) (f : Core → Core) : (updCore s n f).innk = s.innk := rfl
@[simp] theorem updCore_psp (s : State) (n : Nat) (f : Core → Core) : (updCore s n f).psp = s.psp := rfl
@[simp] theorem updCore_boot (s : State) (n : Nat) (f : Core → Core) : (updCore s n f).boot = s.boot := rfl
@[simp] theorem updCore_tick (s : State) (n : Nat) (f : Core → Core) : (updCore s n f).tick = s.tick := rfl
@[simp] theorem updCore_faults (s : State) (n : Nat) (f : Core → Core) : (updCore s n f).faults = s.faults := rfl
@[simp] theorem updCore_events (s : State) (n : Nat) (f : Core → Core) : (updCore s n f).events = s.events := rfl
@[simp] theorem updCore_free (s : State) (n : Nat) (f : Core → Core) : (updCore s n f).free = s.free := rfl

/-! addLand -/

@[simp] theorem addLand_pending (s : State) (n at_ cls ord : Nat) (ev : LandEv) : (addLand s n at_ cls ord ev).pending = s.pending := rfl
@[simp] theorem addLand_regs (s : State) (n at_ cls ord : Nat) (ev : LandEv) : (addLand s n at_ cls ord ev).regs = s.regs := rfl
@[simp] theorem addLand_dieCyc (s : State) (n at_ cls ord : Nat) (ev : LandEv) : (addLand s n at_ cls ord ev).dieCyc = s.dieCyc := rfl
@[simp] theorem addLand_esc (s : State) (n at_ cls ord : Nat) (ev : LandEv) : (addLand s n at_ cls ord ev).esc = s.esc := rfl
@[simp] theorem addLand_hbm (s : State) (n at_ cls ord : Nat) (ev : LandEv) : (addLand s n at_ cls ord ev).hbm = s.hbm := rfl
@[simp] theorem addLand_grants (s : State) (n at_ cls ord : Nat) (ev : LandEv) : (addLand s n at_ cls ord ev).grants = s.grants := rfl
@[simp] theorem addLand_fab (s : State) (n at_ cls ord : Nat) (ev : LandEv) : (addLand s n at_ cls ord ev).fab = s.fab := rfl
@[simp] theorem addLand_jobs (s : State) (n at_ cls ord : Nat) (ev : LandEv) : (addLand s n at_ cls ord ev).jobs = s.jobs := rfl
@[simp] theorem addLand_jobNum (s : State) (n at_ cls ord : Nat) (ev : LandEv) : (addLand s n at_ cls ord ev).jobNum = s.jobNum := rfl
@[simp] theorem addLand_car (s : State) (n at_ cls ord : Nat) (ev : LandEv) : (addLand s n at_ cls ord ev).car = s.car := rfl
@[simp] theorem addLand_host (s : State) (n at_ cls ord : Nat) (ev : LandEv) : (addLand s n at_ cls ord ev).host = s.host := rfl
@[simp] theorem addLand_pow (s : State) (n at_ cls ord : Nat) (ev : LandEv) : (addLand s n at_ cls ord ev).pow = s.pow := rfl
@[simp] theorem addLand_innk (s : State) (n at_ cls ord : Nat) (ev : LandEv) : (addLand s n at_ cls ord ev).innk = s.innk := rfl
@[simp] theorem addLand_psp (s : State) (n at_ cls ord : Nat) (ev : LandEv) : (addLand s n at_ cls ord ev).psp = s.psp := rfl
@[simp] theorem addLand_boot (s : State) (n at_ cls ord : Nat) (ev : LandEv) : (addLand s n at_ cls ord ev).boot = s.boot := rfl
@[simp] theorem addLand_tick (s : State) (n at_ cls ord : Nat) (ev : LandEv) : (addLand s n at_ cls ord ev).tick = s.tick := rfl
@[simp] theorem addLand_faults (s : State) (n at_ cls ord : Nat) (ev : LandEv) : (addLand s n at_ cls ord ev).faults = s.faults := rfl
@[simp] theorem addLand_events (s : State) (n at_ cls ord : Nat) (ev : LandEv) : (addLand s n at_ cls ord ev).events = s.events := rfl
@[simp] theorem addLand_free (s : State) (n at_ cls ord : Nat) (ev : LandEv) : (addLand s n at_ cls ord ev).free = s.free := rfl

/-! addResult -/

@[simp] theorem addResult_pending (s : State) (n lat slot : Nat) (ev : LandEv) : (addResult s n lat slot ev).pending = s.pending := rfl
@[simp] theorem addResult_regs (s : State) (n lat slot : Nat) (ev : LandEv) : (addResult s n lat slot ev).regs = s.regs := rfl
@[simp] theorem addResult_dieCyc (s : State) (n lat slot : Nat) (ev : LandEv) : (addResult s n lat slot ev).dieCyc = s.dieCyc := rfl
@[simp] theorem addResult_esc (s : State) (n lat slot : Nat) (ev : LandEv) : (addResult s n lat slot ev).esc = s.esc := rfl
@[simp] theorem addResult_hbm (s : State) (n lat slot : Nat) (ev : LandEv) : (addResult s n lat slot ev).hbm = s.hbm := rfl
@[simp] theorem addResult_grants (s : State) (n lat slot : Nat) (ev : LandEv) : (addResult s n lat slot ev).grants = s.grants := rfl
@[simp] theorem addResult_fab (s : State) (n lat slot : Nat) (ev : LandEv) : (addResult s n lat slot ev).fab = s.fab := rfl
@[simp] theorem addResult_jobs (s : State) (n lat slot : Nat) (ev : LandEv) : (addResult s n lat slot ev).jobs = s.jobs := rfl
@[simp] theorem addResult_jobNum (s : State) (n lat slot : Nat) (ev : LandEv) : (addResult s n lat slot ev).jobNum = s.jobNum := rfl
@[simp] theorem addResult_car (s : State) (n lat slot : Nat) (ev : LandEv) : (addResult s n lat slot ev).car = s.car := rfl
@[simp] theorem addResult_host (s : State) (n lat slot : Nat) (ev : LandEv) : (addResult s n lat slot ev).host = s.host := rfl
@[simp] theorem addResult_pow (s : State) (n lat slot : Nat) (ev : LandEv) : (addResult s n lat slot ev).pow = s.pow := rfl
@[simp] theorem addResult_innk (s : State) (n lat slot : Nat) (ev : LandEv) : (addResult s n lat slot ev).innk = s.innk := rfl
@[simp] theorem addResult_psp (s : State) (n lat slot : Nat) (ev : LandEv) : (addResult s n lat slot ev).psp = s.psp := rfl
@[simp] theorem addResult_boot (s : State) (n lat slot : Nat) (ev : LandEv) : (addResult s n lat slot ev).boot = s.boot := rfl
@[simp] theorem addResult_tick (s : State) (n lat slot : Nat) (ev : LandEv) : (addResult s n lat slot ev).tick = s.tick := rfl
@[simp] theorem addResult_faults (s : State) (n lat slot : Nat) (ev : LandEv) : (addResult s n lat slot ev).faults = s.faults := rfl
@[simp] theorem addResult_events (s : State) (n lat slot : Nat) (ev : LandEv) : (addResult s n lat slot ev).events = s.events := rfl
@[simp] theorem addResult_free (s : State) (n lat slot : Nat) (ev : LandEv) : (addResult s n lat slot ev).free = s.free := rfl

/-! addAccess -/

@[simp] theorem addAccess_pending (s : State) (n : Nat) (a : Access) : (addAccess s n a).pending = s.pending := rfl
@[simp] theorem addAccess_regs (s : State) (n : Nat) (a : Access) : (addAccess s n a).regs = s.regs := rfl
@[simp] theorem addAccess_dieCyc (s : State) (n : Nat) (a : Access) : (addAccess s n a).dieCyc = s.dieCyc := rfl
@[simp] theorem addAccess_esc (s : State) (n : Nat) (a : Access) : (addAccess s n a).esc = s.esc := rfl
@[simp] theorem addAccess_hbm (s : State) (n : Nat) (a : Access) : (addAccess s n a).hbm = s.hbm := rfl
@[simp] theorem addAccess_grants (s : State) (n : Nat) (a : Access) : (addAccess s n a).grants = s.grants := rfl
@[simp] theorem addAccess_fab (s : State) (n : Nat) (a : Access) : (addAccess s n a).fab = s.fab := rfl
@[simp] theorem addAccess_jobs (s : State) (n : Nat) (a : Access) : (addAccess s n a).jobs = s.jobs := rfl
@[simp] theorem addAccess_jobNum (s : State) (n : Nat) (a : Access) : (addAccess s n a).jobNum = s.jobNum := rfl
@[simp] theorem addAccess_car (s : State) (n : Nat) (a : Access) : (addAccess s n a).car = s.car := rfl
@[simp] theorem addAccess_host (s : State) (n : Nat) (a : Access) : (addAccess s n a).host = s.host := rfl
@[simp] theorem addAccess_pow (s : State) (n : Nat) (a : Access) : (addAccess s n a).pow = s.pow := rfl
@[simp] theorem addAccess_innk (s : State) (n : Nat) (a : Access) : (addAccess s n a).innk = s.innk := rfl
@[simp] theorem addAccess_psp (s : State) (n : Nat) (a : Access) : (addAccess s n a).psp = s.psp := rfl
@[simp] theorem addAccess_boot (s : State) (n : Nat) (a : Access) : (addAccess s n a).boot = s.boot := rfl
@[simp] theorem addAccess_tick (s : State) (n : Nat) (a : Access) : (addAccess s n a).tick = s.tick := rfl
@[simp] theorem addAccess_faults (s : State) (n : Nat) (a : Access) : (addAccess s n a).faults = s.faults := rfl
@[simp] theorem addAccess_events (s : State) (n : Nat) (a : Access) : (addAccess s n a).events = s.events := rfl
@[simp] theorem addAccess_free (s : State) (n : Nat) (a : Access) : (addAccess s n a).free = s.free := rfl

/-! markSlot -/

@[simp] theorem markSlot_pending (s : State) (n idx : Nat) : (markSlot s n idx).pending = s.pending := rfl
@[simp] theorem markSlot_regs (s : State) (n idx : Nat) : (markSlot s n idx).regs = s.regs := rfl
@[simp] theorem markSlot_dieCyc (s : State) (n idx : Nat) : (markSlot s n idx).dieCyc = s.dieCyc := rfl
@[simp] theorem markSlot_esc (s : State) (n idx : Nat) : (markSlot s n idx).esc = s.esc := rfl
@[simp] theorem markSlot_hbm (s : State) (n idx : Nat) : (markSlot s n idx).hbm = s.hbm := rfl
@[simp] theorem markSlot_grants (s : State) (n idx : Nat) : (markSlot s n idx).grants = s.grants := rfl
@[simp] theorem markSlot_fab (s : State) (n idx : Nat) : (markSlot s n idx).fab = s.fab := rfl
@[simp] theorem markSlot_jobs (s : State) (n idx : Nat) : (markSlot s n idx).jobs = s.jobs := rfl
@[simp] theorem markSlot_jobNum (s : State) (n idx : Nat) : (markSlot s n idx).jobNum = s.jobNum := rfl
@[simp] theorem markSlot_car (s : State) (n idx : Nat) : (markSlot s n idx).car = s.car := rfl
@[simp] theorem markSlot_host (s : State) (n idx : Nat) : (markSlot s n idx).host = s.host := rfl
@[simp] theorem markSlot_pow (s : State) (n idx : Nat) : (markSlot s n idx).pow = s.pow := rfl
@[simp] theorem markSlot_innk (s : State) (n idx : Nat) : (markSlot s n idx).innk = s.innk := rfl
@[simp] theorem markSlot_psp (s : State) (n idx : Nat) : (markSlot s n idx).psp = s.psp := rfl
@[simp] theorem markSlot_boot (s : State) (n idx : Nat) : (markSlot s n idx).boot = s.boot := rfl
@[simp] theorem markSlot_tick (s : State) (n idx : Nat) : (markSlot s n idx).tick = s.tick := rfl
@[simp] theorem markSlot_faults (s : State) (n idx : Nat) : (markSlot s n idx).faults = s.faults := rfl
@[simp] theorem markSlot_events (s : State) (n idx : Nat) : (markSlot s n idx).events = s.events := rfl
@[simp] theorem markSlot_free (s : State) (n idx : Nat) : (markSlot s n idx).free = s.free := rfl

/-! setPart -/

@[simp] theorem setPart_pending (s : State) (n p : Nat) (v : Part) : (setPart s n p v).pending = s.pending := rfl
@[simp] theorem setPart_regs (s : State) (n p : Nat) (v : Part) : (setPart s n p v).regs = s.regs := rfl
@[simp] theorem setPart_dieCyc (s : State) (n p : Nat) (v : Part) : (setPart s n p v).dieCyc = s.dieCyc := rfl
@[simp] theorem setPart_esc (s : State) (n p : Nat) (v : Part) : (setPart s n p v).esc = s.esc := rfl
@[simp] theorem setPart_hbm (s : State) (n p : Nat) (v : Part) : (setPart s n p v).hbm = s.hbm := rfl
@[simp] theorem setPart_grants (s : State) (n p : Nat) (v : Part) : (setPart s n p v).grants = s.grants := rfl
@[simp] theorem setPart_fab (s : State) (n p : Nat) (v : Part) : (setPart s n p v).fab = s.fab := rfl
@[simp] theorem setPart_jobs (s : State) (n p : Nat) (v : Part) : (setPart s n p v).jobs = s.jobs := rfl
@[simp] theorem setPart_jobNum (s : State) (n p : Nat) (v : Part) : (setPart s n p v).jobNum = s.jobNum := rfl
@[simp] theorem setPart_car (s : State) (n p : Nat) (v : Part) : (setPart s n p v).car = s.car := rfl
@[simp] theorem setPart_host (s : State) (n p : Nat) (v : Part) : (setPart s n p v).host = s.host := rfl
@[simp] theorem setPart_pow (s : State) (n p : Nat) (v : Part) : (setPart s n p v).pow = s.pow := rfl
@[simp] theorem setPart_innk (s : State) (n p : Nat) (v : Part) : (setPart s n p v).innk = s.innk := rfl
@[simp] theorem setPart_psp (s : State) (n p : Nat) (v : Part) : (setPart s n p v).psp = s.psp := rfl
@[simp] theorem setPart_boot (s : State) (n p : Nat) (v : Part) : (setPart s n p v).boot = s.boot := rfl
@[simp] theorem setPart_tick (s : State) (n p : Nat) (v : Part) : (setPart s n p v).tick = s.tick := rfl
@[simp] theorem setPart_faults (s : State) (n p : Nat) (v : Part) : (setPart s n p v).faults = s.faults := rfl
@[simp] theorem setPart_events (s : State) (n p : Nat) (v : Part) : (setPart s n p v).events = s.events := rfl
@[simp] theorem setPart_free (s : State) (n p : Nat) (v : Part) : (setPart s n p v).free = s.free := rfl

/-! drawFree -/

@[simp] theorem drawFree_pending (s : State) : (drawFree s).pending = s.pending := rfl
@[simp] theorem drawFree_regs (s : State) : (drawFree s).regs = s.regs := rfl
@[simp] theorem drawFree_cores (s : State) : (drawFree s).cores = s.cores := rfl
@[simp] theorem drawFree_dieCyc (s : State) : (drawFree s).dieCyc = s.dieCyc := rfl
@[simp] theorem drawFree_esc (s : State) : (drawFree s).esc = s.esc := rfl
@[simp] theorem drawFree_hbm (s : State) : (drawFree s).hbm = s.hbm := rfl
@[simp] theorem drawFree_grants (s : State) : (drawFree s).grants = s.grants := rfl
@[simp] theorem drawFree_fab (s : State) : (drawFree s).fab = s.fab := rfl
@[simp] theorem drawFree_jobs (s : State) : (drawFree s).jobs = s.jobs := rfl
@[simp] theorem drawFree_jobNum (s : State) : (drawFree s).jobNum = s.jobNum := rfl
@[simp] theorem drawFree_car (s : State) : (drawFree s).car = s.car := rfl
@[simp] theorem drawFree_host (s : State) : (drawFree s).host = s.host := rfl
@[simp] theorem drawFree_pow (s : State) : (drawFree s).pow = s.pow := rfl
@[simp] theorem drawFree_innk (s : State) : (drawFree s).innk = s.innk := rfl
@[simp] theorem drawFree_psp (s : State) : (drawFree s).psp = s.psp := rfl
@[simp] theorem drawFree_boot (s : State) : (drawFree s).boot = s.boot := rfl
@[simp] theorem drawFree_tick (s : State) : (drawFree s).tick = s.tick := rfl
@[simp] theorem drawFree_faults (s : State) : (drawFree s).faults = s.faults := rfl
@[simp] theorem drawFree_events (s : State) : (drawFree s).events = s.events := rfl
@[simp] theorem drawFree_free (s : State) : (drawFree s).free = s.free + 1 := rfl

/-! updInnk -/

@[simp] theorem updInnk_pending (s : State) (f : Innk → Innk) : (updInnk s f).pending = s.pending := rfl
@[simp] theorem updInnk_regs (s : State) (f : Innk → Innk) : (updInnk s f).regs = s.regs := rfl
@[simp] theorem updInnk_cores (s : State) (f : Innk → Innk) : (updInnk s f).cores = s.cores := rfl
@[simp] theorem updInnk_dieCyc (s : State) (f : Innk → Innk) : (updInnk s f).dieCyc = s.dieCyc := rfl
@[simp] theorem updInnk_esc (s : State) (f : Innk → Innk) : (updInnk s f).esc = s.esc := rfl
@[simp] theorem updInnk_hbm (s : State) (f : Innk → Innk) : (updInnk s f).hbm = s.hbm := rfl
@[simp] theorem updInnk_grants (s : State) (f : Innk → Innk) : (updInnk s f).grants = s.grants := rfl
@[simp] theorem updInnk_fab (s : State) (f : Innk → Innk) : (updInnk s f).fab = s.fab := rfl
@[simp] theorem updInnk_jobs (s : State) (f : Innk → Innk) : (updInnk s f).jobs = s.jobs := rfl
@[simp] theorem updInnk_jobNum (s : State) (f : Innk → Innk) : (updInnk s f).jobNum = s.jobNum := rfl
@[simp] theorem updInnk_car (s : State) (f : Innk → Innk) : (updInnk s f).car = s.car := rfl
@[simp] theorem updInnk_host (s : State) (f : Innk → Innk) : (updInnk s f).host = s.host := rfl
@[simp] theorem updInnk_pow (s : State) (f : Innk → Innk) : (updInnk s f).pow = s.pow := rfl
@[simp] theorem updInnk_innk (s : State) (f : Innk → Innk) : (updInnk s f).innk = f s.innk := rfl
@[simp] theorem updInnk_psp (s : State) (f : Innk → Innk) : (updInnk s f).psp = s.psp := rfl
@[simp] theorem updInnk_boot (s : State) (f : Innk → Innk) : (updInnk s f).boot = s.boot := rfl
@[simp] theorem updInnk_tick (s : State) (f : Innk → Innk) : (updInnk s f).tick = s.tick := rfl
@[simp] theorem updInnk_faults (s : State) (f : Innk → Innk) : (updInnk s f).faults = s.faults := rfl
@[simp] theorem updInnk_events (s : State) (f : Innk → Innk) : (updInnk s f).events = s.events := rfl
@[simp] theorem updInnk_free (s : State) (f : Innk → Innk) : (updInnk s f).free = s.free := rfl

/-! updBoot -/

@[simp] theorem updBoot_pending (s : State) (f : Boot → Boot) : (updBoot s f).pending = s.pending := rfl
@[simp] theorem updBoot_regs (s : State) (f : Boot → Boot) : (updBoot s f).regs = s.regs := rfl
@[simp] theorem updBoot_cores (s : State) (f : Boot → Boot) : (updBoot s f).cores = s.cores := rfl
@[simp] theorem updBoot_dieCyc (s : State) (f : Boot → Boot) : (updBoot s f).dieCyc = s.dieCyc := rfl
@[simp] theorem updBoot_esc (s : State) (f : Boot → Boot) : (updBoot s f).esc = s.esc := rfl
@[simp] theorem updBoot_hbm (s : State) (f : Boot → Boot) : (updBoot s f).hbm = s.hbm := rfl
@[simp] theorem updBoot_grants (s : State) (f : Boot → Boot) : (updBoot s f).grants = s.grants := rfl
@[simp] theorem updBoot_fab (s : State) (f : Boot → Boot) : (updBoot s f).fab = s.fab := rfl
@[simp] theorem updBoot_jobs (s : State) (f : Boot → Boot) : (updBoot s f).jobs = s.jobs := rfl
@[simp] theorem updBoot_jobNum (s : State) (f : Boot → Boot) : (updBoot s f).jobNum = s.jobNum := rfl
@[simp] theorem updBoot_car (s : State) (f : Boot → Boot) : (updBoot s f).car = s.car := rfl
@[simp] theorem updBoot_host (s : State) (f : Boot → Boot) : (updBoot s f).host = s.host := rfl
@[simp] theorem updBoot_pow (s : State) (f : Boot → Boot) : (updBoot s f).pow = s.pow := rfl
@[simp] theorem updBoot_innk (s : State) (f : Boot → Boot) : (updBoot s f).innk = s.innk := rfl
@[simp] theorem updBoot_psp (s : State) (f : Boot → Boot) : (updBoot s f).psp = s.psp := rfl
@[simp] theorem updBoot_boot (s : State) (f : Boot → Boot) : (updBoot s f).boot = f s.boot := rfl
@[simp] theorem updBoot_tick (s : State) (f : Boot → Boot) : (updBoot s f).tick = s.tick := rfl
@[simp] theorem updBoot_faults (s : State) (f : Boot → Boot) : (updBoot s f).faults = s.faults := rfl
@[simp] theorem updBoot_events (s : State) (f : Boot → Boot) : (updBoot s f).events = s.events := rfl
@[simp] theorem updBoot_free (s : State) (f : Boot → Boot) : (updBoot s f).free = s.free := rfl

/-! updPow -/

@[simp] theorem updPow_pending (s : State) (f : Power → Power) : (updPow s f).pending = s.pending := rfl
@[simp] theorem updPow_regs (s : State) (f : Power → Power) : (updPow s f).regs = s.regs := rfl
@[simp] theorem updPow_cores (s : State) (f : Power → Power) : (updPow s f).cores = s.cores := rfl
@[simp] theorem updPow_dieCyc (s : State) (f : Power → Power) : (updPow s f).dieCyc = s.dieCyc := rfl
@[simp] theorem updPow_esc (s : State) (f : Power → Power) : (updPow s f).esc = s.esc := rfl
@[simp] theorem updPow_hbm (s : State) (f : Power → Power) : (updPow s f).hbm = s.hbm := rfl
@[simp] theorem updPow_grants (s : State) (f : Power → Power) : (updPow s f).grants = s.grants := rfl
@[simp] theorem updPow_fab (s : State) (f : Power → Power) : (updPow s f).fab = s.fab := rfl
@[simp] theorem updPow_jobs (s : State) (f : Power → Power) : (updPow s f).jobs = s.jobs := rfl
@[simp] theorem updPow_jobNum (s : State) (f : Power → Power) : (updPow s f).jobNum = s.jobNum := rfl
@[simp] theorem updPow_car (s : State) (f : Power → Power) : (updPow s f).car = s.car := rfl
@[simp] theorem updPow_host (s : State) (f : Power → Power) : (updPow s f).host = s.host := rfl
@[simp] theorem updPow_pow (s : State) (f : Power → Power) : (updPow s f).pow = f s.pow := rfl
@[simp] theorem updPow_innk (s : State) (f : Power → Power) : (updPow s f).innk = s.innk := rfl
@[simp] theorem updPow_psp (s : State) (f : Power → Power) : (updPow s f).psp = s.psp := rfl
@[simp] theorem updPow_boot (s : State) (f : Power → Power) : (updPow s f).boot = s.boot := rfl
@[simp] theorem updPow_tick (s : State) (f : Power → Power) : (updPow s f).tick = s.tick := rfl
@[simp] theorem updPow_faults (s : State) (f : Power → Power) : (updPow s f).faults = s.faults := rfl
@[simp] theorem updPow_events (s : State) (f : Power → Power) : (updPow s f).events = s.events := rfl
@[simp] theorem updPow_free (s : State) (f : Power → Power) : (updPow s f).free = s.free := rfl

/-! updCar -/

@[simp] theorem updCar_pending (s : State) (f : Caravan → Caravan) : (updCar s f).pending = s.pending := rfl
@[simp] theorem updCar_regs (s : State) (f : Caravan → Caravan) : (updCar s f).regs = s.regs := rfl
@[simp] theorem updCar_cores (s : State) (f : Caravan → Caravan) : (updCar s f).cores = s.cores := rfl
@[simp] theorem updCar_dieCyc (s : State) (f : Caravan → Caravan) : (updCar s f).dieCyc = s.dieCyc := rfl
@[simp] theorem updCar_esc (s : State) (f : Caravan → Caravan) : (updCar s f).esc = s.esc := rfl
@[simp] theorem updCar_hbm (s : State) (f : Caravan → Caravan) : (updCar s f).hbm = s.hbm := rfl
@[simp] theorem updCar_grants (s : State) (f : Caravan → Caravan) : (updCar s f).grants = s.grants := rfl
@[simp] theorem updCar_fab (s : State) (f : Caravan → Caravan) : (updCar s f).fab = s.fab := rfl
@[simp] theorem updCar_jobs (s : State) (f : Caravan → Caravan) : (updCar s f).jobs = s.jobs := rfl
@[simp] theorem updCar_jobNum (s : State) (f : Caravan → Caravan) : (updCar s f).jobNum = s.jobNum := rfl
@[simp] theorem updCar_car (s : State) (f : Caravan → Caravan) : (updCar s f).car = f s.car := rfl
@[simp] theorem updCar_host (s : State) (f : Caravan → Caravan) : (updCar s f).host = s.host := rfl
@[simp] theorem updCar_pow (s : State) (f : Caravan → Caravan) : (updCar s f).pow = s.pow := rfl
@[simp] theorem updCar_innk (s : State) (f : Caravan → Caravan) : (updCar s f).innk = s.innk := rfl
@[simp] theorem updCar_psp (s : State) (f : Caravan → Caravan) : (updCar s f).psp = s.psp := rfl
@[simp] theorem updCar_boot (s : State) (f : Caravan → Caravan) : (updCar s f).boot = s.boot := rfl
@[simp] theorem updCar_tick (s : State) (f : Caravan → Caravan) : (updCar s f).tick = s.tick := rfl
@[simp] theorem updCar_faults (s : State) (f : Caravan → Caravan) : (updCar s f).faults = s.faults := rfl
@[simp] theorem updCar_events (s : State) (f : Caravan → Caravan) : (updCar s f).events = s.events := rfl
@[simp] theorem updCar_free (s : State) (f : Caravan → Caravan) : (updCar s f).free = s.free := rfl

/-! updFab -/

@[simp] theorem updFab_pending (s : State) (f : Fab → Fab) : (updFab s f).pending = s.pending := rfl
@[simp] theorem updFab_regs (s : State) (f : Fab → Fab) : (updFab s f).regs = s.regs := rfl
@[simp] theorem updFab_cores (s : State) (f : Fab → Fab) : (updFab s f).cores = s.cores := rfl
@[simp] theorem updFab_dieCyc (s : State) (f : Fab → Fab) : (updFab s f).dieCyc = s.dieCyc := rfl
@[simp] theorem updFab_esc (s : State) (f : Fab → Fab) : (updFab s f).esc = s.esc := rfl
@[simp] theorem updFab_hbm (s : State) (f : Fab → Fab) : (updFab s f).hbm = s.hbm := rfl
@[simp] theorem updFab_grants (s : State) (f : Fab → Fab) : (updFab s f).grants = s.grants := rfl
@[simp] theorem updFab_fab (s : State) (f : Fab → Fab) : (updFab s f).fab = f s.fab := rfl
@[simp] theorem updFab_jobs (s : State) (f : Fab → Fab) : (updFab s f).jobs = s.jobs := rfl
@[simp] theorem updFab_jobNum (s : State) (f : Fab → Fab) : (updFab s f).jobNum = s.jobNum := rfl
@[simp] theorem updFab_car (s : State) (f : Fab → Fab) : (updFab s f).car = s.car := rfl
@[simp] theorem updFab_host (s : State) (f : Fab → Fab) : (updFab s f).host = s.host := rfl
@[simp] theorem updFab_pow (s : State) (f : Fab → Fab) : (updFab s f).pow = s.pow := rfl
@[simp] theorem updFab_innk (s : State) (f : Fab → Fab) : (updFab s f).innk = s.innk := rfl
@[simp] theorem updFab_psp (s : State) (f : Fab → Fab) : (updFab s f).psp = s.psp := rfl
@[simp] theorem updFab_boot (s : State) (f : Fab → Fab) : (updFab s f).boot = s.boot := rfl
@[simp] theorem updFab_tick (s : State) (f : Fab → Fab) : (updFab s f).tick = s.tick := rfl
@[simp] theorem updFab_faults (s : State) (f : Fab → Fab) : (updFab s f).faults = s.faults := rfl
@[simp] theorem updFab_events (s : State) (f : Fab → Fab) : (updFab s f).events = s.events := rfl
@[simp] theorem updFab_free (s : State) (f : Fab → Fab) : (updFab s f).free = s.free := rfl

/-! updPsp -/

@[simp] theorem updPsp_pending (s : State) (f : Passport → Passport) : (updPsp s f).pending = s.pending := rfl
@[simp] theorem updPsp_regs (s : State) (f : Passport → Passport) : (updPsp s f).regs = s.regs := rfl
@[simp] theorem updPsp_cores (s : State) (f : Passport → Passport) : (updPsp s f).cores = s.cores := rfl
@[simp] theorem updPsp_dieCyc (s : State) (f : Passport → Passport) : (updPsp s f).dieCyc = s.dieCyc := rfl
@[simp] theorem updPsp_esc (s : State) (f : Passport → Passport) : (updPsp s f).esc = s.esc := rfl
@[simp] theorem updPsp_hbm (s : State) (f : Passport → Passport) : (updPsp s f).hbm = s.hbm := rfl
@[simp] theorem updPsp_grants (s : State) (f : Passport → Passport) : (updPsp s f).grants = s.grants := rfl
@[simp] theorem updPsp_fab (s : State) (f : Passport → Passport) : (updPsp s f).fab = s.fab := rfl
@[simp] theorem updPsp_jobs (s : State) (f : Passport → Passport) : (updPsp s f).jobs = s.jobs := rfl
@[simp] theorem updPsp_jobNum (s : State) (f : Passport → Passport) : (updPsp s f).jobNum = s.jobNum := rfl
@[simp] theorem updPsp_car (s : State) (f : Passport → Passport) : (updPsp s f).car = s.car := rfl
@[simp] theorem updPsp_host (s : State) (f : Passport → Passport) : (updPsp s f).host = s.host := rfl
@[simp] theorem updPsp_pow (s : State) (f : Passport → Passport) : (updPsp s f).pow = s.pow := rfl
@[simp] theorem updPsp_innk (s : State) (f : Passport → Passport) : (updPsp s f).innk = s.innk := rfl
@[simp] theorem updPsp_psp (s : State) (f : Passport → Passport) : (updPsp s f).psp = f s.psp := rfl
@[simp] theorem updPsp_boot (s : State) (f : Passport → Passport) : (updPsp s f).boot = s.boot := rfl
@[simp] theorem updPsp_tick (s : State) (f : Passport → Passport) : (updPsp s f).tick = s.tick := rfl
@[simp] theorem updPsp_faults (s : State) (f : Passport → Passport) : (updPsp s f).faults = s.faults := rfl
@[simp] theorem updPsp_events (s : State) (f : Passport → Passport) : (updPsp s f).events = s.events := rfl
@[simp] theorem updPsp_free (s : State) (f : Passport → Passport) : (updPsp s f).free = s.free := rfl

/-! updHost -/

@[simp] theorem updHost_pending (s : State) (f : HostIf → HostIf) : (updHost s f).pending = s.pending := rfl
@[simp] theorem updHost_regs (s : State) (f : HostIf → HostIf) : (updHost s f).regs = s.regs := rfl
@[simp] theorem updHost_cores (s : State) (f : HostIf → HostIf) : (updHost s f).cores = s.cores := rfl
@[simp] theorem updHost_dieCyc (s : State) (f : HostIf → HostIf) : (updHost s f).dieCyc = s.dieCyc := rfl
@[simp] theorem updHost_esc (s : State) (f : HostIf → HostIf) : (updHost s f).esc = s.esc := rfl
@[simp] theorem updHost_hbm (s : State) (f : HostIf → HostIf) : (updHost s f).hbm = s.hbm := rfl
@[simp] theorem updHost_grants (s : State) (f : HostIf → HostIf) : (updHost s f).grants = s.grants := rfl
@[simp] theorem updHost_fab (s : State) (f : HostIf → HostIf) : (updHost s f).fab = s.fab := rfl
@[simp] theorem updHost_jobs (s : State) (f : HostIf → HostIf) : (updHost s f).jobs = s.jobs := rfl
@[simp] theorem updHost_jobNum (s : State) (f : HostIf → HostIf) : (updHost s f).jobNum = s.jobNum := rfl
@[simp] theorem updHost_car (s : State) (f : HostIf → HostIf) : (updHost s f).car = s.car := rfl
@[simp] theorem updHost_host (s : State) (f : HostIf → HostIf) : (updHost s f).host = f s.host := rfl
@[simp] theorem updHost_pow (s : State) (f : HostIf → HostIf) : (updHost s f).pow = s.pow := rfl
@[simp] theorem updHost_innk (s : State) (f : HostIf → HostIf) : (updHost s f).innk = s.innk := rfl
@[simp] theorem updHost_psp (s : State) (f : HostIf → HostIf) : (updHost s f).psp = s.psp := rfl
@[simp] theorem updHost_boot (s : State) (f : HostIf → HostIf) : (updHost s f).boot = s.boot := rfl
@[simp] theorem updHost_tick (s : State) (f : HostIf → HostIf) : (updHost s f).tick = s.tick := rfl
@[simp] theorem updHost_faults (s : State) (f : HostIf → HostIf) : (updHost s f).faults = s.faults := rfl
@[simp] theorem updHost_events (s : State) (f : HostIf → HostIf) : (updHost s f).events = s.events := rfl
@[simp] theorem updHost_free (s : State) (f : HostIf → HostIf) : (updHost s f).free = s.free := rfl

/-! setJob -/

@[simp] theorem setJob_pending (s : State) (b : Nat) (j : Job) : (setJob s b j).pending = s.pending := rfl
@[simp] theorem setJob_regs (s : State) (b : Nat) (j : Job) : (setJob s b j).regs = s.regs := rfl
@[simp] theorem setJob_cores (s : State) (b : Nat) (j : Job) : (setJob s b j).cores = s.cores := rfl
@[simp] theorem setJob_dieCyc (s : State) (b : Nat) (j : Job) : (setJob s b j).dieCyc = s.dieCyc := rfl
@[simp] theorem setJob_esc (s : State) (b : Nat) (j : Job) : (setJob s b j).esc = s.esc := rfl
@[simp] theorem setJob_hbm (s : State) (b : Nat) (j : Job) : (setJob s b j).hbm = s.hbm := rfl
@[simp] theorem setJob_grants (s : State) (b : Nat) (j : Job) : (setJob s b j).grants = s.grants := rfl
@[simp] theorem setJob_fab (s : State) (b : Nat) (j : Job) : (setJob s b j).fab = s.fab := rfl
@[simp] theorem setJob_jobNum (s : State) (b : Nat) (j : Job) : (setJob s b j).jobNum = s.jobNum := rfl
@[simp] theorem setJob_car (s : State) (b : Nat) (j : Job) : (setJob s b j).car = s.car := rfl
@[simp] theorem setJob_host (s : State) (b : Nat) (j : Job) : (setJob s b j).host = s.host := rfl
@[simp] theorem setJob_pow (s : State) (b : Nat) (j : Job) : (setJob s b j).pow = s.pow := rfl
@[simp] theorem setJob_innk (s : State) (b : Nat) (j : Job) : (setJob s b j).innk = s.innk := rfl
@[simp] theorem setJob_psp (s : State) (b : Nat) (j : Job) : (setJob s b j).psp = s.psp := rfl
@[simp] theorem setJob_boot (s : State) (b : Nat) (j : Job) : (setJob s b j).boot = s.boot := rfl
@[simp] theorem setJob_tick (s : State) (b : Nat) (j : Job) : (setJob s b j).tick = s.tick := rfl
@[simp] theorem setJob_faults (s : State) (b : Nat) (j : Job) : (setJob s b j).faults = s.faults := rfl
@[simp] theorem setJob_events (s : State) (b : Nat) (j : Job) : (setJob s b j).events = s.events := rfl
@[simp] theorem setJob_free (s : State) (b : Nat) (j : Job) : (setJob s b j).free = s.free := rfl

/-! updJob -/

@[simp] theorem updJob_pending (s : State) (b : Nat) (f : Job → Job) : (updJob s b f).pending = s.pending := rfl
@[simp] theorem updJob_regs (s : State) (b : Nat) (f : Job → Job) : (updJob s b f).regs = s.regs := rfl
@[simp] theorem updJob_cores (s : State) (b : Nat) (f : Job → Job) : (updJob s b f).cores = s.cores := rfl
@[simp] theorem updJob_dieCyc (s : State) (b : Nat) (f : Job → Job) : (updJob s b f).dieCyc = s.dieCyc := rfl
@[simp] theorem updJob_esc (s : State) (b : Nat) (f : Job → Job) : (updJob s b f).esc = s.esc := rfl
@[simp] theorem updJob_hbm (s : State) (b : Nat) (f : Job → Job) : (updJob s b f).hbm = s.hbm := rfl
@[simp] theorem updJob_grants (s : State) (b : Nat) (f : Job → Job) : (updJob s b f).grants = s.grants := rfl
@[simp] theorem updJob_fab (s : State) (b : Nat) (f : Job → Job) : (updJob s b f).fab = s.fab := rfl
@[simp] theorem updJob_jobNum (s : State) (b : Nat) (f : Job → Job) : (updJob s b f).jobNum = s.jobNum := rfl
@[simp] theorem updJob_car (s : State) (b : Nat) (f : Job → Job) : (updJob s b f).car = s.car := rfl
@[simp] theorem updJob_host (s : State) (b : Nat) (f : Job → Job) : (updJob s b f).host = s.host := rfl
@[simp] theorem updJob_pow (s : State) (b : Nat) (f : Job → Job) : (updJob s b f).pow = s.pow := rfl
@[simp] theorem updJob_innk (s : State) (b : Nat) (f : Job → Job) : (updJob s b f).innk = s.innk := rfl
@[simp] theorem updJob_psp (s : State) (b : Nat) (f : Job → Job) : (updJob s b f).psp = s.psp := rfl
@[simp] theorem updJob_boot (s : State) (b : Nat) (f : Job → Job) : (updJob s b f).boot = s.boot := rfl
@[simp] theorem updJob_tick (s : State) (b : Nat) (f : Job → Job) : (updJob s b f).tick = s.tick := rfl
@[simp] theorem updJob_faults (s : State) (b : Nat) (f : Job → Job) : (updJob s b f).faults = s.faults := rfl
@[simp] theorem updJob_events (s : State) (b : Nat) (f : Job → Job) : (updJob s b f).events = s.events := rfl
@[simp] theorem updJob_free (s : State) (b : Nat) (f : Job → Job) : (updJob s b f).free = s.free := rfl

/-! setQp -/

@[simp] theorem setQp_pending (s : State) (i : Nat) (q : Qp) : (setQp s i q).pending = s.pending := rfl
@[simp] theorem setQp_regs (s : State) (i : Nat) (q : Qp) : (setQp s i q).regs = s.regs := rfl
@[simp] theorem setQp_cores (s : State) (i : Nat) (q : Qp) : (setQp s i q).cores = s.cores := rfl
@[simp] theorem setQp_dieCyc (s : State) (i : Nat) (q : Qp) : (setQp s i q).dieCyc = s.dieCyc := rfl
@[simp] theorem setQp_esc (s : State) (i : Nat) (q : Qp) : (setQp s i q).esc = s.esc := rfl
@[simp] theorem setQp_hbm (s : State) (i : Nat) (q : Qp) : (setQp s i q).hbm = s.hbm := rfl
@[simp] theorem setQp_grants (s : State) (i : Nat) (q : Qp) : (setQp s i q).grants = s.grants := rfl
@[simp] theorem setQp_fab (s : State) (i : Nat) (q : Qp) : (setQp s i q).fab = s.fab := rfl
@[simp] theorem setQp_jobs (s : State) (i : Nat) (q : Qp) : (setQp s i q).jobs = s.jobs := rfl
@[simp] theorem setQp_jobNum (s : State) (i : Nat) (q : Qp) : (setQp s i q).jobNum = s.jobNum := rfl
@[simp] theorem setQp_car (s : State) (i : Nat) (q : Qp) : (setQp s i q).car = s.car := rfl
@[simp] theorem setQp_pow (s : State) (i : Nat) (q : Qp) : (setQp s i q).pow = s.pow := rfl
@[simp] theorem setQp_innk (s : State) (i : Nat) (q : Qp) : (setQp s i q).innk = s.innk := rfl
@[simp] theorem setQp_psp (s : State) (i : Nat) (q : Qp) : (setQp s i q).psp = s.psp := rfl
@[simp] theorem setQp_boot (s : State) (i : Nat) (q : Qp) : (setQp s i q).boot = s.boot := rfl
@[simp] theorem setQp_tick (s : State) (i : Nat) (q : Qp) : (setQp s i q).tick = s.tick := rfl
@[simp] theorem setQp_faults (s : State) (i : Nat) (q : Qp) : (setQp s i q).faults = s.faults := rfl
@[simp] theorem setQp_events (s : State) (i : Nat) (q : Qp) : (setQp s i q).events = s.events := rfl
@[simp] theorem setQp_free (s : State) (i : Nat) (q : Qp) : (setQp s i q).free = s.free := rfl

/-! setLk -/

@[simp] theorem setLk_pending (s : State) (l : Nat) (v : Link) : (setLk s l v).pending = s.pending := rfl
@[simp] theorem setLk_regs (s : State) (l : Nat) (v : Link) : (setLk s l v).regs = s.regs := rfl
@[simp] theorem setLk_cores (s : State) (l : Nat) (v : Link) : (setLk s l v).cores = s.cores := rfl
@[simp] theorem setLk_dieCyc (s : State) (l : Nat) (v : Link) : (setLk s l v).dieCyc = s.dieCyc := rfl
@[simp] theorem setLk_esc (s : State) (l : Nat) (v : Link) : (setLk s l v).esc = s.esc := rfl
@[simp] theorem setLk_hbm (s : State) (l : Nat) (v : Link) : (setLk s l v).hbm = s.hbm := rfl
@[simp] theorem setLk_grants (s : State) (l : Nat) (v : Link) : (setLk s l v).grants = s.grants := rfl
@[simp] theorem setLk_jobs (s : State) (l : Nat) (v : Link) : (setLk s l v).jobs = s.jobs := rfl
@[simp] theorem setLk_jobNum (s : State) (l : Nat) (v : Link) : (setLk s l v).jobNum = s.jobNum := rfl
@[simp] theorem setLk_car (s : State) (l : Nat) (v : Link) : (setLk s l v).car = s.car := rfl
@[simp] theorem setLk_host (s : State) (l : Nat) (v : Link) : (setLk s l v).host = s.host := rfl
@[simp] theorem setLk_pow (s : State) (l : Nat) (v : Link) : (setLk s l v).pow = s.pow := rfl
@[simp] theorem setLk_innk (s : State) (l : Nat) (v : Link) : (setLk s l v).innk = s.innk := rfl
@[simp] theorem setLk_psp (s : State) (l : Nat) (v : Link) : (setLk s l v).psp = s.psp := rfl
@[simp] theorem setLk_boot (s : State) (l : Nat) (v : Link) : (setLk s l v).boot = s.boot := rfl
@[simp] theorem setLk_tick (s : State) (l : Nat) (v : Link) : (setLk s l v).tick = s.tick := rfl
@[simp] theorem setLk_faults (s : State) (l : Nat) (v : Link) : (setLk s l v).faults = s.faults := rfl
@[simp] theorem setLk_events (s : State) (l : Nat) (v : Link) : (setLk s l v).events = s.events := rfl
@[simp] theorem setLk_free (s : State) (l : Nat) (v : Link) : (setLk s l v).free = s.free := rfl

/-! updLk -/

@[simp] theorem updLk_pending (s : State) (l : Nat) (f : Link → Link) : (updLk s l f).pending = s.pending := rfl
@[simp] theorem updLk_regs (s : State) (l : Nat) (f : Link → Link) : (updLk s l f).regs = s.regs := rfl
@[simp] theorem updLk_cores (s : State) (l : Nat) (f : Link → Link) : (updLk s l f).cores = s.cores := rfl
@[simp] theorem updLk_dieCyc (s : State) (l : Nat) (f : Link → Link) : (updLk s l f).dieCyc = s.dieCyc := rfl
@[simp] theorem updLk_esc (s : State) (l : Nat) (f : Link → Link) : (updLk s l f).esc = s.esc := rfl
@[simp] theorem updLk_hbm (s : State) (l : Nat) (f : Link → Link) : (updLk s l f).hbm = s.hbm := rfl
@[simp] theorem updLk_grants (s : State) (l : Nat) (f : Link → Link) : (updLk s l f).grants = s.grants := rfl
@[simp] theorem updLk_jobs (s : State) (l : Nat) (f : Link → Link) : (updLk s l f).jobs = s.jobs := rfl
@[simp] theorem updLk_jobNum (s : State) (l : Nat) (f : Link → Link) : (updLk s l f).jobNum = s.jobNum := rfl
@[simp] theorem updLk_car (s : State) (l : Nat) (f : Link → Link) : (updLk s l f).car = s.car := rfl
@[simp] theorem updLk_host (s : State) (l : Nat) (f : Link → Link) : (updLk s l f).host = s.host := rfl
@[simp] theorem updLk_pow (s : State) (l : Nat) (f : Link → Link) : (updLk s l f).pow = s.pow := rfl
@[simp] theorem updLk_innk (s : State) (l : Nat) (f : Link → Link) : (updLk s l f).innk = s.innk := rfl
@[simp] theorem updLk_psp (s : State) (l : Nat) (f : Link → Link) : (updLk s l f).psp = s.psp := rfl
@[simp] theorem updLk_boot (s : State) (l : Nat) (f : Link → Link) : (updLk s l f).boot = s.boot := rfl
@[simp] theorem updLk_tick (s : State) (l : Nat) (f : Link → Link) : (updLk s l f).tick = s.tick := rfl
@[simp] theorem updLk_faults (s : State) (l : Nat) (f : Link → Link) : (updLk s l f).faults = s.faults := rfl
@[simp] theorem updLk_events (s : State) (l : Nat) (f : Link → Link) : (updLk s l f).events = s.events := rfl
@[simp] theorem updLk_free (s : State) (l : Nat) (f : Link → Link) : (updLk s l f).free = s.free := rfl

/-! setDom -/

@[simp] theorem setDom_pending (s : State) (d : Nat) (v : Domain) : (setDom s d v).pending = s.pending := rfl
@[simp] theorem setDom_regs (s : State) (d : Nat) (v : Domain) : (setDom s d v).regs = s.regs := rfl
@[simp] theorem setDom_cores (s : State) (d : Nat) (v : Domain) : (setDom s d v).cores = s.cores := rfl
@[simp] theorem setDom_dieCyc (s : State) (d : Nat) (v : Domain) : (setDom s d v).dieCyc = s.dieCyc := rfl
@[simp] theorem setDom_esc (s : State) (d : Nat) (v : Domain) : (setDom s d v).esc = s.esc := rfl
@[simp] theorem setDom_grants (s : State) (d : Nat) (v : Domain) : (setDom s d v).grants = s.grants := rfl
@[simp] theorem setDom_fab (s : State) (d : Nat) (v : Domain) : (setDom s d v).fab = s.fab := rfl
@[simp] theorem setDom_jobs (s : State) (d : Nat) (v : Domain) : (setDom s d v).jobs = s.jobs := rfl
@[simp] theorem setDom_jobNum (s : State) (d : Nat) (v : Domain) : (setDom s d v).jobNum = s.jobNum := rfl
@[simp] theorem setDom_car (s : State) (d : Nat) (v : Domain) : (setDom s d v).car = s.car := rfl
@[simp] theorem setDom_host (s : State) (d : Nat) (v : Domain) : (setDom s d v).host = s.host := rfl
@[simp] theorem setDom_pow (s : State) (d : Nat) (v : Domain) : (setDom s d v).pow = s.pow := rfl
@[simp] theorem setDom_innk (s : State) (d : Nat) (v : Domain) : (setDom s d v).innk = s.innk := rfl
@[simp] theorem setDom_psp (s : State) (d : Nat) (v : Domain) : (setDom s d v).psp = s.psp := rfl
@[simp] theorem setDom_boot (s : State) (d : Nat) (v : Domain) : (setDom s d v).boot = s.boot := rfl
@[simp] theorem setDom_tick (s : State) (d : Nat) (v : Domain) : (setDom s d v).tick = s.tick := rfl
@[simp] theorem setDom_faults (s : State) (d : Nat) (v : Domain) : (setDom s d v).faults = s.faults := rfl
@[simp] theorem setDom_events (s : State) (d : Nat) (v : Domain) : (setDom s d v).events = s.events := rfl
@[simp] theorem setDom_free (s : State) (d : Nat) (v : Domain) : (setDom s d v).free = s.free := rfl

/-! logRec -/

@[simp] theorem logRec_pending (s : State) (cls code status data : Nat) : (logRec s cls code status data).pending = s.pending := by unfold logRec; dsimp only; split <;> simp
@[simp] theorem logRec_cores (s : State) (cls code status data : Nat) : (logRec s cls code status data).cores = s.cores := by unfold logRec; dsimp only; split <;> simp
@[simp] theorem logRec_dieCyc (s : State) (cls code status data : Nat) : (logRec s cls code status data).dieCyc = s.dieCyc := by unfold logRec; dsimp only; split <;> simp
@[simp] theorem logRec_esc (s : State) (cls code status data : Nat) : (logRec s cls code status data).esc = s.esc := by unfold logRec; dsimp only; split <;> simp
@[simp] theorem logRec_hbm (s : State) (cls code status data : Nat) : (logRec s cls code status data).hbm = s.hbm := by unfold logRec; dsimp only; split <;> simp
@[simp] theorem logRec_grants (s : State) (cls code status data : Nat) : (logRec s cls code status data).grants = s.grants := by unfold logRec; dsimp only; split <;> simp
@[simp] theorem logRec_fab (s : State) (cls code status data : Nat) : (logRec s cls code status data).fab = s.fab := by unfold logRec; dsimp only; split <;> simp
@[simp] theorem logRec_jobs (s : State) (cls code status data : Nat) : (logRec s cls code status data).jobs = s.jobs := by unfold logRec; dsimp only; split <;> simp
@[simp] theorem logRec_jobNum (s : State) (cls code status data : Nat) : (logRec s cls code status data).jobNum = s.jobNum := by unfold logRec; dsimp only; split <;> simp
@[simp] theorem logRec_car (s : State) (cls code status data : Nat) : (logRec s cls code status data).car = s.car := by unfold logRec; dsimp only; split <;> simp
@[simp] theorem logRec_host (s : State) (cls code status data : Nat) : (logRec s cls code status data).host = s.host := by unfold logRec; dsimp only; split <;> simp
@[simp] theorem logRec_pow (s : State) (cls code status data : Nat) : (logRec s cls code status data).pow = s.pow := by unfold logRec; dsimp only; split <;> simp
@[simp] theorem logRec_psp (s : State) (cls code status data : Nat) : (logRec s cls code status data).psp = s.psp := by unfold logRec; dsimp only; split <;> simp
@[simp] theorem logRec_boot (s : State) (cls code status data : Nat) : (logRec s cls code status data).boot = s.boot := by unfold logRec; dsimp only; split <;> simp
@[simp] theorem logRec_tick (s : State) (cls code status data : Nat) : (logRec s cls code status data).tick = s.tick := by unfold logRec; dsimp only; split <;> simp
@[simp] theorem logRec_faults (s : State) (cls code status data : Nat) : (logRec s cls code status data).faults = s.faults := by unfold logRec; dsimp only; split <;> simp
@[simp] theorem logRec_events (s : State) (cls code status data : Nat) : (logRec s cls code status data).events = s.events := by unfold logRec; dsimp only; split <;> simp
@[simp] theorem logRec_free (s : State) (cls code status data : Nat) : (logRec s cls code status data).free = s.free := by unfold logRec; dsimp only; split <;> simp

/-! raiseEvent -/

@[simp] theorem raiseEvent_pending (s : State) (code status detail : Nat) (res : List (Nat × Nat)) : (raiseEvent s code status detail res).pending = s.pending := by
  unfold raiseEvent; dsimp only; split <;> simp
@[simp] theorem raiseEvent_cores (s : State) (code status detail : Nat) (res : List (Nat × Nat)) : (raiseEvent s code status detail res).cores = s.cores := by
  unfold raiseEvent; dsimp only; split <;> simp
@[simp] theorem raiseEvent_dieCyc (s : State) (code status detail : Nat) (res : List (Nat × Nat)) : (raiseEvent s code status detail res).dieCyc = s.dieCyc := by
  unfold raiseEvent; dsimp only; split <;> simp
@[simp] theorem raiseEvent_esc (s : State) (code status detail : Nat) (res : List (Nat × Nat)) : (raiseEvent s code status detail res).esc = s.esc := by
  unfold raiseEvent; dsimp only; split <;> simp
@[simp] theorem raiseEvent_hbm (s : State) (code status detail : Nat) (res : List (Nat × Nat)) : (raiseEvent s code status detail res).hbm = s.hbm := by
  unfold raiseEvent; dsimp only; split <;> simp
@[simp] theorem raiseEvent_grants (s : State) (code status detail : Nat) (res : List (Nat × Nat)) : (raiseEvent s code status detail res).grants = s.grants := by
  unfold raiseEvent; dsimp only; split <;> simp
@[simp] theorem raiseEvent_fab (s : State) (code status detail : Nat) (res : List (Nat × Nat)) : (raiseEvent s code status detail res).fab = s.fab := by
  unfold raiseEvent; dsimp only; split <;> simp
@[simp] theorem raiseEvent_jobs (s : State) (code status detail : Nat) (res : List (Nat × Nat)) : (raiseEvent s code status detail res).jobs = s.jobs := by
  unfold raiseEvent; dsimp only; split <;> simp
@[simp] theorem raiseEvent_jobNum (s : State) (code status detail : Nat) (res : List (Nat × Nat)) : (raiseEvent s code status detail res).jobNum = s.jobNum := by
  unfold raiseEvent; dsimp only; split <;> simp
@[simp] theorem raiseEvent_car (s : State) (code status detail : Nat) (res : List (Nat × Nat)) : (raiseEvent s code status detail res).car = s.car := by
  unfold raiseEvent; dsimp only; split <;> simp
@[simp] theorem raiseEvent_pow (s : State) (code status detail : Nat) (res : List (Nat × Nat)) : (raiseEvent s code status detail res).pow = s.pow := by
  unfold raiseEvent; dsimp only; split <;> simp
@[simp] theorem raiseEvent_psp (s : State) (code status detail : Nat) (res : List (Nat × Nat)) : (raiseEvent s code status detail res).psp = s.psp := by
  unfold raiseEvent; dsimp only; split <;> simp
@[simp] theorem raiseEvent_boot (s : State) (code status detail : Nat) (res : List (Nat × Nat)) : (raiseEvent s code status detail res).boot = s.boot := by
  unfold raiseEvent; dsimp only; split <;> simp
@[simp] theorem raiseEvent_tick (s : State) (code status detail : Nat) (res : List (Nat × Nat)) : (raiseEvent s code status detail res).tick = s.tick := by
  unfold raiseEvent; dsimp only; split <;> simp
@[simp] theorem raiseEvent_faults (s : State) (code status detail : Nat) (res : List (Nat × Nat)) : (raiseEvent s code status detail res).faults = s.faults := by
  unfold raiseEvent; dsimp only; split <;> simp
@[simp] theorem raiseEvent_free (s : State) (code status detail : Nat) (res : List (Nat × Nat)) : (raiseEvent s code status detail res).free = s.free := by
  unfold raiseEvent; dsimp only; split <;> simp

end Sys2Proof.Machine
end

