-- ==== Sys2Proof/Laws/Regs.lean ====
section
/-!
SUPPORT. What reading and writing register words and fields does: a field reads as last written, every other word and every
other field of the word reads as before, and what does not write registers leaves them.
-/
namespace Sys2Proof.Machine

/-! ## Fields of a number -/

theorem natField_lt (n lsb w : Nat) : natField n lsb w < 2 ^ w := Nat.mod_lt _ (Nat.two_pow_pos w)

theorem natField_testBit (n lsb w i : Nat) : (natField n lsb w).testBit i = (decide (i < w) && n.testBit (lsb + i)) := by
  simp [natField, Nat.testBit_mod_two_pow, Nat.testBit_shiftRight]

theorem natSetField_testBit (n lsb w v i : Nat) :
    (natSetField n lsb w v).testBit i =
      if i < lsb then n.testBit i else if i < lsb + w then v.testBit (i - lsb) else n.testBit i := by
  have h1 : n % 2 ^ lsb < 2 ^ lsb := Nat.mod_lt _ (Nat.two_pow_pos _)
  have h2 : v % 2 ^ w < 2 ^ w := Nat.mod_lt _ (Nat.two_pow_pos _)
  have e1 : n % 2 ^ lsb + (v % 2 ^ w) <<< lsb = 2 ^ lsb * (v % 2 ^ w) + n % 2 ^ lsb := by
    rw [Nat.shiftLeft_eq, Nat.mul_comm, Nat.add_comm]
  have h3 : n % 2 ^ lsb + (v % 2 ^ w) <<< lsb < 2 ^ (lsb + w) := by
    rw [e1, Nat.pow_add]
    calc 2 ^ lsb * (v % 2 ^ w) + n % 2 ^ lsb < 2 ^ lsb * (v % 2 ^ w) + 2 ^ lsb := by omega
      _ = 2 ^ lsb * (v % 2 ^ w + 1) := by rw [Nat.mul_add, Nat.mul_one]
      _ ≤ 2 ^ lsb * 2 ^ w := Nat.mul_le_mul_left _ h2
  have e2 : natSetField n lsb w v
      = 2 ^ (lsb + w) * (n >>> (lsb + w)) + (n % 2 ^ lsb + (v % 2 ^ w) <<< lsb) := by
    unfold natSetField
    rw [Nat.shiftLeft_eq (n >>> (lsb + w)), Nat.mul_comm (n >>> (lsb + w)), Nat.add_comm]
  rw [e2, Nat.testBit_two_pow_mul_add _ h3, e1, Nat.testBit_two_pow_mul_add _ h1]
  by_cases a : i < lsb
  · simp [a, show i < lsb + w by omega, Nat.testBit_mod_two_pow]
  · by_cases b : i < lsb + w
    · simp [a, b, Nat.testBit_mod_two_pow, show i - lsb < w by omega]
    · simp [a, b, Nat.testBit_shiftRight, show lsb + w + (i - (lsb + w)) = i by omega]

/-- A field reads as it was set. -/
theorem natField_setField_same (n lsb w v : Nat) : natField (natSetField n lsb w v) lsb w = v % 2 ^ w := by
  apply Nat.eq_of_testBit_eq
  intro i
  rw [natField_testBit, natSetField_testBit, Nat.testBit_mod_two_pow]
  by_cases h : i < w
  · simp [h, show ¬ lsb + i < lsb by omega]
  · simp [h]

/-- A field that does not overlap the one set reads as before. -/
theorem natField_setField_other (n lsb w v l2 w2 : Nat) (h : l2 + w2 ≤ lsb ∨ lsb + w ≤ l2) :
    natField (natSetField n lsb w v) l2 w2 = natField n l2 w2 := by
  apply Nat.eq_of_testBit_eq
  intro i
  rw [natField_testBit, natField_testBit, natSetField_testBit]
  by_cases hi : i < w2
  · rcases h with h | h
    · simp [hi, show l2 + i < lsb by omega]
    · simp [hi, show ¬ l2 + i < lsb by omega, show ¬ l2 + i < lsb + w by omega]
  · simp [hi]

theorem natSetField_lt (n lsb w v k : Nat) (h : lsb + w ≤ k) (hn : n < 2 ^ k) : natSetField n lsb w v < 2 ^ k := by
  apply Nat.lt_pow_two_of_testBit
  intro i hi
  rw [natSetField_testBit, if_neg (by omega), if_neg (by omega)]
  exact Nat.testBit_lt_two_pow (Nat.lt_of_lt_of_le hn (Nat.pow_le_pow_right (by omega) hi))

theorem rdW_lt (s : State) (page off : Nat) : rdW s page off < 2 ^ 32 := (smGet regDefault s.regs (regKey page off)).isLt

theorem rd2_lt (s : State) (page : Nat) (f : Fld) (i j : Nat) : rd2 s page f i j < 2 ^ f.width := natField_lt _ _ _

/-! ## Words -/

theorem wrW_wf {s : State} {page off v : Nat} (h : smWf regDefault s.regs = true) :
    smWf regDefault (wrW s page off v).regs = true := smPut_wf _ _ _ _ h

/-- A word reads as written, and every other word as before. -/
theorem rdW_wrW {s : State} (h : smWf regDefault s.regs = true) (page off v page' off' : Nat) :
    rdW (wrW s page off v) page' off' = if regKey page' off' = regKey page off then v % 2 ^ 32 else rdW s page' off' := by
  unfold rdW wrW
  split
  · rename_i e
    dsimp only
    rw [e, smGet_put_same _ _ _ _ h]
    simp
  · rename_i e
    dsimp only
    rw [smGet_put_other _ _ _ _ _ h e]

theorem wr2_wf {s : State} {page : Nat} {f : Fld} {i j v : Nat} (h : smWf regDefault s.regs = true) :
    smWf regDefault (wr2 s page f i j v).regs = true := wrW_wf h

theorem wr1_wf {s : State} {page : Nat} {f : Fld} {i v : Nat} (h : smWf regDefault s.regs = true) :
    smWf regDefault (wr1 s page f i v).regs = true := wrW_wf h

theorem wr_wf {s : State} {page : Nat} {f : Fld} {v : Nat} (h : smWf regDefault s.regs = true) :
    smWf regDefault (wr s page f v).regs = true := wrW_wf h

theorem setErr_wf {s : State} {page n : Nat} (h : smWf regDefault s.regs = true) :
    smWf regDefault (setErr s page n).regs = true := by
  unfold setErr; split
  · exact h
  · exact wrW_wf h

theorem setBlk_wf {s : State} {page st : Nat} (h : smWf regDefault s.regs = true) :
    smWf regDefault (setBlk s page st).regs = true := wr_wf (wr_wf h)

theorem resetPage_wf {s : State} {page : Nat} (h : smWf regDefault s.regs = true) :
    smWf regDefault (resetPage s page).regs = true := by
  exact tabDrop_wf regDefault (fun k => k / 1024 == page) s.regs h

/-- A word of a page that is reset reads its reset value. -/
theorem rdW_resetPage {s : State} (h : smWf regDefault s.regs = true) (page page' off : Nat) :
    rdW (resetPage s page) page' off
      = if regKey page' off / 1024 = page then (regDefault (regKey page' off)).toNat else rdW s page' off := by
  unfold rdW resetPage
  dsimp only
  rw [smGet_drop _ _ _ _ h]
  by_cases e : regKey page' off / 1024 = page <;> simp [e]

/-! ## Fields -/

/-- A field reads as written. -/
theorem rd2_wr2_same {s : State} (h : smWf regDefault s.regs = true) (page : Nat) (f : Fld) (i j v : Nat)
    (hf : f.lsb + f.width ≤ 32) : rd2 (wr2 s page f i j v) page f i j = v % 2 ^ f.width := by
  unfold rd2 wr2
  rw [rdW_wrW h, if_pos rfl, Nat.mod_eq_of_lt (natSetField_lt _ _ _ _ 32 hf (rdW_lt _ _ _)), natField_setField_same]

/-- A field of another word reads as before. -/
theorem rd2_wr2_word {s : State} (h : smWf regDefault s.regs = true) (page : Nat) (f : Fld) (i j v page' : Nat) (g : Fld)
    (i' j' : Nat) (hk : regKey page' (fldOff g i' j') ≠ regKey page (fldOff f i j)) :
    rd2 (wr2 s page f i j v) page' g i' j' = rd2 s page' g i' j' := by
  unfold rd2 wr2
  rw [rdW_wrW h, if_neg hk]

/-- A field beside the one written reads as before. -/
theorem rd2_wr2_beside {s : State} (h : smWf regDefault s.regs = true) (page : Nat) (f : Fld) (i j v page' : Nat) (g : Fld)
    (i' j' : Nat) (hf : f.lsb + f.width ≤ 32) (hd : g.lsb + g.width ≤ f.lsb ∨ f.lsb + f.width ≤ g.lsb) :
    rd2 (wr2 s page f i j v) page' g i' j' = rd2 s page' g i' j' := by
  by_cases hk : regKey page' (fldOff g i' j') = regKey page (fldOff f i j)
  · unfold rd2 wr2
    rw [rdW_wrW h, if_pos hk, Nat.mod_eq_of_lt (natSetField_lt _ _ _ _ 32 hf (rdW_lt _ _ _)),
      natField_setField_other _ _ _ _ _ _ hd]
    have e : rdW s page (fldOff f i j) = rdW s page' (fldOff g i' j') := by unfold rdW; rw [hk]
    rw [e]
  · exact rd2_wr2_word h page f i j v page' g i' j' hk

/-- An error bit set by a block whose mask lets it be (R485); every other word reads as before. -/
theorem rdW_setErr {s : State} (h : smWf regDefault s.regs = true) (page n page' off : Nat) :
    rdW (setErr s page n) page' off =
      if (rdW s page 0x14).testBit n then rdW s page' off
      else if regKey page' off = regKey page 0x10 then (rdW s page 0x10 ||| 2 ^ n) % 2 ^ 32 else rdW s page' off := by
  unfold setErr
  split
  · rfl
  · rw [rdW_wrW h]

theorem rd_eq (s : State) (page : Nat) (f : Fld) : rd s page f = rd2 s page f 0 0 := rfl
theorem rd1_eq (s : State) (page : Nat) (f : Fld) (i : Nat) : rd1 s page f i = rd2 s page f i 0 := rfl
theorem wr_eq (s : State) (page : Nat) (f : Fld) (v : Nat) : wr s page f v = wr2 s page f 0 0 v := rfl
theorem wr1_eq (s : State) (page : Nat) (f : Fld) (i v : Nat) : wr1 s page f i v = wr2 s page f i 0 v := rfl

/-! ## Cores -/

theorem core_setCore_same {s : State} (h : smWf (fun _ => Core.reset) s.cores = true) (n : Nat) (c : Core) :
    core (setCore s n c) n = c := tabGet_put_same _ _ _ _ h

theorem core_setCore_other {s : State} (h : smWf (fun _ => Core.reset) s.cores = true) (n m : Nat) (c : Core)
    (hm : m ≠ n) : core (setCore s n c) m = core s m := tabGet_put_other _ _ _ _ _ h hm

theorem setCore_wf {s : State} {n : Nat} {c : Core} (h : smWf (fun _ => Core.reset) s.cores = true) :
    smWf (fun _ => Core.reset) (setCore s n c).cores = true := tabPut_wf _ _ _ _ h

theorem core_updCore_same {s : State} (h : smWf (fun _ => Core.reset) s.cores = true) (n : Nat) (f : Core → Core) :
    core (updCore s n f) n = f (core s n) := core_setCore_same h n _

theorem core_updCore_other {s : State} (h : smWf (fun _ => Core.reset) s.cores = true) (n m : Nat) (f : Core → Core)
    (hm : m ≠ n) : core (updCore s n f) m = core s m := core_setCore_other h n m _ hm

theorem updCore_wf {s : State} {n : Nat} {f : Core → Core} (h : smWf (fun _ => Core.reset) s.cores = true) :
    smWf (fun _ => Core.reset) (updCore s n f).cores = true := setCore_wf h

/-! ## What reads other parts -/

@[simp] theorem rdW_setCore (s : State) (n : Nat) (c : Core) (pg' o' : Nat) : rdW (setCore s n c) pg' o' = rdW s pg' o' := rfl
@[simp] theorem rd2_setCore (s : State) (n : Nat) (c : Core) (pg' : Nat) (g' : Fld) (a' b' : Nat) : rd2 (setCore s n c) pg' g' a' b' = rd2 s pg' g' a' b' := rfl
@[simp] theorem rd1_setCore (s : State) (n : Nat) (c : Core) (pg' : Nat) (g' : Fld) (a' : Nat) : rd1 (setCore s n c) pg' g' a' = rd1 s pg' g' a' := rfl
@[simp] theorem rd_setCore (s : State) (n : Nat) (c : Core) (pg' : Nat) (g' : Fld) : rd (setCore s n c) pg' g' = rd s pg' g' := rfl
@[simp] theorem rdB_setCore (s : State) (n : Nat) (c : Core) (pg' : Nat) (g' : Fld) : rdB (setCore s n c) pg' g' = rdB s pg' g' := rfl
@[simp] theorem rd64_setCore (s : State) (n : Nat) (c : Core) (pg' : Nat) (l' h' : Fld) (a' : Nat) : rd64 (setCore s n c) pg' l' h' a' = rd64 s pg' l' h' a' := rfl
@[simp] theorem now_setCore (s : State) (n : Nat) (c : Core) (m' : Nat) : now (setCore s n c) m' = now s m' := rfl
@[simp] theorem rdW_updCore (s : State) (n : Nat) (f : Core → Core) (pg' o' : Nat) : rdW (updCore s n f) pg' o' = rdW s pg' o' := rfl
@[simp] theorem rd2_updCore (s : State) (n : Nat) (f : Core → Core) (pg' : Nat) (g' : Fld) (a' b' : Nat) : rd2 (updCore s n f) pg' g' a' b' = rd2 s pg' g' a' b' := rfl
@[simp] theorem rd1_updCore (s : State) (n : Nat) (f : Core → Core) (pg' : Nat) (g' : Fld) (a' : Nat) : rd1 (updCore s n f) pg' g' a' = rd1 s pg' g' a' := rfl
@[simp] theorem rd_updCore (s : State) (n : Nat) (f : Core → Core) (pg' : Nat) (g' : Fld) : rd (updCore s n f) pg' g' = rd s pg' g' := rfl
@[simp] theorem rdB_updCore (s : State) (n : Nat) (f : Core → Core) (pg' : Nat) (g' : Fld) : rdB (updCore s n f) pg' g' = rdB s pg' g' := rfl
@[simp] theorem rd64_updCore (s : State) (n : Nat) (f : Core → Core) (pg' : Nat) (l' h' : Fld) (a' : Nat) : rd64 (updCore s n f) pg' l' h' a' = rd64 s pg' l' h' a' := rfl
@[simp] theorem now_updCore (s : State) (n : Nat) (f : Core → Core) (m' : Nat) : now (updCore s n f) m' = now s m' := rfl
@[simp] theorem rdW_addLand (s : State) (n at_ cls ord : Nat) (ev : LandEv) (pg' o' : Nat) : rdW (addLand s n at_ cls ord ev) pg' o' = rdW s pg' o' := rfl
@[simp] theorem rd2_addLand (s : State) (n at_ cls ord : Nat) (ev : LandEv) (pg' : Nat) (g' : Fld) (a' b' : Nat) : rd2 (addLand s n at_ cls ord ev) pg' g' a' b' = rd2 s pg' g' a' b' := rfl
@[simp] theorem rd1_addLand (s : State) (n at_ cls ord : Nat) (ev : LandEv) (pg' : Nat) (g' : Fld) (a' : Nat) : rd1 (addLand s n at_ cls ord ev) pg' g' a' = rd1 s pg' g' a' := rfl
@[simp] theorem rd_addLand (s : State) (n at_ cls ord : Nat) (ev : LandEv) (pg' : Nat) (g' : Fld) : rd (addLand s n at_ cls ord ev) pg' g' = rd s pg' g' := rfl
@[simp] theorem rdB_addLand (s : State) (n at_ cls ord : Nat) (ev : LandEv) (pg' : Nat) (g' : Fld) : rdB (addLand s n at_ cls ord ev) pg' g' = rdB s pg' g' := rfl
@[simp] theorem rd64_addLand (s : State) (n at_ cls ord : Nat) (ev : LandEv) (pg' : Nat) (l' h' : Fld) (a' : Nat) : rd64 (addLand s n at_ cls ord ev) pg' l' h' a' = rd64 s pg' l' h' a' := rfl
@[simp] theorem now_addLand (s : State) (n at_ cls ord : Nat) (ev : LandEv) (m' : Nat) : now (addLand s n at_ cls ord ev) m' = now s m' := rfl
@[simp] theorem rdW_addResult (s : State) (n lat slot : Nat) (ev : LandEv) (pg' o' : Nat) : rdW (addResult s n lat slot ev) pg' o' = rdW s pg' o' := rfl
@[simp] theorem rd2_addResult (s : State) (n lat slot : Nat) (ev : LandEv) (pg' : Nat) (g' : Fld) (a' b' : Nat) : rd2 (addResult s n lat slot ev) pg' g' a' b' = rd2 s pg' g' a' b' := rfl
@[simp] theorem rd1_addResult (s : State) (n lat slot : Nat) (ev : LandEv) (pg' : Nat) (g' : Fld) (a' : Nat) : rd1 (addResult s n lat slot ev) pg' g' a' = rd1 s pg' g' a' := rfl
@[simp] theorem rd_addResult (s : State) (n lat slot : Nat) (ev : LandEv) (pg' : Nat) (g' : Fld) : rd (addResult s n lat slot ev) pg' g' = rd s pg' g' := rfl
@[simp] theorem rdB_addResult (s : State) (n lat slot : Nat) (ev : LandEv) (pg' : Nat) (g' : Fld) : rdB (addResult s n lat slot ev) pg' g' = rdB s pg' g' := rfl
@[simp] theorem rd64_addResult (s : State) (n lat slot : Nat) (ev : LandEv) (pg' : Nat) (l' h' : Fld) (a' : Nat) : rd64 (addResult s n lat slot ev) pg' l' h' a' = rd64 s pg' l' h' a' := rfl
@[simp] theorem now_addResult (s : State) (n lat slot : Nat) (ev : LandEv) (m' : Nat) : now (addResult s n lat slot ev) m' = now s m' := rfl
@[simp] theorem rdW_addAccess (s : State) (n : Nat) (a : Access) (pg' o' : Nat) : rdW (addAccess s n a) pg' o' = rdW s pg' o' := rfl
@[simp] theorem rd2_addAccess (s : State) (n : Nat) (a : Access) (pg' : Nat) (g' : Fld) (a' b' : Nat) : rd2 (addAccess s n a) pg' g' a' b' = rd2 s pg' g' a' b' := rfl
@[simp] theorem rd1_addAccess (s : State) (n : Nat) (a : Access) (pg' : Nat) (g' : Fld) (a' : Nat) : rd1 (addAccess s n a) pg' g' a' = rd1 s pg' g' a' := rfl
@[simp] theorem rd_addAccess (s : State) (n : Nat) (a : Access) (pg' : Nat) (g' : Fld) : rd (addAccess s n a) pg' g' = rd s pg' g' := rfl
@[simp] theorem rdB_addAccess (s : State) (n : Nat) (a : Access) (pg' : Nat) (g' : Fld) : rdB (addAccess s n a) pg' g' = rdB s pg' g' := rfl
@[simp] theorem rd64_addAccess (s : State) (n : Nat) (a : Access) (pg' : Nat) (l' h' : Fld) (a' : Nat) : rd64 (addAccess s n a) pg' l' h' a' = rd64 s pg' l' h' a' := rfl
@[simp] theorem now_addAccess (s : State) (n : Nat) (a : Access) (m' : Nat) : now (addAccess s n a) m' = now s m' := rfl
@[simp] theorem rdW_markSlot (s : State) (n idx : Nat) (pg' o' : Nat) : rdW (markSlot s n idx) pg' o' = rdW s pg' o' := rfl
@[simp] theorem rd2_markSlot (s : State) (n idx : Nat) (pg' : Nat) (g' : Fld) (a' b' : Nat) : rd2 (markSlot s n idx) pg' g' a' b' = rd2 s pg' g' a' b' := rfl
@[simp] theorem rd1_markSlot (s : State) (n idx : Nat) (pg' : Nat) (g' : Fld) (a' : Nat) : rd1 (markSlot s n idx) pg' g' a' = rd1 s pg' g' a' := rfl
@[simp] theorem rd_markSlot (s : State) (n idx : Nat) (pg' : Nat) (g' : Fld) : rd (markSlot s n idx) pg' g' = rd s pg' g' := rfl
@[simp] theorem rdB_markSlot (s : State) (n idx : Nat) (pg' : Nat) (g' : Fld) : rdB (markSlot s n idx) pg' g' = rdB s pg' g' := rfl
@[simp] theorem rd64_markSlot (s : State) (n idx : Nat) (pg' : Nat) (l' h' : Fld) (a' : Nat) : rd64 (markSlot s n idx) pg' l' h' a' = rd64 s pg' l' h' a' := rfl
@[simp] theorem now_markSlot (s : State) (n idx : Nat) (m' : Nat) : now (markSlot s n idx) m' = now s m' := rfl
@[simp] theorem rdW_setPart (s : State) (n p : Nat) (v : Part) (pg' o' : Nat) : rdW (setPart s n p v) pg' o' = rdW s pg' o' := rfl
@[simp] theorem rd2_setPart (s : State) (n p : Nat) (v : Part) (pg' : Nat) (g' : Fld) (a' b' : Nat) : rd2 (setPart s n p v) pg' g' a' b' = rd2 s pg' g' a' b' := rfl
@[simp] theorem rd1_setPart (s : State) (n p : Nat) (v : Part) (pg' : Nat) (g' : Fld) (a' : Nat) : rd1 (setPart s n p v) pg' g' a' = rd1 s pg' g' a' := rfl
@[simp] theorem rd_setPart (s : State) (n p : Nat) (v : Part) (pg' : Nat) (g' : Fld) : rd (setPart s n p v) pg' g' = rd s pg' g' := rfl
@[simp] theorem rdB_setPart (s : State) (n p : Nat) (v : Part) (pg' : Nat) (g' : Fld) : rdB (setPart s n p v) pg' g' = rdB s pg' g' := rfl
@[simp] theorem rd64_setPart (s : State) (n p : Nat) (v : Part) (pg' : Nat) (l' h' : Fld) (a' : Nat) : rd64 (setPart s n p v) pg' l' h' a' = rd64 s pg' l' h' a' := rfl
@[simp] theorem now_setPart (s : State) (n p : Nat) (v : Part) (m' : Nat) : now (setPart s n p v) m' = now s m' := rfl
@[simp] theorem rdW_drawFree (s : State) (pg' o' : Nat) : rdW (drawFree s) pg' o' = rdW s pg' o' := rfl
@[simp] theorem rd2_drawFree (s : State) (pg' : Nat) (g' : Fld) (a' b' : Nat) : rd2 (drawFree s) pg' g' a' b' = rd2 s pg' g' a' b' := rfl
@[simp] theorem rd1_drawFree (s : State) (pg' : Nat) (g' : Fld) (a' : Nat) : rd1 (drawFree s) pg' g' a' = rd1 s pg' g' a' := rfl
@[simp] theorem rd_drawFree (s : State) (pg' : Nat) (g' : Fld) : rd (drawFree s) pg' g' = rd s pg' g' := rfl
@[simp] theorem rdB_drawFree (s : State) (pg' : Nat) (g' : Fld) : rdB (drawFree s) pg' g' = rdB s pg' g' := rfl
@[simp] theorem rd64_drawFree (s : State) (pg' : Nat) (l' h' : Fld) (a' : Nat) : rd64 (drawFree s) pg' l' h' a' = rd64 s pg' l' h' a' := rfl
@[simp] theorem core_drawFree (s : State) (m' : Nat) : core (drawFree s) m' = core s m' := rfl
@[simp] theorem now_drawFree (s : State) (m' : Nat) : now (drawFree s) m' = now s m' := rfl
@[simp] theorem rdW_updInnk (s : State) (f : Innk → Innk) (pg' o' : Nat) : rdW (updInnk s f) pg' o' = rdW s pg' o' := rfl
@[simp] theorem rd2_updInnk (s : State) (f : Innk → Innk) (pg' : Nat) (g' : Fld) (a' b' : Nat) : rd2 (updInnk s f) pg' g' a' b' = rd2 s pg' g' a' b' := rfl
@[simp] theorem rd1_updInnk (s : State) (f : Innk → Innk) (pg' : Nat) (g' : Fld) (a' : Nat) : rd1 (updInnk s f) pg' g' a' = rd1 s pg' g' a' := rfl
@[simp] theorem rd_updInnk (s : State) (f : Innk → Innk) (pg' : Nat) (g' : Fld) : rd (updInnk s f) pg' g' = rd s pg' g' := rfl
@[simp] theorem rdB_updInnk (s : State) (f : Innk → Innk) (pg' : Nat) (g' : Fld) : rdB (updInnk s f) pg' g' = rdB s pg' g' := rfl
@[simp] theorem rd64_updInnk (s : State) (f : Innk → Innk) (pg' : Nat) (l' h' : Fld) (a' : Nat) : rd64 (updInnk s f) pg' l' h' a' = rd64 s pg' l' h' a' := rfl
@[simp] theorem core_updInnk (s : State) (f : Innk → Innk) (m' : Nat) : core (updInnk s f) m' = core s m' := rfl
@[simp] theorem now_updInnk (s : State) (f : Innk → Innk) (m' : Nat) : now (updInnk s f) m' = now s m' := rfl
@[simp] theorem rdW_updBoot (s : State) (f : Boot → Boot) (pg' o' : Nat) : rdW (updBoot s f) pg' o' = rdW s pg' o' := rfl
@[simp] theorem rd2_updBoot (s : State) (f : Boot → Boot) (pg' : Nat) (g' : Fld) (a' b' : Nat) : rd2 (updBoot s f) pg' g' a' b' = rd2 s pg' g' a' b' := rfl
@[simp] theorem rd1_updBoot (s : State) (f : Boot → Boot) (pg' : Nat) (g' : Fld) (a' : Nat) : rd1 (updBoot s f) pg' g' a' = rd1 s pg' g' a' := rfl
@[simp] theorem rd_updBoot (s : State) (f : Boot → Boot) (pg' : Nat) (g' : Fld) : rd (updBoot s f) pg' g' = rd s pg' g' := rfl
@[simp] theorem rdB_updBoot (s : State) (f : Boot → Boot) (pg' : Nat) (g' : Fld) : rdB (updBoot s f) pg' g' = rdB s pg' g' := rfl
@[simp] theorem rd64_updBoot (s : State) (f : Boot → Boot) (pg' : Nat) (l' h' : Fld) (a' : Nat) : rd64 (updBoot s f) pg' l' h' a' = rd64 s pg' l' h' a' := rfl
@[simp] theorem core_updBoot (s : State) (f : Boot → Boot) (m' : Nat) : core (updBoot s f) m' = core s m' := rfl
@[simp] theorem now_updBoot (s : State) (f : Boot → Boot) (m' : Nat) : now (updBoot s f) m' = now s m' := rfl
@[simp] theorem rdW_updPow (s : State) (f : Power → Power) (pg' o' : Nat) : rdW (updPow s f) pg' o' = rdW s pg' o' := rfl
@[simp] theorem rd2_updPow (s : State) (f : Power → Power) (pg' : Nat) (g' : Fld) (a' b' : Nat) : rd2 (updPow s f) pg' g' a' b' = rd2 s pg' g' a' b' := rfl
@[simp] theorem rd1_updPow (s : State) (f : Power → Power) (pg' : Nat) (g' : Fld) (a' : Nat) : rd1 (updPow s f) pg' g' a' = rd1 s pg' g' a' := rfl
@[simp] theorem rd_updPow (s : State) (f : Power → Power) (pg' : Nat) (g' : Fld) : rd (updPow s f) pg' g' = rd s pg' g' := rfl
@[simp] theorem rdB_updPow (s : State) (f : Power → Power) (pg' : Nat) (g' : Fld) : rdB (updPow s f) pg' g' = rdB s pg' g' := rfl
@[simp] theorem rd64_updPow (s : State) (f : Power → Power) (pg' : Nat) (l' h' : Fld) (a' : Nat) : rd64 (updPow s f) pg' l' h' a' = rd64 s pg' l' h' a' := rfl
@[simp] theorem core_updPow (s : State) (f : Power → Power) (m' : Nat) : core (updPow s f) m' = core s m' := rfl
@[simp] theorem now_updPow (s : State) (f : Power → Power) (m' : Nat) : now (updPow s f) m' = now s m' := rfl
@[simp] theorem rdW_updCar (s : State) (f : Caravan → Caravan) (pg' o' : Nat) : rdW (updCar s f) pg' o' = rdW s pg' o' := rfl
@[simp] theorem rd2_updCar (s : State) (f : Caravan → Caravan) (pg' : Nat) (g' : Fld) (a' b' : Nat) : rd2 (updCar s f) pg' g' a' b' = rd2 s pg' g' a' b' := rfl
@[simp] theorem rd1_updCar (s : State) (f : Caravan → Caravan) (pg' : Nat) (g' : Fld) (a' : Nat) : rd1 (updCar s f) pg' g' a' = rd1 s pg' g' a' := rfl
@[simp] theorem rd_updCar (s : State) (f : Caravan → Caravan) (pg' : Nat) (g' : Fld) : rd (updCar s f) pg' g' = rd s pg' g' := rfl
@[simp] theorem rdB_updCar (s : State) (f : Caravan → Caravan) (pg' : Nat) (g' : Fld) : rdB (updCar s f) pg' g' = rdB s pg' g' := rfl
@[simp] theorem rd64_updCar (s : State) (f : Caravan → Caravan) (pg' : Nat) (l' h' : Fld) (a' : Nat) : rd64 (updCar s f) pg' l' h' a' = rd64 s pg' l' h' a' := rfl
@[simp] theorem core_updCar (s : State) (f : Caravan → Caravan) (m' : Nat) : core (updCar s f) m' = core s m' := rfl
@[simp] theorem now_updCar (s : State) (f : Caravan → Caravan) (m' : Nat) : now (updCar s f) m' = now s m' := rfl
@[simp] theorem rdW_updFab (s : State) (f : Fab → Fab) (pg' o' : Nat) : rdW (updFab s f) pg' o' = rdW s pg' o' := rfl
@[simp] theorem rd2_updFab (s : State) (f : Fab → Fab) (pg' : Nat) (g' : Fld) (a' b' : Nat) : rd2 (updFab s f) pg' g' a' b' = rd2 s pg' g' a' b' := rfl
@[simp] theorem rd1_updFab (s : State) (f : Fab → Fab) (pg' : Nat) (g' : Fld) (a' : Nat) : rd1 (updFab s f) pg' g' a' = rd1 s pg' g' a' := rfl
@[simp] theorem rd_updFab (s : State) (f : Fab → Fab) (pg' : Nat) (g' : Fld) : rd (updFab s f) pg' g' = rd s pg' g' := rfl
@[simp] theorem rdB_updFab (s : State) (f : Fab → Fab) (pg' : Nat) (g' : Fld) : rdB (updFab s f) pg' g' = rdB s pg' g' := rfl
@[simp] theorem rd64_updFab (s : State) (f : Fab → Fab) (pg' : Nat) (l' h' : Fld) (a' : Nat) : rd64 (updFab s f) pg' l' h' a' = rd64 s pg' l' h' a' := rfl
@[simp] theorem core_updFab (s : State) (f : Fab → Fab) (m' : Nat) : core (updFab s f) m' = core s m' := rfl
@[simp] theorem now_updFab (s : State) (f : Fab → Fab) (m' : Nat) : now (updFab s f) m' = now s m' := rfl
@[simp] theorem rdW_updPsp (s : State) (f : Passport → Passport) (pg' o' : Nat) : rdW (updPsp s f) pg' o' = rdW s pg' o' := rfl
@[simp] theorem rd2_updPsp (s : State) (f : Passport → Passport) (pg' : Nat) (g' : Fld) (a' b' : Nat) : rd2 (updPsp s f) pg' g' a' b' = rd2 s pg' g' a' b' := rfl
@[simp] theorem rd1_updPsp (s : State) (f : Passport → Passport) (pg' : Nat) (g' : Fld) (a' : Nat) : rd1 (updPsp s f) pg' g' a' = rd1 s pg' g' a' := rfl
@[simp] theorem rd_updPsp (s : State) (f : Passport → Passport) (pg' : Nat) (g' : Fld) : rd (updPsp s f) pg' g' = rd s pg' g' := rfl
@[simp] theorem rdB_updPsp (s : State) (f : Passport → Passport) (pg' : Nat) (g' : Fld) : rdB (updPsp s f) pg' g' = rdB s pg' g' := rfl
@[simp] theorem rd64_updPsp (s : State) (f : Passport → Passport) (pg' : Nat) (l' h' : Fld) (a' : Nat) : rd64 (updPsp s f) pg' l' h' a' = rd64 s pg' l' h' a' := rfl
@[simp] theorem core_updPsp (s : State) (f : Passport → Passport) (m' : Nat) : core (updPsp s f) m' = core s m' := rfl
@[simp] theorem now_updPsp (s : State) (f : Passport → Passport) (m' : Nat) : now (updPsp s f) m' = now s m' := rfl
@[simp] theorem rdW_updHost (s : State) (f : HostIf → HostIf) (pg' o' : Nat) : rdW (updHost s f) pg' o' = rdW s pg' o' := rfl
@[simp] theorem rd2_updHost (s : State) (f : HostIf → HostIf) (pg' : Nat) (g' : Fld) (a' b' : Nat) : rd2 (updHost s f) pg' g' a' b' = rd2 s pg' g' a' b' := rfl
@[simp] theorem rd1_updHost (s : State) (f : HostIf → HostIf) (pg' : Nat) (g' : Fld) (a' : Nat) : rd1 (updHost s f) pg' g' a' = rd1 s pg' g' a' := rfl
@[simp] theorem rd_updHost (s : State) (f : HostIf → HostIf) (pg' : Nat) (g' : Fld) : rd (updHost s f) pg' g' = rd s pg' g' := rfl
@[simp] theorem rdB_updHost (s : State) (f : HostIf → HostIf) (pg' : Nat) (g' : Fld) : rdB (updHost s f) pg' g' = rdB s pg' g' := rfl
@[simp] theorem rd64_updHost (s : State) (f : HostIf → HostIf) (pg' : Nat) (l' h' : Fld) (a' : Nat) : rd64 (updHost s f) pg' l' h' a' = rd64 s pg' l' h' a' := rfl
@[simp] theorem core_updHost (s : State) (f : HostIf → HostIf) (m' : Nat) : core (updHost s f) m' = core s m' := rfl
@[simp] theorem now_updHost (s : State) (f : HostIf → HostIf) (m' : Nat) : now (updHost s f) m' = now s m' := rfl
@[simp] theorem rdW_setJob (s : State) (b : Nat) (j : Job) (pg' o' : Nat) : rdW (setJob s b j) pg' o' = rdW s pg' o' := rfl
@[simp] theorem rd2_setJob (s : State) (b : Nat) (j : Job) (pg' : Nat) (g' : Fld) (a' b' : Nat) : rd2 (setJob s b j) pg' g' a' b' = rd2 s pg' g' a' b' := rfl
@[simp] theorem rd1_setJob (s : State) (b : Nat) (j : Job) (pg' : Nat) (g' : Fld) (a' : Nat) : rd1 (setJob s b j) pg' g' a' = rd1 s pg' g' a' := rfl
@[simp] theorem rd_setJob (s : State) (b : Nat) (j : Job) (pg' : Nat) (g' : Fld) : rd (setJob s b j) pg' g' = rd s pg' g' := rfl
@[simp] theorem rdB_setJob (s : State) (b : Nat) (j : Job) (pg' : Nat) (g' : Fld) : rdB (setJob s b j) pg' g' = rdB s pg' g' := rfl
@[simp] theorem rd64_setJob (s : State) (b : Nat) (j : Job) (pg' : Nat) (l' h' : Fld) (a' : Nat) : rd64 (setJob s b j) pg' l' h' a' = rd64 s pg' l' h' a' := rfl
@[simp] theorem core_setJob (s : State) (b : Nat) (j : Job) (m' : Nat) : core (setJob s b j) m' = core s m' := rfl
@[simp] theorem now_setJob (s : State) (b : Nat) (j : Job) (m' : Nat) : now (setJob s b j) m' = now s m' := rfl
@[simp] theorem rdW_updJob (s : State) (b : Nat) (f : Job → Job) (pg' o' : Nat) : rdW (updJob s b f) pg' o' = rdW s pg' o' := rfl
@[simp] theorem rd2_updJob (s : State) (b : Nat) (f : Job → Job) (pg' : Nat) (g' : Fld) (a' b' : Nat) : rd2 (updJob s b f) pg' g' a' b' = rd2 s pg' g' a' b' := rfl
@[simp] theorem rd1_updJob (s : State) (b : Nat) (f : Job → Job) (pg' : Nat) (g' : Fld) (a' : Nat) : rd1 (updJob s b f) pg' g' a' = rd1 s pg' g' a' := rfl
@[simp] theorem rd_updJob (s : State) (b : Nat) (f : Job → Job) (pg' : Nat) (g' : Fld) : rd (updJob s b f) pg' g' = rd s pg' g' := rfl
@[simp] theorem rdB_updJob (s : State) (b : Nat) (f : Job → Job) (pg' : Nat) (g' : Fld) : rdB (updJob s b f) pg' g' = rdB s pg' g' := rfl
@[simp] theorem rd64_updJob (s : State) (b : Nat) (f : Job → Job) (pg' : Nat) (l' h' : Fld) (a' : Nat) : rd64 (updJob s b f) pg' l' h' a' = rd64 s pg' l' h' a' := rfl
@[simp] theorem core_updJob (s : State) (b : Nat) (f : Job → Job) (m' : Nat) : core (updJob s b f) m' = core s m' := rfl
@[simp] theorem now_updJob (s : State) (b : Nat) (f : Job → Job) (m' : Nat) : now (updJob s b f) m' = now s m' := rfl
@[simp] theorem rdW_setQp (s : State) (i : Nat) (q : Qp) (pg' o' : Nat) : rdW (setQp s i q) pg' o' = rdW s pg' o' := rfl
@[simp] theorem rd2_setQp (s : State) (i : Nat) (q : Qp) (pg' : Nat) (g' : Fld) (a' b' : Nat) : rd2 (setQp s i q) pg' g' a' b' = rd2 s pg' g' a' b' := rfl
@[simp] theorem rd1_setQp (s : State) (i : Nat) (q : Qp) (pg' : Nat) (g' : Fld) (a' : Nat) : rd1 (setQp s i q) pg' g' a' = rd1 s pg' g' a' := rfl
@[simp] theorem rd_setQp (s : State) (i : Nat) (q : Qp) (pg' : Nat) (g' : Fld) : rd (setQp s i q) pg' g' = rd s pg' g' := rfl
@[simp] theorem rdB_setQp (s : State) (i : Nat) (q : Qp) (pg' : Nat) (g' : Fld) : rdB (setQp s i q) pg' g' = rdB s pg' g' := rfl
@[simp] theorem rd64_setQp (s : State) (i : Nat) (q : Qp) (pg' : Nat) (l' h' : Fld) (a' : Nat) : rd64 (setQp s i q) pg' l' h' a' = rd64 s pg' l' h' a' := rfl
@[simp] theorem core_setQp (s : State) (i : Nat) (q : Qp) (m' : Nat) : core (setQp s i q) m' = core s m' := rfl
@[simp] theorem now_setQp (s : State) (i : Nat) (q : Qp) (m' : Nat) : now (setQp s i q) m' = now s m' := rfl
@[simp] theorem rdW_setLk (s : State) (l : Nat) (v : Link) (pg' o' : Nat) : rdW (setLk s l v) pg' o' = rdW s pg' o' := rfl
@[simp] theorem rd2_setLk (s : State) (l : Nat) (v : Link) (pg' : Nat) (g' : Fld) (a' b' : Nat) : rd2 (setLk s l v) pg' g' a' b' = rd2 s pg' g' a' b' := rfl
@[simp] theorem rd1_setLk (s : State) (l : Nat) (v : Link) (pg' : Nat) (g' : Fld) (a' : Nat) : rd1 (setLk s l v) pg' g' a' = rd1 s pg' g' a' := rfl
@[simp] theorem rd_setLk (s : State) (l : Nat) (v : Link) (pg' : Nat) (g' : Fld) : rd (setLk s l v) pg' g' = rd s pg' g' := rfl
@[simp] theorem rdB_setLk (s : State) (l : Nat) (v : Link) (pg' : Nat) (g' : Fld) : rdB (setLk s l v) pg' g' = rdB s pg' g' := rfl
@[simp] theorem rd64_setLk (s : State) (l : Nat) (v : Link) (pg' : Nat) (l' h' : Fld) (a' : Nat) : rd64 (setLk s l v) pg' l' h' a' = rd64 s pg' l' h' a' := rfl
@[simp] theorem core_setLk (s : State) (l : Nat) (v : Link) (m' : Nat) : core (setLk s l v) m' = core s m' := rfl
@[simp] theorem now_setLk (s : State) (l : Nat) (v : Link) (m' : Nat) : now (setLk s l v) m' = now s m' := rfl
@[simp] theorem rdW_updLk (s : State) (l : Nat) (f : Link → Link) (pg' o' : Nat) : rdW (updLk s l f) pg' o' = rdW s pg' o' := rfl
@[simp] theorem rd2_updLk (s : State) (l : Nat) (f : Link → Link) (pg' : Nat) (g' : Fld) (a' b' : Nat) : rd2 (updLk s l f) pg' g' a' b' = rd2 s pg' g' a' b' := rfl
@[simp] theorem rd1_updLk (s : State) (l : Nat) (f : Link → Link) (pg' : Nat) (g' : Fld) (a' : Nat) : rd1 (updLk s l f) pg' g' a' = rd1 s pg' g' a' := rfl
@[simp] theorem rd_updLk (s : State) (l : Nat) (f : Link → Link) (pg' : Nat) (g' : Fld) : rd (updLk s l f) pg' g' = rd s pg' g' := rfl
@[simp] theorem rdB_updLk (s : State) (l : Nat) (f : Link → Link) (pg' : Nat) (g' : Fld) : rdB (updLk s l f) pg' g' = rdB s pg' g' := rfl
@[simp] theorem rd64_updLk (s : State) (l : Nat) (f : Link → Link) (pg' : Nat) (l' h' : Fld) (a' : Nat) : rd64 (updLk s l f) pg' l' h' a' = rd64 s pg' l' h' a' := rfl
@[simp] theorem core_updLk (s : State) (l : Nat) (f : Link → Link) (m' : Nat) : core (updLk s l f) m' = core s m' := rfl
@[simp] theorem now_updLk (s : State) (l : Nat) (f : Link → Link) (m' : Nat) : now (updLk s l f) m' = now s m' := rfl
@[simp] theorem rdW_setDom (s : State) (d : Nat) (v : Domain) (pg' o' : Nat) : rdW (setDom s d v) pg' o' = rdW s pg' o' := rfl
@[simp] theorem rd2_setDom (s : State) (d : Nat) (v : Domain) (pg' : Nat) (g' : Fld) (a' b' : Nat) : rd2 (setDom s d v) pg' g' a' b' = rd2 s pg' g' a' b' := rfl
@[simp] theorem rd1_setDom (s : State) (d : Nat) (v : Domain) (pg' : Nat) (g' : Fld) (a' : Nat) : rd1 (setDom s d v) pg' g' a' = rd1 s pg' g' a' := rfl
@[simp] theorem rd_setDom (s : State) (d : Nat) (v : Domain) (pg' : Nat) (g' : Fld) : rd (setDom s d v) pg' g' = rd s pg' g' := rfl
@[simp] theorem rdB_setDom (s : State) (d : Nat) (v : Domain) (pg' : Nat) (g' : Fld) : rdB (setDom s d v) pg' g' = rdB s pg' g' := rfl
@[simp] theorem rd64_setDom (s : State) (d : Nat) (v : Domain) (pg' : Nat) (l' h' : Fld) (a' : Nat) : rd64 (setDom s d v) pg' l' h' a' = rd64 s pg' l' h' a' := rfl
@[simp] theorem core_setDom (s : State) (d : Nat) (v : Domain) (m' : Nat) : core (setDom s d v) m' = core s m' := rfl
@[simp] theorem now_setDom (s : State) (d : Nat) (v : Domain) (m' : Nat) : now (setDom s d v) m' = now s m' := rfl
@[simp] theorem core_wrW (s : State) (page off v : Nat) (m' : Nat) : core (wrW s page off v) m' = core s m' := rfl
@[simp] theorem now_wrW (s : State) (page off v : Nat) (m' : Nat) : now (wrW s page off v) m' = now s m' := rfl
@[simp] theorem core_wr2 (s : State) (page : Nat) (f : Fld) (i j v : Nat) (m' : Nat) : core (wr2 s page f i j v) m' = core s m' := rfl
@[simp] theorem now_wr2 (s : State) (page : Nat) (f : Fld) (i j v : Nat) (m' : Nat) : now (wr2 s page f i j v) m' = now s m' := rfl
@[simp] theorem core_wr1 (s : State) (page : Nat) (f : Fld) (i v : Nat) (m' : Nat) : core (wr1 s page f i v) m' = core s m' := rfl
@[simp] theorem now_wr1 (s : State) (page : Nat) (f : Fld) (i v : Nat) (m' : Nat) : now (wr1 s page f i v) m' = now s m' := rfl
@[simp] theorem core_wr (s : State) (page : Nat) (f : Fld) (v : Nat) (m' : Nat) : core (wr s page f v) m' = core s m' := rfl
@[simp] theorem now_wr (s : State) (page : Nat) (f : Fld) (v : Nat) (m' : Nat) : now (wr s page f v) m' = now s m' := rfl
@[simp] theorem core_wr64 (s : State) (page : Nat) (lo hi : Fld) (i v : Nat) (m' : Nat) : core (wr64 s page lo hi i v) m' = core s m' := rfl
@[simp] theorem now_wr64 (s : State) (page : Nat) (lo hi : Fld) (i v : Nat) (m' : Nat) : now (wr64 s page lo hi i v) m' = now s m' := rfl
@[simp] theorem core_addWrap1 (s : State) (page : Nat) (f : Fld) (i n : Nat) (m' : Nat) : core (addWrap1 s page f i n) m' = core s m' := rfl
@[simp] theorem now_addWrap1 (s : State) (page : Nat) (f : Fld) (i n : Nat) (m' : Nat) : now (addWrap1 s page f i n) m' = now s m' := rfl
@[simp] theorem core_addSat1 (s : State) (page : Nat) (f : Fld) (i n : Nat) (m' : Nat) : core (addSat1 s page f i n) m' = core s m' := rfl
@[simp] theorem now_addSat1 (s : State) (page : Nat) (f : Fld) (i n : Nat) (m' : Nat) : now (addSat1 s page f i n) m' = now s m' := rfl
@[simp] theorem core_addWrap (s : State) (page : Nat) (f : Fld) (n : Nat) (m' : Nat) : core (addWrap s page f n) m' = core s m' := rfl
@[simp] theorem now_addWrap (s : State) (page : Nat) (f : Fld) (n : Nat) (m' : Nat) : now (addWrap s page f n) m' = now s m' := rfl
@[simp] theorem core_addSat (s : State) (page : Nat) (f : Fld) (n : Nat) (m' : Nat) : core (addSat s page f n) m' = core s m' := rfl
@[simp] theorem now_addSat (s : State) (page : Nat) (f : Fld) (n : Nat) (m' : Nat) : now (addSat s page f n) m' = now s m' := rfl
@[simp] theorem core_add64 (s : State) (page : Nat) (lo hi : Fld) (i n : Nat) (m' : Nat) : core (add64 s page lo hi i n) m' = core s m' := rfl
@[simp] theorem now_add64 (s : State) (page : Nat) (lo hi : Fld) (i n : Nat) (m' : Nat) : now (add64 s page lo hi i n) m' = now s m' := rfl
@[simp] theorem core_setErr (s : State) (page n : Nat) (m' : Nat) : core (setErr s page n) m' = core s m' := by unfold setErr; split <;> rfl
@[simp] theorem now_setErr (s : State) (page n : Nat) (m' : Nat) : now (setErr s page n) m' = now s m' := by unfold setErr; split <;> rfl
@[simp] theorem core_resetPage (s : State) (page : Nat) (m' : Nat) : core (resetPage s page) m' = core s m' := rfl
@[simp] theorem now_resetPage (s : State) (page : Nat) (m' : Nat) : now (resetPage s page) m' = now s m' := rfl
@[simp] theorem core_setBlk (s : State) (page st : Nat) (m' : Nat) : core (setBlk s page st) m' = core s m' := rfl
@[simp] theorem now_setBlk (s : State) (page st : Nat) (m' : Nat) : now (setBlk s page st) m' = now s m' := rfl

end Sys2Proof.Machine
end

