-- ==== Sys2Proof/Laws/CoreIssue.lean ====
section
/-!
SUPPORT. What the issue of a bundle or of a slot operation does to a core: the operations that every SEQ, ARR, VEC and STR
meaning is built from.
-/
namespace Sys2Proof.Machine

/-- Two states that differ only in core `n`, and there only in what a trace records. -/
def TraceOnly (s t : State) (n : Nat) : Prop :=
  OnlyCore s t n ∧ core t n = { core s n with
    trace := (core t n).trace, traceSeq := (core t n).traceSeq, traceDrops := (core t n).traceDrops }

theorem OnlyCore.refl (s : State) (n : Nat) : OnlyCore s s n := ⟨rfl, fun _ _ => rfl⟩

theorem OnlyCore.trans {s t u : State} {n : Nat} (h : OnlyCore s t n) (g : OnlyCore t u n) : OnlyCore s u n := by
  refine ⟨?_, fun m hm => (g.2 m hm).trans (h.2 m hm)⟩
  rw [g.1, h.1]

theorem TraceOnly.refl (s : State) (n : Nat) : TraceOnly s s n := ⟨OnlyCore.refl s n, rfl⟩

theorem TraceOnly.trans {s t u : State} {n : Nat} (h : TraceOnly s t n) (g : TraceOnly t u n) : TraceOnly s u n := by
  refine ⟨h.1.trans g.1, ?_⟩
  rw [g.2, h.2]

/-- Replacing a core changes that core only. -/
theorem setCore_only {s : State} (h : smWf (fun _ => Core.reset) s.cores = true) (n : Nat) (c : Core) :
    OnlyCore s (setCore s n c) n := ⟨rfl, fun m hm => core_setCore_other h n m c hm⟩

theorem updCore_only {s : State} (h : smWf (fun _ => Core.reset) s.cores = true) (n : Nat) (f : Core → Core) :
    OnlyCore s (updCore s n f) n := setCore_only h n _

theorem tracePush_wf {s : State} {n ev ctx part arg : Nat} (h : smWf (fun _ => Core.reset) s.cores = true) :
    smWf (fun _ => Core.reset) (tracePush s n ev ctx part arg).cores = true := by
  unfold tracePush; dsimp only; split <;> exact setCore_wf h

theorem traceRec_wf {s : State} {n ev ctx part arg : Nat} (h : smWf (fun _ => Core.reset) s.cores = true) :
    smWf (fun _ => Core.reset) (traceRec s n ev ctx part arg).cores = true := by
  unfold traceRec; dsimp only
  split
  · split
    · exact tracePush_wf (updCore_wf (tracePush_wf h))
    · exact tracePush_wf h
  · exact h

theorem tracePush_only {s : State} (h : smWf (fun _ => Core.reset) s.cores = true) (n ev ctx part arg : Nat) :
    TraceOnly s (tracePush s n ev ctx part arg) n := by
  unfold tracePush; dsimp only
  split
  · refine ⟨setCore_only h _ _, ?_⟩
    rw [core_setCore_same h]
  · refine ⟨setCore_only h _ _, ?_⟩
    rw [core_setCore_same h]

/-- A trace record changes nothing but the trace of its core (R194). -/
theorem traceRec_only {s : State} (h : smWf (fun _ => Core.reset) s.cores = true) (n ev ctx part arg : Nat) :
    TraceOnly s (traceRec s n ev ctx part arg) n := by
  unfold traceRec; dsimp only
  split
  · split
    · have h1 := tracePush_wf (n := n) (ev := 0x0F) (ctx := ctx) (part := part) (arg := (core s n).traceDrops) h
      refine ((tracePush_only h n 0x0F ctx part (core s n).traceDrops).trans ?_).trans (tracePush_only (updCore_wf h1) _ _ _ _ _)
      refine ⟨updCore_only h1 _ _, ?_⟩
      rw [core_updCore_same h1]
    · exact tracePush_only h _ _ _ _ _
  · exact TraceOnly.refl s n

theorem traceMarks_only {s : State} (h : smWf (fun _ => Core.reset) s.cores = true) (n pc : Nat) :
    TraceOnly s (traceMarks s n pc) n ∧ smWf (fun _ => Core.reset) (traceMarks s n pc).cores = true := by
  unfold traceMarks
  dsimp only
  generalize (core s n).traceMarks = l
  suffices H : ∀ (l : List (Nat × Nat × Nat)) (u : State), TraceOnly s u n ∧ smWf (fun _ => Core.reset) u.cores = true →
      TraceOnly s (l.foldl (fun s' m => if m.2.1 = pc ∧ (m.2.2 = 0xFF ∨ some m.2.2 = (core s n).lcore) then
        traceRec s' n 0x06 (partCtx s' n 0) 0 (pc + m.1 <<< 12) else s') u) n ∧
      smWf (fun _ => Core.reset) (l.foldl (fun s' m => if m.2.1 = pc ∧ (m.2.2 = 0xFF ∨ some m.2.2 = (core s n).lcore) then
        traceRec s' n 0x06 (partCtx s' n 0) 0 (pc + m.1 <<< 12) else s') u).cores = true from
    H l s ⟨TraceOnly.refl s n, h⟩
  intro l
  induction l with
  | nil => intro u hu; exact hu
  | cons a r ih =>
    intro u hu
    apply ih
    dsimp only
    split
    · exact ⟨hu.1.trans (traceRec_only hu.2 _ _ _ _ _), traceRec_wf hu.2⟩
    · exact hu

/-- The core as the issue of its bundle leaves it, before its trace (R152, R159). -/
def bundleCore (s : State) (n : Nat) : Core :=
  { core s n with
    lastPc := (core s n).pc, lastIssueAt := now s n + 1, nextIssue := now s n + 1,
    segWait := (core s n).switchPc == some (core s n).pc && (tabGet 0 (core s n).imem (core s n).pc).getLsbD 0,
    pc := (nextBundle s n).1, loops := (nextBundle s n).2 }

/-- What the issue of a bundle does (R152, R195). -/
theorem openBundle_spec {s : State} (h : smWf (fun _ => Core.reset) s.cores = true) (n : Nat) :
    OnlyCore s (openBundle s n) n ∧ smWf (fun _ => Core.reset) (openBundle s n).cores = true ∧
    core (openBundle s n) n = { bundleCore s n with
      trace := (core (openBundle s n) n).trace, traceSeq := (core (openBundle s n) n).traceSeq,
      traceDrops := (core (openBundle s n) n).traceDrops } := by
  have e : openBundle s n = traceMarks (setCore s n (bundleCore s n)) n (core s n).pc := rfl
  have h1 : smWf (fun _ => Core.reset) (setCore s n (bundleCore s n)).cores = true := setCore_wf h
  have h2 := traceMarks_only h1 n (core s n).pc
  rw [← e] at h2
  refine ⟨(setCore_only h _ _).trans h2.1.1, h2.2, ?_⟩
  have h3 := h2.1.2
  rw [core_setCore_same h] at h3
  exact h3

/-- A core-local change by a SEQ operation does not move the clock. -/
theorem OnlyCore.now {s t : State} {n : Nat} (h : OnlyCore s t n) (m : Nat) : now t m = now s m := by
  rw [h.1]; rfl

theorem OnlyCore.regs {s t : State} {n : Nat} (h : OnlyCore s t n) : t.regs = s.regs := by rw [h.1]

/-- What a SEQ operation does whose own effect is a change `g` of its core that leaves a program counter in program memory. -/
theorem issueSeq_spec {s : State} (h : smWf (fun _ => Core.reset) s.cores = true) (n : Nat) (f : Core → State → State)
    (g : Core → Core) (hi : canIssue s n = true) (hf : f (core s n) (openBundle s n) = updCore (openBundle s n) n g)
    (hg : ∀ a b c, { g { bundleCore s n with trace := a, traceSeq := b, traceDrops := c } with
        trace := a, traceSeq := b, traceDrops := c } = g { bundleCore s n with trace := a, traceSeq := b, traceDrops := c })
    (hg' : ∀ a b c, { g { bundleCore s n with trace := a, traceSeq := b, traceDrops := c } with
        trace := a, traceSeq := b, traceDrops := c } = { g (bundleCore s n) with trace := a, traceSeq := b, traceDrops := c })
    (hpc : (g (bundleCore s n)).pc ≤ 4095 ∨ (g (bundleCore s n)).run = .ended) :
    SeqIssued s (issueSeq s n f) n g := by
  obtain ⟨o1, o2, o3⟩ := openBundle_spec h n
  have e : core (updCore (openBundle s n) n g) n
      = { g (bundleCore s n) with trace := (core (openBundle s n) n).trace,
                                  traceSeq := (core (openBundle s n) n).traceSeq,
                                  traceDrops := (core (openBundle s n) n).traceDrops } := by
    rw [core_updCore_same o2, o3, ← hg, hg']
  have hx : issueSeq s n f = updCore (openBundle s n) n g := by
    unfold issueSeq
    rw [if_pos hi, hf]
    unfold checkPc
    dsimp only
    rw [e, if_neg]
    rintro ⟨p, q⟩
    rcases hpc with hp | hp
    · exact absurd p (by simpa using hp)
    · exact q hp
  rw [hx]
  refine ⟨o1.trans (updCore_only o2 _ _), ?_⟩
  rw [e]
  rfl

end Sys2Proof.Machine
end

