-- ==== Sys2Proof/Laws/Kept/Base.lean ====
section
/-!
SUPPORT. What keeps the invariant and the queue (`Kept`): the primitive updates of State, and the shapes of code that
the meanings are built from.
-/
namespace Sys2Proof.Machine

variable {p : List Instr} {s s' : State}

/-- A state that agrees on what `Kept` reads. -/
theorem Kept.upd (h : Kept p s) (hp : s'.pending = s.pending) (hr : s'.regs = s.regs) (hc : s'.cores = s.cores)
    (hj : s'.jobs = s.jobs) (hd : s'.dieCyc = s.dieCyc) (hg : s'.grants = s.grants) (hm : s'.hbm.mem = s.hbm.mem)
    (he : s'.events = s.events) (hb : s'.innk.buf = s.innk.buf) : Kept p s' := by
  obtain ⟨h0, h1⟩ := h
  refine ⟨hp.trans h0, ⟨?_, ?_, ?_, ?_, ?_, ?_, ?_, ?_, ?_, ?_⟩⟩
  · rw [hr]; exact h1.regs
  · rw [hc]; exact h1.cores
  · rw [hc]; exact h1.spads
  · rw [hj]; exact h1.jobs
  · rw [hj]; exact h1.saved
  · rw [hd]; exact h1.dieCyc
  · rw [hg]; exact h1.grants
  · rw [hm]; exact h1.mem
  · rw [he]; exact h1.events
  · rw [hb]; exact h1.buf

/-- `Kept` by the parts that it reads. -/
def KeptV (p : List Instr) (pending : List Instr) (regs : SMap Word) (cores : SMap Core) (jobs : SMap Job)
    (dieCyc : SMap Nat) (grants : SMap Grant) (mem : Memory) (events : List Event) (buf : List LogRec) : Prop :=
  Kept p
    { State.reset with
      pending := pending, regs := regs, cores := cores, jobs := jobs, dieCyc := dieCyc, grants := grants, hbm := { mem := mem },
      events := events, innk := { buf := buf } }

theorem Kept.view (h : Kept p s) :
    KeptV p s.pending s.regs s.cores s.jobs s.dieCyc s.grants s.hbm.mem s.events s.innk.buf :=
  Kept.upd h rfl rfl rfl rfl rfl rfl rfl rfl rfl

/-- `Kept` of a state written field by field. -/
theorem Kept.mk_eq (x_pending : List Instr) (x_regs : SMap Word) (x_cores : SMap Core) (x_dieCyc : SMap Nat) (x_esc : Nat) (x_hbm : Hbm) (x_grants : SMap Grant) (x_fab : Fab) (x_jobs : SMap Job) (x_jobNum : Nat) (x_car : Caravan) (x_host : HostIf) (x_pow : Power) (x_innk : Innk) (x_psp : Passport) (x_boot : Boot) (x_tick : Nat) (x_faults : List FaultRec) (x_events : List Event) (x_free : Nat) :
    Kept p ⟨x_pending, x_regs, x_cores, x_dieCyc, x_esc, x_hbm, x_grants, x_fab, x_jobs, x_jobNum, x_car, x_host, x_pow, x_innk, x_psp, x_boot, x_tick, x_faults, x_events, x_free⟩ = KeptV p x_pending x_regs x_cores x_jobs x_dieCyc x_grants x_hbm.mem x_events x_innk.buf :=
  propext ⟨fun h => Kept.upd h rfl rfl rfl rfl rfl rfl rfl rfl rfl,
           fun h => Kept.upd h rfl rfl rfl rfl rfl rfl rfl rfl rfl⟩

theorem Kept.view_mem (h : Kept p s) {m : Memory} (hm : m.wf = true) :
    KeptV p s.pending s.regs s.cores s.jobs s.dieCyc s.grants m s.events s.innk.buf :=
  ⟨h.1, ⟨h.2.regs, h.2.cores, h.2.spads, h.2.jobs, h.2.saved, h.2.dieCyc, h.2.grants, hm, h.2.events, h.2.buf⟩⟩

theorem Kept.view_regs (h : Kept p s) {m : SMap Word} (hm : smWf regDefault m = true) :
    KeptV p s.pending m s.cores s.jobs s.dieCyc s.grants s.hbm.mem s.events s.innk.buf :=
  ⟨h.1, ⟨hm, h.2.cores, h.2.spads, h.2.jobs, h.2.saved, h.2.dieCyc, h.2.grants, h.2.mem, h.2.events, h.2.buf⟩⟩

theorem Kept.view_grants (h : Kept p s) {m : SMap Grant} (hm : smWf (fun _ => ({} : Grant)) m = true) :
    KeptV p s.pending s.regs s.cores s.jobs s.dieCyc m s.hbm.mem s.events s.innk.buf :=
  ⟨h.1, ⟨h.2.regs, h.2.cores, h.2.spads, h.2.jobs, h.2.saved, h.2.dieCyc, hm, h.2.mem, h.2.events, h.2.buf⟩⟩

theorem Kept.view_events (h : Kept p s) {m : List Event} (hm : m.length ≤ 256) :
    KeptV p s.pending s.regs s.cores s.jobs s.dieCyc s.grants s.hbm.mem m s.innk.buf :=
  ⟨h.1, ⟨h.2.regs, h.2.cores, h.2.spads, h.2.jobs, h.2.saved, h.2.dieCyc, h.2.grants, h.2.mem, hm, h.2.buf⟩⟩

theorem Kept.view_buf (h : Kept p s) {m : List LogRec} (hm : m.length ≤ 512) :
    KeptV p s.pending s.regs s.cores s.jobs s.dieCyc s.grants s.hbm.mem s.events m :=
  ⟨h.1, ⟨h.2.regs, h.2.cores, h.2.spads, h.2.jobs, h.2.saved, h.2.dieCyc, h.2.grants, h.2.mem, h.2.events, hm⟩⟩

theorem Kept.view_dieCyc (h : Kept p s) (k v : Nat) :
    KeptV p s.pending s.regs s.cores s.jobs (tabPut 0 s.dieCyc k v) s.grants s.hbm.mem s.events s.innk.buf :=
  ⟨h.1, ⟨h.2.regs, h.2.cores, h.2.spads, h.2.jobs, h.2.saved, tabPut_wf _ _ _ _ h.2.dieCyc, h.2.grants, h.2.mem, h.2.events, h.2.buf⟩⟩

theorem Kept.view_nocores (h : Kept p s) :
    KeptV p s.pending s.regs [] s.jobs s.dieCyc s.grants s.hbm.mem s.events s.innk.buf :=
  ⟨h.1, ⟨h.2.regs, rfl, fun _ h => by (cases h), h.2.jobs, h.2.saved, h.2.dieCyc, h.2.grants, h.2.mem, h.2.events, h.2.buf⟩⟩

theorem buf_nil_le : ([] : List LogRec).length ≤ 512 := Nat.zero_le _

theorem Core.ok_foldl {α : Type} {f : Core → α → Core} {l : List α} {c : Core} (h0 : c.ok) (h : ∀ c a, c.ok → (f c a).ok) : (l.foldl f c).ok := by
  induction l generalizing c with
  | nil => exact h0
  | cons a r ih => exact ih (h c a h0)

theorem Kept.ite {c : Prop} [Decidable c] {a b : State} (ha : c → Kept p a) (hb : ¬ c → Kept p b) :
    Kept p (if c then a else b) := by
  split
  · exact ha ‹_›
  · exact hb ‹_›

/-- A property that each round of a fold keeps holds of the fold. -/
theorem foldl_keeps {α β : Type} (Q : β → Prop) (f : β → α → β) (l : List α) (b : β) (h0 : Q b)
    (h : ∀ b a, Q b → Q (f b a)) : Q (l.foldl f b) := by
  induction l generalizing b with
  | nil => exact h0
  | cons a r ih => exact ih (f b a) (h b a h0)

theorem Kept.foldl {α : Type} {f : State → α → State} {l : List α} (h0 : Kept p s)
    (h : ∀ s a, Kept p s → Kept p (f s a)) : Kept p (l.foldl f s) :=
  foldl_keeps (Kept p) f l s h0 h

theorem Kept.foldl1 {α β : Type} {f : State × β → α → State × β} {l : List α} {b : State × β} (h0 : Kept p b.1)
    (h : ∀ b a, Kept p b.1 → Kept p (f b a).1) : Kept p (l.foldl f b).1 :=
  foldl_keeps (fun b => Kept p b.1) f l b h0 h

theorem Kept.foldl2 {α β : Type} {f : β × State → α → β × State} {l : List α} {b : β × State} (h0 : Kept p b.2)
    (h : ∀ b a, Kept p b.2 → Kept p (f b a).2) : Kept p (l.foldl f b).2 :=
  foldl_keeps (fun b => Kept p b.2) f l b h0 h

/-- What a table holds, after a write, holds of the value written or held before. -/
theorem smPut_all {α : Type} [DecidableEq α] (Q : α → Prop) (d : Nat → α) (m : SMap α) (k : Nat) (v : α)
    (h : ∀ e ∈ m, Q e.2) (hv : Q v) : ∀ e ∈ smPut d m k v, Q e.2 := by
  induction m with
  | nil =>
    simp only [smPut]
    split
    · simp
    · simpa using hv
  | cons e r ih =>
    obtain ⟨j, w⟩ := e
    simp only [List.mem_cons, forall_eq_or_imp] at h
    simp only [smPut]
    split
    · split
      · simpa using h
      · simp only [List.mem_cons, forall_eq_or_imp]
        exact ⟨hv, h.1, h.2⟩
    · split
      · split
        · exact h.2
        · simp only [List.mem_cons, forall_eq_or_imp]
          exact ⟨hv, h.2⟩
      · simp only [List.mem_cons, forall_eq_or_imp]
        exact ⟨h.1, ih h.2⟩

/-- A value read from a table is one it holds, or the default. -/
theorem smGet_all {α : Type} (Q : α → Prop) (d : Nat → α) (m : SMap α) (k : Nat) (h : ∀ e ∈ m, Q e.2) (hd : Q (d k)) :
    Q (smGet d m k) := by
  induction m with
  | nil => exact hd
  | cons e r ih =>
    obtain ⟨j, w⟩ := e
    simp only [List.mem_cons, forall_eq_or_imp] at h
    simp only [smGet]
    split
    · exact hd
    · split
      · exact h.1
      · exact ih h.2

theorem Kept.grants_wf (h : Kept p s) : smWf (fun _ => ({} : Grant)) s.grants = true := h.2.grants

theorem Kept.regs_wf (h : Kept p s) : smWf regDefault s.regs = true := h.2.regs

theorem Core.reset_ok : Core.ok Core.reset := ⟨rfl, rfl, rfl, rfl⟩

theorem Kept.core_ok (h : Kept p s) (n : Nat) : (core s n).ok :=
  smGet_all Core.ok _ _ n h.2.spads Core.reset_ok

theorem Job.empty_ok : Job.ok {} := by
  intro l hl; cases hl

theorem Kept.job_ok (h : Kept p s) (b : Nat) : (jobOf s b).ok :=
  smGet_all Job.ok _ _ b h.2.saved Job.empty_ok

theorem wrW_kept (h : Kept p s) (page off v : Nat) : Kept p (wrW s page off v) :=
  ⟨h.1, { h.2 with regs := smPut_wf _ _ _ _ h.2.regs }⟩

theorem resetPage_kept (h : Kept p s) (page : Nat) : Kept p (resetPage s page) :=
  ⟨h.1, { h.2 with regs := tabDrop_wf _ (fun k => k / 1024 == page) _ h.2.regs }⟩

theorem setCore_kept (h : Kept p s) (n : Nat) {c : Core} (hc : c.ok) : Kept p (setCore s n c) :=
  ⟨h.1, { h.2 with cores := tabPut_wf _ _ _ _ h.2.cores, spads := smPut_all Core.ok _ _ _ _ h.2.spads hc }⟩

theorem updCore_kept (h : Kept p s) (n : Nat) {f : Core → Core} (hf : ∀ c, c.ok → (f c).ok) : Kept p (updCore s n f) :=
  setCore_kept h n (hf _ (h.core_ok n))

theorem setJob_kept (h : Kept p s) (b : Nat) {j : Job} (hj : j.ok) : Kept p (setJob s b j) :=
  ⟨h.1, { h.2 with jobs := tabPut_wf _ _ _ _ h.2.jobs, saved := smPut_all Job.ok _ _ _ _ h.2.saved hj }⟩

theorem updJob_kept (h : Kept p s) (b : Nat) {f : Job → Job} (hf : ∀ j, j.ok → (f j).ok) : Kept p (updJob s b f) :=
  setJob_kept h b (hf _ (h.job_ok b))

theorem Core.ok_ite {c : Prop} [Decidable c] {a b : Core} (ha : a.ok) (hb : b.ok) : (if c then a else b).ok := by
  split <;> assumption

/-- A core that agrees on the tables. -/
theorem Core.ok_of {a b : Core} (h : a.ok) (e : b.spad = a.spad) (es : b.sregs = a.sregs) (ev : b.vregs = a.vregs)
    (em : b.mregs = a.mregs) : b.ok := by
  unfold Core.ok at *; rw [e, es, ev, em]; exact h

/-- A job that agrees on the logical cores. -/
theorem Job.ok_of {a b : Job} (h : a.ok) (e : b.lcores = a.lcores) : b.ok := by
  unfold Job.ok at *; rw [e]; exact h

theorem Core.mk_eq (x_lcore : Option Nat) (x_bank : Nat) (x_segment : Nat) (x_switchPc : Option Nat) (x_segWait : Bool) (x_parked : Bool) (x_run : RunState) (x_haltCtx : BitVec 16) (x_pc : Nat) (x_lastPc : Nat) (x_lastIssueAt : Nat) (x_nextIssue : Nat) (x_slotAt : SMap Nat) (x_loops : List LoopLvl) (x_imem : SMap (BitVec 256)) (x_yieldReqAt : Nat) (x_taskCyc : Nat) (x_waitFrom : Nat) (x_waitEsc : Nat) (x_since : Nat) (x_downAt : SMap Nat) (x_sregs : SMap DWord) (x_preds : BitVec 8) (x_vregs : SMap (BitVec 4096)) (x_mregs : SMap (BitVec 128)) (x_flags : SMap Flags5) (x_land : List Landing) (x_desc : SMap (BitVec 512)) (x_parts : SMap Part) (x_scale : SMap ScaleEnt) (x_spad : Memory) (x_rowW : SMap Bool) (x_marks : SMap RowMark) (x_acc : List Access) (x_zeroUntil : Option Nat) (x_scrubAt : Nat) (x_katUntil : Option Nat) (x_phxVec : List PhxReq) (x_fltAt : SMap Nat) (x_slots : SMap Itin) (x_lastSlot : Nat) (x_lastReqAt : Nat) (x_nextId : Nat) (x_outq : List Chunk) (x_reqs : List Req) (x_stage : SMap Stage) (x_absorb : List Nat) (x_prefDone : List Nat) (x_traceOn : Bool) (x_traceMask : BitVec 16) (x_traceMarks : List (Nat × Nat × Nat)) (x_trace : List (List Byte)) (x_traceSeq : Nat) (x_traceDrops : Nat) (x_digest : SMap Nat) (x_digestRows : SMap Nat) (x_stored : List (Nat × Nat × Nat)) (x_poisonCtx : SMap Nat) :
    Core.ok ⟨x_lcore, x_bank, x_segment, x_switchPc, x_segWait, x_parked, x_run, x_haltCtx, x_pc, x_lastPc, x_lastIssueAt, x_nextIssue, x_slotAt, x_loops, x_imem, x_yieldReqAt, x_taskCyc, x_waitFrom, x_waitEsc, x_since, x_downAt, x_sregs, x_preds, x_vregs, x_mregs, x_flags, x_land, x_desc, x_parts, x_scale, x_spad, x_rowW, x_marks, x_acc, x_zeroUntil, x_scrubAt, x_katUntil, x_phxVec, x_fltAt, x_slots, x_lastSlot, x_lastReqAt, x_nextId, x_outq, x_reqs, x_stage, x_absorb, x_prefDone, x_traceOn, x_traceMask, x_traceMarks, x_trace, x_traceSeq, x_traceDrops, x_digest, x_digestRows, x_stored, x_poisonCtx⟩ = coreTabsOk x_spad x_sregs x_vregs x_mregs := rfl

theorem Core.ok.tabs {c : Core} (h : c.ok) : coreTabsOk c.spad c.sregs c.vregs c.mregs := h

theorem Core.ok.tabs_spad {c : Core} (h : c.ok) {m : Memory} (hm : Memory.wf m = true) :
    coreTabsOk m c.sregs c.vregs c.mregs := ⟨hm, h.2⟩

/-- `Job.ok` by the part that it reads. -/
def lcoresOk (m : SMap LCore) : Prop := ∀ l ∈ m, ∀ c, l.2.saved = some c → c.ok

theorem lcoresOk_nil : lcoresOk [] := fun _ h => by cases h

theorem Job.mk_eq (x_num : Nat) (x_image : Nat) (x_len : Nat) (x_saveBase : Nat) (x_fbAddr : Nat) (x_fbLen : Nat) (x_nl : Nat) (x_nctx : Nat) (x_stepGate : Bool) (x_isFb : Bool) (x_seed : Nat) (x_valid : BitVec 16) (x_fatal : BitVec 16) (x_lcores : SMap LCore) (x_miles : SMap Mile) (x_downs : SMap Down) (x_mseq : Nat) (x_mpos : Option Nat) (x_steps : Nat) (x_permitTaken : Bool) (x_sentUp : Bool) (x_trace : Option TraceCfg) (x_prefetch : List Nat) (x_startCmd : Option (Nat × Nat)) (x_stopCmd : Option (Nat × Nat)) (x_cause : Option Nat) (x_switchAt : Nat) :
    Job.ok ⟨x_num, x_image, x_len, x_saveBase, x_fbAddr, x_fbLen, x_nl, x_nctx, x_stepGate, x_isFb, x_seed, x_valid, x_fatal, x_lcores, x_miles, x_downs, x_mseq, x_mpos, x_steps, x_permitTaken, x_sentUp, x_trace, x_prefetch, x_startCmd, x_stopCmd, x_cause, x_switchAt⟩ = lcoresOk x_lcores := rfl

theorem Job.ok.lcores {j : Job} (h : j.ok) : lcoresOk j.lcores := h

end Sys2Proof.Machine
end

