-- ==== Sys2Proof/Laws/Kept/Ops.lean ====
section
/-!
SUPPORT. Every operation of Machine/Ops.lean keeps the invariant and the queue.
-/
namespace Sys2Proof.Machine

theorem wr2_kept {P0 : List Instr} (s : State) (page : Nat) (f : Fld) (i j v : Nat) (hK : Kept P0 s) : Kept P0 (wr2 s page f i j v) := by
  unfold wr2
  try dsimp only
  repeat' (first | (with_reducible assumption) | (with_reducible (refine wrW_kept ?_ ..)))

theorem wr1_kept {P0 : List Instr} (s : State) (page : Nat) (f : Fld) (i v : Nat) (hK : Kept P0 s) : Kept P0 (wr1 s page f i v) := by
  unfold wr1
  try dsimp only
  repeat' (first | (with_reducible assumption) | (with_reducible apply wr2_kept))

theorem wr_kept {P0 : List Instr} (s : State) (page : Nat) (f : Fld) (v : Nat) (hK : Kept P0 s) : Kept P0 (wr s page f v) := by
  unfold wr
  try dsimp only
  repeat' (first | (with_reducible assumption) | (with_reducible apply wr2_kept))

theorem addWrap1_kept {P0 : List Instr} (s : State) (page : Nat) (f : Fld) (i n : Nat) (hK : Kept P0 s) : Kept P0 (addWrap1 s page f i n) := by
  unfold addWrap1
  try dsimp only
  repeat' (first | (with_reducible assumption) | (with_reducible apply wr1_kept))

theorem addSat1_kept {P0 : List Instr} (s : State) (page : Nat) (f : Fld) (i n : Nat) (hK : Kept P0 s) : Kept P0 (addSat1 s page f i n) := by
  unfold addSat1
  try dsimp only
  repeat' (first | (with_reducible assumption) | (with_reducible apply wr1_kept))

theorem addWrap_kept {P0 : List Instr} (s : State) (page : Nat) (f : Fld) (n : Nat) (hK : Kept P0 s) : Kept P0 (addWrap s page f n) := by
  unfold addWrap
  try dsimp only
  repeat' (first | (with_reducible assumption) | (with_reducible apply addWrap1_kept))

theorem addSat_kept {P0 : List Instr} (s : State) (page : Nat) (f : Fld) (n : Nat) (hK : Kept P0 s) : Kept P0 (addSat s page f n) := by
  unfold addSat
  try dsimp only
  repeat' (first | (with_reducible assumption) | (with_reducible apply addSat1_kept))

theorem raiseMax_kept {P0 : List Instr} (s : State) (page : Nat) (f : Fld) (i v : Nat) (hK : Kept P0 s) : Kept P0 (raiseMax s page f i v) := by
  unfold raiseMax
  try dsimp only
  repeat' (first | (with_reducible assumption) | (with_reducible (intro _)) | (with_reducible apply wr1_kept)
                  | (with_reducible apply Kept.ite))

theorem wr64_kept {P0 : List Instr} (s : State) (page : Nat) (lo hi : Fld) (i v : Nat) (hK : Kept P0 s) : Kept P0 (wr64 s page lo hi i v) := by
  unfold wr64
  try dsimp only
  repeat' (first | (with_reducible assumption) | (with_reducible apply wr1_kept))

theorem add64_kept {P0 : List Instr} (s : State) (page : Nat) (lo hi : Fld) (i n : Nat) (hK : Kept P0 s) : Kept P0 (add64 s page lo hi i n) := by
  unfold add64
  try dsimp only
  repeat' (first | (with_reducible assumption) | (with_reducible apply wr64_kept))

theorem setErr_kept {P0 : List Instr} (s : State) (page n : Nat) (hK : Kept P0 s) : Kept P0 (setErr s page n) := by
  unfold setErr
  try dsimp only
  repeat' (first | (with_reducible assumption) | (with_reducible (intro _)) | (with_reducible (refine wrW_kept ?_ ..))
                  | (with_reducible apply Kept.ite))

theorem setBlk_kept {P0 : List Instr} (s : State) (page st : Nat) (hK : Kept P0 s) : Kept P0 (setBlk s page st) := by
  unfold setBlk
  try dsimp only
  repeat' (first | (with_reducible assumption) | (with_reducible apply wr_kept))

theorem drawFree_kept {P0 : List Instr} (s : State) (hK : Kept P0 s) : Kept P0 (drawFree s) := by
  unfold drawFree
  try dsimp only
  repeat' (first | (with_reducible assumption) | (simp only [Kept.mk_eq]; with_reducible apply Kept.view))

theorem freeBytes_kept {P0 : List Instr} (s : State) (k : Nat) (hK : Kept P0 s) : Kept P0 (freeBytes s k).2 := by
  unfold freeBytes
  try dsimp only
  repeat' (first | (with_reducible assumption) | (simp only [Kept.mk_eq]; with_reducible apply Kept.view))

theorem freeBytes_kept_of {P0 : List Instr} {s : State} {k : Nat} {r0 : List Byte} {t0 : State} (e : freeBytes s k = (r0, t0)) (hK : Kept P0 s) : Kept P0 t0 := by
  have := freeBytes_kept s k hK
  rw [e] at this
  exact this

theorem logRec_kept {P0 : List Instr} (s : State) (cls code status data : Nat) (h : Kept P0 s) : Kept P0 (logRec s cls code status data) := by
  unfold logRec
  dsimp only
  have hb : (if s.innk.buf.length < 512 then s.innk.buf ++ [({ seq := s.innk.logNext, stamp := s.esc, boot := rd s pgINNK F.INNK_BOOTCNT.COUNT, cls := cls, code := code, status := status, data := data % 2 ^ 32 } : LogRec)] else s.innk.buf).length ≤ 512 := by
    have := h.2.buf
    split
    · simp only [List.length_append, List.length_cons, List.length_nil]; omega
    · exact this
  have key : Kept P0 { s with innk := { s.innk with logNext := s.innk.logNext + 1, buf := if s.innk.buf.length < 512 then s.innk.buf ++ [({ seq := s.innk.logNext, stamp := s.esc, boot := rd s pgINNK F.INNK_BOOTCNT.COUNT, cls := cls, code := code, status := status, data := data % 2 ^ 32 } : LogRec)] else s.innk.buf } } :=
    ⟨h.1, { h.2 with buf := hb }⟩
  apply Kept.ite <;> intro _
  · exact key
  · exact setErr_kept _ _ _ (addSat_kept _ _ _ _ key)

theorem raiseEvent_kept {P0 : List Instr} (s : State) (code status detail : Nat) (res : List (Nat × Nat)) (h : Kept P0 s) : Kept P0 (raiseEvent s code status detail res) := by
  unfold raiseEvent
  dsimp only
  have key := logRec_kept s 1 code status ((code + packBytes res) / 256) h
  apply Kept.ite <;> intro hl
  · refine ⟨key.1, { key.2 with events := ?_ }⟩
    simp only [List.length_append, List.length_cons, List.length_nil]; omega
  · simp only [Kept.mk_eq]
    apply Kept.view
    exact setErr_kept _ pgCMDQ E.CMDQ.EV_LOST (addSat_kept _ pgCMDQ F.CMDQ_EVQ.LOST 1 key)

end Sys2Proof.Machine
end

