-- ==== Sys2Proof/Laws/Kept/CoreOps.lean ====
section
/-!
SUPPORT. Every operation of Machine/CoreOps.lean keeps the invariant and the queue.
-/
namespace Sys2Proof.Machine

theorem tracePush_kept {P0 : List Instr} (s : State) (n ev ctx part arg : Nat) (hK : Kept P0 s) : Kept P0 (tracePush s n ev ctx part arg) := by
  unfold tracePush
  try dsimp only
  repeat' (first | (with_reducible assumption) | (with_reducible (intro _))
                  | (with_reducible (refine setCore_kept ?_ _ ?_)) | (with_reducible apply Kept.ite)
                  | (simp only [Core.mk_eq]; with_reducible apply Core.ok.tabs)
                  | (with_reducible (refine Kept.core_ok (p := P0) ?_ _)))

theorem traceRec_kept {P0 : List Instr} (s : State) (n ev ctx part arg : Nat) (hK : Kept P0 s) : Kept P0 (traceRec s n ev ctx part arg) := by
  unfold traceRec
  try dsimp only
  repeat' (first | (with_reducible assumption) | (with_reducible (intro _)) | (with_reducible apply tracePush_kept)
                  | (with_reducible (refine updCore_kept ?_ _ ?_)) | (with_reducible apply Kept.ite)
                  | (simp only [Core.mk_eq]; with_reducible apply Core.ok.tabs))

theorem recordCtxFault_kept {P0 : List Instr} (s : State) (n p ctx status page code craul : Nat) (hK : Kept P0 s) : Kept P0 (recordCtxFault s n p ctx status page code craul) := by
  unfold recordCtxFault
  try dsimp only
  repeat' (first | (with_reducible assumption) | (with_reducible (intro _))
                  | (with_reducible (refine setCore_kept ?_ _ ?_)) | (with_reducible apply traceRec_kept)
                  | (with_reducible apply Kept.ite) | (with_reducible apply Core.ok_ite)
                  | (simp only [Core.mk_eq]; with_reducible apply Core.ok.tabs)
                  | (with_reducible (refine Kept.core_ok (p := P0) ?_ _))
                  | (simp only [Kept.mk_eq]; with_reducible apply Kept.view))

theorem faultMark_kept {P0 : List Instr} (s : State) (n blk p : Nat) (hK : Kept P0 s) : Kept P0 (faultMark s n blk p) := by
  unfold faultMark
  try dsimp only
  repeat' (first | (with_reducible assumption) | (with_reducible (intro _))
                  | (with_reducible (refine updCore_kept ?_ _ ?_)) | (with_reducible apply setErr_kept)
                  | (simp only [Core.mk_eq]; with_reducible apply Core.ok.tabs))

theorem recSpad_kept {P0 : List Instr} (s : State) (n p ctx code port bank row : Nat) (hK : Kept P0 s) : Kept P0 (recSpad s n p ctx code port bank row) := by
  unfold recSpad
  try dsimp only
  repeat' (first | (with_reducible assumption) | (with_reducible (intro _)) | (with_reducible apply faultMark_kept)
                  | (with_reducible apply wr1_kept) | (with_reducible apply recordCtxFault_kept)
                  | (with_reducible apply Kept.ite))

theorem recStreamAs_kept {P0 : List Instr} (s : State) (n ctx code slot crr pc handle status craul : Nat) (hK : Kept P0 s) : Kept P0 (recStreamAs s n ctx code slot crr pc handle status craul) := by
  unfold recStreamAs
  try dsimp only
  repeat' (first | (with_reducible assumption) | (with_reducible (intro _)) | (with_reducible apply faultMark_kept)
                  | (with_reducible apply wr1_kept) | (with_reducible apply recordCtxFault_kept)
                  | (with_reducible apply Kept.ite))

theorem recStream_kept {P0 : List Instr} (s : State) (n ctx code slot crr pc handle : Nat) (hK : Kept P0 s) : Kept P0 (recStream s n ctx code slot crr pc handle) := by
  unfold recStream
  try dsimp only
  repeat' (first | (with_reducible assumption) | (with_reducible apply recStreamAs_kept))

theorem recSeq_kept {P0 : List Instr} (s : State) (n p code slot pc : Nat) (hK : Kept P0 s) : Kept P0 (recSeq s n p code slot pc) := by
  unfold recSeq
  try dsimp only
  repeat' (first | (with_reducible assumption) | (with_reducible (intro _)) | (with_reducible apply faultMark_kept)
                  | (with_reducible apply wr1_kept) | (with_reducible apply recordCtxFault_kept)
                  | (with_reducible apply Kept.ite))

theorem recSeqAll_kept {P0 : List Instr} (s : State) (n code slot pc : Nat) (hK : Kept P0 s) : Kept P0 (recSeqAll s n code slot pc) := by
  unfold recSeqAll
  try dsimp only
  repeat' (first | (with_reducible assumption) | (with_reducible (intro _)) | (with_reducible apply recSeq_kept)
                  | (with_reducible apply Kept.foldl))

theorem recVec_kept {P0 : List Instr} (s : State) (n p code op pc : Nat) (hK : Kept P0 s) : Kept P0 (recVec s n p code op pc) := by
  unfold recVec
  try dsimp only
  repeat' (first | (with_reducible assumption) | (with_reducible (intro _)) | (with_reducible apply faultMark_kept)
                  | (with_reducible apply wr1_kept) | (with_reducible apply recordCtxFault_kept)
                  | (with_reducible apply Kept.ite))

theorem setPart_kept {P0 : List Instr} (s : State) (n p : Nat) (v : Part) (hK : Kept P0 s) : Kept P0 (setPart s n p v) := by
  unfold setPart
  try dsimp only
  repeat' (first | (with_reducible assumption) | (with_reducible (intro _))
                  | (with_reducible (refine updCore_kept ?_ _ ?_))
                  | (simp only [Core.mk_eq]; with_reducible apply Core.ok.tabs))

theorem recArray_kept {P0 : List Instr} (s : State) (n p code handle : Nat) (latch : Option Nat) (hK : Kept P0 s) : Kept P0 (recArray s n p code handle latch) := by
  unfold recArray
  try dsimp only
  repeat' (first | (with_reducible assumption) | (with_reducible (intro _)) | (with_reducible apply faultMark_kept)
                  | (with_reducible apply wr1_kept) | (with_reducible (refine updCore_kept ?_ _ ?_))
                  | (with_reducible apply recordCtxFault_kept) | (with_reducible apply Kept.ite)
                  | (simp only [Core.mk_eq]; with_reducible apply Core.ok.tabs))

theorem setSreg_ok (c : Core) (r : Nat) (v : DWord) (hc : c.ok) : (setSreg c r v).ok := by
  unfold setSreg
  exact Core.ok_ite hc ⟨hc.1, tabPut_wf _ _ _ _ hc.2.1, hc.2.2⟩

theorem setPreg_ok (c : Core) (q : Nat) (v : Bool) (hc : c.ok) : (setPreg c q v).ok := by
  unfold setPreg
  try dsimp only
  repeat' (first | (with_reducible assumption) | (with_reducible apply Core.ok_ite)
                  | (simp only [Core.mk_eq]; with_reducible apply Core.ok.tabs))

theorem setMreg_ok (c : Core) (m : Nat) (bits v : BitVec 128) (hc : c.ok) : (setMreg c m bits v).ok := by
  unfold setMreg
  exact Core.ok_ite hc ⟨hc.1, hc.2.1, hc.2.2.1, tabPut_wf _ _ _ _ hc.2.2.2⟩

theorem setVbits_ok (c : Core) (r : Nat) (bits v : BitVec 4096) (hc : c.ok) : (setVbits c r bits v).ok := ⟨hc.1, hc.2.1, tabPut_wf _ _ _ _ hc.2.2.1, hc.2.2.2⟩

theorem addLand_kept {P0 : List Instr} (s : State) (n at_ cls ord : Nat) (ev : LandEv) (hK : Kept P0 s) : Kept P0 (addLand s n at_ cls ord ev) := by
  unfold addLand
  try dsimp only
  repeat' (first | (with_reducible assumption) | (with_reducible (intro _))
                  | (with_reducible (refine updCore_kept ?_ _ ?_))
                  | (simp only [Core.mk_eq]; with_reducible apply Core.ok.tabs))

theorem addResult_kept {P0 : List Instr} (s : State) (n lat slot : Nat) (ev : LandEv) (hK : Kept P0 s) : Kept P0 (addResult s n lat slot ev) := by
  unfold addResult
  try dsimp only
  repeat' (first | (with_reducible assumption) | (with_reducible apply addLand_kept))

theorem clearPoison_kept {P0 : List Instr} (s : State) (n h : Nat) (hK : Kept P0 s) : Kept P0 (clearPoison s n h) := by
  unfold clearPoison
  try dsimp only
  repeat' (first | (with_reducible assumption) | (with_reducible apply wr1_kept))

theorem addPoison_kept {P0 : List Instr} (s : State) (n ctx h off len : Nat) (hK : Kept P0 s) : Kept P0 (addPoison s n ctx h off len) := by
  unfold addPoison
  try dsimp only
  repeat' (first | (with_reducible assumption) | (with_reducible (intro _))
                  | (with_reducible (refine updCore_kept ?_ _ ?_)) | (with_reducible apply wr1_kept)
                  | (with_reducible apply Kept.ite) | (simp only [Core.mk_eq]; with_reducible apply Core.ok.tabs))

theorem applyArm_kept {P0 : List Instr} (s : State) (n h k ctx : Nat) (hK : Kept P0 s) : Kept P0 (applyArm s n h k ctx) := by
  unfold applyArm
  try dsimp only
  repeat' (first | (with_reducible assumption) | (with_reducible (intro _)) | (with_reducible apply recSpad_kept)
                  | (with_reducible apply clearPoison_kept) | (with_reducible apply wr1_kept)
                  | (with_reducible apply Kept.ite))

theorem applyComplete_kept {P0 : List Instr} (s : State) (n h : Nat) (hK : Kept P0 s) : Kept P0 (applyComplete s n h) := by
  unfold applyComplete
  try dsimp only
  repeat' (first | (with_reducible assumption) | (with_reducible (intro _)) | (with_reducible apply addWrap1_kept)
                  | (with_reducible apply setErr_kept) | (with_reducible apply addSat_kept)
                  | (with_reducible apply wr1_kept) | (with_reducible apply Kept.ite))

theorem armHandle_kept {P0 : List Instr} (s : State) (n h k ctx : Nat) (hK : Kept P0 s) : Kept P0 (armHandle s n h k ctx) := by
  unfold armHandle
  try dsimp only
  repeat' (first | (with_reducible assumption) | (with_reducible apply addLand_kept))

theorem completeAt_kept {P0 : List Instr} (s : State) (n at_ h : Nat) (hK : Kept P0 s) : Kept P0 (completeAt s n at_ h) := by
  unfold completeAt
  try dsimp only
  repeat' (first | (with_reducible assumption) | (with_reducible apply addLand_kept))

theorem applyLand_kept {P0 : List Instr} (s : State) (n : Nat) (ev : LandEv) (hK : Kept P0 s) : Kept P0 (applyLand s n ev) := by
  unfold applyLand
  try dsimp only
  repeat' (first | (with_reducible assumption) | (with_reducible (intro _))
                  | (with_reducible (refine updCore_kept ?_ _ ?_)) | (with_reducible apply applyArm_kept)
                  | (with_reducible apply applyComplete_kept) | (with_reducible apply recSpad_kept)
                  | (simp only [Core.mk_eq]; with_reducible apply Core.ok.tabs) | (with_reducible apply setSreg_ok)
                  | (with_reducible apply setPreg_ok) | (with_reducible apply setVbits_ok)
                  | (with_reducible apply setMreg_ok) | (split))

theorem applyLands_kept {P0 : List Instr} (s : State) (n : Nat) (l : List Landing) (hK : Kept P0 s) : Kept P0 (applyLands s n l) := by
  induction l generalizing s with
  | nil => exact hK
  | cons x r ih =>
    unfold applyLands
    apply Kept.ite <;> intro _
    · apply ih
      apply applyLand_kept
      exact updCore_kept hK n (fun c hc => hc)
    · exact hK

theorem traceMarks_kept {P0 : List Instr} (s : State) (n pc : Nat) (hK : Kept P0 s) : Kept P0 (traceMarks s n pc) := by
  unfold traceMarks
  try dsimp only
  repeat' (first | (with_reducible assumption) | (with_reducible (intro _)) | (with_reducible apply traceRec_kept)
                  | (with_reducible apply Kept.ite) | (with_reducible apply Kept.foldl))

theorem openBundle_kept {P0 : List Instr} (s : State) (n : Nat) (hK : Kept P0 s) : Kept P0 (openBundle s n) := by
  unfold openBundle
  try dsimp only
  repeat' (first | (with_reducible assumption) | (with_reducible apply traceMarks_kept)
                  | (with_reducible (refine setCore_kept ?_ _ ?_))
                  | (simp only [Core.mk_eq]; with_reducible apply Core.ok.tabs)
                  | (with_reducible (refine Kept.core_ok (p := P0) ?_ _)))

theorem checkPc_kept {P0 : List Instr} (s : State) (n : Nat) (hK : Kept P0 s) : Kept P0 (checkPc s n) := by
  unfold checkPc
  try dsimp only
  repeat' (first | (with_reducible assumption) | (with_reducible (intro _)) | (with_reducible apply recSeqAll_kept)
                  | (with_reducible apply Kept.ite))

theorem issueSeq_kept {P0 : List Instr} (s : State) (n : Nat) (f : Core → State → State) (hK : Kept P0 s) (hf_f : ∀ (y0 : Core) (y1 : State), Kept P0 y1 → Kept P0 (f y0 y1)) : Kept P0 (issueSeq s n f) := by
  unfold issueSeq
  try dsimp only
  repeat' (first | (with_reducible assumption) | (with_reducible (intro _)) | (with_reducible apply hf_f)
                  | (with_reducible apply checkPc_kept) | (with_reducible apply openBundle_kept)
                  | (with_reducible apply Kept.ite))

theorem markSlot_kept {P0 : List Instr} (s : State) (n idx : Nat) (hK : Kept P0 s) : Kept P0 (markSlot s n idx) := by
  unfold markSlot
  try dsimp only
  repeat' (first | (with_reducible assumption) | (with_reducible (intro _))
                  | (with_reducible (refine updCore_kept ?_ _ ?_))
                  | (simp only [Core.mk_eq]; with_reducible apply Core.ok.tabs))

theorem issueSlot_kept {P0 : List Instr} (s : State) (i : Issue) (idx : Nat) (f : Nat → Nat → State → State) (hK : Kept P0 s) (hf_f : ∀ (y0 : Nat) (y1 : Nat) (y2 : State), Kept P0 y2 → Kept P0 (f y0 y1 y2)) : Kept P0 (issueSlot s i idx f) := by
  unfold issueSlot
  try dsimp only
  repeat' (first | (with_reducible assumption) | (with_reducible (intro _)) | (with_reducible apply hf_f)
                  | (with_reducible apply markSlot_kept) | (with_reducible apply recSeqAll_kept)
                  | (with_reducible apply Kept.ite))

theorem illegalSlot_kept {P0 : List Instr} (s : State) (n p idx : Nat) (hK : Kept P0 s) : Kept P0 (illegalSlot s n p idx) := by
  unfold illegalSlot
  try dsimp only
  repeat' (first | (with_reducible assumption) | (with_reducible apply recSeq_kept))

theorem addAccess_kept {P0 : List Instr} (s : State) (n : Nat) (a : Access) (hK : Kept P0 s) : Kept P0 (addAccess s n a) := by
  unfold addAccess
  try dsimp only
  repeat' (first | (with_reducible assumption) | (with_reducible (intro _))
                  | (with_reducible (refine updCore_kept ?_ _ ?_))
                  | (simp only [Core.mk_eq]; with_reducible apply Core.ok.tabs))

theorem wideAccess_kept {P0 : List Instr} (s : State) (n ctx bank : Nat) (port : Port) (pieces : List (Nat × Nat)) (clsW : Bool) (act : AccAct) (hK : Kept P0 s) : Kept P0 (wideAccess s n ctx bank port pieces clsW act) := by
  unfold wideAccess
  try dsimp only
  repeat' (first | (with_reducible assumption) | (with_reducible apply addAccess_kept))

theorem narrowAccess_kept {P0 : List Instr} (s : State) (n ctx slot addr len : Nat) (clsW : Bool) (act : AccAct) (hK : Kept P0 s) : Kept P0 (narrowAccess s n ctx slot addr len clsW act) := by
  unfold narrowAccess
  try dsimp only
  repeat' (first | (with_reducible assumption) | (with_reducible apply addAccess_kept))

end Sys2Proof.Machine
end

