-- ==== Sys2Proof/Laws/Kept/Vec.lean ====
section
/-!
SUPPORT. Every operation of Machine/Vec.lean keeps the invariant and the queue.
-/
namespace Sys2Proof.Machine

theorem vecIssue_kept {P0 : List Instr} (s : State) (i : Issue) (ok : Bool) (f : Nat → Nat → State → State) (hK : Kept P0 s) (hf_f : ∀ (y0 : Nat) (y1 : Nat) (y2 : State), Kept P0 y2 → Kept P0 (f y0 y1 y2)) : Kept P0 (vecIssue s i ok f) := by
  unfold vecIssue
  try dsimp only
  repeat' (first | (with_reducible assumption) | (with_reducible (intro _)) | (with_reducible apply hf_f)
                  | (with_reducible apply issueSlot_kept) | (with_reducible apply add64_kept)
                  | (with_reducible apply illegalSlot_kept) | (with_reducible apply Kept.ite))

theorem vecFlags_kept {P0 : List Instr} (s : State) (n lat ctx : Nat) (f : Flags5) (hK : Kept P0 s) : Kept P0 (vecFlags s n lat ctx f) := by
  unfold vecFlags
  try dsimp only
  repeat' (first | (with_reducible assumption) | (with_reducible (intro _)) | (with_reducible apply addResult_kept)
                  | (with_reducible apply Kept.ite))

theorem vecResult_kept {P0 : List Instr} (s : State) (n lat vd : Nat) (bits : BitVec 4096) (v : Nat) (hK : Kept P0 s) : Kept P0 (vecResult s n lat vd bits v) := by
  unfold vecResult
  try dsimp only
  repeat' (first | (with_reducible assumption) | (with_reducible apply addResult_kept))

theorem vecLanes_kept {P0 : List Instr} (s : State) (i : Issue) (lat : Nat) (ok : Bool) (w : Nat) (mk : Fin 8) (vd : Fin 32) (srcs : List Nat) (f : List Nat → Nat × Flags5) (hK : Kept P0 s) : Kept P0 (vecLanes s i lat ok w mk vd srcs f) := by
  unfold vecLanes
  try dsimp only
  repeat' (first | (with_reducible assumption) | (with_reducible (intro _)) | (with_reducible apply vecIssue_kept)
                  | (with_reducible apply vecFlags_kept) | (with_reducible apply vecResult_kept))

theorem execVadd_kept {P0 : List Instr} {t0 : State} (i : Issue) (ty : BitVec 2) (mk : Fin 8) (vd va vb : Fin 32) (s : State) (eN : execVadd i ty mk vd va vb s = .next t0) (hK : Kept P0 s) : Kept P0 t0 := by
  unfold execVadd at eN
  try dsimp only at eN
  injection eN with eN
  subst eN
  repeat' (first | (with_reducible assumption) | (with_reducible apply vecLanes_kept))

theorem execVsub_kept {P0 : List Instr} {t0 : State} (i : Issue) (ty : BitVec 2) (mk : Fin 8) (vd va vb : Fin 32) (s : State) (eN : execVsub i ty mk vd va vb s = .next t0) (hK : Kept P0 s) : Kept P0 t0 := by
  unfold execVsub at eN
  try dsimp only at eN
  injection eN with eN
  subst eN
  repeat' (first | (with_reducible assumption) | (with_reducible apply vecLanes_kept))

theorem execVmul_kept {P0 : List Instr} {t0 : State} (i : Issue) (ty : BitVec 2) (mk : Fin 8) (vd va vb : Fin 32) (s : State) (eN : execVmul i ty mk vd va vb s = .next t0) (hK : Kept P0 s) : Kept P0 t0 := by
  unfold execVmul at eN
  try dsimp only at eN
  injection eN with eN
  subst eN
  repeat' (first | (with_reducible assumption) | (with_reducible apply vecLanes_kept))

theorem execVfma_kept {P0 : List Instr} {t0 : State} (i : Issue) (ty : BitVec 2) (mk : Fin 8) (vd va vb vc : Fin 32) (s : State) (eN : execVfma i ty mk vd va vb vc s = .next t0) (hK : Kept P0 s) : Kept P0 t0 := by
  unfold execVfma at eN
  try dsimp only at eN
  injection eN with eN
  subst eN
  repeat' (first | (with_reducible assumption) | (with_reducible apply vecLanes_kept))

theorem execVmax_kept {P0 : List Instr} {t0 : State} (i : Issue) (ty : BitVec 2) (mk : Fin 8) (vd va vb : Fin 32) (s : State) (eN : execVmax i ty mk vd va vb s = .next t0) (hK : Kept P0 s) : Kept P0 t0 := by
  unfold execVmax at eN
  try dsimp only at eN
  injection eN with eN
  subst eN
  repeat' (first | (with_reducible assumption) | (with_reducible apply vecLanes_kept))

theorem execVmin_kept {P0 : List Instr} {t0 : State} (i : Issue) (ty : BitVec 2) (mk : Fin 8) (vd va vb : Fin 32) (s : State) (eN : execVmin i ty mk vd va vb s = .next t0) (hK : Kept P0 s) : Kept P0 t0 := by
  unfold execVmin at eN
  try dsimp only at eN
  injection eN with eN
  subst eN
  repeat' (first | (with_reducible assumption) | (with_reducible apply vecLanes_kept))

theorem execVabs_kept {P0 : List Instr} {t0 : State} (i : Issue) (ty : BitVec 2) (mk : Fin 8) (vd va : Fin 32) (s : State) (eN : execVabs i ty mk vd va s = .next t0) (hK : Kept P0 s) : Kept P0 t0 := by
  unfold execVabs at eN
  try dsimp only at eN
  injection eN with eN
  subst eN
  repeat' (first | (with_reducible assumption) | (with_reducible apply vecLanes_kept))

theorem execVneg_kept {P0 : List Instr} {t0 : State} (i : Issue) (ty : BitVec 2) (mk : Fin 8) (vd va : Fin 32) (s : State) (eN : execVneg i ty mk vd va s = .next t0) (hK : Kept P0 s) : Kept P0 t0 := by
  unfold execVneg at eN
  try dsimp only at eN
  injection eN with eN
  subst eN
  repeat' (first | (with_reducible assumption) | (with_reducible apply vecLanes_kept))

theorem execVsgn_kept {P0 : List Instr} {t0 : State} (i : Issue) (ty : BitVec 2) (mk : Fin 8) (vd va : Fin 32) (s : State) (eN : execVsgn i ty mk vd va s = .next t0) (hK : Kept P0 s) : Kept P0 t0 := by
  unfold execVsgn at eN
  try dsimp only at eN
  injection eN with eN
  subst eN
  repeat' (first | (with_reducible assumption) | (with_reducible apply vecLanes_kept))

theorem execVdiv_kept {P0 : List Instr} {t0 : State} (i : Issue) (ty : BitVec 2) (mk : Fin 8) (vd va vb : Fin 32) (s : State) (eN : execVdiv i ty mk vd va vb s = .next t0) (hK : Kept P0 s) : Kept P0 t0 := by
  unfold execVdiv at eN
  try dsimp only at eN
  injection eN with eN
  subst eN
  repeat' (first | (with_reducible assumption) | (with_reducible apply vecLanes_kept))

theorem execVsqrt_kept {P0 : List Instr} {t0 : State} (i : Issue) (ty : BitVec 2) (mk : Fin 8) (vd va : Fin 32) (s : State) (eN : execVsqrt i ty mk vd va s = .next t0) (hK : Kept P0 s) : Kept P0 t0 := by
  unfold execVsqrt at eN
  try dsimp only at eN
  injection eN with eN
  subst eN
  repeat' (first | (with_reducible assumption) | (with_reducible apply vecLanes_kept))

theorem execVexp2_kept {P0 : List Instr} {t0 : State} (i : Issue) (ty : BitVec 2) (mk : Fin 8) (vd va : Fin 32) (s : State) (eN : execVexp2 i ty mk vd va s = .next t0) (hK : Kept P0 s) : Kept P0 t0 := by
  unfold execVexp2 at eN
  try dsimp only at eN
  injection eN with eN
  subst eN
  repeat' (first | (with_reducible assumption) | (with_reducible apply vecLanes_kept))

theorem execVlog2_kept {P0 : List Instr} {t0 : State} (i : Issue) (ty : BitVec 2) (mk : Fin 8) (vd va : Fin 32) (s : State) (eN : execVlog2 i ty mk vd va s = .next t0) (hK : Kept P0 s) : Kept P0 t0 := by
  unfold execVlog2 at eN
  try dsimp only at eN
  injection eN with eN
  subst eN
  repeat' (first | (with_reducible assumption) | (with_reducible apply vecLanes_kept))

theorem execVcmp_kept {P0 : List Instr} {t0 : State} (i : Issue) (ty : BitVec 2) (mk md : Fin 8) (va vb : Fin 32) (cond : BitVec 3) (s : State) (eN : execVcmp i ty mk md va vb cond s = .next t0) (hK : Kept P0 s) : Kept P0 t0 := by
  unfold execVcmp at eN
  try dsimp only at eN
  injection eN with eN
  subst eN
  repeat' (first | (with_reducible assumption) | (with_reducible (intro _)) | (with_reducible apply vecIssue_kept)
                  | (with_reducible apply vecFlags_kept) | (with_reducible apply addResult_kept))

theorem execVsel_kept {P0 : List Instr} {t0 : State} (i : Issue) (ty : BitVec 2) (mk : Fin 8) (vd va vb : Fin 32) (s : State) (eN : execVsel i ty mk vd va vb s = .next t0) (hK : Kept P0 s) : Kept P0 t0 := by
  unfold execVsel at eN
  try dsimp only at eN
  injection eN with eN
  subst eN
  repeat' (first | (with_reducible assumption) | (with_reducible (intro _)) | (with_reducible apply vecIssue_kept)
                  | (with_reducible apply addResult_kept))

theorem vecInt_kept {P0 : List Instr} (s : State) (i : Issue) (ty : BitVec 2) (mk : Fin 8) (vd va vb : Fin 32) (f : BitVec 32 → BitVec 32 → BitVec 32) (hK : Kept P0 s) : Kept P0 (vecInt s i ty mk vd va vb f) := by
  unfold vecInt
  try dsimp only
  repeat' (first | (with_reducible assumption) | (with_reducible apply vecLanes_kept))

theorem execViadd_kept {P0 : List Instr} {t0 : State} (i : Issue) (ty : BitVec 2) (mk : Fin 8) (vd va vb : Fin 32) (s : State) (eN : execViadd i ty mk vd va vb s = .next t0) (hK : Kept P0 s) : Kept P0 t0 := by
  unfold execViadd at eN
  try dsimp only at eN
  injection eN with eN
  subst eN
  repeat' (first | (with_reducible assumption) | (with_reducible apply vecInt_kept))

theorem execVisub_kept {P0 : List Instr} {t0 : State} (i : Issue) (ty : BitVec 2) (mk : Fin 8) (vd va vb : Fin 32) (s : State) (eN : execVisub i ty mk vd va vb s = .next t0) (hK : Kept P0 s) : Kept P0 t0 := by
  unfold execVisub at eN
  try dsimp only at eN
  injection eN with eN
  subst eN
  repeat' (first | (with_reducible assumption) | (with_reducible apply vecInt_kept))

theorem execViand_kept {P0 : List Instr} {t0 : State} (i : Issue) (ty : BitVec 2) (mk : Fin 8) (vd va vb : Fin 32) (s : State) (eN : execViand i ty mk vd va vb s = .next t0) (hK : Kept P0 s) : Kept P0 t0 := by
  unfold execViand at eN
  try dsimp only at eN
  injection eN with eN
  subst eN
  repeat' (first | (with_reducible assumption) | (with_reducible apply vecInt_kept))

theorem execVior_kept {P0 : List Instr} {t0 : State} (i : Issue) (ty : BitVec 2) (mk : Fin 8) (vd va vb : Fin 32) (s : State) (eN : execVior i ty mk vd va vb s = .next t0) (hK : Kept P0 s) : Kept P0 t0 := by
  unfold execVior at eN
  try dsimp only at eN
  injection eN with eN
  subst eN
  repeat' (first | (with_reducible assumption) | (with_reducible apply vecInt_kept))

theorem execVixor_kept {P0 : List Instr} {t0 : State} (i : Issue) (ty : BitVec 2) (mk : Fin 8) (vd va vb : Fin 32) (s : State) (eN : execVixor i ty mk vd va vb s = .next t0) (hK : Kept P0 s) : Kept P0 t0 := by
  unfold execVixor at eN
  try dsimp only at eN
  injection eN with eN
  subst eN
  repeat' (first | (with_reducible assumption) | (with_reducible apply vecInt_kept))

theorem execVishl_kept {P0 : List Instr} {t0 : State} (i : Issue) (ty : BitVec 2) (mk : Fin 8) (vd va vb : Fin 32) (s : State) (eN : execVishl i ty mk vd va vb s = .next t0) (hK : Kept P0 s) : Kept P0 t0 := by
  unfold execVishl at eN
  try dsimp only at eN
  injection eN with eN
  subst eN
  repeat' (first | (with_reducible assumption) | (with_reducible apply vecInt_kept))

theorem execVishr_kept {P0 : List Instr} {t0 : State} (i : Issue) (ty : BitVec 2) (mk : Fin 8) (vd va vb : Fin 32) (s : State) (eN : execVishr i ty mk vd va vb s = .next t0) (hK : Kept P0 s) : Kept P0 t0 := by
  unfold execVishr at eN
  try dsimp only at eN
  injection eN with eN
  subst eN
  repeat' (first | (with_reducible assumption) | (with_reducible apply vecInt_kept))

theorem execVftoi_kept {P0 : List Instr} {t0 : State} (i : Issue) (ty : BitVec 2) (mk : Fin 8) (vd va : Fin 32) (s : State) (eN : execVftoi i ty mk vd va s = .next t0) (hK : Kept P0 s) : Kept P0 t0 := by
  unfold execVftoi at eN
  try dsimp only at eN
  injection eN with eN
  subst eN
  repeat' (first | (with_reducible assumption) | (with_reducible apply vecLanes_kept))

theorem execVitof_kept {P0 : List Instr} {t0 : State} (i : Issue) (ty : BitVec 2) (mk : Fin 8) (vd va : Fin 32) (s : State) (eN : execVitof i ty mk vd va s = .next t0) (hK : Kept P0 s) : Kept P0 t0 := by
  unfold execVitof at eN
  try dsimp only at eN
  injection eN with eN
  subst eN
  repeat' (first | (with_reducible assumption) | (with_reducible apply vecLanes_kept))

theorem execVbcast_kept {P0 : List Instr} {t0 : State} (i : Issue) (ty : BitVec 2) (mk : Fin 8) (vd : Fin 32) (ra : Fin 32) (s : State) (eN : execVbcast i ty mk vd ra s = .next t0) (hK : Kept P0 s) : Kept P0 t0 := by
  unfold execVbcast at eN
  try dsimp only at eN
  injection eN with eN
  subst eN
  repeat' (first | (with_reducible assumption) | (with_reducible (intro _)) | (with_reducible apply vecIssue_kept)
                  | (with_reducible apply vecResult_kept))

theorem execVreds_kept {P0 : List Instr} {t0 : State} (i : Issue) (ty : BitVec 2) (mk : Fin 8) (rd : Fin 32) (va : Fin 32) (fn : BitVec 2) (s : State) (eN : execVreds i ty mk rd va fn s = .next t0) (hK : Kept P0 s) : Kept P0 t0 := by
  unfold execVreds at eN
  try dsimp only at eN
  injection eN with eN
  subst eN
  repeat' (first | (with_reducible assumption) | (with_reducible (intro _)) | (with_reducible apply vecIssue_kept)
                  | (with_reducible apply vecFlags_kept) | (with_reducible apply addResult_kept))

theorem execVbmax_kept {P0 : List Instr} {t0 : State} (i : Issue) (ty : BitVec 2) (mk : Fin 8) (vd va : Fin 32) (s : State) (eN : execVbmax i ty mk vd va s = .next t0) (hK : Kept P0 s) : Kept P0 t0 := by
  unfold execVbmax at eN
  try dsimp only at eN
  injection eN with eN
  subst eN
  repeat' (first | (with_reducible assumption) | (with_reducible (intro _)) | (with_reducible apply vecIssue_kept)
                  | (with_reducible apply vecResult_kept))

theorem execVscaleb_kept {P0 : List Instr} {t0 : State} (i : Issue) (ty : BitVec 2) (mk : Fin 8) (vd va vb : Fin 32) (s : State) (eN : execVscaleb i ty mk vd va vb s = .next t0) (hK : Kept P0 s) : Kept P0 t0 := by
  unfold execVscaleb at eN
  try dsimp only at eN
  injection eN with eN
  subst eN
  repeat' (first | (with_reducible assumption) | (with_reducible apply vecLanes_kept))

theorem claimWords_kept {P0 : List Instr} (s : State) (n ctx p op : Nat) (hK : Kept P0 s) : Kept P0 (claimWords s n ctx p op) := by
  unfold claimWords
  try dsimp only
  repeat' (first | (with_reducible assumption) | (with_reducible (intro _))
                  | (with_reducible (refine updCore_kept ?_ _ ?_))
                  | (simp only [Core.mk_eq]; with_reducible apply Core.ok.tabs))

theorem execVcvt_kept {P0 : List Instr} {t0 : State} (i : Issue) (ty : BitVec 2) (vd va vc : Fin 32) (fmt : BitVec 8) (grp : Fin 8) (sct : BitVec 8) (sctEn : Bool) (re rt : Fin 32) (s : State) (eN : execVcvt i ty vd va vc fmt grp sct sctEn re rt s = .next t0) (hK : Kept P0 s) : Kept P0 t0 := by
  unfold execVcvt at eN
  try dsimp only at eN
  injection eN with eN
  subst eN
  repeat' (first | (with_reducible assumption) | (with_reducible (intro _)) | (with_reducible apply vecIssue_kept)
                  | (with_reducible apply recVec_kept) | (with_reducible apply illegalSlot_kept)
                  | (with_reducible apply vecResult_kept) | (with_reducible apply vecFlags_kept)
                  | (with_reducible apply addResult_kept) | (with_reducible apply claimWords_kept)
                  | (with_reducible apply Kept.ite))

theorem execVdec_kept {P0 : List Instr} {t0 : State} (i : Issue) (vd va vb : Fin 32) (fmt : BitVec 8) (grp : Fin 8) (_sct : BitVec 8) (_sctEn : Bool) (s : State) (eN : execVdec i vd va vb fmt grp _sct _sctEn s = .next t0) (hK : Kept P0 s) : Kept P0 t0 := by
  unfold execVdec at eN
  try dsimp only at eN
  injection eN with eN
  subst eN
  repeat' (first | (with_reducible assumption) | (with_reducible (intro _)) | (with_reducible apply vecIssue_kept)
                  | (with_reducible apply recVec_kept) | (with_reducible apply illegalSlot_kept)
                  | (with_reducible apply vecFlags_kept) | (with_reducible apply vecResult_kept)
                  | (with_reducible apply Kept.ite))

theorem execVrng_kept {P0 : List Instr} {t0 : State} (i : Issue) (vd : Fin 32) (re rt : Fin 32) (s : State) (eN : execVrng i vd re rt s = .next t0) (hK : Kept P0 s) : Kept P0 t0 := by
  unfold execVrng at eN
  try dsimp only at eN
  injection eN with eN
  subst eN
  repeat' (first | (with_reducible assumption) | (with_reducible (intro _)) | (with_reducible apply vecIssue_kept)
                  | (with_reducible apply claimWords_kept) | (with_reducible apply vecResult_kept))

theorem execVld_kept {P0 : List Instr} {t0 : State} (i : Issue) (vd : Fin 32) (h : Fin 64) (ra : Fin 32) (len : BitVec 3) (wid : Bool) (imm : BitVec 24) (s : State) (eN : execVld i vd h ra len wid imm s = .next t0) (hK : Kept P0 s) : Kept P0 t0 := by
  unfold execVld at eN
  try dsimp only at eN
  injection eN with eN
  subst eN
  repeat' (first | (with_reducible assumption) | (with_reducible (intro _)) | (with_reducible apply vecIssue_kept)
                  | (with_reducible apply recSpad_kept) | (with_reducible apply recStream_kept)
                  | (with_reducible apply narrowAccess_kept) | (with_reducible apply Kept.ite))

theorem execVst_kept {P0 : List Instr} {t0 : State} (i : Issue) (va : Fin 32) (h : Fin 64) (ra : Fin 32) (len : BitVec 3) (dlv : Bool) (imm : BitVec 24) (s : State) (eN : execVst i va h ra len dlv imm s = .next t0) (hK : Kept P0 s) : Kept P0 t0 := by
  unfold execVst at eN
  try dsimp only at eN
  injection eN with eN
  subst eN
  repeat' (first | (with_reducible assumption) | (with_reducible (intro _)) | (with_reducible apply vecIssue_kept)
                  | (with_reducible apply recSpad_kept) | (with_reducible apply narrowAccess_kept)
                  | (with_reducible apply completeAt_kept) | (with_reducible apply Kept.ite))

theorem execVmpack_kept {P0 : List Instr} {t0 : State} (i : Issue) (mk : Fin 8) (vd : Fin 32) (s : State) (eN : execVmpack i mk vd s = .next t0) (hK : Kept P0 s) : Kept P0 t0 := by
  unfold execVmpack at eN
  try dsimp only at eN
  injection eN with eN
  subst eN
  repeat' (first | (with_reducible assumption) | (with_reducible (intro _)) | (with_reducible apply vecIssue_kept)
                  | (with_reducible apply vecResult_kept))

theorem execVmunpk_kept {P0 : List Instr} {t0 : State} (i : Issue) (md : Fin 8) (va : Fin 32) (s : State) (eN : execVmunpk i md va s = .next t0) (hK : Kept P0 s) : Kept P0 t0 := by
  unfold execVmunpk at eN
  try dsimp only at eN
  injection eN with eN
  subst eN
  repeat' (first | (with_reducible assumption) | (with_reducible (intro _)) | (with_reducible apply vecIssue_kept)
                  | (with_reducible apply addResult_kept))

theorem execVscrd_kept {P0 : List Instr} {t0 : State} (i : Issue) (vd : Fin 32) (ra : Fin 32) (s : State) (eN : execVscrd i vd ra s = .next t0) (hK : Kept P0 s) : Kept P0 t0 := by
  unfold execVscrd at eN
  try dsimp only at eN
  injection eN with eN
  subst eN
  repeat' (first | (with_reducible assumption) | (with_reducible (intro _)) | (with_reducible apply vecIssue_kept)
                  | (with_reducible apply vecResult_kept))

theorem execVscwr_kept {P0 : List Instr} {t0 : State} (i : Issue) (va : Fin 32) (ra : Fin 32) (s : State) (eN : execVscwr i va ra s = .next t0) (hK : Kept P0 s) : Kept P0 t0 := by
  unfold execVscwr at eN
  try dsimp only at eN
  injection eN with eN
  subst eN
  repeat' (first | (with_reducible assumption) | (with_reducible (intro _)) | (with_reducible apply vecIssue_kept)
                  | (with_reducible apply addResult_kept) | (with_reducible apply vecFlags_kept) | (split))

end Sys2Proof.Machine
end

