-- ==== Sys2Proof/Laws/Kept/Spad.lean ====
section
/-!
SUPPORT. Every operation of Machine/Spad.lean keeps the invariant and the queue.
-/
namespace Sys2Proof.Machine

theorem ceLoc_kept {P0 : List Instr} (s : State) (n : Nat) (e : RowErr) (hK : Kept P0 s) : Kept P0 (ceLoc s n e) := by
  unfold ceLoc
  try dsimp only
  repeat' (first | (with_reducible assumption) | (with_reducible apply wr_kept))

theorem ueLoc_kept {P0 : List Instr} (s : State) (n : Nat) (e : RowErr) (hK : Kept P0 s) : Kept P0 (ueLoc s n e) := by
  unfold ueLoc
  try dsimp only
  repeat' (first | (with_reducible assumption) | (with_reducible apply wr_kept))

theorem noteErrs_kept {P0 : List Instr} (s : State) (n : Nat) (es : List RowErr) (hK : Kept P0 s) : Kept P0 (noteErrs s n es) := by
  unfold noteErrs
  try dsimp only
  repeat' (first | (with_reducible assumption) | (with_reducible (intro _)) | (with_reducible apply ueLoc_kept)
                  | (with_reducible apply setErr_kept) | (with_reducible apply ceLoc_kept)
                  | (with_reducible apply addSat_kept) | (with_reducible apply Kept.ite)
                  | (with_reducible apply Kept.foldl))

theorem clearMark_ok (c : Core) (r : Nat) (q : Option Nat) (hc : c.ok) : (clearMark c r q).ok := hc
theorem clearMark_spad (c : Core) (r : Nat) (q : Option Nat) : (clearMark c r q).spad = c.spad := rfl

theorem memWrite_zeros_ok (m : Memory) (a n : Nat) (h : m.wf = true) : Memory.wf (memWrite m a (zeros n)) = true := memWrite_wf _ _ _ h
theorem writeRowA_ok (c : Core) (r : Nat) (a : Nat) (bs : List Byte) (hc : c.ok) : (writeRowA c r a bs).ok := by
  unfold writeRowA
  have h1 : ∀ (c1 : Core), c1.ok → Core.ok { c1 with spad := memWrite c1.spad a bs } := fun c1 h => by
    exact ⟨memWrite_wf _ _ _ h.1, h.2⟩
  apply h1
  apply Core.ok_ite
  · apply clearMark_ok
    rw [Core.mk_eq]
    exact ⟨memWrite_zeros_ok _ _ _ hc.1, hc.2⟩
  · exact foldl_keeps Core.ok _ _ _ hc (fun c q h => clearMark_ok c r (some q) h)

theorem writeRowW_ok (c : Core) (r : Nat) (a : Nat) (bs : List Byte) (hc : c.ok) : (writeRowW c r a bs).ok :=
  ⟨memWrite_wf _ _ _ hc.1, hc.2⟩

theorem spadWriteRows_ok (k : Nat) : ∀ (c : Core) (w : Bool) (a : Nat) (bs : List Byte), c.ok → (spadWriteRows k c w a bs).ok := by
  induction k with
  | zero => intro c w a bs hc; exact hc
  | succ k ih =>
    intro c w a bs hc
    unfold spadWriteRows
    apply Core.ok_ite hc
    apply ih
    exact Core.ok_ite (writeRowW_ok _ _ _ _ hc) (writeRowA_ok _ _ _ _ hc)

theorem spadWrite_ok (c : Core) (w : Bool) (a : Nat) (bs : List Byte) (hc : c.ok) : (spadWrite c w a bs).ok :=
  spadWriteRows_ok _ _ _ _ _ hc

theorem readPieces_kept {P0 : List Instr} (s : State) (n : Nat) (ps : List (Nat × Nat)) (es : List RowErr) (hK : Kept P0 s) : Kept P0 (readPieces s n ps es).2 := by
  unfold readPieces
  try dsimp only
  repeat' (first | (with_reducible assumption) | (with_reducible apply freeBytes_kept) | (split))

theorem readPieces_kept_of {P0 : List Instr} {s : State} {n : Nat} {ps : List (Nat × Nat)} {es : List RowErr} {r0 : List Byte} {t0 : State} (e : readPieces s n ps es = (r0, t0)) (hK : Kept P0 s) : Kept P0 t0 := by
  have := readPieces_kept s n ps es hK
  rw [e] at this
  exact this

theorem drainWrite_kept {P0 : List Instr} (s : State) (n : Nat) (a : Access) (data : List Byte) (hK : Kept P0 s) : Kept P0 (drainWrite s n a data) := by
  unfold drainWrite
  try dsimp only
  repeat' (first | (with_reducible assumption) | (with_reducible (intro _)) | (with_reducible apply freeBytes_kept)
                  | (with_reducible (refine updCore_kept ?_ _ ?_)) | (with_reducible (refine setCore_kept ?_ _ ?_))
                  | (simp only [Core.mk_eq]; with_reducible apply Core.ok.tabs)
                  | (with_reducible (refine Kept.core_ok (p := P0) ?_ _)) | (with_reducible apply spadWrite_ok)
                  | (with_reducible apply Core.ok_foldl) | (split))

theorem capture_kept {P0 : List Instr} (s : State) (n part which pass idx : Nat) (vals : List Nat) (hK : Kept P0 s) : Kept P0 (capture s n part which pass idx vals) := by
  unfold capture
  try dsimp only
  repeat' (first | (with_reducible assumption) | (with_reducible apply setPart_kept) | (split))

theorem doAccess_kept {P0 : List Instr} (s : State) (n : Nat) (a : Access) (hK : Kept P0 s) : Kept P0 (doAccess s n a) := by
  unfold doAccess
  try dsimp only
  repeat' (first | (with_reducible assumption) | (with_reducible (intro _)) | (with_reducible apply drainWrite_kept)
                  | (with_reducible (refine updCore_kept ?_ _ ?_)) | (with_reducible apply readPieces_kept)
                  | (with_reducible apply noteErrs_kept) | (with_reducible apply addLand_kept)
                  | (with_reducible apply addAccess_kept) | (with_reducible apply capture_kept)
                  | (with_reducible apply Kept.ite) | (simp only [Core.mk_eq]; with_reducible apply Core.ok.tabs)
                  | (with_reducible apply spadWrite_ok) | (split))

theorem conflict_kept {P0 : List Instr} (s : State) (n : Nat) (a : Access) (hK : Kept P0 s) : Kept P0 (conflict s n a) := by
  unfold conflict
  try dsimp only
  repeat' (first | (with_reducible assumption) | (with_reducible apply recSpad_kept))

theorem countDefer_kept {P0 : List Instr} (s : State) (n k : Nat) (a : Access) (hK : Kept P0 s) : Kept P0 (countDefer s n k a) := by
  unfold countDefer
  try dsimp only
  repeat' (first | (with_reducible assumption) | (with_reducible (intro _)) | (with_reducible apply addWrap1_kept)
                  | (with_reducible apply Kept.ite))

theorem spadCycle_kept {P0 : List Instr} (s : State) (n k : Nat) (hK : Kept P0 s) : Kept P0 (spadCycle s n k) := by
  unfold spadCycle
  try dsimp only
  repeat' (first | (with_reducible assumption) | (with_reducible (intro _))
                  | (with_reducible (refine updCore_kept ?_ _ ?_)) | (with_reducible apply doAccess_kept)
                  | (with_reducible apply countDefer_kept) | (with_reducible apply conflict_kept)
                  | (with_reducible apply Kept.ite) | (with_reducible apply Kept.foldl)
                  | (simp only [Core.mk_eq]; with_reducible apply Core.ok.tabs))

theorem partWords_kept {P0 : List Instr} (s : State) (n p k left : Nat) (hK : Kept P0 s) : Kept P0 (partWords s n p k left).1 := by
  unfold partWords
  try dsimp only
  repeat' (first | (with_reducible assumption) | (with_reducible (intro _)) | (with_reducible apply setPart_kept)
                  | (with_reducible apply recArray_kept) | (with_reducible apply Kept.foldl1) | (split))

theorem partWords_kept_of {P0 : List Instr} {s : State} {n p k left : Nat} {t0 : State} {r1 : Nat} (e : partWords s n p k left = (t0, r1)) (hK : Kept P0 s) : Kept P0 t0 := by
  have := partWords_kept s n p k left hK
  rw [e] at this
  exact this

theorem philoxCycle_kept {P0 : List Instr} (s : State) (n k : Nat) (hK : Kept P0 s) : Kept P0 (philoxCycle s n k) := by
  unfold philoxCycle
  try dsimp only
  repeat' (first | (with_reducible assumption) | (with_reducible (intro _)) | (with_reducible apply partWords_kept)
                  | (with_reducible (refine updCore_kept ?_ _ ?_)) | (with_reducible apply recVec_kept)
                  | (with_reducible (refine setCore_kept ?_ _ ?_)) | (with_reducible apply add64_kept)
                  | (with_reducible apply Kept.ite) | (with_reducible apply Kept.foldl1)
                  | (simp only [Core.mk_eq]; with_reducible apply Core.ok.tabs)
                  | (with_reducible (refine Kept.core_ok (p := P0) ?_ _)) | (split))

theorem coreCount_kept {P0 : List Instr} (s : State) (n k : Nat) (hK : Kept P0 s) : Kept P0 (coreCount s n k) := by
  unfold coreCount
  try dsimp only
  repeat' (first | (with_reducible assumption) | (with_reducible (intro _)) | (with_reducible apply add64_kept)
                  | (with_reducible apply addWrap_kept) | (with_reducible (refine updCore_kept ?_ _ ?_))
                  | (with_reducible apply Kept.ite) | (simp only [Core.mk_eq]; with_reducible apply Core.ok.tabs)
                  | (split))

theorem katEnd_kept {P0 : List Instr} (s : State) (n k : Nat) (hK : Kept P0 s) : Kept P0 (katEnd s n k) := by
  unfold katEnd
  try dsimp only
  repeat' (first | (with_reducible assumption) | (with_reducible (intro _))
                  | (with_reducible (refine updCore_kept ?_ _ ?_)) | (with_reducible apply wr_kept)
                  | (with_reducible apply setErr_kept) | (with_reducible apply Kept.ite)
                  | (simp only [Core.mk_eq]; with_reducible apply Core.ok.tabs) | (split))

theorem coreEnd_kept {P0 : List Instr} (s : State) (n k : Nat) (hK : Kept P0 s) : Kept P0 (coreEnd s n k) := by
  unfold coreEnd
  try dsimp only
  repeat' (first | (with_reducible assumption) | (with_reducible apply katEnd_kept)
                  | (with_reducible apply coreCount_kept) | (with_reducible apply philoxCycle_kept)
                  | (with_reducible apply spadCycle_kept))

theorem coreStart_kept {P0 : List Instr} (s : State) (n : Nat) (hK : Kept P0 s) : Kept P0 (coreStart s n) := by
  unfold coreStart
  try dsimp only
  repeat' (first | (with_reducible assumption) | (with_reducible apply applyLands_kept))

theorem dieEdge_kept {P0 : List Instr} (s : State) (d : Nat) (hK : Kept P0 s) : Kept P0 (dieEdge s d) := by
  unfold dieEdge
  try dsimp only
  repeat' (first | (with_reducible assumption) | (with_reducible (intro _)) | (with_reducible apply coreEnd_kept)
                  | (with_reducible apply coreStart_kept) | (with_reducible apply Kept.foldl)
                  | (simp only [Kept.mk_eq]; with_reducible apply Kept.view_dieCyc))

end Sys2Proof.Machine
end

