-- ==== Sys2Proof/Laws/Kept/Arr.lean ====
section
/-!
SUPPORT. Every operation of Machine/Arr.lean keeps the invariant and the queue.
-/
namespace Sys2Proof.Machine

theorem execPass_kept {P0 : List Instr} {t0 : State} (i : Issue) (entry : Fin 16) (s : State) (eN : execPass i entry s = .next t0) (hK : Kept P0 s) : Kept P0 t0 := by
  unfold execPass at eN
  try dsimp only at eN
  injection eN with eN
  subst eN
  repeat' (first | (with_reducible assumption) | (with_reducible (intro _)) | (with_reducible apply issueSlot_kept)
                  | (with_reducible apply recArray_kept) | (with_reducible apply setPart_kept) | (split))

theorem execDset_kept {P0 : List Instr} {t0 : State} (i : Issue) (entry : Fin 16) (vs : Fin 32) (s : State) (eN : execDset i entry vs s = .next t0) (hK : Kept P0 s) : Kept P0 t0 := by
  unfold execDset at eN
  try dsimp only at eN
  injection eN with eN
  subst eN
  repeat' (first | (with_reducible assumption) | (with_reducible (intro _)) | (with_reducible apply issueSlot_kept)
                  | (with_reducible (refine updCore_kept ?_ _ ?_))
                  | (simp only [Core.mk_eq]; with_reducible apply Core.ok.tabs))

theorem putPass_kept {P0 : List Instr} (s : State) (n p : Nat) (q : Pass) (hK : Kept P0 s) : Kept P0 (putPass s n p q) := by
  unfold putPass
  try dsimp only
  repeat' (first | (with_reducible assumption) | (with_reducible apply setPart_kept))

theorem catchUp_kept {P0 : List Instr} (s : State) (n p : Nat) (id lo : Nat) (tile : Bool) (hK : Kept P0 s) : Kept P0 (catchUp s n p id lo tile) := by
  unfold catchUp
  try dsimp only
  repeat' (first | (with_reducible assumption) | (with_reducible (intro _)) | (with_reducible apply doAccess_kept)
                  | (with_reducible apply conflict_kept) | (with_reducible apply Kept.foldl) | (split))

theorem execTileLoad_kept {P0 : List Instr} {t0 : State} (c : Fin 256) (part : Fin 4) (s : State) (eN : execTileLoad c part s = .next t0) (hK : Kept P0 s) : Kept P0 t0 := by
  unfold execTileLoad at eN
  try dsimp only at eN
  injection eN with eN
  subst eN
  repeat' (first | (with_reducible assumption) | (with_reducible apply recArray_kept)
                  | (with_reducible apply putPass_kept) | (with_reducible apply catchUp_kept) | (split))

theorem execPassLatch_kept {P0 : List Instr} {t0 : State} (c : Fin 256) (part : Fin 4) (s : State) (eN : execPassLatch c part s = .next t0) (hK : Kept P0 s) : Kept P0 t0 := by
  unfold execPassLatch at eN
  try dsimp only at eN
  injection eN with eN
  subst eN
  repeat' (first | (with_reducible assumption) | (with_reducible (intro _)) | (with_reducible apply recArray_kept)
                  | (with_reducible apply armHandle_kept) | (with_reducible apply putPass_kept)
                  | (with_reducible apply addWrap_kept) | (with_reducible apply catchUp_kept)
                  | (with_reducible apply Kept.ite) | (split))

theorem execDrainRow_kept {P0 : List Instr} {t0 : State} (c : Fin 256) (part : Fin 4) (s : State) (eN : execDrainRow c part s = .next t0) (hK : Kept P0 s) : Kept P0 t0 := by
  unfold execDrainRow at eN
  try dsimp only at eN
  injection eN with eN
  subst eN
  repeat' (first | (with_reducible assumption) | (with_reducible (intro _)) | (with_reducible apply putPass_kept)
                  | (with_reducible apply addAccess_kept) | (with_reducible apply add64_kept)
                  | (with_reducible apply addLand_kept) | (with_reducible apply Kept.ite) | (split))

theorem execDrainComplete_kept {P0 : List Instr} {t0 : State} (c : Fin 256) (part : Fin 4) (s : State) (eN : execDrainComplete c part s = .next t0) (hK : Kept P0 s) : Kept P0 t0 := by
  unfold execDrainComplete at eN
  try dsimp only at eN
  injection eN with eN
  subst eN
  repeat' (first | (with_reducible assumption) | (with_reducible apply setPart_kept)
                  | (with_reducible apply completeAt_kept) | (with_reducible apply addWrap_kept) | (split))

theorem execArrayErr_kept {P0 : List Instr} {t0 : State} (c : Fin 256) (part : Fin 4) (prow pcol : Fin 130) (residue : Bool) (s : State) (eN : execArrayErr c part prow pcol residue s = .next t0) (hK : Kept P0 s) : Kept P0 t0 := by
  unfold execArrayErr at eN
  try dsimp only at eN
  injection eN with eN
  subst eN
  repeat' (first | (with_reducible assumption) | (with_reducible (intro _)) | (with_reducible apply wr_kept)
                  | (with_reducible apply setErr_kept) | (with_reducible apply addSat_kept)
                  | (with_reducible apply recArray_kept) | (with_reducible apply Kept.ite))

end Sys2Proof.Machine
end

