-- ==== Sys2Proof/Laws/Kept/HbmOps.lean ====
section
/-!
SUPPORT. Every operation of Machine/HbmOps.lean keeps the invariant and the queue.
-/
namespace Sys2Proof.Machine

theorem setDom_kept {P0 : List Instr} (s : State) (d : Nat) (v : Domain) (hK : Kept P0 s) : Kept P0 (setDom s d v) := by
  unfold setDom
  try dsimp only
  repeat' (first | (with_reducible assumption) | (simp only [Kept.mk_eq]; with_reducible apply Kept.view))

theorem eventChannel_kept {P0 : List Instr} (s : State) (n st cause : Nat) (hK : Kept P0 s) : Kept P0 (eventChannel s n st cause) := by
  unfold eventChannel
  try dsimp only
  repeat' (first | (with_reducible assumption) | (with_reducible apply raiseEvent_kept))

theorem enterFailing_kept {P0 : List Instr} (s : State) (n cause : Nat) (hK : Kept P0 s) : Kept P0 (enterFailing s n cause) := by
  unfold enterFailing
  try dsimp only
  repeat' (first | (with_reducible assumption) | (with_reducible (intro _)) | (with_reducible apply setErr_kept)
                  | (with_reducible apply wr_kept) | (with_reducible apply eventChannel_kept)
                  | (with_reducible apply setDom_kept) | (with_reducible apply Kept.ite))

theorem setErrWin_kept {P0 : List Instr} (s : State) (n : Nat) (w : ErrWin) (hK : Kept P0 s) : Kept P0 (setErrWin s n w) := by
  unfold setErrWin
  try dsimp only
  repeat' (first | (with_reducible assumption) | (simp only [Kept.mk_eq]; with_reducible apply Kept.view))

theorem locErr_kept {P0 : List Instr} (s : State) (n : Nat) (addr : Option Nat) (sym : Nat) (ue : Bool) (hK : Kept P0 s) : Kept P0 (locErr s n addr sym ue) := by
  unfold locErr
  try dsimp only
  repeat' (first | (with_reducible assumption) | (with_reducible apply wr_kept))

theorem noteCe_kept {P0 : List Instr} (s : State) (n : Nat) (addr : Option Nat) (sym : Nat) (hK : Kept P0 s) : Kept P0 (noteCe s n addr sym) := by
  unfold noteCe
  try dsimp only
  repeat' (first | (with_reducible assumption) | (with_reducible (intro _)) | (with_reducible apply locErr_kept)
                  | (with_reducible apply addSat_kept) | (with_reducible apply setErrWin_kept)
                  | (with_reducible apply enterFailing_kept) | (with_reducible apply setErr_kept)
                  | (with_reducible apply Kept.ite))

theorem noteUe_kept {P0 : List Instr} (s : State) (n : Nat) (addr : Option Nat) (hK : Kept P0 s) : Kept P0 (noteUe s n addr) := by
  unfold noteUe
  try dsimp only
  repeat' (first | (with_reducible assumption) | (with_reducible (intro _)) | (with_reducible apply setErr_kept)
                  | (with_reducible apply locErr_kept) | (with_reducible apply addSat_kept)
                  | (with_reducible apply setErrWin_kept) | (with_reducible apply enterFailing_kept)
                  | (with_reducible apply Kept.ite))

theorem readBurst_kept {P0 : List Instr} (s : State) (n r b : Nat) (addr : Option Nat) (hK : Kept P0 s) : Kept P0 (readBurst s n r b addr).1 := by
  unfold readBurst
  try dsimp only
  repeat' (first | (with_reducible assumption) | (with_reducible apply noteUe_kept) | (with_reducible apply noteCe_kept)
                  | (split))

theorem readBurst_kept_of {P0 : List Instr} {s : State} {n r b : Nat} {addr : Option Nat} {t0 : State} {r1 : Bool} (e : readBurst s n r b addr = (t0, r1)) (hK : Kept P0 s) : Kept P0 t0 := by
  have := readBurst_kept s n r b addr hK
  rw [e] at this
  exact this

theorem hbmReadAux_kept {P0 : List Instr} (k : Nat) : ∀ (s : State) (a len : Nat), Kept P0 s → Kept P0 (hbmReadAux k s a len).2.2 := by
  induction k with
  | zero => intro s a len h; exact h
  | succ k ih =>
    intro s a len h
    unfold hbmReadAux
    dsimp only
    split
    · exact h
    · split
      · exact ih _ _ _ h
      · exact ih _ _ _ (add64_kept _ _ _ _ _ _ (readBurst_kept _ _ _ _ _ h))

theorem hbmRead_kept {P0 : List Instr} (s : State) (a len : Nat) (hK : Kept P0 s) : Kept P0 (hbmRead s a len).2.2 := by
  unfold hbmRead
  try dsimp only
  repeat' (first | (with_reducible assumption) | (with_reducible apply hbmReadAux_kept))

theorem hbmRead_kept_of {P0 : List Instr} {s : State} {a len : Nat} {r0 : List Byte} {r1 : Bool} {t0 : State} (e : hbmRead s a len = (r0, r1, t0)) (hK : Kept P0 s) : Kept P0 t0 := by
  have := hbmRead_kept s a len hK
  rw [e] at this
  exact this

theorem hbmWriteAux_kept {P0 : List Instr} (k : Nat) : ∀ (s : State) (a : Nat) (bs : List Byte), Kept P0 s → Kept P0 (hbmWriteAux k s a bs) := by
  induction k with
  | zero => intro s a bs h; exact h
  | succ k ih =>
    intro s a bs h
    unfold hbmWriteAux
    apply Kept.ite <;> intro _
    · exact h
    · apply ih
      dsimp only
      split
      · exact h
      · apply add64_kept
        exact ⟨h.1, { h.2 with mem := memWrite_wf _ _ _ h.2.mem }⟩

theorem hazardHit_kept {P0 : List Instr} (s : State) (d w a : Nat) (by_ : Writer) (hK : Kept P0 s) : Kept P0 (hazardHit s d w a by_) := by
  unfold hazardHit
  try dsimp only
  repeat' (first | (with_reducible assumption) | (with_reducible (intro _)) | (with_reducible apply addSat1_kept)
                  | (with_reducible apply wr1_kept) | (with_reducible apply raiseEvent_kept)
                  | (with_reducible apply setErr_kept) | (with_reducible apply Kept.ite))

theorem hazardWatch_kept {P0 : List Instr} (s : State) (g : Nat) (by_ : Writer) (hK : Kept P0 s) : Kept P0 (hazardWatch s g by_) := by
  unfold hazardWatch
  try dsimp only
  repeat' (first | (with_reducible assumption) | (with_reducible (intro _)) | (with_reducible apply hazardHit_kept)
                  | (with_reducible apply Kept.ite) | (with_reducible apply Kept.foldl) | (split))

theorem hbmWrite_kept {P0 : List Instr} (s : State) (a : Nat) (bs : List Byte) (by_ : Writer) (hK : Kept P0 s) : Kept P0 (hbmWrite s a bs by_) := by
  unfold hbmWrite
  try dsimp only
  repeat' (first | (with_reducible assumption) | (with_reducible (intro _)) | (with_reducible apply hbmWriteAux_kept)
                  | (with_reducible apply hazardWatch_kept) | (with_reducible apply Kept.ite)
                  | (with_reducible apply Kept.foldl))

theorem hbmWriteOwn_kept {P0 : List Instr} (s : State) (a : Nat) (bs : List Byte) (hK : Kept P0 s) : Kept P0 (hbmWriteOwn s a bs) := by
  unfold hbmWriteOwn
  try dsimp only
  repeat' (first | (with_reducible assumption) | (with_reducible apply hbmWrite_kept))

theorem trimGrants_kept {P0 : List Instr} (s : State) (lo hi top : Nat) (hK : Kept P0 s) : Kept P0 (trimGrants s lo hi top) := by
  have key : ∀ (f : Grant → Grant) (ks : SMap Grant),
      Kept P0 { s with grants := ks.foldl (fun m x => tabPut {} m x.1 (f x.2)) s.grants } := fun f ks => by
    simp only [Kept.mk_eq]
    exact hK.view_grants (foldl_keeps (fun m => smWf (fun _ => ({} : Grant)) m = true) _ ks s.grants hK.2.grants (fun m x h => tabPut_wf _ m x.1 _ h))
  unfold trimGrants
  dsimp only
  apply Kept.ite <;> intro _
  · exact key (fun g => if g.base < top then trimGrant lo hi g else g) _
  · exact Kept.foldl (key (fun g => if g.base < top then trimGrant lo hi g else g) _) (fun s d h => setErr_kept _ _ _ h)

end Sys2Proof.Machine
end

