-- ==== Sys2Proof/Laws/Kept/FabOps.lean ====
section
/-!
SUPPORT. Every operation of Machine/FabOps.lean keeps the invariant and the queue.
-/
namespace Sys2Proof.Machine

theorem updFab_kept {P0 : List Instr} (s : State) (f : Fab → Fab) (hK : Kept P0 s) : Kept P0 (updFab s f) := by
  unfold updFab
  try dsimp only
  repeat' (first | (with_reducible assumption) | (simp only [Kept.mk_eq]; with_reducible apply Kept.view))

theorem setLk_kept {P0 : List Instr} (s : State) (l : Nat) (v : Link) (hK : Kept P0 s) : Kept P0 (setLk s l v) := by
  unfold setLk
  try dsimp only
  repeat' (first | (with_reducible assumption) | (with_reducible apply updFab_kept))

theorem updLk_kept {P0 : List Instr} (s : State) (l : Nat) (f : Link → Link) (hK : Kept P0 s) : Kept P0 (updLk s l f) := by
  unfold updLk
  try dsimp only
  repeat' (first | (with_reducible assumption) | (with_reducible apply setLk_kept))

theorem setLinkState_kept {P0 : List Instr} (s : State) (l v : Nat) (hK : Kept P0 s) : Kept P0 (setLinkState s l v) := by
  unfold setLinkState
  try dsimp only
  repeat' (first | (with_reducible assumption) | (with_reducible apply wr1_kept))

theorem eventLink_kept {P0 : List Instr} (s : State) (l : Nat) (hK : Kept P0 s) : Kept P0 (eventLink s l) := by
  unfold eventLink
  try dsimp only
  repeat' (first | (with_reducible assumption) | (with_reducible apply raiseEvent_kept))

theorem setLaneState_kept {P0 : List Instr} (s : State) (p l v : Nat) (hK : Kept P0 s) : Kept P0 (setLaneState s p l v) := by
  unfold setLaneState
  try dsimp only
  repeat' (first | (with_reducible assumption) | (with_reducible apply wr1_kept))

theorem setLanes_kept {P0 : List Instr} (s : State) (l : Nat) (hK : Kept P0 s) : Kept P0 (setLanes s l) := by
  unfold setLanes
  try dsimp only
  repeat' (first | (with_reducible assumption) | (with_reducible (intro _)) | (with_reducible apply wr1_kept)
                  | (with_reducible apply setLinkState_kept) | (with_reducible apply Kept.ite))

theorem setSpareCount_kept {P0 : List Instr} (s : State) (p : Nat) (hK : Kept P0 s) : Kept P0 (setSpareCount s p) := by
  unfold setSpareCount
  try dsimp only
  repeat' (first | (with_reducible assumption) | (with_reducible apply wr_kept))

theorem sendCtrl_kept {P0 : List Instr} (s : State) (l : Nat) (rec_ : List (Nat × Nat)) (hK : Kept P0 s) : Kept P0 (sendCtrl s l rec_) := by
  unfold sendCtrl
  try dsimp only
  repeat' (first | (with_reducible assumption) | (with_reducible apply updLk_kept))

theorem returnUnits_kept {P0 : List Instr} (s : State) (q : QMsg) (hK : Kept P0 s) : Kept P0 (returnUnits s q) := by
  unfold returnUnits
  try dsimp only
  repeat' (first | (with_reducible assumption) | (with_reducible (intro _)) | (with_reducible apply updLk_kept)
                  | (with_reducible apply Kept.ite) | (split))

theorem discardCrc_kept {P0 : List Instr} (s : State) (q : QMsg) (hK : Kept P0 s) : Kept P0 (discardCrc s q) := by
  unfold discardCrc
  try dsimp only
  repeat' (first | (with_reducible assumption) | (with_reducible apply returnUnits_kept)
                  | (with_reducible apply setErr_kept) | (with_reducible apply addSat_kept))

theorem discardDrop_kept {P0 : List Instr} (s : State) (q : QMsg) (hK : Kept P0 s) : Kept P0 (discardDrop s q) := by
  unfold discardDrop
  try dsimp only
  repeat' (first | (with_reducible assumption) | (with_reducible apply returnUnits_kept)
                  | (with_reducible apply setErr_kept) | (with_reducible apply addSat_kept))

theorem failReq_kept {P0 : List Instr} (s : State) (n id status : Nat) (hK : Kept P0 s) : Kept P0 (failReq s n id status) := by
  unfold failReq
  try dsimp only
  repeat' (first | (with_reducible assumption) | (with_reducible (intro _))
                  | (with_reducible (refine updCore_kept ?_ _ ?_))
                  | (simp only [Core.mk_eq]; with_reducible apply Core.ok.tabs))

theorem losePeer_kept {P0 : List Instr} (s : State) (m : Nat) (hK : Kept P0 s) : Kept P0 (losePeer s m) := by
  unfold losePeer
  try dsimp only
  repeat' (first | (with_reducible assumption) | (with_reducible (intro _)) | (with_reducible apply failReq_kept)
                  | (with_reducible apply discardDrop_kept) | (with_reducible apply updFab_kept)
                  | (with_reducible apply setErr_kept) | (with_reducible apply addSat_kept)
                  | (with_reducible apply Kept.ite) | (with_reducible apply Kept.foldl))

theorem sweepLost_kept {P0 : List Instr} (s : State) (hK : Kept P0 s) : Kept P0 (sweepLost s) := by
  unfold sweepLost
  try dsimp only
  repeat' (first | (with_reducible assumption) | (with_reducible (intro _)) | (with_reducible apply losePeer_kept)
                  | (with_reducible apply Kept.ite) | (with_reducible apply Kept.foldl))

theorem restartTimer_kept {P0 : List Instr} (s : State) (l cls : Nat) (hK : Kept P0 s) : Kept P0 (restartTimer s l cls) := by
  unfold restartTimer
  try dsimp only
  repeat' (first | (with_reducible assumption) | (with_reducible apply updFab_kept))

theorem enqueue_kept {P0 : List Instr} (s : State) (q : QMsg) (hK : Kept P0 s) : Kept P0 (enqueue s q) := by
  unfold enqueue
  try dsimp only
  repeat' (first | (with_reducible assumption) | (with_reducible (intro _)) | (with_reducible apply updFab_kept)
                  | (with_reducible apply restartTimer_kept) | (with_reducible apply Kept.ite))

theorem routeMsg_kept {P0 : List Instr} (s : State) (q : QMsg) (cross : Bool) (hK : Kept P0 s) : Kept P0 (routeMsg s q cross) := by
  unfold routeMsg
  try dsimp only
  repeat' (first | (with_reducible assumption) | (with_reducible (intro _)) | (with_reducible apply discardDrop_kept)
                  | (with_reducible apply losePeer_kept) | (with_reducible apply enqueue_kept)
                  | (with_reducible apply Kept.ite) | (split))

theorem commitLocal_kept {P0 : List Instr} (s : State) (q : QMsg) (hK : Kept P0 s) : Kept P0 (commitLocal s q) := by
  unfold commitLocal
  try dsimp only
  repeat' (first | (with_reducible assumption) | (with_reducible (intro _)) | (with_reducible apply add64_kept)
                  | (with_reducible apply updFab_kept) | (with_reducible apply restartTimer_kept)
                  | (with_reducible apply Kept.ite))

theorem originate_kept {P0 : List Instr} (s : State) (m : Msg) (origin : Option (Nat × Nat × Nat)) (cross : Bool) (hK : Kept P0 s) : Kept P0 (originate s m origin cross) := by
  unfold originate
  try dsimp only
  repeat' (first | (with_reducible assumption) | (with_reducible (intro _)) | (with_reducible apply commitLocal_kept)
                  | (with_reducible apply routeMsg_kept) | (with_reducible apply Kept.ite))

theorem nextSeq_kept {P0 : List Instr} (s : State) (hK : Kept P0 s) : Kept P0 (nextSeq s).2 := by
  unfold nextSeq
  try dsimp only
  repeat' (first | (with_reducible assumption) | (with_reducible apply updFab_kept))

theorem nextSeq_kept_of {P0 : List Instr} {s : State} {r0 : Nat} {t0 : State} (e : nextSeq s = (r0, t0)) (hK : Kept P0 s) : Kept P0 t0 := by
  have := nextSeq_kept s hK
  rw [e] at this
  exact this

theorem inDoubt_kept {P0 : List Instr} (s : State) (l : Nat) (x : Sent) (hK : Kept P0 s) : Kept P0 (inDoubt s l x) := by
  unfold inDoubt
  try dsimp only
  repeat' (first | (with_reducible assumption) | (with_reducible (intro _)) | (with_reducible apply discardDrop_kept)
                  | (with_reducible apply setErr_kept) | (with_reducible apply addSat_kept)
                  | (with_reducible apply returnUnits_kept) | (with_reducible apply commitLocal_kept)
                  | (with_reducible apply routeMsg_kept) | (with_reducible apply Kept.ite))

theorem rerouteQueued_kept {P0 : List Instr} (s : State) (l : Nat) (hK : Kept P0 s) : Kept P0 (rerouteQueued s l) := by
  unfold rerouteQueued
  try dsimp only
  repeat' (first | (with_reducible assumption) | (with_reducible (intro _)) | (with_reducible apply updFab_kept)
                  | (with_reducible apply routeMsg_kept) | (with_reducible apply Kept.foldl))

theorem returnMsgs_kept {P0 : List Instr} (s : State) (l : Nat) (hK : Kept P0 s) : Kept P0 (returnMsgs s l) := by
  unfold returnMsgs
  try dsimp only
  repeat' (first | (with_reducible assumption) | (with_reducible apply updLk_kept)
                  | (with_reducible apply rerouteQueued_kept))

theorem sendLinkLast_kept {P0 : List Instr} (s : State) (l : Nat) (hK : Kept P0 s) : Kept P0 (sendLinkLast s l) := by
  unfold sendLinkLast
  try dsimp only
  repeat' (first | (with_reducible assumption) | (with_reducible apply nextSeq_kept)
                  | (with_reducible apply originate_kept) | (with_reducible apply updLk_kept))

theorem linkDown_kept {P0 : List Instr} (s : State) (l cause : Nat) (hK : Kept P0 s) : Kept P0 (linkDown s l cause) := by
  unfold linkDown
  try dsimp only
  repeat' (first | (with_reducible assumption) | (with_reducible (intro _)) | (with_reducible apply wr1_kept)
                  | (with_reducible apply setLinkState_kept) | (with_reducible apply setErr_kept)
                  | (with_reducible apply addWrap1_kept) | (with_reducible apply updLk_kept)
                  | (with_reducible apply eventLink_kept) | (with_reducible apply returnMsgs_kept)
                  | (with_reducible apply sweepLost_kept) | (with_reducible apply sendLinkLast_kept)
                  | (with_reducible apply inDoubt_kept) | (with_reducible apply Kept.ite)
                  | (with_reducible apply Kept.foldl))

theorem closeDone_kept {P0 : List Instr} (s : State) (l : Nat) (hK : Kept P0 s) : Kept P0 (closeDone s l) := by
  unfold closeDone
  try dsimp only
  repeat' (first | (with_reducible assumption) | (with_reducible (intro _)) | (with_reducible apply linkDown_kept)
                  | (with_reducible apply Kept.ite))

theorem beginTraining_kept {P0 : List Instr} (s : State) (l : Nat) (hK : Kept P0 s) : Kept P0 (beginTraining s l) := by
  unfold beginTraining
  try dsimp only
  repeat' (first | (with_reducible assumption) | (with_reducible (intro _)) | (with_reducible apply setLinkState_kept)
                  | (with_reducible apply setLaneState_kept) | (with_reducible apply Kept.ite)
                  | (with_reducible apply Kept.foldl))

theorem trainPort_kept {P0 : List Instr} (s : State) (p : Nat) (hK : Kept P0 s) : Kept P0 (trainPort s p) := by
  unfold trainPort
  try dsimp only
  repeat' (first | (with_reducible assumption) | (with_reducible (intro _)) | (with_reducible apply beginTraining_kept)
                  | (with_reducible apply Kept.foldl))

end Sys2Proof.Machine
end

