-- ==== Sys2Proof/Laws/Kept/BistOps.lean ====
section
/-!
SUPPORT. Every operation of Machine/BistOps.lean keeps the invariant and the queue.
-/
namespace Sys2Proof.Machine

theorem updInnk_kept {P0 : List Instr} (s : State) (f : Innk → Innk) (hK : Kept P0 s) (hf_f : ∀ (y0 : Innk), y0.buf.length ≤ 512 → (f y0).buf.length ≤ 512) : Kept P0 (updInnk s f) :=
  ⟨hK.1, { hK.2 with buf := hf_f _ hK.2.buf }⟩

theorem updBoot_kept {P0 : List Instr} (s : State) (f : Boot → Boot) (hK : Kept P0 s) : Kept P0 (updBoot s f) := by
  unfold updBoot
  try dsimp only
  repeat' (first | (with_reducible assumption) | (simp only [Kept.mk_eq]; with_reducible apply Kept.view))

theorem updPow_kept {P0 : List Instr} (s : State) (f : Power → Power) (hK : Kept P0 s) : Kept P0 (updPow s f) := by
  unfold updPow
  try dsimp only
  repeat' (first | (with_reducible assumption) | (simp only [Kept.mk_eq]; with_reducible apply Kept.view))

theorem setCoreRole_kept {P0 : List Instr} (s : State) (n v : Nat) (hK : Kept P0 s) : Kept P0 (setCoreRole s n v) := by
  unfold setCoreRole
  try dsimp only
  repeat' (first | (with_reducible assumption) | (with_reducible apply wr1_kept))

theorem setHealthy_kept {P0 : List Instr} (s : State) (d : Nat) (hK : Kept P0 s) : Kept P0 (setHealthy s d) := by
  unfold setHealthy
  try dsimp only
  repeat' (first | (with_reducible assumption) | (with_reducible apply wr_kept))

theorem markCoreFailed_kept {P0 : List Instr} (s : State) (n : Nat) (hK : Kept P0 s) : Kept P0 (markCoreFailed s n) := by
  unfold markCoreFailed
  try dsimp only
  repeat' (first | (with_reducible assumption) | (with_reducible (intro _)) | (with_reducible apply setErr_kept)
                  | (with_reducible apply setCoreRole_kept) | (with_reducible apply setHealthy_kept)
                  | (with_reducible apply setBlk_kept) | (with_reducible apply Kept.ite) | (split))

theorem setBist_kept {P0 : List Instr} (s : State) (u : Nat) (v : Bist) (hK : Kept P0 s) : Kept P0 (setBist s u v) := by
  unfold setBist
  try dsimp only
  repeat' (first | (with_reducible assumption) | (with_reducible (intro _)) | (with_reducible apply updInnk_kept))

theorem consumeResult_kept {P0 : List Instr} (s : State) (u : Nat) (hK : Kept P0 s) : Kept P0 (consumeResult s u) := by
  unfold consumeResult
  try dsimp only
  repeat' (first | (with_reducible assumption) | (with_reducible apply setBist_kept))

theorem eventSelftest_kept {P0 : List Instr} (s : State) (u st : Nat) (hK : Kept P0 s) : Kept P0 (eventSelftest s u st) := by
  unfold eventSelftest
  try dsimp only
  repeat' (first | (with_reducible assumption) | (with_reducible apply raiseEvent_kept))

theorem startTest_kept {P0 : List Instr} (s : State) (u : Nat) (powerup : Bool) (hK : Kept P0 s) : Kept P0 (startTest s u powerup) := by
  unfold startTest
  try dsimp only
  repeat' (first | (with_reducible assumption) | (with_reducible (intro _)) | (with_reducible apply updInnk_kept)
                  | (with_reducible apply setBist_kept) | (with_reducible apply setBlk_kept)
                  | (with_reducible apply Kept.foldl))

theorem cutTests_kept {P0 : List Instr} (s : State) (hK : Kept P0 s) : Kept P0 (cutTests s) := by
  unfold cutTests
  try dsimp only
  repeat' (first | (with_reducible assumption) | (with_reducible (intro _)) | (with_reducible apply setBist_kept)
                  | (with_reducible apply Kept.ite) | (with_reducible apply Kept.foldl))

theorem zeroSpad_ok (c : Core) (hc : c.ok) : (zeroSpad c).ok := ⟨rfl, hc.2⟩

theorem loadRepairs_kept {P0 : List Instr} (s : State) (n : Nat) (hK : Kept P0 s) : Kept P0 (loadRepairs s n) := by
  unfold loadRepairs
  try dsimp only
  repeat' (first | (with_reducible assumption) | (with_reducible (intro _)) | (with_reducible apply wr_kept)
                  | (with_reducible apply Kept.ite) | (with_reducible apply Kept.foldl))

theorem resetCore_kept {P0 : List Instr} (s : State) (n : Nat) (hK : Kept P0 s) : Kept P0 (resetCore s n) := by
  unfold resetCore
  try dsimp only
  repeat' (first | (with_reducible assumption) | (with_reducible (intro _))
                  | (with_reducible (refine resetPage_kept ?_ ..)) | (with_reducible apply loadRepairs_kept)
                  | (with_reducible (refine setCore_kept ?_ _ ?_)) | (with_reducible apply Kept.foldl)
                  | (with_reducible exact Core.reset_ok))

theorem finishCore_kept {P0 : List Instr} (s : State) (n : Nat) (hK : Kept P0 s) : Kept P0 (finishCore s n) := by
  unfold finishCore
  try dsimp only
  repeat' (first | (with_reducible assumption) | (with_reducible (intro _)) | (with_reducible apply wr_kept)
                  | (with_reducible (refine updCore_kept ?_ _ ?_)) | (with_reducible apply setBlk_kept)
                  | (with_reducible apply zeroSpad_ok))

theorem bringUpCore_kept {P0 : List Instr} (s : State) (n : Nat) (hK : Kept P0 s) : Kept P0 (bringUpCore s n) := by
  unfold bringUpCore
  try dsimp only
  repeat' (first | (with_reducible assumption) | (with_reducible (intro _)) | (with_reducible apply resetCore_kept)
                  | (with_reducible apply updBoot_kept) | (with_reducible apply startTest_kept)
                  | (with_reducible apply finishCore_kept) | (with_reducible apply consumeResult_kept)
                  | (with_reducible apply Kept.ite))

theorem leaveService_kept {P0 : List Instr} (s : State) (n : Nat) (hK : Kept P0 s) : Kept P0 (leaveService s n) := by
  unfold leaveService
  try dsimp only
  repeat' (first | (with_reducible assumption) | (with_reducible (intro _)) | (with_reducible apply wr1_kept)
                  | (with_reducible apply Kept.ite) | (with_reducible apply Kept.foldl))

end Sys2Proof.Machine
end

