-- ==== Sys2Proof/Laws/Kept/StrOps.lean ====
section
/-!
SUPPORT. Every operation of Machine/StrOps.lean keeps the invariant and the queue.
-/
namespace Sys2Proof.Machine

theorem Job.ok_put {j : Job} (hj : j.ok) (l : Nat) (x : LCore) (hx : ∀ c, x.saved = some c → c.ok) :
    lcoresOk (tabPut {} j.lcores l x) :=
  smPut_all (fun y : LCore => ∀ c, y.saved = some c → c.ok) _ _ _ _ hj hx

theorem Job.ok.lcore {j : Job} (hj : j.ok) (l : Nat) : ∀ c, (lcoreOf j l).saved = some c → c.ok :=
  smGet_all (fun y : LCore => ∀ c, y.saved = some c → c.ok) _ _ l hj (fun _ h => by cases h)

theorem updLcore_kept {P0 : List Instr} (s : State) (b l : Nat) (f : LCore → LCore) (hK : Kept P0 s)
    (hf_f : ∀ y0, (∀ c, y0.saved = some c → c.ok) → ∀ c, (f y0).saved = some c → c.ok) : Kept P0 (updLcore s b l f) :=
  updJob_kept hK b (fun _ hj => Job.ok_put hj l _ (hf_f _ (hj.lcore l)))

theorem setSlot_kept {P0 : List Instr} (s : State) (n i : Nat) (v : Itin) (hK : Kept P0 s) : Kept P0 (setSlot s n i v) := by
  unfold setSlot
  try dsimp only
  repeat' (first | (with_reducible assumption) | (with_reducible (intro _))
                  | (with_reducible (refine updCore_kept ?_ _ ?_))
                  | (simp only [Core.mk_eq]; with_reducible apply Core.ok.tabs))

theorem settleSlot_kept {P0 : List Instr} (s : State) (n i : Nat) (hK : Kept P0 s) : Kept P0 (settleSlot s n i) := by
  unfold settleSlot
  try dsimp only
  repeat' (first | (with_reducible assumption) | (with_reducible (intro _)) | (with_reducible apply setSlot_kept)
                  | (with_reducible apply Kept.ite))

theorem dropReq_kept {P0 : List Instr} (s : State) (n id : Nat) (hK : Kept P0 s) : Kept P0 (dropReq s n id) := by
  unfold dropReq
  try dsimp only
  repeat' (first | (with_reducible assumption) | (with_reducible (intro _))
                  | (with_reducible (refine updCore_kept ?_ _ ?_)) | (with_reducible apply settleSlot_kept)
                  | (with_reducible apply Kept.ite) | (simp only [Core.mk_eq]; with_reducible apply Core.ok.tabs)
                  | (split))

theorem addReq_kept {P0 : List Instr} (s : State) (n : Nat) (r : Req) (hK : Kept P0 s) : Kept P0 (addReq s n r) := by
  unfold addReq
  try dsimp only
  repeat' (first | (with_reducible assumption) | (with_reducible (intro _))
                  | (with_reducible (refine updCore_kept ?_ _ ?_)) | (with_reducible apply raiseMax_kept)
                  | (simp only [Core.mk_eq]; with_reducible apply Core.ok.tabs))

theorem orFlags_kept {P0 : List Instr} (s : State) (n ctx : Nat) (f : Flags5) (hK : Kept P0 s) : Kept P0 (orFlags s n ctx f) := by
  unfold orFlags
  try dsimp only
  repeat' (first | (with_reducible assumption) | (with_reducible (intro _))
                  | (with_reducible (refine updCore_kept ?_ _ ?_)) | (with_reducible apply Kept.ite)
                  | (simp only [Core.mk_eq]; with_reducible apply Core.ok.tabs))

theorem destCheck_kept {P0 : List Instr} {s : State} {n ctx slot crr pc h : Nat} {hd : Handle} {off len : Nat} {t0 : State} (e : destCheck s n ctx slot crr pc h hd off len = .error t0) (hK : Kept P0 s) : Kept P0 t0 := by
  unfold destCheck at e
  dsimp only at e
  split at e
  · injection e with e; subst e; exact recSpad_kept _ _ _ _ _ _ _ _ hK
  · split at e
    · injection e with e; subst e; exact recStream_kept _ _ _ _ _ _ _ _ hK
    · cases e

theorem remoteWrite_kept {P0 : List Instr} {s : State} {b l h off : Nat} {bs : List Byte} {r0 : _} {t0 : State} (e : remoteWrite s b l h off bs = some (r0, t0)) (hK : Kept P0 s) : Kept P0 t0 := by
  unfold remoteWrite at e
  simp only [Option.map_eq_some_iff] at e
  obtain ⟨m, _, e⟩ := e
  split at e
  · simp only [Prod.mk.injEq] at e; rw [← e.2]; exact hK
  · simp only [Prod.mk.injEq] at e; rw [← e.2]
    exact completeAt_kept _ _ _ _ (updCore_kept hK m (fun c hc => spadWrite_ok _ _ _ _ hc))

theorem remoteRead_kept {P0 : List Instr} {s : State} {b l h off len : Nat} {r0 : _} {t0 : State} (e : remoteRead s b l h off len = some (r0, t0)) (hK : Kept P0 s) : Kept P0 t0 := by
  unfold remoteRead at e
  simp only [Option.map_eq_some_iff] at e
  obtain ⟨m, _, e⟩ := e
  split at e
  · simp only [Prod.mk.injEq] at e; rw [← e.2]; exact hK
  · simp only [Prod.mk.injEq] at e; rw [← e.2]
    exact noteErrs_kept _ _ _ hK

theorem landLocal_kept {P0 : List Instr} (s : State) (n : Nat) (r : Req) (bs : List Byte) (hK : Kept P0 s) : Kept P0 (landLocal s n r bs) := by
  unfold landLocal
  try dsimp only
  repeat' (first | (with_reducible assumption) | (with_reducible (intro _)) | (with_reducible apply completeAt_kept)
                  | (with_reducible (refine updCore_kept ?_ _ ?_)) | (with_reducible apply spadWrite_ok))

theorem remoteFault_kept {P0 : List Instr} (s : State) (n : Nat) (r : Req) (st : Nat) (hK : Kept P0 s) : Kept P0 (remoteFault s n r st) := by
  unfold remoteFault
  try dsimp only
  repeat' (first | (with_reducible assumption) | (with_reducible apply recStreamAs_kept))

theorem ueFault_kept {P0 : List Instr} (s : State) (n : Nat) (r : Req) (hK : Kept P0 s) : Kept P0 (ueFault s n r) := by
  unfold ueFault
  try dsimp only
  repeat' (first | (with_reducible assumption) | (with_reducible (intro _)) | (with_reducible apply freeBytes_kept)
                  | (with_reducible apply recStream_kept) | (with_reducible (refine updCore_kept ?_ _ ?_))
                  | (with_reducible apply spadWrite_ok))

theorem noteStored_kept {P0 : List Instr} (s : State) (n ctx a len : Nat) (hK : Kept P0 s) : Kept P0 (noteStored s n ctx a len) := by
  unfold noteStored
  try dsimp only
  repeat' (first | (with_reducible assumption) | (with_reducible (intro _))
                  | (with_reducible (refine updCore_kept ?_ _ ?_))
                  | (simp only [Core.mk_eq]; with_reducible apply Core.ok.tabs))

theorem countBytes_kept {P0 : List Instr} (s : State) (n len : Nat) (hK : Kept P0 s) : Kept P0 (countBytes s n len) := by
  unfold countBytes
  try dsimp only
  repeat' (first | (with_reducible assumption) | (with_reducible apply add64_kept))

theorem sendReq_kept {P0 : List Instr} (s : State) (n : Nat) (r : Req) (hK : Kept P0 s) : Kept P0 (sendReq s n r) := by
  unfold sendReq
  try dsimp only
  repeat' (first | (with_reducible assumption) | (with_reducible (intro _))
                  | (with_reducible (refine updCore_kept ?_ _ ?_)) | (with_reducible apply setErr_kept)
                  | (with_reducible apply addSat_kept) | (with_reducible apply nextSeq_kept)
                  | (with_reducible apply originate_kept) | (with_reducible apply Kept.ite)
                  | (simp only [Core.mk_eq]; with_reducible apply Core.ok.tabs) | (split))

theorem courierPump_kept {P0 : List Instr} (s : State) (n : Nat) (hK : Kept P0 s) : Kept P0 (courierPump s n) := by
  unfold courierPump
  try dsimp only
  repeat' (first | (with_reducible assumption) | (with_reducible (intro _)) | (with_reducible apply sendReq_kept)
                  | (with_reducible apply Kept.ite) | (with_reducible apply Kept.foldl))

end Sys2Proof.Machine
end

