-- ==== Sys2Proof/Laws/Kept/CarOps.lean ====
section
/-!
SUPPORT. Every operation of Machine/CarOps.lean keeps the invariant and the queue.
-/
namespace Sys2Proof.Machine

theorem updCar_kept {P0 : List Instr} (s : State) (f : Caravan → Caravan) (hK : Kept P0 s) : Kept P0 (updCar s f) := by
  unfold updCar
  try dsimp only
  repeat' (first | (with_reducible assumption) | (simp only [Kept.mk_eq]; with_reducible apply Kept.view))

theorem triggerAt_kept {P0 : List Instr} (s : State) (b p : Nat) (hK : Kept P0 s) : Kept P0 (triggerAt s b p) := by
  unfold triggerAt
  try dsimp only
  repeat' (first | (with_reducible assumption) | (with_reducible (intro _)) | (with_reducible apply updCar_kept)
                  | (with_reducible apply Kept.ite) | (with_reducible apply Kept.foldl))

theorem setInst_kept {P0 : List Instr} (s : State) (i : Inst) (hK : Kept P0 s) : Kept P0 (setInst s i) := by
  unfold setInst
  try dsimp only
  repeat' (first | (with_reducible assumption) | (with_reducible apply updCar_kept))

theorem sendRank_kept {P0 : List Instr} (s : State) (i : Inst) (op r offset : Nat) (data : List Byte) (cross : Bool) (hK : Kept P0 s) : Kept P0 (sendRank s i op r offset data cross) := by
  unfold sendRank
  try dsimp only
  repeat' (first | (with_reducible assumption) | (with_reducible apply nextSeq_kept) | (with_reducible apply add64_kept)
                  | (with_reducible apply originate_kept))

theorem sendBytes_kept {P0 : List Instr} (i : Inst) (op r : Nat) (cross : Bool) (k : Nat) : ∀ (s : State) (off : Nat) (bs : List Byte), Kept P0 s → Kept P0 (sendBytes i op r cross k s off bs) := by
  induction k with
  | zero => intro s off bs h; exact h
  | succ k ih =>
    intro s off bs h
    unfold sendBytes
    apply Kept.ite <;> intro _
    · exact h
    · exact ih _ _ _ (sendRank_kept _ _ _ _ _ _ _ h)

theorem sendStatus_kept {P0 : List Instr} (s : State) (i : Inst) (st : Nat) (hK : Kept P0 s) : Kept P0 (sendStatus s i st) := by
  unfold sendStatus
  try dsimp only
  repeat' (first | (with_reducible assumption) | (with_reducible (intro _)) | (with_reducible apply sendRank_kept)
                  | (with_reducible apply Kept.foldl))

theorem recordModFault_kept {P0 : List Instr} (s : State) (b ctx status page code : Nat) (hK : Kept P0 s) : Kept P0 (recordModFault s b ctx status page code) := by
  unfold recordModFault
  try dsimp only
  repeat' (first | (with_reducible assumption) | (simp only [Kept.mk_eq]; with_reducible apply Kept.view))

theorem finish_kept {P0 : List Instr} (s : State) (i : Inst) (st : Nat) (hK : Kept P0 s) : Kept P0 (finish s i st) := by
  unfold finish
  try dsimp only
  repeat' (first | (with_reducible assumption) | (with_reducible (intro _)) | (with_reducible apply setInst_kept)
                  | (with_reducible apply Kept.ite))

theorem carFault_kept {P0 : List Instr} (s : State) (i : Inst) (status other : Nat) (hK : Kept P0 s) : Kept P0 (carFault s i status other) := by
  unfold carFault
  try dsimp only
  repeat' (first | (with_reducible assumption) | (with_reducible (intro _)) | (with_reducible apply recordModFault_kept)
                  | (with_reducible apply setErr_kept) | (with_reducible apply finish_kept)
                  | (with_reducible apply sendStatus_kept) | (with_reducible apply Kept.ite))

end Sys2Proof.Machine
end

