-- ==== Sys2Proof/Laws/Kept/Str.lean ====
section
/-!
SUPPORT. Every operation of Machine/Str.lean keeps the invariant and the queue.
-/
namespace Sys2Proof.Machine

theorem strIssue_kept {P0 : List Instr} (s : State) (i : Issue) (ok : Bool) (f : Nat → Nat → State → State) (hK : Kept P0 s) (hf_f : ∀ (y0 : Nat) (y1 : Nat) (y2 : State), Kept P0 y2 → Kept P0 (f y0 y1 y2)) : Kept P0 (strIssue s i ok f) := by
  unfold strIssue
  try dsimp only
  repeat' (first | (with_reducible assumption) | (with_reducible (intro _)) | (with_reducible apply hf_f)
                  | (with_reducible apply issueSlot_kept) | (with_reducible apply illegalSlot_kept)
                  | (with_reducible apply Kept.ite))

theorem execStart_kept {P0 : List Instr} {t0 : State} (i : Issue) (sl : Fin 8) (ra rb : Fin 32) (s : State) (eN : execStart i sl ra rb s = .next t0) (hK : Kept P0 s) : Kept P0 t0 := by
  unfold execStart at eN
  try dsimp only at eN
  injection eN with eN
  subst eN
  repeat' (first | (with_reducible assumption) | (with_reducible (intro _)) | (with_reducible apply strIssue_kept)
                  | (with_reducible apply recStream_kept) | (with_reducible apply setSlot_kept)
                  | (with_reducible apply Kept.ite))

theorem stopSlot_kept {P0 : List Instr} (s : State) (n sl : Nat) (hK : Kept P0 s) : Kept P0 (stopSlot s n sl) := by
  unfold stopSlot
  try dsimp only
  repeat' (first | (with_reducible assumption) | (with_reducible (intro _)) | (with_reducible apply settleSlot_kept)
                  | (with_reducible apply setSlot_kept) | (with_reducible apply Kept.ite))

theorem execStop_kept {P0 : List Instr} {t0 : State} (i : Issue) (sl : Fin 8) (s : State) (eN : execStop i sl s = .next t0) (hK : Kept P0 s) : Kept P0 t0 := by
  unfold execStop at eN
  try dsimp only at eN
  injection eN with eN
  subst eN
  repeat' (first | (with_reducible assumption) | (with_reducible (intro _)) | (with_reducible apply strIssue_kept)
                  | (with_reducible apply stopSlot_kept))

theorem addCredit_kept {P0 : List Instr} (s : State) (n p ctx sl k : Nat) (h : Option Nat) (hK : Kept P0 s) : Kept P0 (addCredit s n p ctx sl k h) := by
  unfold addCredit
  try dsimp only
  repeat' (first | (with_reducible assumption) | (with_reducible (intro _)) | (with_reducible apply recStream_kept)
                  | (with_reducible apply setSlot_kept) | (with_reducible apply recSpad_kept)
                  | (with_reducible apply armHandle_kept) | (with_reducible apply Kept.ite) | (split))

theorem execCredit_kept {P0 : List Instr} {t0 : State} (i : Issue) (sl : Fin 8) (k : BitVec 12) (h : Option (Fin 64)) (s : State) (eN : execCredit i sl k h s = .next t0) (hK : Kept P0 s) : Kept P0 t0 := by
  unfold execCredit at eN
  try dsimp only at eN
  injection eN with eN
  subst eN
  repeat' (first | (with_reducible assumption) | (with_reducible (intro _)) | (with_reducible apply strIssue_kept)
                  | (with_reducible (refine updCore_kept ?_ _ ?_)) | (with_reducible apply addCredit_kept)
                  | (with_reducible apply Kept.ite) | (simp only [Core.mk_eq]; with_reducible apply Core.ok.tabs))

theorem srCheck_kept {P0 : List Instr} {s : State} {n p ctx h : Nat} {hd : Handle} {off len : Nat} {t0 : State} (e : srCheck s n p ctx h hd off len = .error t0) (hK : Kept P0 s) : Kept P0 t0 := by
  unfold srCheck at e
  dsimp only at e
  split at e
  · injection e with e; subst e; exact recSpad_kept _ _ _ _ _ _ _ _ hK
  split at e
  · injection e with e; subst e; exact recSpad_kept _ _ _ _ _ _ _ _ hK
  split at e
  · injection e with e; subst e; exact recSpad_kept _ _ _ _ _ _ _ _ hK
  split at e
  · injection e with e; subst e; exact recStream_kept _ _ _ _ _ _ _ _ hK
  · cases e

theorem swCheck_kept {P0 : List Instr} {s : State} {n p ctx h : Nat} {hd : Handle} {off len : Nat} {t0 : State} (e : swCheck s n p ctx h hd off len = .error t0) (hK : Kept P0 s) : Kept P0 t0 := by
  unfold swCheck at e
  dsimp only at e
  split at e
  · injection e with e; subst e; exact recSpad_kept _ _ _ _ _ _ _ _ hK
  split at e
  · injection e with e; subst e; exact recSpad_kept _ _ _ _ _ _ _ _ hK
  · cases e

theorem execSend_kept {P0 : List Instr} {t0 : State} (i : Issue) (sl : Fin 8) (h : Fin 64) (ra : Fin 32) (len : BitVec 6) (s : State) (eN : execSend i sl h ra len s = .next t0) (hK : Kept P0 s) : Kept P0 t0 := by
  unfold execSend at eN
  try dsimp only at eN
  injection eN with eN
  subst eN
  repeat' (first | (with_reducible assumption) | (with_reducible (intro _)) | (with_reducible apply strIssue_kept)
                  | (with_reducible (apply srCheck_kept (by assumption))) | (with_reducible apply recStream_kept)
                  | (with_reducible (refine updCore_kept ?_ _ ?_)) | (with_reducible apply wideAccess_kept)
                  | (with_reducible apply Kept.ite) | (simp only [Core.mk_eq]; with_reducible apply Core.ok.tabs)
                  | (split))

theorem execArm_kept {P0 : List Instr} {t0 : State} (i : Issue) (h : Fin 64) (k : BitVec 12) (s : State) (eN : execArm i h k s = .next t0) (hK : Kept P0 s) : Kept P0 t0 := by
  unfold execArm at eN
  try dsimp only at eN
  injection eN with eN
  subst eN
  repeat' (first | (with_reducible assumption) | (with_reducible (intro _)) | (with_reducible apply strIssue_kept)
                  | (with_reducible apply recSpad_kept) | (with_reducible apply armHandle_kept)
                  | (with_reducible apply Kept.ite))

theorem execStrCopy_kept {P0 : List Instr} {t0 : State} (i : Issue) (h : Fin 64) (ra : Fin 32) (h2 : Fin 64) (rb : Fin 32) (len : BitVec 6) (s : State) (eN : execStrCopy i h ra h2 rb len s = .next t0) (hK : Kept P0 s) : Kept P0 t0 := by
  unfold execStrCopy at eN
  try dsimp only at eN
  injection eN with eN
  subst eN
  repeat' (first | (with_reducible assumption) | (with_reducible (intro _)) | (with_reducible apply strIssue_kept)
                  | (with_reducible (apply srCheck_kept (by assumption)))
                  | (with_reducible (apply swCheck_kept (by assumption))) | (with_reducible apply completeAt_kept)
                  | (with_reducible apply wideAccess_kept) | (with_reducible apply armHandle_kept) | (split))

theorem setStage_kept {P0 : List Instr} (s : State) (n k j : Nat) (v : Stage) (hK : Kept P0 s) : Kept P0 (setStage s n k j v) := by
  unfold setStage
  try dsimp only
  repeat' (first | (with_reducible assumption) | (with_reducible (intro _))
                  | (with_reducible (refine updCore_kept ?_ _ ?_)) | (with_reducible apply wr1_kept)
                  | (simp only [Core.mk_eq]; with_reducible apply Core.ok.tabs))

theorem setDepth_kept {P0 : List Instr} (s : State) (n k d : Nat) (hK : Kept P0 s) : Kept P0 (setDepth s n k d) := by
  unfold setDepth
  try dsimp only
  repeat' (first | (with_reducible assumption) | (with_reducible apply raiseMax_kept) | (with_reducible apply wr1_kept))

theorem execPush_kept {P0 : List Instr} {t0 : State} (i : Issue) (k : Fin 8) (h : Fin 64) (ra : Fin 32) (s : State) (eN : execPush i k h ra s = .next t0) (hK : Kept P0 s) : Kept P0 t0 := by
  unfold execPush at eN
  try dsimp only at eN
  injection eN with eN
  subst eN
  repeat' (first | (with_reducible assumption) | (with_reducible (intro _)) | (with_reducible apply strIssue_kept)
                  | (with_reducible apply recSpad_kept) | (with_reducible (apply srCheck_kept (by assumption)))
                  | (with_reducible apply wideAccess_kept) | (with_reducible apply setDepth_kept)
                  | (with_reducible apply setStage_kept) | (with_reducible apply Kept.ite) | (split))

theorem execPop_kept {P0 : List Instr} {t0 : State} (i : Issue) (k : Fin 8) (h : Fin 64) (ra : Fin 32) (s : State) (eN : execPop i k h ra s = .next t0) (hK : Kept P0 s) : Kept P0 t0 := by
  unfold execPop at eN
  try dsimp only at eN
  injection eN with eN
  subst eN
  repeat' (first | (with_reducible assumption) | (with_reducible (intro _)) | (with_reducible apply strIssue_kept)
                  | (with_reducible apply recSpad_kept) | (with_reducible (apply swCheck_kept (by assumption)))
                  | (with_reducible apply completeAt_kept) | (with_reducible apply wideAccess_kept)
                  | (with_reducible apply setDepth_kept) | (with_reducible apply armHandle_kept)
                  | (with_reducible apply setStage_kept) | (with_reducible apply Kept.ite) | (split))

theorem execSbWriteOutComplete_kept {P0 : List Instr} {t0 : State} (c : Fin 256) (k : Fin 8) (j : Fin 16) (s : State) (eN : execSbWriteOutComplete c k j s = .next t0) (hK : Kept P0 s) : Kept P0 t0 := by
  unfold execSbWriteOutComplete at eN
  try dsimp only at eN
  injection eN with eN
  subst eN
  repeat' (first | (with_reducible assumption) | (with_reducible (intro _)) | (with_reducible apply setStage_kept)
                  | (with_reducible apply recStream_kept) | (with_reducible apply noteErrs_kept)
                  | (with_reducible apply recSpad_kept) | (with_reducible apply addWrap_kept)
                  | (with_reducible apply noteStored_kept) | (with_reducible apply hbmWrite_kept)
                  | (with_reducible apply Kept.ite) | (split))

theorem execSbPrefetchComplete_kept {P0 : List Instr} {t0 : State} (c : Fin 256) (k : Fin 8) (j : Fin 16) (s : State) (eN : execSbPrefetchComplete c k j s = .next t0) (hK : Kept P0 s) : Kept P0 t0 := by
  unfold execSbPrefetchComplete at eN
  try dsimp only at eN
  injection eN with eN
  subst eN
  repeat' (first | (with_reducible assumption) | (with_reducible (intro _)) | (with_reducible apply recStream_kept)
                  | (with_reducible apply setStage_kept) | (with_reducible apply hbmRead_kept)
                  | (with_reducible apply addWrap_kept) | (with_reducible (refine updCore_kept ?_ _ ?_))
                  | (with_reducible apply Kept.ite) | (with_reducible apply spadWrite_ok) | (split))

theorem courierIssue_kept {P0 : List Instr} (s : State) (i : Issue) (tgt : BitVec 2) (len : BitVec 6) (qd : Fin 8)
    (f : Nat → Nat → State → Option State × State) (hK : Kept P0 s)
    (hs : ∀ p c s t u, Kept P0 s → f p c s = (some t, u) → Kept P0 t) (hn : ∀ p c s u, Kept P0 s → f p c s = (none, u) → Kept P0 u) :
    Kept P0 (courierIssue s i tgt len qd f) := by
  unfold courierIssue
  apply strIssue_kept _ _ _ _ hK
  intro p c s h
  dsimp only
  apply Kept.ite <;> intro _
  · exact setErr_kept _ _ _ (addSat_kept _ _ _ _ (addResult_kept _ _ _ _ _ h))
  · split
    · rename_i e; exact hs _ _ _ _ _ h e
    · rename_i e
      exact addWrap_kept _ _ _ _ (addResult_kept _ _ _ _ _ (courierPump_kept _ _ (hn _ _ _ _ h e)))

theorem execCourierPut_kept {P0 : List Instr} {t0 : State} (i : Issue) (h : Fin 64) (ra rb rc : Fin 32) (tgt : BitVec 2) (len : BitVec 6) (qd : Fin 8) (s : State) (eN : execCourierPut i h ra rb rc tgt len qd s = .next t0) (hK : Kept P0 s) : Kept P0 t0 := by
  have e := eN
  clear eN
  unfold execCourierPut at e
  injection e with e
  subst e
  apply courierIssue_kept _ _ _ _ _ _ hK
  · intro p c s t u hs e
    dsimp only at e
    split at e
    · rename_i he
      simp only [Prod.mk.injEq, Option.some.injEq] at e
      rw [← e.1]; exact srCheck_kept he hs
    · split at e
      · simp only [Prod.mk.injEq, Option.some.injEq] at e
        rw [← e.1]; exact recStream_kept _ _ _ _ _ _ _ _ hs
      · split at e
        · simp only [Prod.mk.injEq, Option.some.injEq] at e
          rw [← e.1]; exact recStream_kept _ _ _ _ _ _ _ _ hs
        · simp at e
  · intro p c s u hs e
    dsimp only at e
    split at e
    · simp at e
    · split at e
      · simp at e
      · split at e
        · simp at e
        · simp only [Prod.mk.injEq, true_and] at e
          rw [← e]; exact wideAccess_kept _ _ _ _ _ _ _ _ (addReq_kept _ _ _ hs)

theorem courierRead_some {P0 : List Instr} {s : State} {i : Issue} {ctx h ra rb rc : Nat} {tgt : BitVec 2} {k al : Nat} {kind : ReqKind} {operand : DWord} {t u : State} (e : courierRead s i ctx h ra rb rc tgt k al kind operand = (some t, u)) (hK : Kept P0 s) : Kept P0 t := by
  unfold courierRead at e
  dsimp only at e
  split at e
  · rename_i he
    simp only [Prod.mk.injEq, Option.some.injEq] at e
    rw [← e.1]; exact destCheck_kept he hK
  · split at e
    · simp only [Prod.mk.injEq, Option.some.injEq] at e
      rw [← e.1]; exact recStream_kept _ _ _ _ _ _ _ _ hK
    · split at e
      · simp only [Prod.mk.injEq, Option.some.injEq] at e
        rw [← e.1]; exact recStream_kept _ _ _ _ _ _ _ _ hK
      · simp at e
theorem courierRead_none {P0 : List Instr} {s : State} {i : Issue} {ctx h ra rb rc : Nat} {tgt : BitVec 2} {k al : Nat} {kind : ReqKind} {operand : DWord} {u : State} (e : courierRead s i ctx h ra rb rc tgt k al kind operand = (none, u)) (hK : Kept P0 s) : Kept P0 u := by
  unfold courierRead at e
  dsimp only at e
  split at e
  · simp at e
  · split at e
    · simp at e
    · split at e
      · simp at e
      · simp only [Prod.mk.injEq, true_and] at e
        rw [← e]; exact addReq_kept _ _ _ (armHandle_kept _ _ _ _ _ hK)

theorem execCourierGet_kept {P0 : List Instr} {t0 : State} (i : Issue) (h : Fin 64) (ra rb rc : Fin 32) (tgt : BitVec 2) (len : BitVec 6) (qd : Fin 8) (s : State) (eN : execCourierGet i h ra rb rc tgt len qd s = .next t0) (hK : Kept P0 s) : Kept P0 t0 := by
  have e := eN
  clear eN
  unfold execCourierGet at e
  injection e with e
  subst e
  apply courierIssue_kept _ _ _ _ _ _ hK
  · intro p c s t u h e; exact courierRead_some e h
  · intro p c s u h e; exact courierRead_none e h

theorem execCourierAdd_kept {P0 : List Instr} {t0 : State} (i : Issue) (h : Fin 64) (ra rb rc rd_ : Fin 32) (tgt : BitVec 2) (qd : Fin 8) (s : State) (eN : execCourierAdd i h ra rb rc rd_ tgt qd s = .next t0) (hK : Kept P0 s) : Kept P0 t0 := by
  have e := eN
  clear eN
  unfold execCourierAdd at e
  injection e with e
  subst e
  apply courierIssue_kept _ _ _ _ _ _ hK
  · intro p c s t u h e; exact courierRead_some e h
  · intro p c s u h e; exact courierRead_none e h

theorem courierAtTarget_kept {P0 : List Instr} {s : State} {n : Nat} {r : Req} {r0 r1 r2 : _} {t0 : State} (e : courierAtTarget s n r = some (r0, r1, r2, t0)) (hK : Kept P0 s) : Kept P0 t0 := by
  unfold courierAtTarget at e
  dsimp only at e
  repeat' split at e
  all_goals try (cases e; done)
  all_goals try (simp only [Option.some.injEq, Prod.mk.injEq] at e; rw [← e.2.2.2]; clear e)
  all_goals try exact hK
  all_goals try exact noteStored_kept _ _ _ _ _ (hbmWrite_kept _ _ _ _ hK)
  all_goals try exact hbmRead_kept _ _ _ hK
  all_goals try exact noteStored_kept _ _ _ _ _ (hbmWrite_kept _ _ _ _ (hbmRead_kept _ _ _ hK))
  all_goals try exact updCore_kept (noteErrs_kept _ _ _ hK) _ (fun c hc => spadWrite_ok _ _ _ _ hc)
  all_goals simp only [Option.map_eq_some_iff] at e
  all_goals obtain ⟨x, hx, e⟩ := e
  all_goals try (split at e)
  all_goals simp only [Prod.mk.injEq] at e
  all_goals rw [← e.2.2.2]
  all_goals try exact hK
  all_goals first
    | exact remoteWrite_kept (r0 := x.1) hx hK
    | exact remoteRead_kept (r0 := x.1) hx hK

theorem execCourierComplete_kept {P0 : List Instr} {t0 : State} (c : Fin 256) (id : Nat) (s : State) (eN : execCourierComplete c id s = .next t0) (hK : Kept P0 s) : Kept P0 t0 := by
  unfold execCourierComplete at eN
  try dsimp only at eN
  injection eN with eN
  subst eN
  repeat' (first | (with_reducible assumption) | (with_reducible (intro _))
                  | (with_reducible (apply courierAtTarget_kept (by assumption)))
                  | (with_reducible apply remoteFault_kept) | (with_reducible apply ueFault_kept)
                  | (with_reducible apply landLocal_kept) | (with_reducible apply courierPump_kept)
                  | (with_reducible apply dropReq_kept) | (with_reducible apply Kept.ite) | (split))

end Sys2Proof.Machine
end

