-- ==== Sys2Proof/Laws/Kept/ItinCmd.lean ====
section
/-!
SUPPORT. Every operation of Machine/ItinCmd.lean keeps the invariant and the queue.
-/
namespace Sys2Proof.Machine

theorem itinDone_kept {P0 : List Instr} (s : State) (n sl : Nat) (v : Itin) (hK : Kept P0 s) : Kept P0 (itinDone s n sl v) := by
  unfold itinDone
  try dsimp only
  repeat' (first | (with_reducible assumption) | (with_reducible (intro _)) | (with_reducible apply setSlot_kept)
                  | (with_reducible apply recStream_kept) | (with_reducible apply Kept.ite))

theorem itinStep_kept {P0 : List Instr} (s : State) (n sl : Nat) (f : Itin → State) (hK : Kept P0 s) (hf_f : ∀ (y0 : Itin), Kept P0 (f y0)) : Kept P0 (itinStep s n sl f) := by
  unfold itinStep
  try dsimp only
  repeat' (first | (with_reducible assumption) | (with_reducible (intro _)) | (with_reducible apply hf_f)
                  | (with_reducible apply Kept.ite))

theorem itinPure_kept {P0 : List Instr} (c : Fin 256) (sl : Fin 8) (f : Itin → Itin) (s : State) (hK : Kept P0 s) : Kept P0 (itinPure c sl f s) := by
  unfold itinPure
  try dsimp only
  repeat' (first | (with_reducible assumption) | (with_reducible (intro _)) | (with_reducible apply itinStep_kept)
                  | (with_reducible apply itinDone_kept))

theorem itinWait_kept {P0 : List Instr} (s : State) (n sl why : Nat) (hK : Kept P0 s) : Kept P0 (itinWait s n sl why) := by
  unfold itinWait
  try dsimp only
  repeat' (first | (with_reducible assumption) | (with_reducible apply setSlot_kept))

theorem execItinNop_kept {P0 : List Instr} {t0 : State} (c : Fin 256) (sl : Fin 8) (s : State) (eN : execItinNop c sl s = .next t0) (hK : Kept P0 s) : Kept P0 t0 := by
  unfold execItinNop at eN
  try dsimp only at eN
  injection eN with eN
  subst eN
  repeat' (first | (with_reducible assumption) | (with_reducible apply itinPure_kept))

theorem execItinLoop_kept {P0 : List Instr} {t0 : State} (c : Fin 256) (sl : Fin 8) (last : Fin 32) (cnt : BitVec 24) (s : State) (eN : execItinLoop c sl last cnt s = .next t0) (hK : Kept P0 s) : Kept P0 t0 := by
  unfold execItinLoop at eN
  try dsimp only at eN
  injection eN with eN
  subst eN
  repeat' (first | (with_reducible assumption) | (with_reducible (intro _)) | (with_reducible apply itinStep_kept)
                  | (with_reducible apply recStream_kept) | (with_reducible apply setSlot_kept)
                  | (with_reducible apply Kept.ite))

theorem execSeta_kept {P0 : List Instr} {t0 : State} (c : Fin 256) (sl : Fin 8) (ad : Fin 8) (imm : BitVec 48) (s : State) (eN : execSeta c sl ad imm s = .next t0) (hK : Kept P0 s) : Kept P0 t0 := by
  unfold execSeta at eN
  try dsimp only at eN
  injection eN with eN
  subst eN
  repeat' (first | (with_reducible assumption) | (with_reducible apply itinPure_kept))

theorem execSetah_kept {P0 : List Instr} {t0 : State} (c : Fin 256) (sl : Fin 8) (ad : Fin 8) (imm : BitVec 16) (s : State) (eN : execSetah c sl ad imm s = .next t0) (hK : Kept P0 s) : Kept P0 t0 := by
  unfold execSetah at eN
  try dsimp only at eN
  injection eN with eN
  subst eN
  repeat' (first | (with_reducible assumption) | (with_reducible apply itinPure_kept))

theorem execAdv_kept {P0 : List Instr} {t0 : State} (c : Fin 256) (sl : Fin 8) (ad : Fin 8) (imm : BitVec 40) (s : State) (eN : execAdv c sl ad imm s = .next t0) (hK : Kept P0 s) : Kept P0 t0 := by
  unfold execAdv at eN
  try dsimp only at eN
  injection eN with eN
  subst eN
  repeat' (first | (with_reducible assumption) | (with_reducible apply itinPure_kept))

theorem execSetd_kept {P0 : List Instr} {t0 : State} (c : Fin 256) (sl : Fin 8) (epoch : BitVec 16) (module : BitVec 20) (s : State) (eN : execSetd c sl epoch module s = .next t0) (hK : Kept P0 s) : Kept P0 t0 := by
  unfold execSetd at eN
  try dsimp only at eN
  injection eN with eN
  subst eN
  repeat' (first | (with_reducible assumption) | (with_reducible apply itinPure_kept))

theorem execCvt_kept {P0 : List Instr} {t0 : State} (c : Fin 256) (sl : Fin 8) (ereg : Fin 8) (mfmt lfmt : BitVec 8) (tid : BitVec 32) (s : State) (eN : execCvt c sl ereg mfmt lfmt tid s = .next t0) (hK : Kept P0 s) : Kept P0 t0 := by
  unfold execCvt at eN
  try dsimp only at eN
  injection eN with eN
  subst eN
  repeat' (first | (with_reducible assumption) | (with_reducible (intro _)) | (with_reducible apply itinStep_kept)
                  | (with_reducible apply itinDone_kept) | (with_reducible apply recStream_kept)
                  | (with_reducible apply Kept.ite))

theorem issueReq_kept {P0 : List Instr} (s : State) (n sl : Nat) (v : Itin) (r : Req) (hK : Kept P0 s) : Kept P0 (issueReq s n sl v r) := by
  unfold issueReq
  try dsimp only
  repeat' (first | (with_reducible assumption) | (with_reducible (intro _)) | (with_reducible apply addReq_kept)
                  | (with_reducible (refine updCore_kept ?_ _ ?_)) | (with_reducible apply addWrap_kept)
                  | (with_reducible apply itinDone_kept) | (simp only [Core.mk_eq]; with_reducible apply Core.ok.tabs))

theorem countSuppr_kept {P0 : List Instr} (s : State) (n k : Nat) (hK : Kept P0 s) : Kept P0 (countSuppr s n k) := by
  unfold countSuppr
  try dsimp only
  repeat' (first | (with_reducible assumption) | (with_reducible (intro _)) | (with_reducible apply setErr_kept)
                  | (with_reducible apply addSat_kept) | (with_reducible apply Kept.ite))

theorem launch_kept {P0 : List Instr} (s : State) (n : Nat) (hK : Kept P0 s) : Kept P0 (launch s n) := by
  unfold launch
  try dsimp only
  repeat' (first | (with_reducible assumption) | (with_reducible (intro _)) | (with_reducible apply sendReq_kept)
                  | (with_reducible apply Kept.ite) | (split))

theorem execItinLoad_kept {P0 : List Instr} {t0 : State} (c : Fin 256) (sl : Fin 8) (at_ al : Fin 8) (h : Fin 64) (tgt : BitVec 2) (len : BitVec 7) (it il : Bool) (s : State) (eN : execItinLoad c sl at_ al h tgt len it il s = .next t0) (hK : Kept P0 s) : Kept P0 t0 := by
  unfold execItinLoad at eN
  try dsimp only at eN
  injection eN with eN
  subst eN
  repeat' (first | (with_reducible assumption) | (with_reducible (intro _)) | (with_reducible apply itinStep_kept)
                  | (with_reducible apply itinWait_kept) | (with_reducible apply recStream_kept)
                  | (with_reducible (apply destCheck_kept (by assumption))) | (with_reducible apply itinDone_kept)
                  | (with_reducible apply completeAt_kept) | (with_reducible apply addPoison_kept)
                  | (with_reducible apply countSuppr_kept) | (with_reducible apply launch_kept)
                  | (with_reducible apply issueReq_kept) | (with_reducible apply Kept.ite) | (split))

theorem execItinStore_kept {P0 : List Instr} {t0 : State} (c : Fin 256) (sl : Fin 8) (at_ : Fin 8) (tgt : BitVec 2) (len : BitVec 7) (it : Bool) (s : State) (eN : execItinStore c sl at_ tgt len it s = .next t0) (hK : Kept P0 s) : Kept P0 t0 := by
  unfold execItinStore at eN
  try dsimp only at eN
  injection eN with eN
  subst eN
  repeat' (first | (with_reducible assumption) | (with_reducible (intro _)) | (with_reducible apply itinStep_kept)
                  | (with_reducible apply itinWait_kept) | (with_reducible apply recStream_kept)
                  | (with_reducible apply orFlags_kept) | (with_reducible (refine updCore_kept ?_ _ ?_))
                  | (with_reducible apply launch_kept) | (with_reducible apply issueReq_kept)
                  | (with_reducible apply Kept.ite) | (simp only [Core.mk_eq]; with_reducible apply Core.ok.tabs)
                  | (split))

theorem execGather_kept {P0 : List Instr} {t0 : State} (c : Fin 256) (sl : Fin 8) (at_ al : Fin 8) (h ih : Fin 64) (ai : Fin 8) (cnt : BitVec 6) (il ii : Bool) (s : State) (eN : execGather c sl at_ al h ih ai cnt il ii s = .next t0) (hK : Kept P0 s) : Kept P0 t0 := by
  unfold execGather at eN
  try dsimp only at eN
  injection eN with eN
  subst eN
  repeat' (first | (with_reducible assumption) | (with_reducible (intro _)) | (with_reducible apply itinStep_kept)
                  | (with_reducible apply itinWait_kept) | (with_reducible apply recSpad_kept)
                  | (with_reducible apply recStream_kept) | (with_reducible (apply destCheck_kept (by assumption)))
                  | (with_reducible apply addPoison_kept) | (with_reducible apply countSuppr_kept)
                  | (with_reducible apply noteErrs_kept) | (with_reducible apply issueReq_kept)
                  | (with_reducible apply addWrap_kept) | (with_reducible apply Kept.ite)
                  | (with_reducible apply Kept.foldl) | (split))

theorem execFence_kept {P0 : List Instr} {t0 : State} (c : Fin 256) (sl : Fin 8) (s : State) (eN : execFence c sl s = .next t0) (hK : Kept P0 s) : Kept P0 t0 := by
  unfold execFence at eN
  try dsimp only at eN
  injection eN with eN
  subst eN
  repeat' (first | (with_reducible assumption) | (with_reducible (intro _)) | (with_reducible apply itinStep_kept)
                  | (with_reducible apply itinWait_kept) | (with_reducible apply itinDone_kept)
                  | (with_reducible apply Kept.ite))

theorem execItinEnd_kept {P0 : List Instr} {t0 : State} (c : Fin 256) (sl : Fin 8) (s : State) (eN : execItinEnd c sl s = .next t0) (hK : Kept P0 s) : Kept P0 t0 := by
  unfold execItinEnd at eN
  try dsimp only at eN
  injection eN with eN
  subst eN
  repeat' (first | (with_reducible assumption) | (with_reducible (intro _)) | (with_reducible apply itinStep_kept)
                  | (with_reducible apply settleSlot_kept) | (with_reducible apply setSlot_kept))

theorem updReq_kept {P0 : List Instr} (s : State) (n id : Nat) (f : Req → Req) (hK : Kept P0 s) : Kept P0 (updReq s n id f) := by
  unfold updReq
  try dsimp only
  repeat' (first | (with_reducible assumption) | (with_reducible (intro _))
                  | (with_reducible (refine updCore_kept ?_ _ ?_))
                  | (simp only [Core.mk_eq]; with_reducible apply Core.ok.tabs))

theorem readBack_kept {P0 : List Instr} (s : State) (n : Nat) (r : Req) (data : List Byte) (ue : Bool) (hK : Kept P0 s) : Kept P0 (readBack s n r data ue) := by
  unfold readBack
  try dsimp only
  repeat' (first | (with_reducible assumption) | (with_reducible apply countBytes_kept)
                  | (with_reducible apply updReq_kept))

theorem readSectors_kept {P0 : List Instr} (base : Nat) (l : List Nat) : ∀ (s : State), Kept P0 s → Kept P0 (readSectors s base l).2.2 := by
  induction l with
  | nil => intro s h; exact h
  | cons i r ih =>
    intro s h
    unfold readSectors
    split
    · exact ih _ h
    · exact ih _ (hbmRead_kept _ _ _ h)
theorem readSectors_kept_of {P0 : List Instr} {s : State} {base : Nat} {l : List Nat} {r0 : List Byte} {r1 : Bool} {t0 : State} (e : readSectors s base l = (r0, r1, t0)) (hK : Kept P0 s) : Kept P0 t0 := by
  have := readSectors_kept base l s hK
  rw [e] at this
  exact this

theorem execRequestComplete_kept {P0 : List Instr} {t0 : State} (c : Fin 256) (id : Nat) (s : State) (eN : execRequestComplete c id s = .next t0) (hK : Kept P0 s) : Kept P0 t0 := by
  unfold execRequestComplete at eN
  try dsimp only at eN
  injection eN with eN
  subst eN
  repeat' (first | (with_reducible assumption) | (with_reducible (intro _)) | (with_reducible apply countBytes_kept)
                  | (with_reducible apply dropReq_kept) | (with_reducible apply noteStored_kept)
                  | (with_reducible apply hbmWrite_kept) | (with_reducible (apply remoteWrite_kept (by assumption)))
                  | (with_reducible apply remoteFault_kept) | (with_reducible apply hbmRead_kept)
                  | (with_reducible apply readBack_kept) | (with_reducible (apply remoteRead_kept (by assumption)))
                  | (with_reducible apply updReq_kept) | (with_reducible apply readSectors_kept)
                  | (with_reducible apply Kept.ite) | (split))

theorem landSectors_kept {P0 : List Instr} (s : State) (n : Nat) (r : Req) (hK : Kept P0 s) : Kept P0 (landSectors s n r) := by
  unfold landSectors
  try dsimp only
  repeat' (first | (with_reducible assumption) | (with_reducible (intro _))
                  | (with_reducible (refine updCore_kept ?_ _ ?_)) | (with_reducible apply completeAt_kept)
                  | (with_reducible apply Kept.ite) | (with_reducible apply Kept.foldl)
                  | (with_reducible apply spadWrite_ok))

theorem landGather_kept {P0 : List Instr} (s : State) (n : Nat) (r : Req) (hK : Kept P0 s) : Kept P0 (landGather s n r) := by
  unfold landGather
  try dsimp only
  repeat' (first | (with_reducible assumption) | (with_reducible (intro _)) | (with_reducible apply completeAt_kept)
                  | (with_reducible (refine updCore_kept ?_ _ ?_)) | (with_reducible apply landSectors_kept)
                  | (with_reducible apply Kept.ite) | (with_reducible apply spadWrite_ok))

theorem execDeliveryComplete_kept {P0 : List Instr} {t0 : State} (c : Fin 256) (id : Nat) (s : State) (eN : execDeliveryComplete c id s = .next t0) (hK : Kept P0 s) : Kept P0 t0 := by
  unfold execDeliveryComplete at eN
  try dsimp only at eN
  injection eN with eN
  subst eN
  repeat' (first | (with_reducible assumption) | (with_reducible (intro _)) | (with_reducible apply dropReq_kept)
                  | (with_reducible apply remoteFault_kept) | (with_reducible apply ueFault_kept)
                  | (with_reducible apply landGather_kept) | (with_reducible apply landLocal_kept)
                  | (with_reducible apply orFlags_kept) | (with_reducible apply Kept.ite) | (split))

end Sys2Proof.Machine
end

