-- ==== Sys2Proof/Laws/Kept/MusterOps.lean ====
section
/-!
SUPPORT. Every operation of Machine/MusterOps.lean keeps the invariant and the queue.
-/
namespace Sys2Proof.Machine

theorem setJobState_kept {P0 : List Instr} (s : State) (b v : Nat) (hK : Kept P0 s) : Kept P0 (setJobState s b v) := by
  unfold setJobState
  try dsimp only
  repeat' (first | (with_reducible assumption) | (with_reducible apply wr1_kept))

theorem digestRecords_kept {P0 : List Instr} (s : State) (n : Nat) (hK : Kept P0 s) : Kept P0 (digestRecords s n) := by
  unfold digestRecords
  try dsimp only
  repeat' (first | (with_reducible assumption) | (with_reducible (intro _)) | (with_reducible apply traceRec_kept)
                  | (with_reducible (refine updCore_kept ?_ _ ?_)) | (with_reducible apply Kept.foldl)
                  | (simp only [Core.mk_eq]; with_reducible apply Core.ok.tabs))

theorem recMusterSeq_kept {P0 : List Instr} (s : State) (n : Nat) (hK : Kept P0 s) : Kept P0 (recMusterSeq s n) := by
  unfold recMusterSeq
  try dsimp only
  repeat' (first | (with_reducible assumption) | (with_reducible (intro _)) | (with_reducible apply recStream_kept)
                  | (with_reducible apply Kept.foldl))

theorem execMusterArrival_kept {P0 : List Instr} {t0 : State} (c : Fin 256) (s : State) (eN : execMusterArrival c s = .next t0) (hK : Kept P0 s) : Kept P0 t0 := by
  unfold execMusterArrival at eN
  try dsimp only at eN
  injection eN with eN
  subst eN
  repeat' (first | (with_reducible assumption) | (with_reducible (intro _)) | (with_reducible apply traceRec_kept)
                  | (with_reducible apply digestRecords_kept) | (with_reducible (refine updCore_kept ?_ _ ?_))
                  | (with_reducible apply updLcore_kept) | (with_reducible apply recMusterSeq_kept)
                  | (with_reducible apply Kept.ite) | (simp only [Core.mk_eq]; with_reducible apply Core.ok.tabs)
                  | (split))

theorem shiftScale_ok (c : Core) (hc : c.ok) : (shiftScale c).ok := by
  unfold shiftScale
  try dsimp only
  repeat' (first | (with_reducible assumption) | (simp only [Core.mk_eq]; with_reducible apply Core.ok.tabs))

theorem setMile_kept {P0 : List Instr} (s : State) (b i v : Nat) (hK : Kept P0 s) : Kept P0 (setMile s b i v) := by
  unfold setMile
  try dsimp only
  repeat' (first | (with_reducible assumption) | (with_reducible apply wr2_kept))

theorem reachMiles_kept {P0 : List Instr} (s : State) (b : Nat) (hit : Mile → Bool) (hK : Kept P0 s) : Kept P0 (reachMiles s b hit) := by
  unfold reachMiles
  try dsimp only
  repeat' (first | (with_reducible assumption) | (with_reducible (intro _)) | (with_reducible apply raiseEvent_kept)
                  | (with_reducible apply setErr_kept) | (with_reducible apply setMile_kept)
                  | (with_reducible apply Kept.ite) | (with_reducible apply Kept.foldl))

theorem releaseCore_kept {P0 : List Instr} (s : State) (n status kind : Nat) (hK : Kept P0 s) : Kept P0 (releaseCore s n status kind) := by
  unfold releaseCore
  try dsimp only
  repeat' (first | (with_reducible assumption) | (with_reducible (intro _))
                  | (with_reducible (refine updCore_kept ?_ _ ?_)) | (with_reducible apply wr_kept)
                  | (with_reducible apply setErr_kept) | (with_reducible apply traceRec_kept)
                  | (with_reducible apply Kept.ite) | (with_reducible apply Core.ok_ite)
                  | (simp only [Core.mk_eq]; with_reducible apply Core.ok.tabs) | (with_reducible apply shiftScale_ok)
                  | (split))

theorem latchStep_kept {P0 : List Instr} (s : State) (b : Nat) (hK : Kept P0 s) : Kept P0 (latchStep s b) := by
  unfold latchStep
  try dsimp only
  repeat' (first | (with_reducible assumption) | (with_reducible apply wr1_kept) | (with_reducible apply wr64_kept))

theorem releaseSaved_ok (x : LCore) (kind : Nat) (h : ∀ c, x.saved = some c → c.ok) : ∀ c, (releaseSaved x kind).saved = some c → c.ok := by
  intro c hc
  unfold releaseSaved at hc
  dsimp only at hc
  split at hc
  · simp only [Option.map_eq_some_iff] at hc
    obtain ⟨d, hd, rfl⟩ := hc
    have := h d hd
    split
    · exact this
    · exact this
  · exact h c hc

theorem lcores_map_ok (l : SMap LCore) (kind : Nat) (h : ∀ e ∈ l, ∀ c, e.2.saved = some c → c.ok) :
    lcoresOk (l.foldl (fun m x => tabPut {} m x.1 (releaseSaved x.2 kind)) []) := by
  suffices H : ∀ (l m : SMap LCore), (∀ e ∈ l, ∀ c, e.2.saved = some c → c.ok) → lcoresOk m →
      lcoresOk (l.foldl (fun m x => tabPut {} m x.1 (releaseSaved x.2 kind)) m) from H l [] h (fun _ h => by cases h)
  intro l
  induction l with
  | nil => intro m _ h; exact h
  | cons x r ih =>
    intro m hl hm
    simp only [List.mem_cons, forall_eq_or_imp] at hl
    exact ih _ hl.2 (smPut_all (fun y : LCore => ∀ c, y.saved = some c → c.ok) _ _ _ _ hm (releaseSaved_ok _ _ hl.1))

theorem releaseMuster_kept {P0 : List Instr} (s : State) (b status kind scope : Nat) (hK : Kept P0 s) : Kept P0 (releaseMuster s b status kind scope) := by
  unfold releaseMuster
  have h1 := reachMiles_kept s b (fun m => m.kind == 0 && m.value % 65536 == (jobOf s b).mseq) hK
  dsimp only
  generalize (reachMiles s b fun m => m.kind == 0 && m.value % 65536 == (jobOf s b).mseq) = s1 at h1 ⊢
  have h2 : Kept P0 (if kind = 2 then reachMiles s1 b (fun m => m.kind == 1 && m.value == rd64 s1 pgJOB F.JOB_STEPNUM_L_LO.NUM F.JOB_STEPNUM_L_HI.NUM b) else s1) :=
    Kept.ite (fun _ => reachMiles_kept _ _ _ h1) (fun _ => h1)
  generalize (if kind = 2 then reachMiles s1 b (fun m => m.kind == 1 && m.value == rd64 s1 pgJOB F.JOB_STEPNUM_L_LO.NUM F.JOB_STEPNUM_L_HI.NUM b) else s1) = s2 at h2 ⊢
  have h3 : Kept P0 (if kind = 1 then latchStep s2 b else s2) := Kept.ite (fun _ => latchStep_kept _ _ h2) (fun _ => h2)
  generalize (if kind = 1 then latchStep s2 b else s2) = s3 at h3 ⊢
  have h4 : Kept P0 ((List.map (fun x => x.1) (List.filter (fun x => x.2.bank == b && x.2.lcore.isSome) s3.cores)).foldl (fun s n => releaseCore s n status kind) s3) :=
    Kept.foldl h3 (fun s n h => releaseCore_kept _ _ _ _ h)
  generalize ((List.map (fun x => x.1) (List.filter (fun x => x.2.bank == b && x.2.lcore.isSome) s3.cores)).foldl (fun s n => releaseCore s n status kind) s3) = s4 at h4 ⊢
  have h5 : Kept P0 (updJob s4 b (fun j =>
      { j with
        mseq := (j.mseq + 1) % 65536, sentUp := false, permitTaken := false, mpos := nextPos j kind,
        steps := if kind = 1 then j.steps + 1 else j.steps,
        lcores := j.lcores.foldl (fun m x => tabPut {} m x.1 (releaseSaved x.2 kind)) [] })) :=
    updJob_kept h4 b (fun j hj => lcores_map_ok _ _ hj)
  apply Kept.ite <;> intro _
  · split
    · exact triggerAt_kept _ _ _ h5
    · exact h5
  · apply raiseEvent_kept
    split
    · exact triggerAt_kept _ _ _ h5
    · exact h5

theorem takePermit_kept {P0 : List Instr} {s : State} {b kind : Nat} {t0 : State} (e : takePermit s b kind = some t0) (hK : Kept P0 s) : Kept P0 t0 := by
  unfold takePermit at e
  dsimp only at e
  split at e
  · split at e
    · cases e
    · injection e with e; rw [← e]
      exact updJob_kept (wr1_kept _ _ _ _ _ hK) _ (fun j hj => hj)
  · injection e with e; rw [← e]; exact hK

end Sys2Proof.Machine
end

