-- ==== Sys2Proof/Laws/Kept/Caravan.lean ====
section
/-!
SUPPORT. Every operation of Machine/Caravan.lean keeps the invariant and the queue.
-/
namespace Sys2Proof.Machine

theorem grantTo_kept {P0 : List Instr} (s : State) (i : Inst) (r lim : Nat) (hK : Kept P0 s) : Kept P0 (grantTo s i r lim) := by
  unfold grantTo
  try dsimp only
  repeat' (first | (with_reducible assumption) | (with_reducible apply sendRank_kept))

theorem grantContrib_kept {P0 : List Instr} (s : State) (i : Inst) (hK : Kept P0 s) : Kept P0 (grantContrib s i) := by
  unfold grantContrib
  try dsimp only
  repeat' (first | (with_reducible assumption) | (with_reducible (intro _)) | (with_reducible apply grantTo_kept)
                  | (with_reducible apply Kept.foldl))

theorem reduceMore_kept {P0 : List Instr} (s : State) (i : Inst) (hK : Kept P0 s) : Kept P0 (reduceMore s i) := by
  unfold reduceMore
  try dsimp only
  repeat' (first | (with_reducible assumption) | (with_reducible (intro _)) | (with_reducible apply hbmWrite_kept)
                  | (with_reducible apply setInst_kept) | (with_reducible apply sendBytes_kept)
                  | (with_reducible apply grantContrib_kept) | (with_reducible apply Kept.ite)
                  | (with_reducible apply Kept.foldl))

theorem placeRow_kept {P0 : List Instr} (s : State) (i : Inst) (r m : Nat) (row : List Byte) (hK : Kept P0 s) : Kept P0 (placeRow s i r m row) := by
  unfold placeRow
  try dsimp only
  repeat' (first | (with_reducible assumption) | (with_reducible (intro _)) | (with_reducible apply hbmWrite_kept)
                  | (with_reducible apply Kept.ite) | (split))

theorem placeRows_kept {P0 : List Instr} (i : Inst) (r : Nat) (k : Nat) : ∀ (s : State) (off : Nat) (bs : List Byte), Kept P0 s → Kept P0 (placeRows i r k s off bs) := by
  induction k with
  | zero => intro s off bs h; exact h
  | succ k ih =>
    intro s off bs h
    unfold placeRows
    dsimp only
    apply Kept.ite <;> intro _
    · exact h
    · exact ih _ _ _ (placeRow_kept _ _ _ _ _ h)

theorem a2aReady_kept {P0 : List Instr} (s : State) (i : Inst) (hK : Kept P0 s) : Kept P0 (a2aReady s i) := by
  unfold a2aReady
  try dsimp only
  repeat' (first | (with_reducible assumption) | (with_reducible (intro _)) | (with_reducible apply hbmWrite_kept)
                  | (with_reducible apply placeRows_kept) | (with_reducible apply setInst_kept)
                  | (with_reducible apply grantTo_kept) | (with_reducible apply Kept.ite)
                  | (with_reducible apply Kept.foldl))

theorem grantRelay_kept {P0 : List Instr} (s : State) (i : Inst) (hK : Kept P0 s) : Kept P0 (grantRelay s i) := by
  unfold grantRelay
  try dsimp only
  repeat' (first | (with_reducible assumption) | (with_reducible (intro _)) | (with_reducible apply sendRank_kept)
                  | (with_reducible apply Kept.ite))

theorem sendRelay_kept {P0 : List Instr} (s : State) (i : Inst) (off : Nat) (bs : List Byte) (hK : Kept P0 s) : Kept P0 (sendRelay s i off bs) := by
  unfold sendRelay
  try dsimp only
  repeat' (first | (with_reducible assumption) | (with_reducible apply sendBytes_kept))

theorem settle_kept {P0 : List Instr} (s : State) (e : Nat) (hK : Kept P0 s) : Kept P0 (settle s e) := by
  unfold settle
  try dsimp only
  repeat' (first | (with_reducible assumption) | (with_reducible (intro _)) | (with_reducible apply setInst_kept)
                  | (with_reducible apply Kept.ite) | (split))

theorem permuteStep_kept {P0 : List Instr} (s : State) (i : Inst) (hK : Kept P0 s) : Kept P0 (permuteStep s i) := by
  unfold permuteStep
  try dsimp only
  repeat' (first | (with_reducible assumption) | (with_reducible (intro _)) | (with_reducible apply hbmRead_kept)
                  | (with_reducible apply carFault_kept) | (with_reducible apply hbmWrite_kept)
                  | (with_reducible apply sendBytes_kept) | (with_reducible apply setInst_kept)
                  | (with_reducible apply sendStatus_kept) | (with_reducible apply Kept.ite)
                  | (with_reducible apply Kept.foldl) | (split))

theorem startInst_kept {P0 : List Instr} (s : State) (i : Inst) (hK : Kept P0 s) : Kept P0 (startInst s i) := by
  unfold startInst
  try dsimp only
  repeat' (first | (with_reducible assumption) | (with_reducible (intro _)) | (with_reducible apply hbmRead_kept)
                  | (with_reducible apply carFault_kept) | (with_reducible apply hbmWrite_kept)
                  | (with_reducible apply sendBytes_kept) | (with_reducible apply sendRank_kept)
                  | (with_reducible apply setInst_kept) | (with_reducible apply a2aReady_kept)
                  | (with_reducible apply wr_kept) | (with_reducible apply permuteStep_kept)
                  | (with_reducible apply grantTo_kept) | (with_reducible apply grantRelay_kept)
                  | (with_reducible apply reduceMore_kept) | (with_reducible apply grantContrib_kept)
                  | (with_reducible apply Kept.ite) | (with_reducible apply Kept.foldl) | (split))

theorem execEntryActivate_kept {P0 : List Instr} {t0 : State} (s : State) (eN : execEntryActivate s = .next t0) (hK : Kept P0 s) : Kept P0 t0 := by
  unfold execEntryActivate at eN
  try dsimp only at eN
  injection eN with eN
  subst eN
  repeat' (first | (with_reducible assumption) | (with_reducible (intro _)) | (with_reducible apply updCar_kept)
                  | (with_reducible apply carFault_kept) | (with_reducible apply settle_kept)
                  | (with_reducible apply startInst_kept) | (with_reducible apply Kept.ite) | (split))

theorem execEntryComplete_kept {P0 : List Instr} {t0 : State} (e : Fin 1024) (s : State) (eN : execEntryComplete e s = .next t0) (hK : Kept P0 s) : Kept P0 t0 := by
  unfold execEntryComplete at eN
  try dsimp only at eN
  injection eN with eN
  subst eN
  repeat' (first | (with_reducible assumption) | (with_reducible (intro _)) | (with_reducible apply freeBytes_kept)
                  | (with_reducible apply hbmWrite_kept) | (with_reducible (apply remoteWrite_kept (by assumption)))
                  | (with_reducible apply updCar_kept) | (with_reducible apply addWrap_kept)
                  | (with_reducible apply wr_kept) | (with_reducible apply setErr_kept)
                  | (with_reducible apply addSat_kept) | (with_reducible apply raiseEvent_kept)
                  | (with_reducible apply Kept.ite) | (with_reducible apply Kept.foldl) | (split))

theorem execCaravanTmo_kept {P0 : List Instr} {t0 : State} (e : Fin 1024) (s : State) (eN : execCaravanTmo e s = .next t0) (hK : Kept P0 s) : Kept P0 t0 := by
  unfold execCaravanTmo at eN
  try dsimp only at eN
  injection eN with eN
  subst eN
  repeat' (first | (with_reducible assumption) | (with_reducible (intro _)) | (with_reducible apply finish_kept)
                  | (with_reducible apply Kept.ite) | (split))

theorem consume_kept {P0 : List Instr} (s : State) (q : QMsg) (hK : Kept P0 s) : Kept P0 (consume s q) := by
  unfold consume
  try dsimp only
  repeat' (first | (with_reducible assumption) | (with_reducible apply restartTimer_kept)
                  | (with_reducible apply returnUnits_kept) | (with_reducible apply updFab_kept))

theorem onColl_kept {P0 : List Instr} (s : State) (op : Nat) (f : State → Inst → Nat → Msg → State) (hK : Kept P0 s) (hf_f : ∀ (y0 : State) (y1 : Inst) (y2 : Nat) (y3 : Msg), Kept P0 y0 → Kept P0 (f y0 y1 y2 y3)) : Kept P0 (onColl s op f) := by
  unfold onColl
  try dsimp only
  repeat' (first | (with_reducible assumption) | (with_reducible (intro _)) | (with_reducible apply hf_f)
                  | (with_reducible apply discardDrop_kept) | (with_reducible apply updFab_kept)
                  | (with_reducible apply consume_kept) | (with_reducible apply carFault_kept)
                  | (with_reducible apply finish_kept) | (with_reducible apply sendStatus_kept)
                  | (with_reducible apply settle_kept) | (with_reducible apply Kept.ite) | (split))

theorem execCollCredit_kept {P0 : List Instr} {t0 : State} (s : State) (eN : execCollCredit s = .next t0) (hK : Kept P0 s) : Kept P0 t0 := by
  unfold execCollCredit at eN
  try dsimp only at eN
  injection eN with eN
  subst eN
  repeat' (first | (with_reducible assumption) | (with_reducible (intro _)) | (with_reducible apply onColl_kept)
                  | (with_reducible apply hbmRead_kept) | (with_reducible apply carFault_kept)
                  | (with_reducible apply sendBytes_kept) | (with_reducible apply setInst_kept)
                  | (with_reducible apply permuteStep_kept) | (with_reducible apply Kept.ite) | (split))

theorem execContrib_kept {P0 : List Instr} {t0 : State} (s : State) (eN : execContrib s = .next t0) (hK : Kept P0 s) : Kept P0 t0 := by
  unfold execContrib at eN
  try dsimp only at eN
  injection eN with eN
  subst eN
  repeat' (first | (with_reducible assumption) | (with_reducible (intro _)) | (with_reducible apply onColl_kept)
                  | (with_reducible apply reduceMore_kept) | (with_reducible apply setInst_kept))

theorem execResult_kept {P0 : List Instr} {t0 : State} (s : State) (eN : execResult s = .next t0) (hK : Kept P0 s) : Kept P0 t0 := by
  unfold execResult at eN
  try dsimp only at eN
  injection eN with eN
  subst eN
  repeat' (first | (with_reducible assumption) | (with_reducible (intro _)) | (with_reducible apply onColl_kept)
                  | (with_reducible apply setInst_kept) | (with_reducible apply hbmWrite_kept))

theorem execA2aCount_kept {P0 : List Instr} {t0 : State} (s : State) (eN : execA2aCount s = .next t0) (hK : Kept P0 s) : Kept P0 t0 := by
  unfold execA2aCount at eN
  try dsimp only at eN
  injection eN with eN
  subst eN
  repeat' (first | (with_reducible assumption) | (with_reducible (intro _)) | (with_reducible apply onColl_kept)
                  | (with_reducible apply a2aReady_kept) | (with_reducible apply setInst_kept)
                  | (with_reducible apply Kept.ite))

theorem execA2aRows_kept {P0 : List Instr} {t0 : State} (s : State) (eN : execA2aRows s = .next t0) (hK : Kept P0 s) : Kept P0 t0 := by
  unfold execA2aRows at eN
  try dsimp only at eN
  injection eN with eN
  subst eN
  repeat' (first | (with_reducible assumption) | (with_reducible (intro _)) | (with_reducible apply onColl_kept)
                  | (with_reducible apply placeRows_kept) | (with_reducible apply setInst_kept))

theorem execPermuteData_kept {P0 : List Instr} {t0 : State} (s : State) (eN : execPermuteData s = .next t0) (hK : Kept P0 s) : Kept P0 t0 := by
  unfold execPermuteData at eN
  try dsimp only at eN
  injection eN with eN
  subst eN
  repeat' (first | (with_reducible assumption) | (with_reducible (intro _)) | (with_reducible apply onColl_kept)
                  | (with_reducible apply hbmWrite_kept) | (with_reducible apply carFault_kept)
                  | (with_reducible apply Kept.ite))

theorem execStatus_kept {P0 : List Instr} {t0 : State} (s : State) (eN : execStatus s = .next t0) (hK : Kept P0 s) : Kept P0 t0 := by
  unfold execStatus at eN
  try dsimp only at eN
  injection eN with eN
  subst eN
  repeat' (first | (with_reducible assumption) | (with_reducible (intro _)) | (with_reducible apply onColl_kept)
                  | (with_reducible apply setInst_kept) | (with_reducible apply finish_kept)
                  | (with_reducible apply recordModFault_kept) | (with_reducible apply setErr_kept)
                  | (with_reducible apply Kept.ite))

theorem landSlice_kept {P0 : List Instr} (s : State) (i : Inst) (k : Nat) (x : Slice) (j off : Nat) (bs : List Byte) (hK : Kept P0 s) : Kept P0 (landSlice s i k x j off bs).1 := by
  unfold landSlice
  try dsimp only
  repeat' (first | (with_reducible assumption) | (with_reducible (intro _))
                  | (with_reducible (refine updCore_kept ?_ _ ?_)) | (with_reducible apply completeAt_kept)
                  | (with_reducible apply Kept.ite) | (with_reducible apply spadWrite_ok) | (split))

theorem landSlice_kept_of {P0 : List Instr} {s : State} {i : Inst} {k : Nat} {x : Slice} {j off : Nat} {bs : List Byte} {t0 : State} {r1 : Inst} (e : landSlice s i k x j off bs = (t0, r1)) (hK : Kept P0 s) : Kept P0 t0 := by
  have := landSlice_kept s i k x j off bs hK
  rw [e] at this
  exact this

theorem execRelayBlock_kept {P0 : List Instr} {t0 : State} (s : State) (eN : execRelayBlock s = .next t0) (hK : Kept P0 s) : Kept P0 t0 := by
  unfold execRelayBlock at eN
  try dsimp only at eN
  injection eN with eN
  subst eN
  repeat' (first | (with_reducible assumption) | (with_reducible (intro _)) | (with_reducible apply onColl_kept)
                  | (with_reducible apply landSlice_kept) | (with_reducible apply setInst_kept)
                  | (with_reducible apply grantRelay_kept) | (with_reducible apply Kept.ite)
                  | (with_reducible apply Kept.foldl1) | (split))

theorem execRelayCredit_kept {P0 : List Instr} {t0 : State} (s : State) (eN : execRelayCredit s = .next t0) (hK : Kept P0 s) : Kept P0 t0 := by
  unfold execRelayCredit at eN
  try dsimp only at eN
  injection eN with eN
  subst eN
  repeat' (first | (with_reducible assumption) | (with_reducible (intro _)) | (with_reducible apply onColl_kept)
                  | (with_reducible apply hbmRead_kept) | (with_reducible apply carFault_kept)
                  | (with_reducible apply sendRelay_kept) | (with_reducible apply setInst_kept)
                  | (with_reducible apply Kept.ite))

theorem relayBytes_kept {P0 : List Instr} (s : State) (i : Inst) (j off len : Nat) (hK : Kept P0 s) : Kept P0 (relayBytes s i j off len).2 := by
  unfold relayBytes
  try dsimp only
  repeat' (first | (with_reducible assumption) | (with_reducible (intro _)) | (with_reducible apply freeBytes_kept)
                  | (with_reducible apply Kept.foldl2) | (split))

theorem relayBytes_kept_of {P0 : List Instr} {s : State} {i : Inst} {j off len : Nat} {r0 : List Byte} {t0 : State} (e : relayBytes s i j off len = (r0, t0)) (hK : Kept P0 s) : Kept P0 t0 := by
  have := relayBytes_kept s i j off len hK
  rw [e] at this
  exact this

theorem execRelayPassOn_kept {P0 : List Instr} {t0 : State} (e : Fin 1024) (s : State) (eN : execRelayPassOn e s = .next t0) (hK : Kept P0 s) : Kept P0 t0 := by
  unfold execRelayPassOn at eN
  try dsimp only at eN
  injection eN with eN
  subst eN
  repeat' (first | (with_reducible assumption) | (with_reducible (intro _)) | (with_reducible apply relayBytes_kept)
                  | (with_reducible apply settle_kept) | (with_reducible apply sendRelay_kept)
                  | (with_reducible apply setInst_kept) | (with_reducible apply Kept.ite) | (split))

theorem execArmReshard_kept {P0 : List Instr} {t0 : State} (e : Fin 1024) (s : State) (eN : execArmReshard e s = .next t0) (hK : Kept P0 s) : Kept P0 t0 := by
  unfold execArmReshard at eN
  try dsimp only at eN
  injection eN with eN
  subst eN
  repeat' (first | (with_reducible assumption) | (with_reducible (intro _)) | (with_reducible apply setErr_kept)
                  | (with_reducible apply wr_kept) | (with_reducible apply Kept.ite))

end Sys2Proof.Machine
end

