-- ==== Sys2Proof/Laws/Kept/Craul.lean ====
section
/-!
SUPPORT. Every operation of Machine/Craul.lean keeps the invariant and the queue.
-/
namespace Sys2Proof.Machine

theorem execMessageArrive_kept {P0 : List Instr} {t0 : State} (l : Fin 64) (s : State) (eN : execMessageArrive l s = .next t0) (hK : Kept P0 s) : Kept P0 t0 := by
  unfold execMessageArrive at eN
  try dsimp only at eN
  injection eN with eN
  subst eN
  repeat' (first | (with_reducible assumption) | (with_reducible (intro _)) | (with_reducible apply updLk_kept)
                  | (with_reducible apply discardCrc_kept) | (with_reducible apply commitLocal_kept)
                  | (with_reducible apply discardDrop_kept) | (with_reducible apply routeMsg_kept)
                  | (with_reducible apply Kept.ite))

theorem execMessageForward_kept {P0 : List Instr} {t0 : State} (l : Fin 64) (cls : Fin 6) (s : State) (eN : execMessageForward l cls s = .next t0) (hK : Kept P0 s) : Kept P0 t0 := by
  unfold execMessageForward at eN
  try dsimp only at eN
  injection eN with eN
  subst eN
  repeat' (first | (with_reducible assumption) | (with_reducible (intro _)) | (with_reducible apply setLk_kept)
                  | (with_reducible apply updFab_kept) | (with_reducible apply restartTimer_kept)
                  | (with_reducible apply returnUnits_kept) | (with_reducible apply Kept.ite) | (split))

theorem execCreditReturn_kept {P0 : List Instr} {t0 : State} (l : Fin 64) (s : State) (eN : execCreditReturn l s = .next t0) (hK : Kept P0 s) : Kept P0 t0 := by
  unfold execCreditReturn at eN
  try dsimp only at eN
  injection eN with eN
  subst eN
  repeat' (first | (with_reducible assumption) | (with_reducible (intro _)) | (with_reducible apply sendCtrl_kept)
                  | (with_reducible apply Kept.ite))

theorem setWin_kept {P0 : List Instr} (s : State) (i : Nat) (w : Win) (hK : Kept P0 s) : Kept P0 (setWin s i w) := by
  unfold setWin
  try dsimp only
  repeat' (first | (with_reducible assumption) | (with_reducible apply updFab_kept))

theorem answer_kept {P0 : List Instr} (s : State) (q : QMsg) (status : Nat) (data : List Byte) (hK : Kept P0 s) : Kept P0 (answer s q status data) := by
  unfold answer
  try dsimp only
  repeat' (first | (with_reducible assumption) | (with_reducible (intro _)) | (with_reducible apply returnUnits_kept)
                  | (with_reducible apply setErr_kept) | (with_reducible apply addSat_kept)
                  | (with_reducible apply commitLocal_kept) | (with_reducible apply routeMsg_kept)
                  | (with_reducible apply Kept.ite))

theorem takeCommit_kept {P0 : List Instr} {s : State} {op : Nat} {r0 : _} {t0 : State} (e : takeCommit s op = some (r0, t0)) (hK : Kept P0 s) : Kept P0 t0 := by
  unfold takeCommit at e
  split at e
  · split at e
    · simp only [Option.some.injEq, Prod.mk.injEq] at e
      rw [← e.2]; exact updFab_kept _ _ hK
    · cases e
  · cases e

theorem markLive_kept {P0 : List Instr} (s : State) (i : Nat) (hK : Kept P0 s) : Kept P0 (markLive s i) := by
  unfold markLive
  try dsimp only
  repeat' (first | (with_reducible assumption) | (with_reducible apply setWin_kept))

theorem execWrite_kept {P0 : List Instr} {t0 : State} (s : State) (eN : execWrite s = .next t0) (hK : Kept P0 s) : Kept P0 t0 := by
  unfold execWrite at eN
  try dsimp only at eN
  injection eN with eN
  subst eN
  repeat' (first | (with_reducible assumption) | (with_reducible (intro _))
                  | (with_reducible (apply takeCommit_kept (by assumption))) | (with_reducible apply answer_kept)
                  | (with_reducible apply hbmWrite_kept) | (with_reducible apply markLive_kept)
                  | (with_reducible apply Kept.ite) | (split))

theorem execRead_kept {P0 : List Instr} {t0 : State} (s : State) (eN : execRead s = .next t0) (hK : Kept P0 s) : Kept P0 t0 := by
  unfold execRead at eN
  try dsimp only at eN
  injection eN with eN
  subst eN
  repeat' (first | (with_reducible assumption) | (with_reducible (intro _))
                  | (with_reducible (apply takeCommit_kept (by assumption))) | (with_reducible apply hbmRead_kept)
                  | (with_reducible apply markLive_kept) | (with_reducible apply answer_kept)
                  | (with_reducible apply Kept.ite) | (split))

theorem execCraulAdd_kept {P0 : List Instr} {t0 : State} (s : State) (eN : execCraulAdd s = .next t0) (hK : Kept P0 s) : Kept P0 t0 := by
  unfold execCraulAdd at eN
  try dsimp only at eN
  injection eN with eN
  subst eN
  repeat' (first | (with_reducible assumption) | (with_reducible (intro _))
                  | (with_reducible (apply takeCommit_kept (by assumption))) | (with_reducible apply hbmRead_kept)
                  | (with_reducible apply markLive_kept) | (with_reducible apply answer_kept)
                  | (with_reducible apply hbmWrite_kept) | (with_reducible apply Kept.ite) | (split))

theorem takeResponse_kept {P0 : List Instr} (s : State) (op : Nat) (hK : Kept P0 s) : Kept P0 (takeResponse s op) := by
  unfold takeResponse
  try dsimp only
  repeat' (first | (with_reducible assumption) | (with_reducible (intro _)) | (with_reducible apply returnUnits_kept)
                  | (with_reducible apply updFab_kept) | (with_reducible (refine updCore_kept ?_ _ ?_))
                  | (with_reducible apply discardDrop_kept) | (with_reducible apply Kept.ite)
                  | (simp only [Core.mk_eq]; with_reducible apply Core.ok.tabs) | (split))

theorem execWriteDone_kept {P0 : List Instr} {t0 : State} (s : State) (eN : execWriteDone s = .next t0) (hK : Kept P0 s) : Kept P0 t0 := by
  unfold execWriteDone at eN
  try dsimp only at eN
  injection eN with eN
  subst eN
  repeat' (first | (with_reducible assumption) | (with_reducible apply takeResponse_kept))

theorem execReadData_kept {P0 : List Instr} {t0 : State} (s : State) (eN : execReadData s = .next t0) (hK : Kept P0 s) : Kept P0 t0 := by
  unfold execReadData at eN
  try dsimp only at eN
  injection eN with eN
  subst eN
  repeat' (first | (with_reducible assumption) | (with_reducible apply takeResponse_kept))

theorem execAddOld_kept {P0 : List Instr} {t0 : State} (s : State) (eN : execAddOld s = .next t0) (hK : Kept P0 s) : Kept P0 t0 := by
  unfold execAddOld at eN
  try dsimp only at eN
  injection eN with eN
  subst eN
  repeat' (first | (with_reducible assumption) | (with_reducible apply takeResponse_kept))

theorem execTimeout_kept {P0 : List Instr} {t0 : State} (c : Fin 256) (id : Nat) (s : State) (eN : execTimeout c id s = .next t0) (hK : Kept P0 s) : Kept P0 t0 := by
  unfold execTimeout at eN
  try dsimp only at eN
  injection eN with eN
  subst eN
  repeat' (first | (with_reducible assumption) | (with_reducible (intro _)) | (with_reducible apply setErr_kept)
                  | (with_reducible apply failReq_kept) | (with_reducible apply Kept.ite))

theorem takeMgmt_kept {P0 : List Instr} {s : State} {op : Nat} {r0 : _} {t0 : State} (e : takeMgmt s op = some (r0, t0)) (hK : Kept P0 s) : Kept P0 t0 := by
  unfold takeMgmt at e
  split at e
  · simp only [Option.some.injEq, Prod.mk.injEq] at e
    rw [← e.2]; exact returnUnits_kept _ _ (updFab_kept _ _ hK)
  · cases e

theorem execLinkLast_kept {P0 : List Instr} {t0 : State} (s : State) (eN : execLinkLast s = .next t0) (hK : Kept P0 s) : Kept P0 t0 := by
  unfold execLinkLast at eN
  try dsimp only at eN
  injection eN with eN
  subst eN
  repeat' (first | (with_reducible assumption) | (with_reducible (intro _))
                  | (with_reducible (apply takeMgmt_kept (by assumption))) | (with_reducible apply updLk_kept)
                  | (with_reducible apply routeMsg_kept) | (with_reducible apply Kept.ite)
                  | (with_reducible apply Kept.foldl) | (split))

theorem execLinkLastTimeout_kept {P0 : List Instr} {t0 : State} (l : Fin 64) (s : State) (eN : execLinkLastTimeout l s = .next t0) (hK : Kept P0 s) : Kept P0 t0 := by
  unfold execLinkLastTimeout at eN
  try dsimp only at eN
  injection eN with eN
  subst eN
  repeat' (first | (with_reducible assumption) | (with_reducible (intro _)) | (with_reducible apply setLk_kept)
                  | (with_reducible apply inDoubt_kept) | (with_reducible apply losePeer_kept)
                  | (with_reducible apply Kept.ite) | (with_reducible apply Kept.foldl))

theorem openWin_kept {P0 : List Instr} (s : State) (bank : Nat) (hK : Kept P0 s) : Kept P0 (openWin s bank) := by
  unfold openWin
  try dsimp only
  repeat' (first | (with_reducible assumption) | (with_reducible (intro _)) | (with_reducible apply setErr_kept)
                  | (with_reducible apply setWin_kept) | (with_reducible apply Kept.ite))

theorem execOpen_kept {P0 : List Instr} {t0 : State} (s : State) (eN : execOpen s = .next t0) (hK : Kept P0 s) : Kept P0 t0 := by
  unfold execOpen at eN
  try dsimp only at eN
  injection eN with eN
  subst eN
  repeat' (first | (with_reducible assumption) | (with_reducible apply openWin_kept))

theorem closeWin_kept {P0 : List Instr} (s : State) (i : Nat) (hK : Kept P0 s) : Kept P0 (closeWin s i) := by
  unfold closeWin
  try dsimp only
  repeat' (first | (with_reducible assumption) | (with_reducible (intro _)) | (with_reducible apply setWin_kept)
                  | (with_reducible apply Kept.ite))

theorem execWinClose_kept {P0 : List Instr} {t0 : State} (s : State) (eN : execWinClose s = .next t0) (hK : Kept P0 s) : Kept P0 t0 := by
  unfold execWinClose at eN
  try dsimp only at eN
  injection eN with eN
  subst eN
  repeat' (first | (with_reducible assumption) | (with_reducible apply closeWin_kept))

theorem execWinBusyClear_kept {P0 : List Instr} {t0 : State} (i : Fin 4096) (s : State) (eN : execWinBusyClear i s = .next t0) (hK : Kept P0 s) : Kept P0 t0 := by
  unfold execWinBusyClear at eN
  try dsimp only at eN
  injection eN with eN
  subst eN
  repeat' (first | (with_reducible assumption) | (with_reducible (intro _)) | (with_reducible apply setWin_kept)
                  | (with_reducible apply Kept.ite))

theorem closeWins_kept {P0 : List Instr} (s : State) (p : Win → Bool) (hK : Kept P0 s) : Kept P0 (closeWins s p) := by
  unfold closeWins
  try dsimp only
  repeat' (first | (with_reducible assumption) | (with_reducible (intro _)) | (with_reducible apply closeWin_kept)
                  | (with_reducible apply Kept.foldl))

theorem execRtWrite_kept {P0 : List Instr} {t0 : State} (idx : Fin 1024) (member : Bool) (s : State) (eN : execRtWrite idx member s = .next t0) (hK : Kept P0 s) : Kept P0 t0 := by
  unfold execRtWrite at eN
  try dsimp only at eN
  injection eN with eN
  subst eN
  repeat' (first | (with_reducible assumption) | (with_reducible apply wr_kept) | (with_reducible apply sweepLost_kept)
                  | (with_reducible apply updFab_kept))

end Sys2Proof.Machine
end

