-- ==== Sys2Proof/Laws/Kept/CarMuster.lean ====
section
/-!
SUPPORT. Every operation of Machine/CarMuster.lean keeps the invariant and the queue.
-/
namespace Sys2Proof.Machine

theorem sendMuster_kept {P0 : List Instr} (s : State) (g r op seq step offset : Nat) (hK : Kept P0 s) : Kept P0 (sendMuster s g r op seq step offset) := by
  unfold sendMuster
  try dsimp only
  repeat' (first | (with_reducible assumption) | (with_reducible apply nextSeq_kept)
                  | (with_reducible apply originate_kept))

theorem releaseKids_kept {P0 : List Instr} (s : State) (g r seq step status : Nat) (hK : Kept P0 s) : Kept P0 (releaseKids s g r seq step status) := by
  unfold releaseKids
  try dsimp only
  repeat' (first | (with_reducible assumption) | (with_reducible (intro _)) | (with_reducible apply sendMuster_kept)
                  | (with_reducible apply updCar_kept) | (with_reducible apply Kept.foldl))

theorem noteMuster_kept {P0 : List Instr} (s : State) (status : Nat) (hK : Kept P0 s) : Kept P0 (noteMuster s status) := by
  unfold noteMuster
  try dsimp only
  repeat' (first | (with_reducible assumption) | (with_reducible (intro _)) | (with_reducible apply setErr_kept)
                  | (with_reducible apply Kept.ite))

theorem globalMuster_kept {P0 : List Instr} (s : State) (b : Nat) (hK : Kept P0 s) : Kept P0 (globalMuster s b) := by
  unfold globalMuster
  try dsimp only
  repeat' (first | (with_reducible assumption) | (with_reducible (intro _))
                  | (with_reducible (apply takePermit_kept (by assumption))) | (with_reducible apply noteMuster_kept)
                  | (with_reducible apply releaseMuster_kept) | (with_reducible apply releaseKids_kept)
                  | (with_reducible (refine updJob_kept ?_ _ ?_)) | (with_reducible apply sendMuster_kept)
                  | (with_reducible apply Kept.ite) | (simp only [Job.mk_eq]; with_reducible apply Job.ok.lcores)
                  | (split))

theorem execMusterRelease_kept {P0 : List Instr} {t0 : State} (b : Fin 2) (s : State) (eN : execMusterRelease b s = .next t0) (hK : Kept P0 s) : Kept P0 t0 := by
  unfold execMusterRelease at eN
  try dsimp only at eN
  injection eN with eN
  subst eN
  repeat' (first | (with_reducible assumption) | (with_reducible (intro _)) | (with_reducible apply globalMuster_kept)
                  | (with_reducible (apply takePermit_kept (by assumption))) | (with_reducible apply releaseMuster_kept)
                  | (with_reducible apply Kept.ite) | (split))

theorem execMusterArrive_kept {P0 : List Instr} {t0 : State} (s : State) (eN : execMusterArrive s = .next t0) (hK : Kept P0 s) : Kept P0 t0 := by
  unfold execMusterArrive at eN
  try dsimp only at eN
  injection eN with eN
  subst eN
  repeat' (first | (with_reducible assumption) | (with_reducible apply discardDrop_kept)
                  | (with_reducible apply updFab_kept) | (with_reducible apply updCar_kept)
                  | (with_reducible apply consume_kept) | (with_reducible apply globalMuster_kept) | (split))

theorem execCollMusterRelease_kept {P0 : List Instr} {t0 : State} (s : State) (eN : execCollMusterRelease s = .next t0) (hK : Kept P0 s) : Kept P0 t0 := by
  unfold execCollMusterRelease at eN
  try dsimp only at eN
  injection eN with eN
  subst eN
  repeat' (first | (with_reducible assumption) | (with_reducible (intro _)) | (with_reducible apply discardDrop_kept)
                  | (with_reducible apply updFab_kept) | (with_reducible apply consume_kept)
                  | (with_reducible apply recordModFault_kept) | (with_reducible apply noteMuster_kept)
                  | (with_reducible apply releaseMuster_kept) | (with_reducible apply releaseKids_kept)
                  | (with_reducible apply Kept.ite) | (with_reducible apply Kept.foldl) | (split))

theorem applyPrefetch_kept {P0 : List Instr} (s : State) (n v : Nat) (hK : Kept P0 s) : Kept P0 (applyPrefetch s n v) := by
  unfold applyPrefetch
  try dsimp only
  repeat' (first | (with_reducible assumption) | (with_reducible (intro _)) | (with_reducible apply addWrap_kept)
                  | (with_reducible (refine updCore_kept ?_ _ ?_)) | (with_reducible apply addCredit_kept)
                  | (with_reducible apply setErr_kept) | (with_reducible apply addSat_kept)
                  | (with_reducible apply Kept.ite) | (simp only [Core.mk_eq]; with_reducible apply Core.ok.tabs))

theorem execPrefetchFallback_kept {P0 : List Instr} {t0 : State} (c : Fin 256) (s : State) (eN : execPrefetchFallback c s = .next t0) (hK : Kept P0 s) : Kept P0 t0 := by
  unfold execPrefetchFallback at eN
  try dsimp only at eN
  injection eN with eN
  subst eN
  repeat' (first | (with_reducible assumption) | (with_reducible (intro _)) | (with_reducible apply applyPrefetch_kept)
                  | (with_reducible (refine updCore_kept ?_ _ ?_)) | (with_reducible apply Kept.ite)
                  | (with_reducible apply Kept.foldl) | (simp only [Core.mk_eq]; with_reducible apply Core.ok.tabs)
                  | (split))

theorem carTableWrite_kept {P0 : List Instr} (s : State) (f : State → State) (hK : Kept P0 s) (hf_f : ∀ (y0 : State), Kept P0 y0 → Kept P0 (f y0)) : Kept P0 (carTableWrite s f) := by
  unfold carTableWrite
  try dsimp only
  repeat' (first | (with_reducible assumption) | (with_reducible (intro _)) | (with_reducible apply hf_f)
                  | (with_reducible apply setErr_kept) | (with_reducible apply Kept.ite))

theorem planAddr_kept {P0 : List Instr} (s : State) (hK : Kept P0 s) : Kept P0 (planAddr s).2 := by
  unfold planAddr
  try dsimp only
  repeat' (first | (with_reducible assumption) | (with_reducible (intro _)) | (with_reducible apply wr_kept)
                  | (with_reducible apply Kept.ite))

theorem planAddr_kept_of {P0 : List Instr} {s : State} {r0 : Nat} {t0 : State} (e : planAddr s = (r0, t0)) (hK : Kept P0 s) : Kept P0 t0 := by
  have := planAddr_kept s hK
  rw [e] at this
  exact this

theorem execCaravanPlanData_kept {P0 : List Instr} {t0 : State} (v : Option (BitVec 32)) (s : State) (eN : execCaravanPlanData v s = .next t0) (hK : Kept P0 s) : Kept P0 t0 := by
  unfold execCaravanPlanData at eN
  try dsimp only at eN
  injection eN with eN
  subst eN
  repeat' (first | (with_reducible assumption) | (with_reducible (intro _)) | (with_reducible apply planAddr_kept)
                  | (with_reducible apply carTableWrite_kept) | (with_reducible apply updCar_kept) | (split))

theorem execCaravanRankData_kept {P0 : List Instr} {t0 : State} (v : Option (BitVec 32)) (s : State) (eN : execCaravanRankData v s = .next t0) (hK : Kept P0 s) : Kept P0 t0 := by
  unfold execCaravanRankData at eN
  try dsimp only at eN
  injection eN with eN
  subst eN
  repeat' (first | (with_reducible assumption) | (with_reducible (intro _)) | (with_reducible apply wr_kept)
                  | (with_reducible apply carTableWrite_kept) | (with_reducible apply updCar_kept)
                  | (with_reducible apply Kept.ite) | (split))

theorem execStall_kept {P0 : List Instr} {t0 : State} (l : Option (Fin 64)) (cls : Fin 6) (s : State) (eN : execStall l cls s = .next t0) (hK : Kept P0 s) : Kept P0 t0 := by
  unfold execStall at eN
  try dsimp only at eN
  injection eN with eN
  subst eN
  repeat' (first | (with_reducible assumption) | (with_reducible (intro _)) | (with_reducible apply raiseEvent_kept)
                  | (with_reducible apply setErr_kept) | (with_reducible (refine wrW_kept ?_ ..))
                  | (with_reducible apply recordModFault_kept) | (with_reducible apply updFab_kept)
                  | (with_reducible apply restartTimer_kept) | (with_reducible apply Kept.ite)
                  | (with_reducible apply Kept.foldl) | (split))

end Sys2Proof.Machine
end

