-- ==== Sys2Proof/Laws/Kept/Hbm.lean ====
section
/-!
SUPPORT. Every operation of Machine/Hbm.lean keeps the invariant and the queue.
-/
namespace Sys2Proof.Machine

theorem execHbmErrWindow_kept {P0 : List Instr} {t0 : State} (n : Fin 512) (s : State) (eN : execHbmErrWindow n s = .next t0) (hK : Kept P0 s) : Kept P0 t0 := by
  unfold execHbmErrWindow at eN
  try dsimp only at eN
  injection eN with eN
  subst eN
  repeat' (first | (with_reducible assumption) | (with_reducible apply setErrWin_kept))

theorem startReloc_kept {P0 : List Instr} (s : State) (d n : Nat) (hK : Kept P0 s) : Kept P0 (startReloc s d n) := by
  unfold startReloc
  try dsimp only
  repeat' (first | (with_reducible assumption) | (with_reducible apply wr_kept) | (with_reducible apply setDom_kept)
                  | (with_reducible apply trimGrants_kept))

theorem execRelocationStart_kept {P0 : List Instr} {t0 : State} (n : Fin 512) (s : State) (eN : execRelocationStart n s = .next t0) (hK : Kept P0 s) : Kept P0 t0 := by
  unfold execRelocationStart at eN
  try dsimp only at eN
  injection eN with eN
  subst eN
  repeat' (first | (with_reducible assumption) | (with_reducible (intro _)) | (with_reducible apply startReloc_kept)
                  | (with_reducible apply setDom_kept) | (with_reducible apply setErr_kept)
                  | (with_reducible apply wr_kept) | (with_reducible apply Kept.ite))

theorem copySlot_kept {P0 : List Instr} (s : State) (src dst : Nat × Nat) (hK : Kept P0 s) : Kept P0 (copySlot s src dst) := by
  unfold copySlot
  dsimp only
  refine Kept.foldl ?_ ?_
  · simp only [Kept.mk_eq]
    exact hK.view_mem (memWrite_wf _ _ _ hK.2.mem)
  intro s b h
  simp only [Kept.mk_eq]
  apply Kept.view
  exact readBurst_kept _ _ _ _ _ h

theorem execGranuleCopy_kept {P0 : List Instr} {t0 : State} (n : Fin 512) (s : State) (eN : execGranuleCopy n s = .next t0) (hK : Kept P0 s) : Kept P0 t0 := by
  unfold execGranuleCopy at eN
  try dsimp only at eN
  injection eN with eN
  subst eN
  repeat' (first | (with_reducible assumption) | (with_reducible (intro _)) | (with_reducible apply copySlot_kept)
                  | (with_reducible apply wr_kept) | (with_reducible apply setDom_kept) | (with_reducible apply Kept.ite)
                  | (split))

theorem execRelocationDone_kept {P0 : List Instr} {t0 : State} (n : Fin 512) (s : State) (eN : execRelocationDone n s = .next t0) (hK : Kept P0 s) : Kept P0 t0 := by
  unfold execRelocationDone at eN
  try dsimp only at eN
  injection eN with eN
  subst eN
  repeat' (first | (with_reducible assumption) | (with_reducible (intro _)) | (with_reducible apply setDom_kept)
                  | (with_reducible apply setErr_kept) | (with_reducible apply wr_kept)
                  | (with_reducible apply eventChannel_kept) | (with_reducible apply Kept.ite)
                  | (simp only [Kept.mk_eq]; with_reducible apply Kept.view) | (split))

theorem zeroChannels_kept {P0 : List Instr} (s : State) (ns : List Nat) (hK : Kept P0 s) : Kept P0 (zeroChannels s ns) :=
  ⟨hK.1, { hK.2 with mem := memDrop_wf (fun k => ns.contains (k / (slotsR * 2048))) _ hK.2.mem }⟩

theorem rebuildDomain_kept {P0 : List Instr} (s : State) (d : Nat) (hK : Kept P0 s) : Kept P0 (rebuildDomain s d) := by
  unfold rebuildDomain
  try dsimp only
  repeat' (first | (with_reducible assumption) | (with_reducible (intro _)) | (with_reducible apply setErr_kept)
                  | (with_reducible apply wr_kept) | (with_reducible apply setDom_kept)
                  | (with_reducible apply zeroChannels_kept) | (with_reducible apply Kept.foldl)
                  | (simp only [Kept.mk_eq]; with_reducible apply Kept.view))

theorem execDomainRebuild_kept {P0 : List Instr} {t0 : State} (d : Fin 4) (s : State) (eN : execDomainRebuild d s = .next t0) (hK : Kept P0 s) : Kept P0 t0 := by
  unfold execDomainRebuild at eN
  try dsimp only at eN
  injection eN with eN
  subst eN
  repeat' (first | (with_reducible assumption) | (with_reducible (intro _)) | (with_reducible apply setErr_kept)
                  | (with_reducible apply wr_kept) | (with_reducible apply rebuildDomain_kept)
                  | (with_reducible apply Kept.ite))

theorem execPatrolScrub_kept {P0 : List Instr} {t0 : State} (n : Fin 512) (p : Fin 2) (s : State) (eN : execPatrolScrub n p s = .next t0) (hK : Kept P0 s) : Kept P0 t0 := by
  unfold execPatrolScrub at eN
  try dsimp only at eN
  injection eN with eN
  subst eN
  repeat' (first | (with_reducible assumption) | (with_reducible (intro _)) | (with_reducible apply readBurst_kept)
                  | (with_reducible apply Kept.ite) | (simp only [Kept.mk_eq]; with_reducible apply Kept.view))

theorem execRefresh_kept {P0 : List Instr} {t0 : State} (stk : Fin 32) (s : State) (eN : execRefresh stk s = .next t0) (hK : Kept P0 s) : Kept P0 t0 := by
  unfold execRefresh at eN
  try dsimp only at eN
  injection eN with eN
  subst eN
  repeat' (first | (with_reducible assumption) | (with_reducible (intro _)) | (with_reducible apply wr_kept)
                  | (with_reducible apply setErr_kept) | (with_reducible apply Kept.ite))

theorem rebuildAll_kept {P0 : List Instr} (s : State) (hK : Kept P0 s) : Kept P0 (rebuildAll s) := by
  unfold rebuildAll
  try dsimp only
  repeat' (first | (with_reducible assumption) | (with_reducible (intro _)) | (with_reducible apply wr_kept)
                  | (with_reducible apply Kept.foldl))

theorem execMode_kept {P0 : List Instr} {t0 : State} (stk : Fin 32) (str : Bool) (s : State) (eN : execMode stk str s = .next t0) (hK : Kept P0 s) : Kept P0 t0 := by
  unfold execMode at eN
  try dsimp only at eN
  injection eN with eN
  subst eN
  repeat' (first | (with_reducible assumption) | (with_reducible (intro _)) | (with_reducible apply setErr_kept)
                  | (with_reducible apply rebuildAll_kept) | (with_reducible apply wr_kept)
                  | (with_reducible apply Kept.ite))

theorem execRebuild_kept {P0 : List Instr} {t0 : State} (stk : Fin 32) (s : State) (eN : execRebuild stk s = .next t0) (hK : Kept P0 s) : Kept P0 t0 := by
  unfold execRebuild at eN
  try dsimp only at eN
  injection eN with eN
  subst eN
  repeat' (first | (with_reducible assumption) | (with_reducible (intro _)) | (with_reducible apply setErr_kept)
                  | (with_reducible apply wr_kept) | (with_reducible apply Kept.ite))

theorem execHbmXlate_kept {P0 : List Instr} {t0 : State} (stk : Fin 32) (hi : BitVec 10) (s : State) (eN : execHbmXlate stk hi s = .next t0) (hK : Kept P0 s) : Kept P0 t0 := by
  unfold execHbmXlate at eN
  try dsimp only at eN
  injection eN with eN
  subst eN
  repeat' (first | (with_reducible assumption) | (with_reducible (intro _)) | (with_reducible apply wr_kept)
                  | (with_reducible apply Kept.ite) | (split))

theorem execFail_kept {P0 : List Instr} {t0 : State} (n : Fin 512) (s : State) (eN : execFail n s = .next t0) (hK : Kept P0 s) : Kept P0 t0 := by
  unfold execFail at eN
  try dsimp only at eN
  injection eN with eN
  subst eN
  repeat' (first | (with_reducible assumption) | (with_reducible apply enterFailing_kept))

theorem execPhyTrainingLoss_kept {P0 : List Instr} {t0 : State} (n : Fin 512) (s : State) (eN : execPhyTrainingLoss n s = .next t0) (hK : Kept P0 s) : Kept P0 t0 := by
  unfold execPhyTrainingLoss at eN
  try dsimp only at eN
  injection eN with eN
  subst eN
  repeat' (first | (with_reducible assumption) | (with_reducible apply enterFailing_kept))

theorem execTestEnter_kept {P0 : List Instr} {t0 : State} (n : Fin 512) (s : State) (eN : execTestEnter n s = .next t0) (hK : Kept P0 s) : Kept P0 t0 := by
  unfold execTestEnter at eN
  try dsimp only at eN
  injection eN with eN
  subst eN
  repeat' (first | (with_reducible assumption) | (with_reducible (intro _)) | (with_reducible apply wr_kept)
                  | (with_reducible apply setErr_kept) | (with_reducible apply Kept.ite))

theorem execTestExit_kept {P0 : List Instr} {t0 : State} (n : Fin 512) (s : State) (eN : execTestExit n s = .next t0) (hK : Kept P0 s) : Kept P0 t0 := by
  unfold execTestExit at eN
  try dsimp only at eN
  injection eN with eN
  subst eN
  repeat' (first | (with_reducible assumption) | (with_reducible (intro _)) | (with_reducible apply wr_kept)
                  | (with_reducible apply zeroChannels_kept) | (with_reducible apply Kept.ite))

theorem execTgStart_kept {P0 : List Instr} {t0 : State} (n : Fin 512) (p : Fin 2) (s : State) (eN : execTgStart n p s = .next t0) (hK : Kept P0 s) : Kept P0 t0 := by
  unfold execTgStart at eN
  try dsimp only at eN
  injection eN with eN
  subst eN
  repeat' (first | (with_reducible assumption) | (with_reducible (intro _)) | (with_reducible apply wr1_kept)
                  | (with_reducible apply setErr_kept) | (with_reducible apply Kept.ite))

theorem execTgStop_kept {P0 : List Instr} {t0 : State} (n : Fin 512) (p : Fin 2) (s : State) (eN : execTgStop n p s = .next t0) (hK : Kept P0 s) : Kept P0 t0 := by
  unfold execTgStop at eN
  try dsimp only at eN
  injection eN with eN
  subst eN
  repeat' (first | (with_reducible assumption) | (with_reducible apply wr1_kept))

theorem execTgRunEnd_kept {P0 : List Instr} {t0 : State} (n : Fin 512) (p : Fin 2) (passes : BitVec 16) (bursts : BitVec 64) (s : State) (eN : execTgRunEnd n p passes bursts s = .next t0) (hK : Kept P0 s) : Kept P0 t0 := by
  unfold execTgRunEnd at eN
  try dsimp only at eN
  injection eN with eN
  subst eN
  repeat' (first | (with_reducible assumption) | (with_reducible (intro _)) | (with_reducible apply wr1_kept)
                  | (with_reducible apply add64_kept) | (with_reducible apply Kept.ite))

theorem execTgCheckFail_kept {P0 : List Instr} {t0 : State} (n : Fin 512) (p : Fin 2) (slot : BitVec 22) (burst : BitVec 5) (bitNo : BitVec 8) (expect : Bool) (nbits : BitVec 8) (s : State) (eN : execTgCheckFail n p slot burst bitNo expect nbits s = .next t0) (hK : Kept P0 s) : Kept P0 t0 := by
  unfold execTgCheckFail at eN
  try dsimp only at eN
  injection eN with eN
  subst eN
  repeat' (first | (with_reducible assumption) | (with_reducible (intro _)) | (with_reducible apply setErr_kept)
                  | (with_reducible apply addSat1_kept) | (with_reducible apply wr1_kept)
                  | (with_reducible apply Kept.ite))

theorem execStackTrained_kept {P0 : List Instr} {t0 : State} (stk : Fin 32) (failed : BitVec 16) (lanes : BitVec 8) (s : State) (eN : execStackTrained stk failed lanes s = .next t0) (hK : Kept P0 s) : Kept P0 t0 := by
  unfold execStackTrained at eN
  try dsimp only at eN
  injection eN with eN
  subst eN
  repeat' (first | (with_reducible assumption) | (with_reducible (intro _)) | (with_reducible apply setBlk_kept)
                  | (with_reducible apply wr_kept) | (with_reducible apply setErr_kept) | (with_reducible apply Kept.ite)
                  | (with_reducible apply Kept.foldl) | (simp only [Kept.mk_eq]; with_reducible apply Kept.view))

end Sys2Proof.Machine
end

