-- ==== Sys2Proof/Laws/Kept/JobOps.lean ====
section
/-!
SUPPORT. Every operation of Machine/JobOps.lean keeps the invariant and the queue.
-/
namespace Sys2Proof.Machine

theorem loadSegment_kept {P0 : List Instr} (s : State) (im : Image) (n seg pc : Nat) (hK : Kept P0 s) : Kept P0 (loadSegment s im n seg pc) := by
  unfold loadSegment
  try dsimp only
  repeat' (first | (with_reducible assumption) | (with_reducible (intro _))
                  | (with_reducible (refine updCore_kept ?_ _ ?_))
                  | (simp only [Core.mk_eq]; with_reducible apply Core.ok.tabs))

theorem loadItin_kept {P0 : List Instr} (s : State) (im : Image) (n l : Nat) (hK : Kept P0 s) : Kept P0 (loadItin s im n l) := by
  unfold loadItin
  try dsimp only
  repeat' (first | (with_reducible assumption) | (with_reducible (intro _)) | (with_reducible (refine wrW_kept ?_ ..))
                  | (with_reducible apply Kept.foldl))

theorem loadLedger_kept {P0 : List Instr} (s : State) (im : Image) (n l : Nat) (hK : Kept P0 s) : Kept P0 (loadLedger s im n l) := by
  unfold loadLedger
  try dsimp only
  repeat' (first | (with_reducible assumption) | (with_reducible (intro _)) | (with_reducible (refine wrW_kept ?_ ..))
                  | (with_reducible apply Kept.foldl))

theorem loadSpinit_kept {P0 : List Instr} (s : State) (im : Image) (n l : Nat) (hK : Kept P0 s) : Kept P0 (loadSpinit s im n l) := by
  unfold loadSpinit
  try dsimp only
  repeat' (first | (with_reducible assumption) | (with_reducible (intro _))
                  | (with_reducible (refine updCore_kept ?_ _ ?_)) | (with_reducible apply Kept.ite)
                  | (with_reducible apply Kept.foldl) | (with_reducible apply spadWrite_ok))

theorem freeRegs_kept {P0 : List Instr} (s : State) (n : Nat) (hK : Kept P0 s) : Kept P0 (freeRegs s n) := by
  have W : ∀ {α : Type} [DecidableEq α] (d : α) (l : List Nat) (f : Nat → Nat) (g : Nat → α),
      smWf (fun _ => d) (l.foldl (fun m r => tabPut d m (f r) (g r)) []) = true := fun d l f g =>
    foldl_keeps (fun m => smWf (fun _ => d) m = true) _ l [] rfl (fun m r h => tabPut_wf _ _ _ _ h)
  unfold freeRegs
  dsimp only
  simp only [Kept.mk_eq]
  refine Kept.view (updCore_kept ?_ _ (fun c hc => ?_))
  · exact hK
  · simp only [Core.mk_eq]
    exact ⟨hc.1, W _ _ _ _, W _ _ (fun r => r) _, W _ _ _ _⟩

theorem traceCore_ok (c : Core) (t : Option TraceCfg) (hc : c.ok) : (traceCore c t).ok := by
  unfold traceCore
  try dsimp only
  repeat' (first | (with_reducible assumption) | (simp only [Core.mk_eq]; with_reducible apply Core.ok.tabs) | (split))

theorem bareCore_ok (c : Core) (hc : c.ok) : (bareCore c).ok := by
  unfold bareCore
  simp only [Core.mk_eq]
  exact ⟨hc.1, rfl, rfl, rfl⟩

theorem leftCore_ok (c : Core) (hc : c.ok) : (leftCore c).ok := by
  unfold leftCore bareCore
  simp only [Core.mk_eq]
  exact ⟨hc.1, hc.2.1, hc.2.2.1, hc.2.2.2⟩

theorem markDowns_kept {P0 : List Instr} (s : State) (b n : Nat) (hK : Kept P0 s) : Kept P0 (markDowns s b n) := by
  unfold markDowns
  try dsimp only
  repeat' (first | (with_reducible assumption) | (with_reducible (intro _))
                  | (with_reducible (refine updCore_kept ?_ _ ?_))
                  | (simp only [Core.mk_eq]; with_reducible apply Core.ok.tabs))

theorem place_kept {P0 : List Instr} (s : State) (b l n : Nat) (hK : Kept P0 s) : Kept P0 (place s b l n) := by
  unfold place
  try dsimp only
  repeat' (first | (with_reducible assumption) | (with_reducible (intro _)) | (with_reducible apply updLcore_kept)
                  | (with_reducible apply setBlk_kept) | (with_reducible apply markDowns_kept))

theorem loadLcore_kept {P0 : List Instr} (s : State) (b l n : Nat) (hK : Kept P0 s) : Kept P0 (loadLcore s b l n) := by
  unfold loadLcore
  try dsimp only
  repeat' (first | (with_reducible assumption) | (with_reducible (intro _))
                  | (with_reducible (refine setCore_kept ?_ _ ?_)) | (with_reducible apply freeRegs_kept)
                  | (with_reducible (refine wrW_kept ?_ ..)) | (with_reducible apply loadSpinit_kept)
                  | (with_reducible apply loadLedger_kept) | (with_reducible apply loadItin_kept)
                  | (with_reducible apply loadSegment_kept) | (with_reducible (refine updCore_kept ?_ _ ?_))
                  | (with_reducible apply wr_kept) | (with_reducible apply clearPoison_kept)
                  | (with_reducible apply place_kept) | (with_reducible apply Kept.foldl)
                  | (simp only [Core.mk_eq]; with_reducible apply Core.ok.tabs)
                  | (with_reducible (refine Kept.core_ok (p := P0) ?_ _)) | (with_reducible apply traceCore_ok)
                  | (with_reducible apply bareCore_ok))

theorem vacate_kept {P0 : List Instr} (s : State) (n : Nat) (hK : Kept P0 s) : Kept P0 (vacate s n) := by
  unfold vacate
  try dsimp only
  repeat' (first | (with_reducible assumption) | (with_reducible (intro _))
                  | (with_reducible (refine setCore_kept ?_ _ ?_)) | (with_reducible apply setBlk_kept)
                  | (with_reducible apply Kept.ite) | (with_reducible (refine Kept.core_ok (p := P0) ?_ _))
                  | (with_reducible apply leftCore_ok))

theorem saveCore_kept {P0 : List Instr} (s : State) (n : Nat) (hK : Kept P0 s) : Kept P0 (saveCore s n) := by
  unfold saveCore
  split
  · exact hK
  · rename_i l _
    have h0 : Kept P0 (traceRec (addWrap s (pgSEQ n) F.SEQ_YIELD_CNT.COUNT 1) n 0x07 (partCtx s n 0) 0 (core s n).taskCyc) :=
      traceRec_kept _ _ _ _ _ _ (addWrap_kept _ _ _ _ hK)
    generalize traceRec (addWrap s (pgSEQ n) F.SEQ_YIELD_CNT.COUNT 1) n 0x07 (partCtx s n 0) 0 (core s n).taskCyc = s0 at h0
    dsimp only
    apply vacate_kept
    apply updLcore_kept
    · apply hbmWriteOwn_kept
      apply freeBytes_kept
      apply Kept.ite <;> intro _
      · exact h0
      · exact hbmWriteOwn_kept _ _ _ h0
    · intro x hx c hc
      simp only [Option.some.injEq] at hc
      rw [← hc]
      exact h0.core_ok n

theorem rebase_ok (c : Core) (from_ to_ : Nat) (hc : c.ok) : (rebase c from_ to_).ok := by
  unfold rebase
  try dsimp only
  repeat' (first | (with_reducible assumption) | (simp only [Core.mk_eq]; with_reducible apply Core.ok.tabs))

theorem restoreLcore_kept {P0 : List Instr} (s : State) (b l n : Nat) (hK : Kept P0 s) : Kept P0 (restoreLcore s b l n) := by
  unfold restoreLcore
  dsimp only
  split
  · exact loadLcore_kept _ _ _ _ hK
  · rename_i c hc
    have hok : c.ok := (hK.job_ok b).lcore l c hc
    apply traceRec_kept
    apply updLcore_kept
    · apply place_kept
      apply wr_kept
      apply wr_kept
      apply updCore_kept
      · apply loadItin_kept
        apply loadSegment_kept
        simp only [Kept.mk_eq]
        refine (setCore_kept hK n ?_).view_regs ?_
        · exact hok
        · exact foldl_keeps (fun m => smWf regDefault m = true) _ _ _ (tabDrop_wf _ _ _ hK.2.regs) (fun m y h => smPut_wf _ _ _ _ h)
      · intro c hc
        exact hc
    · intro y hy c hc
      simp only [reduceCtorEq] at hc

theorem dropCtxCore_kept {P0 : List Instr} (s : State) (n ctx : Nat) (hK : Kept P0 s) : Kept P0 (dropCtxCore s n ctx) := by
  unfold dropCtxCore
  try dsimp only
  repeat' (first | (with_reducible assumption) | (with_reducible (intro _))
                  | (with_reducible (refine updCore_kept ?_ _ ?_)) | (with_reducible apply clearPoison_kept)
                  | (with_reducible (refine wrW_kept ?_ ..)) | (with_reducible apply freeBytes_kept)
                  | (with_reducible apply hbmWriteOwn_kept) | (with_reducible apply Kept.foldl)
                  | (simp only [Core.mk_eq]; with_reducible apply Core.ok.tabs))

theorem dropStacks_kept {P0 : List Instr} (s : State) (n ctx : Nat) (hK : Kept P0 s) : Kept P0 (dropStacks s n ctx) := by
  unfold dropStacks
  try dsimp only
  repeat' (first | (with_reducible assumption) | (with_reducible (intro _)) | (with_reducible apply freeBytes_kept)
                  | (with_reducible apply hbmWriteOwn_kept) | (with_reducible (refine wrW_kept ?_ ..))
                  | (with_reducible apply wr1_kept) | (with_reducible (refine updCore_kept ?_ _ ?_))
                  | (with_reducible apply Kept.ite) | (with_reducible apply Kept.foldl)
                  | (simp only [Core.mk_eq]; with_reducible apply Core.ok.tabs))

theorem dropEntries_kept {P0 : List Instr} (s : State) (b ctx : Nat) (hK : Kept P0 s) : Kept P0 (dropEntries s b ctx) := by
  unfold dropEntries
  try dsimp only
  repeat' (first | (with_reducible assumption) | (with_reducible (intro _)) | (with_reducible apply updFab_kept)
                  | (with_reducible apply sendStatus_kept) | (with_reducible apply updCar_kept)
                  | (with_reducible apply Kept.ite) | (with_reducible apply Kept.foldl))

theorem reportFlags_kept {P0 : List Instr} (s : State) (b ctx : Nat) (hK : Kept P0 s) : Kept P0 (reportFlags s b ctx) := by
  unfold reportFlags
  try dsimp only
  repeat' (first | (with_reducible assumption) | (with_reducible (intro _)) | (with_reducible apply traceRec_kept)
                  | (with_reducible apply setErr_kept) | (with_reducible apply raiseEvent_kept)
                  | (with_reducible apply Kept.ite) | (with_reducible apply Kept.foldl))

theorem tearDown_kept {P0 : List Instr} (s : State) (b ctx status page code craul pcore lcore : Nat) (hK : Kept P0 s) : Kept P0 (tearDown s b ctx status page code craul pcore lcore) := by
  unfold tearDown
  try dsimp only
  repeat' (first | (with_reducible assumption) | (with_reducible (intro _)) | (with_reducible apply reportFlags_kept)
                  | (with_reducible apply dropStacks_kept) | (with_reducible apply dropCtxCore_kept)
                  | (with_reducible apply closeWins_kept) | (with_reducible apply dropEntries_kept)
                  | (with_reducible apply updFab_kept) | (with_reducible (refine updJob_kept ?_ _ ?_))
                  | (with_reducible apply wr1_kept) | (with_reducible apply setErr_kept)
                  | (with_reducible apply raiseEvent_kept) | (with_reducible apply Kept.ite)
                  | (with_reducible apply Kept.foldl) | (simp only [Job.mk_eq]; with_reducible apply Job.ok.lcores)
                  | (simp only [Kept.mk_eq]; with_reducible apply Kept.view))

theorem tearAll_kept {P0 : List Instr} (s : State) (b status : Nat) (hK : Kept P0 s) : Kept P0 (tearAll s b status) := by
  unfold tearAll
  try dsimp only
  repeat' (first | (with_reducible assumption) | (with_reducible (intro _)) | (with_reducible apply tearDown_kept)
                  | (with_reducible apply Kept.foldl))

theorem finishCmd_kept {P0 : List Instr} (s : State) (q n status detail result : Nat) (hK : Kept P0 s) : Kept P0 (finishCmd s q n status detail result) := by
  unfold finishCmd
  try dsimp only
  repeat' (first | (with_reducible assumption) | (simp only [Kept.mk_eq]; with_reducible apply Kept.view))

theorem finishOpt_kept {P0 : List Instr} (s : State) (w : Option (Nat × Nat)) (status detail result : Nat) (hK : Kept P0 s) : Kept P0 (finishOpt s w status detail result) := by
  unfold finishOpt
  try dsimp only
  repeat' (first | (with_reducible assumption) | (with_reducible apply finishCmd_kept) | (split))

theorem ringHeader_kept {P0 : List Instr} (s : State) (t : TraceCfg) (d : Nat) (hK : Kept P0 s) : Kept P0 (ringHeader s t d) := by
  unfold ringHeader
  try dsimp only
  repeat' (first | (with_reducible assumption) | (with_reducible apply hbmWriteOwn_kept))

theorem loadPlan_kept {P0 : List Instr} (s : State) (im : Image) (b : Nat) (hK : Kept P0 s) : Kept P0 (loadPlan s im b) := by
  unfold loadPlan
  try dsimp only
  repeat' (first | (with_reducible assumption) | (with_reducible (intro _)) | (with_reducible apply updCar_kept)
                  | (with_reducible apply Kept.foldl))

theorem loadWindows_kept {P0 : List Instr} (s : State) (im : Image) (b : Nat) (hK : Kept P0 s) : Kept P0 (loadWindows s im b) := by
  unfold loadWindows
  try dsimp only
  repeat' (first | (with_reducible assumption) | (with_reducible (intro _)) | (with_reducible apply setWin_kept)
                  | (with_reducible apply Kept.foldl))

theorem stewardModes_kept {P0 : List Instr} (s : State) (b : Nat) (hK : Kept P0 s) : Kept P0 (stewardModes s b) := by
  unfold stewardModes
  try dsimp only
  repeat' (first | (with_reducible assumption) | (with_reducible (intro _)) | (with_reducible apply wr_kept)
                  | (with_reducible apply setErr_kept) | (with_reducible apply Kept.ite)
                  | (with_reducible apply Kept.foldl))

theorem clearIdle_kept {P0 : List Instr} (s : State) (hK : Kept P0 s) : Kept P0 (clearIdle s) := by
  unfold clearIdle
  try dsimp only
  repeat' (first | (with_reducible assumption) | (with_reducible apply updCar_kept))

theorem beginJob_kept {P0 : List Instr} (s : State) (b num image len seed : Nat) (w : Option (Nat × Nat)) (hK : Kept P0 s) : Kept P0 (beginJob s b num image len seed w) := by
  have hj : ∀ (ls : List Nat) (im : Image), lcoresOk (ls.foldl (fun m l => tabPut {} m l
      { die := (lcoreEntry s im l).1, mode := (lcoreEntry s im l).2.1, ctxs := (lcoreEntry s im l).2.2.1, seg := (lcoreEntry s im l).2.2.2, outAt := s.esc }) []) := fun ls im =>
    foldl_keeps lcoresOk _ ls [] lcoresOk_nil
      (fun m l h => smPut_all (fun y : LCore => ∀ c, y.saved = some c → c.ok) _ _ _ _ h (fun c hc => by simp only [reduceCtorEq] at hc))
  unfold beginJob
  dsimp only
  have h3 : ∀ (s1 : State) (im : Image) (gs : List (Nat × Nat × Grant)), Kept P0 s1 →
      Kept P0 (wr1 (wr64 (wr1 (wr64 (loadWindows (loadPlan { s1 with grants := gs.foldl (fun m x => tabPut {} m (grantKey b x.1 x.2.1) x.2.2) (tabDrop (fun k => k / 1024 == b) s1.grants) } im b) im b)
        pgJOB F.JOB_STEPNUM_LO.NUM F.JOB_STEPNUM_HI.NUM b 0) pgJOB F.JOB_STEPSZ.SZ b 0)
        pgJOB F.JOB_STEPNUM_L_LO.NUM F.JOB_STEPNUM_L_HI.NUM b 0) pgJOB F.JOB_STEPSZ_L.SZ b 0) := by
    intro s1 im gs h
    apply wr1_kept
    apply wr64_kept
    apply wr1_kept
    apply wr64_kept
    apply loadWindows_kept
    apply loadPlan_kept
    simp only [Kept.mk_eq]
    exact h.view_grants (foldl_keeps (fun m => smWf (fun _ => ({} : Grant)) m = true) _ _ _ (tabDrop_wf _ _ _ h.2.grants) (fun m x h => tabPut_wf _ m _ _ h))
  apply finishOpt_kept
  apply stewardModes_kept
  refine Kept.foldl ?_ (fun s d h => wr_kept _ _ _ _ h)
  refine Kept.foldl ?_ (fun s d h => wr2_kept _ _ _ _ _ _ h)
  iterate 7 apply wr1_kept
  apply wr64_kept
  apply setJobState_kept
  refine Kept.foldl ?_ (fun s x h => loadLcore_kept _ _ _ _ h)
  apply clearIdle_kept
  refine Kept.foldl ?_ (fun s x h => updCore_kept h _ (fun c hc => hc))
  split
  · refine Kept.foldl ?_ (fun s d h => ringHeader_kept _ _ _ h)
    exact h3 _ _ _ (setJob_kept hK b (hj _ _))
  · exact h3 _ _ _ (setJob_kept hK b (hj _ _))

theorem resumePreempted_kept {P0 : List Instr} (s : State) (hK : Kept P0 s) : Kept P0 (resumePreempted s) := by
  unfold resumePreempted
  try dsimp only
  repeat' (first | (with_reducible assumption) | (with_reducible (intro _)) | (with_reducible apply stewardModes_kept)
                  | (with_reducible apply setJobState_kept) | (with_reducible apply Kept.ite))

theorem returnCores_kept {P0 : List Instr} (s : State) (b : Nat) (hK : Kept P0 s) : Kept P0 (returnCores s b) := by
  unfold returnCores
  try dsimp only
  repeat' (first | (with_reducible assumption) | (with_reducible (intro _)) | (with_reducible apply vacate_kept)
                  | (with_reducible apply Kept.foldl))

theorem endJob_kept {P0 : List Instr} (s : State) (b status : Nat) (hK : Kept P0 s) : Kept P0 (endJob s b status) := by
  have hb : ∀ (s2 : State) (f : Caravan → Caravan), Kept P0 s2 → Kept P0 { updCar s2 f with
      grants := tabDrop (fun k => k / 1024 == b) (updCar s2 f).grants, faults := (updCar s2 f).faults.filter (fun f => f.bank != b) } := by
    intro s2 f h
    simp only [Kept.mk_eq]
    exact (updCar_kept _ f h).view_grants (tabDrop_wf _ _ _ h.2.grants)
  unfold endJob
  dsimp only
  have h10 : ∀ (s4 : State), Kept P0 s4 → Kept P0 ((List.range 4).foldl (fun s d =>
    wr (wr s (pgSTEWARD d) F.STEWARD_STATE.MODE 0) (pgSTEWARD d) F.STEWARD_STATE.LCORES 0)
    (raiseEvent (setErr (setJob (wr1 (wr1 (wr1 (wr1 (setJobState (returnCores (reachMiles s4 b (fun m => m.kind == 2)) b) b 0) pgJOB F.JOB_GO.PERMITS b 0) pgJOB F.JOB_CTX.UP b 0) pgJOB F.JOB_NUM.NUM b 0) pgJOB F.JOB_FB.VALID b 0) b {}) pgJOB (E.JOB.END + b))
      0x01 status 0 [(4, (jobOf s b).num % 256), (5, natField (jobOf s b).num 8 8), (6, natField (jobOf s b).num 16 8), (7, natField (jobOf s b).num 24 8)])) := by
    intro s4 h4
    refine Kept.foldl ?_ (fun s d h => wr_kept _ _ _ _ (wr_kept _ _ _ _ h))
    apply raiseEvent_kept
    apply setErr_kept
    refine setJob_kept ?_ b Job.empty_ok
    iterate 4 apply wr1_kept
    apply setJobState_kept
    apply returnCores_kept
    exact reachMiles_kept _ _ _ h4
  have hfin : ∀ s10 : State, Kept P0 s10 → Kept P0 (finishOpt (finishOpt s10 (jobOf s b).stopCmd 0 0 0) (if (jobState s b) = 1 then (jobOf s b).startCmd else none) 0x24 0 0) :=
    fun s10 h => finishOpt_kept _ _ _ _ _ (finishOpt_kept _ _ _ _ _ h)
  have hmain := hfin _ (h10 _ (hb _ (fun c =>
      { c with
        plan := tabDrop (fun k => ((((((List.range 16).filter (fun c => (jobOf s b).valid.getLsbD c)).foldl (fun s c => dropEntries s b c) (closeWins (((List.range 16).filter (fun c => (jobOf s b).valid.getLsbD c && !ctxGone (jobOf s b) c)).foldl (fun s c => reportFlags s b c) s) (fun w => w.bank == b))).car.owner.filter (fun x => x.2 == b + 1)).map (·.1))).contains (k / 16)) c.plan,
        owner := tabDrop (fun e => ((((((List.range 16).filter (fun c => (jobOf s b).valid.getLsbD c)).foldl (fun s c => dropEntries s b c) (closeWins (((List.range 16).filter (fun c => (jobOf s b).valid.getLsbD c && !ctxGone (jobOf s b) c)).foldl (fun s c => reportFlags s b c) s) (fun w => w.bank == b))).car.owner.filter (fun x => x.2 == b + 1)).map (·.1))).contains e) c.owner,
        trigs := tabDrop (fun e => ((((((List.range 16).filter (fun c => (jobOf s b).valid.getLsbD c)).foldl (fun s c => dropEntries s b c) (closeWins (((List.range 16).filter (fun c => (jobOf s b).valid.getLsbD c && !ctxGone (jobOf s b) c)).foldl (fun s c => reportFlags s b c) s) (fun w => w.bank == b))).car.owner.filter (fun x => x.2 == b + 1)).map (·.1))).contains e) c.trigs,
        degPos := c.degPos.filter (fun x => x.1 != b) }) (Kept.foldl (f := fun s c => dropEntries s b c) (l := (List.range 16).filter (fun c => (jobOf s b).valid.getLsbD c)) (closeWins_kept (((List.range 16).filter (fun c => (jobOf s b).valid.getLsbD c && !ctxGone (jobOf s b) c)).foldl (fun s c => reportFlags s b c) s) (fun w => w.bank == b) (Kept.foldl hK (fun s c h => reportFlags_kept _ _ _ h)))
        (fun s c h => dropEntries_kept _ _ _ h))))
  apply Kept.ite <;> intro _
  · exact resumePreempted_kept _ hmain
  · exact hmain

theorem stopJob_kept {P0 : List Instr} (s : State) (b ctxStatus status : Nat) (hK : Kept P0 s) : Kept P0 (stopJob s b ctxStatus status) := by
  unfold stopJob
  try dsimp only
  repeat' (first | (with_reducible assumption) | (with_reducible (intro _)) | (with_reducible apply endJob_kept)
                  | (with_reducible apply tearAll_kept) | (with_reducible apply Kept.ite))

theorem stopAll_kept {P0 : List Instr} (s : State) (hK : Kept P0 s) : Kept P0 (stopAll s) := by
  unfold stopAll
  try dsimp only
  repeat' (first | (with_reducible assumption) | (with_reducible apply stopJob_kept))

end Sys2Proof.Machine
end

