-- ==== Sys2Proof/Laws/Kept/Jobs.lean ====
section
/-!
SUPPORT. Every operation of Machine/Jobs.lean keeps the invariant and the queue.
-/
namespace Sys2Proof.Machine

theorem requestYield_kept {P0 : List Instr} (s : State) (n : Nat) (hK : Kept P0 s) : Kept P0 (requestYield s n) := by
  unfold requestYield
  try dsimp only
  repeat' (first | (with_reducible assumption) | (with_reducible (intro _))
                  | (with_reducible (refine updCore_kept ?_ _ ?_)) | (with_reducible apply Core.ok_ite)
                  | (simp only [Core.mk_eq]; with_reducible apply Core.ok.tabs))

theorem tryBegin_kept {P0 : List Instr} (s : State) (hK : Kept P0 s) : Kept P0 (tryBegin s) := by
  unfold tryBegin
  try dsimp only
  repeat' (first | (with_reducible assumption) | (with_reducible (intro _)) | (with_reducible apply setJobState_kept)
                  | (with_reducible apply beginJob_kept) | (with_reducible apply raiseMax_kept)
                  | (with_reducible apply addWrap_kept) | (with_reducible apply wr_kept)
                  | (with_reducible apply Kept.ite) | (with_reducible apply Kept.foldl))

theorem tryStop_kept {P0 : List Instr} (s : State) (b : Nat) (hK : Kept P0 s) : Kept P0 (tryStop s b) := by
  unfold tryStop
  try dsimp only
  repeat' (first | (with_reducible assumption) | (with_reducible (intro _)) | (with_reducible apply tryBegin_kept)
                  | (with_reducible apply stopJob_kept) | (with_reducible apply Kept.ite))

theorem execYieldSave_kept {P0 : List Instr} {t0 : State} (c : Fin 256) (s : State) (eN : execYieldSave c s = .next t0) (hK : Kept P0 s) : Kept P0 t0 := by
  unfold execYieldSave at eN
  try dsimp only at eN
  injection eN with eN
  subst eN
  repeat' (first | (with_reducible assumption) | (with_reducible (intro _)) | (with_reducible apply tryStop_kept)
                  | (with_reducible apply tryBegin_kept) | (with_reducible apply saveCore_kept)
                  | (with_reducible apply stewardModes_kept) | (with_reducible apply Kept.ite))

theorem settleRestore_kept {P0 : List Instr} (s : State) (b : Nat) (hK : Kept P0 s) : Kept P0 (settleRestore s b) := by
  unfold settleRestore
  try dsimp only
  repeat' (first | (with_reducible assumption) | (with_reducible (intro _)) | (with_reducible apply stewardModes_kept)
                  | (with_reducible apply setJobState_kept) | (with_reducible apply Kept.ite))

theorem execCoreRestore_kept {P0 : List Instr} {t0 : State} (c : Fin 256) (l : Fin 240) (s : State) (eN : execCoreRestore c l s = .next t0) (hK : Kept P0 s) : Kept P0 t0 := by
  unfold execCoreRestore at eN
  try dsimp only at eN
  injection eN with eN
  subst eN
  repeat' (first | (with_reducible assumption) | (with_reducible (intro _)) | (with_reducible apply stewardModes_kept)
                  | (with_reducible apply addWrap_kept) | (with_reducible apply restoreLcore_kept)
                  | (with_reducible apply settleRestore_kept) | (with_reducible apply Kept.ite))

theorem execCoreReadyMap_kept {P0 : List Instr} {t0 : State} (c : Fin 256) (s : State) (eN : execCoreReadyMap c s = .next t0) (hK : Kept P0 s) : Kept P0 t0 := by
  unfold execCoreReadyMap at eN
  try dsimp only at eN
  injection eN with eN
  subst eN
  repeat' (first | (with_reducible assumption) | (with_reducible (intro _)) | (with_reducible apply stewardModes_kept)
                  | (with_reducible apply restoreLcore_kept) | (with_reducible apply Kept.ite) | (split))

theorem execNoYield_kept {P0 : List Instr} {t0 : State} (c : Fin 256) (s : State) (eN : execNoYield c s = .next t0) (hK : Kept P0 s) : Kept P0 t0 := by
  unfold execNoYield at eN
  try dsimp only at eN
  injection eN with eN
  subst eN
  repeat' (first | (with_reducible assumption) | (with_reducible (intro _)) | (with_reducible apply setErr_kept)
                  | (with_reducible apply recSeqAll_kept) | (with_reducible apply Kept.ite))

theorem execSegmentSwitch_kept {P0 : List Instr} {t0 : State} (c : Fin 256) (s : State) (eN : execSegmentSwitch c s = .next t0) (hK : Kept P0 s) : Kept P0 t0 := by
  unfold execSegmentSwitch at eN
  try dsimp only at eN
  injection eN with eN
  subst eN
  repeat' (first | (with_reducible assumption) | (with_reducible (intro _)) | (with_reducible apply loadSegment_kept)
                  | (with_reducible apply Kept.ite))

theorem execTimesliceRequest_kept {P0 : List Instr} {t0 : State} (c : Fin 256) (s : State) (eN : execTimesliceRequest c s = .next t0) (hK : Kept P0 s) : Kept P0 t0 := by
  unfold execTimesliceRequest at eN
  try dsimp only at eN
  injection eN with eN
  subst eN
  repeat' (first | (with_reducible assumption) | (with_reducible (intro _)) | (with_reducible apply requestYield_kept)
                  | (with_reducible apply Kept.ite) | (split))

theorem execCtxTeardown_kept {P0 : List Instr} {t0 : State} (b : Fin 2) (ctx : Fin 16) (s : State) (eN : execCtxTeardown b ctx s = .next t0) (hK : Kept P0 s) : Kept P0 t0 := by
  unfold execCtxTeardown at eN
  try dsimp only at eN
  injection eN with eN
  subst eN
  repeat' (first | (with_reducible assumption) | (with_reducible (intro _)) | (with_reducible apply tearDown_kept)
                  | (with_reducible apply tryStop_kept) | (with_reducible apply tryBegin_kept) | (with_reducible apply endJob_kept)
                  | (with_reducible apply Kept.ite) | (split))

theorem execScrubRead_kept {P0 : List Instr} {t0 : State} (c : Fin 256) (s : State) (eN : execScrubRead c s = .next t0) (hK : Kept P0 s) : Kept P0 t0 := by
  unfold execScrubRead at eN
  try dsimp only at eN
  injection eN with eN
  subst eN
  repeat' (first | (with_reducible assumption) | (with_reducible (intro _)) | (with_reducible apply noteErrs_kept)
                  | (with_reducible (refine updCore_kept ?_ _ ?_)) | (with_reducible apply setErr_kept)
                  | (with_reducible apply wr_kept) | (with_reducible apply addSat_kept) | (with_reducible apply Kept.ite)
                  | (simp only [Core.mk_eq]; with_reducible apply Core.ok.tabs))

theorem ringPut_kept {P0 : List Instr} (t : TraceCfg) (d : Nat) (s : State × TraceCfg) (r : List Byte) (hK : Kept P0 s.1) : Kept P0 (ringPut t d s r).1 := by
  unfold ringPut
  dsimp only
  split
  · exact hK
  · exact hbmWriteOwn_kept _ _ _ hK

theorem execTraceFlush_kept {P0 : List Instr} {t0 : State} (c : Fin 256) (s : State) (eN : execTraceFlush c s = .next t0) (hK : Kept P0 s) : Kept P0 t0 := by
  unfold execTraceFlush at eN
  try dsimp only at eN
  injection eN with eN
  subst eN
  repeat' (first | (with_reducible assumption) | (with_reducible (intro _)) | (with_reducible apply ringPut_kept)
                  | (with_reducible (refine updJob_kept ?_ _ ?_)) | (with_reducible (refine updCore_kept ?_ _ ?_))
                  | (with_reducible apply ringHeader_kept) | (with_reducible apply Kept.ite)
                  | (with_reducible apply Kept.foldl1) | (simp only [Core.mk_eq]; with_reducible apply Core.ok.tabs)
                  | (simp only [Job.mk_eq]; with_reducible apply Job.ok.lcores) | (split))

theorem runCmd_kept {P0 : List Instr} (s : State) (q n opc : Nat) (f : Cmd → State) (hK : Kept P0 s) (hf_f : ∀ (y0 : Cmd), Kept P0 (f y0)) : Kept P0 (runCmd s q n opc f) := by
  unfold runCmd
  try dsimp only
  repeat' (first | (with_reducible assumption) | (with_reducible apply hf_f) | (split))

theorem unparkFor_kept {P0 : List Instr} (s : State) (a : Nat) (hK : Kept P0 s) : Kept P0 (unparkFor s a) := by
  unfold unparkFor
  try dsimp only
  repeat' (first | (with_reducible assumption) | (with_reducible (intro _)) | (with_reducible apply wr1_kept)
                  | (with_reducible apply bringUpCore_kept) | (with_reducible (refine updCore_kept ?_ _ ?_))
                  | (with_reducible apply Kept.foldl) | (simp only [Core.mk_eq]; with_reducible apply Core.ok.tabs))

theorem execJobStart_kept {P0 : List Instr} {t0 : State} (q : Fin 5) (n : BitVec 32) (s : State) (eN : execJobStart q n s = .next t0) (hK : Kept P0 s) : Kept P0 t0 := by
  have e := eN
  clear eN
  unfold execJobStart at e
  injection e with e
  subst e
  refine runCmd_kept _ _ _ _ _ hK ?_
  intro c
  dsimp only
  iterate 7
    apply Kept.ite <;> intro _
    · exact finishCmd_kept _ _ _ _ _ _ hK
  have h0 : Kept P0 (if addrReady s (arg c 8 8) then unparkFor s (arg c 8 8) else s) := Kept.ite (fun _ => unparkFor_kept _ _ hK) (fun _ => hK)
  generalize (if addrReady s (arg c 8 8) then unparkFor s (arg c 8 8) else s) = s0 at h0
  apply Kept.ite <;> intro _
  · exact h0
  have h1 : Kept P0 (if imageCheck s0 (readImage s0 (arg c 8 8)) (arg c 24 4) (1 - q.val) 2 then hbmRead s0 (arg c 8 8) (4096 * arg c 24 4) else ([], false, s0)).2.2 := by
    split
    · exact hbmRead_kept _ _ _ h0
    · exact h0
  generalize (if imageCheck s0 (readImage s0 (arg c 8 8)) (arg c 24 4) (1 - q.val) 2 then hbmRead s0 (arg c 8 8) (4096 * arg c 24 4) else ([], false, s0)) = r at h1
  obtain ⟨bs, ue, s1⟩ := r
  dsimp only at h1 ⊢
  apply Kept.ite <;> intro _
  · exact finishCmd_kept _ _ _ _ _ _ h1
  split
  · exact finishCmd_kept _ _ _ _ _ _ h1
  have h2 : ∀ k, Kept P0 { s1 with jobNum := k } := by
    intro k
    simp only [Kept.mk_eq]
    exact h1.view
  apply Kept.ite <;> intro _
  · refine Kept.foldl ?_ (fun s n h => requestYield_kept _ _ h)
    refine Kept.foldl ?_ (fun s d h => wr_kept _ _ _ _ h)
    have h3 : ∀ j : Job, j.lcores = [] → Kept P0 (setJob (setJobState { s1 with jobNum := s.jobNum + 1 } 1 1) 1 j) := by
      intro j hj
      refine setJob_kept (setJobState_kept _ _ _ (h2 _)) 1 ?_
      intro l hl
      rw [hj] at hl
      cases hl
    apply Kept.ite <;> intro _
    · exact setJobState_kept _ _ _ (h3 _ rfl)
    · exact h3 _ rfl
  · apply beginJob_kept
    apply Kept.ite <;> intro _
    · exact setJobState_kept _ _ _ (h2 _)
    · exact h2 _

theorem execJobStop_kept {P0 : List Instr} {t0 : State} (q : Fin 5) (n : BitVec 32) (s : State) (eN : execJobStop q n s = .next t0) (hK : Kept P0 s) : Kept P0 t0 := by
  unfold execJobStop at eN
  try dsimp only at eN
  injection eN with eN
  subst eN
  repeat' (first | (with_reducible assumption) | (with_reducible (intro _)) | (with_reducible apply runCmd_kept)
                  | (with_reducible apply finishCmd_kept) | (with_reducible (refine updJob_kept ?_ _ ?_))
                  | (with_reducible apply tryBegin_kept) | (with_reducible apply stopJob_kept)
                  | (with_reducible apply tryStop_kept) | (with_reducible apply requestYield_kept)
                  | (with_reducible apply setJobState_kept) | (with_reducible apply Kept.ite)
                  | (with_reducible apply Kept.foldl) | (simp only [Job.mk_eq]; with_reducible apply Job.ok.lcores))

theorem execStepGo_kept {P0 : List Instr} {t0 : State} (q : Fin 5) (n : BitVec 32) (s : State) (eN : execStepGo q n s = .next t0) (hK : Kept P0 s) : Kept P0 t0 := by
  unfold execStepGo at eN
  try dsimp only at eN
  injection eN with eN
  subst eN
  repeat' (first | (with_reducible assumption) | (with_reducible (intro _)) | (with_reducible apply runCmd_kept)
                  | (with_reducible apply finishCmd_kept) | (with_reducible apply wr1_kept)
                  | (with_reducible apply Kept.ite))

theorem execJobEnd_kept {P0 : List Instr} {t0 : State} (b : Fin 2) (s : State) (eN : execJobEnd b s = .next t0) (hK : Kept P0 s) : Kept P0 t0 := by
  unfold execJobEnd at eN
  try dsimp only at eN
  injection eN with eN
  subst eN
  repeat' (first | (with_reducible assumption) | (with_reducible apply tryBegin_kept)
                  | (with_reducible apply endJob_kept) | (split))

theorem execCurfewClose_kept {P0 : List Instr} {t0 : State} (b : Fin 2) (i : Fin 64) (s : State) (eN : execCurfewClose b i s = .next t0) (hK : Kept P0 s) : Kept P0 t0 := by
  unfold execCurfewClose at eN
  try dsimp only at eN
  injection eN with eN
  subst eN
  repeat' (first | (with_reducible assumption) | (with_reducible (intro _)) | (with_reducible apply setErr_kept)
                  | (with_reducible apply setMile_kept) | (with_reducible apply wr1_kept)
                  | (with_reducible apply raiseEvent_kept) | (with_reducible apply stopJob_kept)
                  | (with_reducible (refine setJob_kept ?_ _ ?_)) | (with_reducible apply Kept.ite)
                  | (simp only [Job.mk_eq]; with_reducible exact lcoresOk_nil))

theorem execFallbackStart_kept {P0 : List Instr} {t0 : State} (b : Fin 2) (s : State) (eN : execFallbackStart b s = .next t0) (hK : Kept P0 s) : Kept P0 t0 := by
  unfold execFallbackStart at eN
  try dsimp only at eN
  injection eN with eN
  subst eN
  repeat' (first | (with_reducible assumption) | (with_reducible (intro _)) | (with_reducible apply wr1_kept)
                  | (with_reducible apply setErr_kept) | (with_reducible apply beginJob_kept)
                  | (with_reducible apply addWrap_kept) | (with_reducible apply Kept.ite)
                  | (with_reducible apply Kept.foldl) | (simp only [Kept.mk_eq]; with_reducible apply Kept.view))

end Sys2Proof.Machine
end

