-- ==== Sys2Proof/Laws/Kept/SecOps.lean ====
section
/-!
SUPPORT. Every operation of Machine/SecOps.lean keeps the invariant and the queue.
-/
namespace Sys2Proof.Machine

theorem updPsp_kept {P0 : List Instr} (s : State) (f : Passport → Passport) (hK : Kept P0 s) : Kept P0 (updPsp s f) := by
  unfold updPsp
  try dsimp only
  repeat' (first | (with_reducible assumption) | (simp only [Kept.mk_eq]; with_reducible apply Kept.view))

theorem updHost_kept {P0 : List Instr} (s : State) (f : HostIf → HostIf) (hK : Kept P0 s) : Kept P0 (updHost s f) := by
  unfold updHost
  try dsimp only
  repeat' (first | (with_reducible assumption) | (simp only [Kept.mk_eq]; with_reducible apply Kept.view))

theorem emit_kept {P0 : List Instr} (s : State) (o : Out) (hK : Kept P0 s) : Kept P0 (emit s o) := by
  unfold emit
  try dsimp only
  repeat' (first | (with_reducible assumption) | (with_reducible apply updHost_kept))

theorem reply_kept {P0 : List Instr} (s : State) (who : Reply) (status detail result : Nat) (body : List Byte) (hK : Kept P0 s) : Kept P0 (reply s who status detail result body) := by
  unfold reply
  try dsimp only
  repeat' (first | (with_reducible assumption) | (with_reducible (intro _)) | (with_reducible apply finishCmd_kept)
                  | (with_reducible apply emit_kept) | (with_reducible apply nextSeq_kept)
                  | (with_reducible apply originate_kept) | (with_reducible apply hbmWriteOwn_kept)
                  | (with_reducible apply Kept.ite) | (split))

theorem logSec_kept {P0 : List Instr} (s : State) (code data : Nat) (hK : Kept P0 s) : Kept P0 (logSec s code data) := by
  unfold logSec
  try dsimp only
  repeat' (first | (with_reducible assumption) | (with_reducible apply logRec_kept))

theorem logMgmt_kept {P0 : List Instr} (s : State) (code data : Nat) (hK : Kept P0 s) : Kept P0 (logMgmt s code data) := by
  unfold logMgmt
  try dsimp only
  repeat' (first | (with_reducible assumption) | (with_reducible apply logRec_kept))

theorem extend_kept {P0 : List Instr} (s : State) (i ty ver : Nat) (d : List Byte) (hK : Kept P0 s) : Kept P0 (extend s i ty ver d) := by
  unfold extend
  try dsimp only
  repeat' (first | (with_reducible assumption) | (with_reducible apply updPsp_kept))

theorem extendDebug_kept {P0 : List Instr} (s : State) (ev level : Nat) (hK : Kept P0 s) : Kept P0 (extendDebug s ev level) := by
  unfold extendDebug
  try dsimp only
  repeat' (first | (with_reducible assumption) | (with_reducible apply extend_kept))

theorem setLevel_kept {P0 : List Instr} (s : State) (new tslot : Nat) (hK : Kept P0 s) : Kept P0 (setLevel s new tslot) := by
  unfold setLevel
  try dsimp only
  repeat' (first | (with_reducible assumption) | (with_reducible apply wr_kept) | (with_reducible apply logSec_kept)
                  | (with_reducible apply setErr_kept) | (with_reducible apply extendDebug_kept))

theorem resumeAll_kept {P0 : List Instr} (s : State) (hK : Kept P0 s) : Kept P0 (resumeAll s) := by
  unfold resumeAll
  try dsimp only
  repeat' (first | (with_reducible assumption) | (with_reducible (intro _))
                  | (with_reducible (refine updCore_kept ?_ _ ?_)) | (with_reducible apply Kept.foldl)
                  | (simp only [Core.mk_eq]; with_reducible apply Core.ok.tabs))

theorem restartDies_kept {P0 : List Instr} (s : State) (hK : Kept P0 s) : Kept P0 (restartDies s) := by
  unfold restartDies
  try dsimp only
  repeat' (first | (with_reducible assumption) | (with_reducible (intro _)) | (with_reducible apply setBlk_kept)
                  | (with_reducible apply setHealthy_kept) | (with_reducible (refine resetPage_kept ?_ ..))
                  | (with_reducible apply resetCore_kept) | (with_reducible apply Kept.ite)
                  | (with_reducible apply Kept.foldl))

theorem closeDebug_kept {P0 : List Instr} (s : State) (hK : Kept P0 s) : Kept P0 (closeDebug s) := by
  unfold closeDebug
  try dsimp only
  repeat' (first | (with_reducible assumption) | (with_reducible (intro _)) | (with_reducible apply setLevel_kept)
                  | (with_reducible apply resumeAll_kept) | (with_reducible apply restartDies_kept)
                  | (with_reducible apply updPow_kept) | (with_reducible apply Kept.ite) | (split))

theorem rejectToken_kept {P0 : List Instr} (s : State) (kind target reason : Nat) (who : Reply) (hK : Kept P0 s) : Kept P0 (rejectToken s kind target reason who) := by
  unfold rejectToken
  try dsimp only
  repeat' (first | (with_reducible assumption) | (with_reducible apply wr_kept) | (with_reducible apply addSat_kept)
                  | (with_reducible apply logSec_kept) | (with_reducible apply setErr_kept)
                  | (with_reducible apply reply_kept))

theorem acceptToken_kept {P0 : List Instr} (s : State) (slot : Nat) (hK : Kept P0 s) : Kept P0 (acceptToken s slot) := by
  unfold acceptToken
  try dsimp only
  repeat' (first | (with_reducible assumption) | (with_reducible apply wr_kept))

theorem zeroGranule_kept {P0 : List Instr} (s : State) (g : Nat) (hK : Kept P0 s) : Kept P0 (zeroGranule s g) := by
  unfold zeroGranule
  split
  · exact hK
  · rename_i n r _ _
    exact ⟨hK.1, { hK.2 with mem := memDrop_wf (fun k => k / 2048 == n * slotsR + r) _ hK.2.mem }⟩

theorem zeroHbm_kept {P0 : List Instr} (s : State) (rs : List (Nat × Nat)) (hK : Kept P0 s) : Kept P0 (zeroHbm s rs) := by
  unfold zeroHbm
  try dsimp only
  repeat' (first | (with_reducible assumption) | (with_reducible (intro _)) | (with_reducible apply zeroGranule_kept)
                  | (with_reducible apply Kept.foldl))

theorem closeLinks_kept {P0 : List Instr} (s : State) (hK : Kept P0 s) : Kept P0 (closeLinks s) := by
  unfold closeLinks
  try dsimp only
  repeat' (first | (with_reducible assumption) | (with_reducible (intro _)) | (with_reducible apply closeDone_kept)
                  | (with_reducible apply rerouteQueued_kept) | (with_reducible apply updLk_kept)
                  | (with_reducible apply linkDown_kept) | (with_reducible apply Kept.ite)
                  | (with_reducible apply Kept.foldl))

theorem startZero_kept {P0 : List Instr} (s : State) (lv : Nat) (life : Option Nat) (tslot : Nat) (who : Reply) (hK : Kept P0 s) : Kept P0 (startZero s lv life tslot who) := by
  unfold startZero
  try dsimp only
  repeat' (first | (with_reducible assumption) | (with_reducible (intro _)) | (with_reducible apply wr1_kept)
                  | (with_reducible apply stopAll_kept) | (with_reducible apply closeLinks_kept)
                  | (with_reducible apply wr_kept) | (with_reducible apply updPsp_kept) | (with_reducible apply Kept.ite)
                  | (with_reducible apply Kept.foldl))

theorem zeroMemories_kept {P0 : List Instr} (s : State) (rs : List (Nat × Nat)) (hK : Kept P0 s) : Kept P0 (zeroMemories s rs) := by
  unfold zeroMemories
  try dsimp only
  repeat' (first | (with_reducible assumption) | (with_reducible (intro _)) | (with_reducible apply zeroHbm_kept)
                  | (with_reducible (refine updCore_kept ?_ _ ?_)) | (with_reducible apply Kept.foldl)
                  | (with_reducible apply zeroSpad_ok))

theorem abortZero_kept {P0 : List Instr} (s : State) (hK : Kept P0 s) : Kept P0 (abortZero s) := by
  unfold abortZero
  try dsimp only
  repeat' (first | (with_reducible assumption) | (with_reducible apply wr_kept) | (with_reducible apply logSec_kept)
                  | (with_reducible apply setErr_kept) | (with_reducible apply updPsp_kept)
                  | (with_reducible apply reply_kept) | (split))

theorem openLevel_kept {P0 : List Instr} (s : State) (target tslot : Nat) (who : Reply) (hK : Kept P0 s) : Kept P0 (openLevel s target tslot who) := by
  unfold openLevel
  try dsimp only
  repeat' (first | (with_reducible assumption) | (with_reducible (intro _)) | (with_reducible apply reply_kept)
                  | (with_reducible apply setLevel_kept) | (with_reducible apply startZero_kept)
                  | (with_reducible apply Kept.ite))

end Sys2Proof.Machine
end

