-- ==== Sys2Proof/Laws/Kept/PowerOps.lean ====
section
/-!
SUPPORT. Every operation of Machine/PowerOps.lean keeps the invariant and the queue.
-/
namespace Sys2Proof.Machine

theorem evPower_kept {P0 : List Instr} (s : State) (kind unit value : Nat) (hK : Kept P0 s) : Kept P0 (evPower s kind unit value) := by
  unfold evPower
  try dsimp only
  repeat' (first | (with_reducible assumption) | (with_reducible apply raiseEvent_kept))

theorem evLimited_kept {P0 : List Instr} (s : State) (key kind unit value : Nat) (hK : Kept P0 s) : Kept P0 (evLimited s key kind unit value) := by
  unfold evLimited
  try dsimp only
  repeat' (first | (with_reducible assumption) | (with_reducible (intro _)) | (with_reducible apply updPow_kept)
                  | (with_reducible apply evPower_kept) | (with_reducible apply addSat_kept)
                  | (with_reducible apply Kept.ite))

theorem settleDemands_kept {P0 : List Instr} (s : State) (hK : Kept P0 s) : Kept P0 (settleDemands s) := by
  unfold settleDemands
  try dsimp only
  repeat' (first | (with_reducible assumption) | (with_reducible (intro _)) | (with_reducible apply wr_kept)
                  | (with_reducible apply updPow_kept) | (with_reducible apply Kept.foldl))

theorem sampleSens_kept {P0 : List Instr} (s : State) (cls i v : Nat) (hK : Kept P0 s) : Kept P0 (sampleSens s cls i v) := by
  unfold sampleSens
  try dsimp only
  repeat' (first | (with_reducible assumption) | (with_reducible apply updPow_kept))

theorem noteCool_kept {P0 : List Instr} (s : State) (hK : Kept P0 s) : Kept P0 (noteCool s) := by
  unfold noteCool
  try dsimp only
  repeat' (first | (with_reducible assumption) | (with_reducible (intro _)) | (with_reducible apply updPow_kept)
                  | (with_reducible apply Kept.foldl))

theorem sampleTemp_kept {P0 : List Instr} (s : State) (u : TempAt) (hK : Kept P0 s) : Kept P0 (sampleTemp s u) := by
  unfold sampleTemp
  try dsimp only
  repeat' (first | (with_reducible assumption) | (with_reducible apply noteCool_kept)
                  | (with_reducible apply sampleSens_kept) | (with_reducible apply raiseMax_kept)
                  | (with_reducible apply wr_kept) | (split))

theorem setTherm_kept {P0 : List Instr} (s : State) (d v : Nat) (hK : Kept P0 s) : Kept P0 (setTherm s d v) := by
  unfold setTherm
  try dsimp only
  repeat' (first | (with_reducible assumption) | (with_reducible (intro _)) | (with_reducible apply addWrap_kept)
                  | (with_reducible apply wr_kept) | (with_reducible apply updPow_kept)
                  | (with_reducible apply setErr_kept) | (with_reducible apply settleDemands_kept)
                  | (with_reducible apply Kept.ite))

theorem stepUp_kept {P0 : List Instr} (s : State) (d : Nat) (hK : Kept P0 s) : Kept P0 (stepUp s d) := by
  unfold stepUp
  try dsimp only
  repeat' (first | (with_reducible assumption) | (with_reducible (intro _)) | (with_reducible apply setTherm_kept)
                  | (with_reducible apply Kept.ite))

theorem enterState_kept {P0 : List Instr} (s : State) (st : Nat) (hK : Kept P0 s) : Kept P0 (enterState s st) := by
  unfold enterState
  try dsimp only
  repeat' (first | (with_reducible assumption) | (with_reducible apply evPower_kept) | (with_reducible apply setErr_kept)
                  | (with_reducible apply wr_kept))

theorem beginState_kept {P0 : List Instr} (s : State) (st cause : Nat) (cmd : Option (Nat × Nat)) (hK : Kept P0 s) : Kept P0 (beginState s st cause cmd) := by
  unfold beginState
  try dsimp only
  repeat' (first | (with_reducible assumption) | (with_reducible apply updPow_kept) | (with_reducible apply wr_kept))

theorem closeHigh_kept {P0 : List Instr} (s : State) (hK : Kept P0 s) : Kept P0 (closeHigh s) := by
  unfold closeHigh
  try dsimp only
  repeat' (first | (with_reducible assumption) | (with_reducible (intro _)) | (with_reducible apply closeDebug_kept)
                  | (with_reducible apply Kept.ite))

theorem startP3_kept {P0 : List Instr} (s : State) (cmd : Option (Nat × Nat)) (hK : Kept P0 s) : Kept P0 (startP3 s cmd) := by
  unfold startP3
  try dsimp only
  repeat' (first | (with_reducible assumption) | (with_reducible apply beginState_kept)
                  | (with_reducible apply closeLinks_kept) | (with_reducible apply stopAll_kept)
                  | (with_reducible apply closeHigh_kept))

theorem forceP3_kept {P0 : List Instr} (s : State) (cause : Nat) (hK : Kept P0 s) : Kept P0 (forceP3 s cause) := by
  unfold forceP3
  try dsimp only
  repeat' (first | (with_reducible assumption) | (with_reducible (intro _)) | (with_reducible apply cutTests_kept)
                  | (with_reducible apply closeLinks_kept) | (with_reducible apply stopAll_kept)
                  | (with_reducible apply abortZero_kept) | (with_reducible apply closeHigh_kept)
                  | (with_reducible apply updBoot_kept) | (with_reducible apply updPow_kept)
                  | (with_reducible apply beginState_kept) | (with_reducible apply Kept.ite))

theorem powerOff_kept {P0 : List Instr} (s : State) (hK : Kept P0 s) : Kept P0 (powerOff s) := by
  unfold powerOff
  dsimp only
  apply wr_kept
  refine Kept.foldl ?_ (fun s d h => wr1_kept _ _ _ _ _ h)
  have h : ∀ l : List Nat, Kept P0 (l.foldl (fun s p => setBlk s p stOFF) s) := fun l => Kept.foldl hK (fun s p h => setBlk_kept _ _ _ h)
  have h1 := h (List.map pgSEQ (List.range 256) ++ List.flatMap (fun d => [pgSTEWARD d, pgNOC d, pgBRIDGE d]) (List.range 4) ++
                  List.map pgSTK (List.range 32) ++ List.map pgCH (List.range 512) ++ List.map pgPORT (List.range 16))
  simp only [Kept.mk_eq]
  exact h1.view_nocores

theorem storeTraining_kept {P0 : List Instr} (s : State) (hK : Kept P0 s) : Kept P0 (storeTraining s) := by
  unfold storeTraining
  try dsimp only
  repeat' (first | (with_reducible assumption) | (with_reducible (intro _)) | (with_reducible apply updInnk_kept))

theorem hostDown_kept {P0 : List Instr} (s : State) (i : Nat) (hK : Kept P0 s) : Kept P0 (hostDown s i) := by
  unfold hostDown
  try dsimp only
  repeat' (first | (with_reducible assumption) | (with_reducible (intro _)) | (with_reducible apply raiseEvent_kept)
                  | (with_reducible apply setErr_kept) | (with_reducible apply wr_kept) | (with_reducible apply Kept.ite))

end Sys2Proof.Machine
end

