-- ==== Sys2Proof/Laws/Kept/InnkOps.lean ====
section
/-!
SUPPORT. Every operation of Machine/InnkOps.lean keeps the invariant and the queue.
-/
namespace Sys2Proof.Machine

theorem extendComp_kept {P0 : List Instr} (s : State) (c : Comp) (hK : Kept P0 s) : Kept P0 (extendComp s c) := by
  unfold extendComp
  try dsimp only
  repeat' (first | (with_reducible assumption) | (with_reducible apply extend_kept))

theorem trySlot_some {P0 : List Instr} {s : State} {k : Nat} {rolled : Bool} {t u : State} (e : trySlot s k rolled = (some t, u)) (hK : Kept P0 s) : Kept P0 t := by
  unfold trySlot at e
  split at e
  · simp at e
  · split at e
    · simp at e
    · simp only [Prod.mk.injEq, Option.some.injEq] at e
      rw [← e.1]
      refine updInnk_kept _ _ ?_ (fun _ hb => hb)
      apply logMgmt_kept
      repeat' first | apply wr_kept | exact extendComp_kept _ _ hK
theorem trySlot_none {P0 : List Instr} {s : State} {k : Nat} {rolled : Bool} {u : State} (e : trySlot s k rolled = (none, u)) (hK : Kept P0 s) : Kept P0 u := by
  unfold trySlot at e
  split at e
  · simp only [Prod.mk.injEq, true_and] at e
    rw [← e]; exact logSec_kept _ _ _ (setErr_kept _ _ _ hK)
  · split at e
    · simp only [Prod.mk.injEq, true_and] at e
      rw [← e]; exact hK
    · simp at e

theorem bootInnk_kept {P0 : List Instr} (s : State) (rolled : Bool) (hK : Kept P0 s) : Kept P0 (bootInnk s rolled) := by
  unfold bootInnk
  dsimp only
  split
  · rename_i e; exact trySlot_some e hK
  · rename_i e
    have h1 := trySlot_none e hK
    split
    · rename_i e2; exact trySlot_some e2 h1
    · rename_i e2; exact wr_kept _ _ _ _ (trySlot_none e2 h1)

theorem loadComp_kept {P0 : List Instr} (s : State) (c : Comp) (hK : Kept P0 s) : Kept P0 (loadComp s c) := by
  unfold loadComp
  try dsimp only
  repeat' (first | (with_reducible assumption) | (with_reducible (intro _)) | (with_reducible apply extendComp_kept)
                  | (with_reducible apply updInnk_kept) | (with_reducible apply Kept.ite))

theorem loadType_kept {P0 : List Instr} (s : State) (ty : Nat) (hK : Kept P0 s) : Kept P0 (loadType s ty) := by
  unfold loadType
  try dsimp only
  repeat' (first | (with_reducible assumption) | (with_reducible apply loadComp_kept) | (split))

theorem restartInnk_kept {P0 : List Instr} (s : State) (cause : Nat) (hK : Kept P0 s) : Kept P0 (restartInnk s cause) := by
  unfold restartInnk
  try dsimp only
  repeat' (first | (with_reducible assumption) | (with_reducible (intro _)) | (with_reducible apply wr_kept)
                  | (with_reducible apply addWrap_kept) | (with_reducible apply logMgmt_kept)
                  | (with_reducible apply setErr_kept) | (with_reducible apply wr1_kept)
                  | (with_reducible apply updHost_kept) | (with_reducible apply updInnk_kept)
                  | (with_reducible apply Kept.ite))

theorem flushLog_kept {P0 : List Instr} (s : State) (hK : Kept P0 s) : Kept P0 (flushLog s) := by
  unfold flushLog
  try dsimp only
  repeat' (first | (with_reducible assumption) | (with_reducible (intro _)) | (with_reducible apply updInnk_kept)
                  | (with_reducible exact buf_nil_le))

theorem stagePut_kept {P0 : List Instr} (s : State) (o : Nat) (bs : List Byte) (hK : Kept P0 s) : Kept P0 (stagePut s o bs) := by
  unfold stagePut
  try dsimp only
  repeat' (first | (with_reducible assumption) | (with_reducible (intro _)) | (with_reducible apply updInnk_kept)
                  | (with_reducible apply raiseMax_kept))

theorem updateFail_kept {P0 : List Instr} (s : State) (who : Reply) (detail : Nat) (hK : Kept P0 s) : Kept P0 (updateFail s who detail) := by
  unfold updateFail
  try dsimp only
  repeat' (first | (with_reducible assumption) | (with_reducible (intro _)) | (with_reducible apply wr_kept)
                  | (with_reducible apply logMgmt_kept) | (with_reducible apply setErr_kept)
                  | (with_reducible apply reply_kept) | (with_reducible apply updInnk_kept))

theorem voidResults_kept {P0 : List Instr} (s : State) (d : Nat) (hK : Kept P0 s) : Kept P0 (voidResults s d) := by
  unfold voidResults
  try dsimp only
  repeat' (first | (with_reducible assumption) | (with_reducible (intro _)) | (with_reducible apply setBist_kept)
                  | (with_reducible apply Kept.ite) | (with_reducible apply Kept.foldl))

theorem setPending_kept {P0 : List Instr} (s : State) (d ty : Nat) (on : Bool) (hK : Kept P0 s) : Kept P0 (setPending s d ty on) := by
  unfold setPending
  try dsimp only
  repeat' (first | (with_reducible assumption) | (with_reducible (intro _)) | (with_reducible apply updInnk_kept))

theorem applyDies_kept {P0 : List Instr} (s : State) (c : Comp) (hK : Kept P0 s) : Kept P0 (applyDies s c) := by
  unfold applyDies
  try dsimp only
  repeat' (first | (with_reducible assumption) | (with_reducible (intro _)) | (with_reducible apply setPending_kept)
                  | (with_reducible apply voidResults_kept) | (with_reducible apply loadComp_kept)
                  | (with_reducible apply Kept.ite) | (with_reducible apply Kept.foldl))

theorem applyComp_kept {P0 : List Instr} (s : State) (c : Comp) (hK : Kept P0 s) : Kept P0 (applyComp s c) := by
  unfold applyComp
  try dsimp only
  repeat' (first | (with_reducible assumption) | (with_reducible (intro _)) | (with_reducible apply applyDies_kept)
                  | (with_reducible apply loadComp_kept) | (with_reducible apply Kept.ite))

theorem applyBundle_kept {P0 : List Instr} (s : State) (len : Nat) (who : Reply) (hK : Kept P0 s) : Kept P0 (applyBundle s len who) := by
  unfold applyBundle
  try dsimp only
  repeat' (first | (with_reducible assumption) | (with_reducible (intro _)) | (with_reducible apply logMgmt_kept)
                  | (with_reducible apply updateFail_kept) | (with_reducible apply updInnk_kept)
                  | (with_reducible apply applyComp_kept) | (with_reducible apply wr_kept)
                  | (with_reducible apply restartInnk_kept) | (with_reducible apply Kept.foldl) | (split))

theorem setHealthyFw_kept {P0 : List Instr} (s : State) (hK : Kept P0 s) : Kept P0 (setHealthyFw s) := by
  unfold setHealthyFw
  try dsimp only
  repeat' (first | (with_reducible assumption) | (with_reducible (intro _)) | (with_reducible apply wr_kept)
                  | (with_reducible apply logSec_kept) | (with_reducible apply setErr_kept)
                  | (with_reducible apply logMgmt_kept) | (with_reducible apply reply_kept)
                  | (with_reducible apply updInnk_kept) | (with_reducible apply Kept.ite) | (split))

theorem rollBack_kept {P0 : List Instr} (s : State) (hK : Kept P0 s) : Kept P0 (rollBack s) := by
  unfold rollBack
  try dsimp only
  repeat' (first | (with_reducible assumption) | (with_reducible (intro _)) | (with_reducible apply wr_kept)
                  | (with_reducible apply restartInnk_kept) | (with_reducible apply logMgmt_kept)
                  | (with_reducible apply setErr_kept) | (with_reducible apply updateFail_kept)
                  | (with_reducible apply bootInnk_kept) | (with_reducible apply updInnk_kept)
                  | (with_reducible apply applyComp_kept) | (with_reducible apply Kept.ite)
                  | (with_reducible apply Kept.foldl) | (split))

end Sys2Proof.Machine
end

