-- ==== Sys2Proof/Laws/Kept/Power.lean ====
section
/-!
SUPPORT. Every operation of Machine/Power.lean keeps the invariant and the queue.
-/
namespace Sys2Proof.Machine

theorem execDividerSwitch_kept {P0 : List Instr} {t0 : State} (d : Fin 4) (s : State) (eN : execDividerSwitch d s = .next t0) (hK : Kept P0 s) : Kept P0 t0 := by
  unfold execDividerSwitch at eN
  try dsimp only at eN
  injection eN with eN
  subst eN
  repeat' (first | (with_reducible assumption) | (with_reducible (intro _)) | (with_reducible apply updPow_kept)
                  | (with_reducible apply wr_kept) | (with_reducible apply addWrap1_kept)
                  | (with_reducible apply evLimited_kept) | (with_reducible apply setErr_kept)
                  | (with_reducible apply Kept.ite))

theorem execRefLost_kept {P0 : List Instr} {t0 : State} (s : State) (eN : execRefLost s = .next t0) (hK : Kept P0 s) : Kept P0 t0 := by
  unfold execRefLost at eN
  try dsimp only at eN
  injection eN with eN
  subst eN
  repeat' (first | (with_reducible assumption) | (with_reducible (intro _)) | (with_reducible apply wr_kept)
                  | (with_reducible apply setErr_kept) | (with_reducible apply addWrap_kept)
                  | (with_reducible apply evPower_kept) | (with_reducible apply updPow_kept)
                  | (with_reducible apply Kept.ite))

theorem execRefLossP3_kept {P0 : List Instr} {t0 : State} (s : State) (eN : execRefLossP3 s = .next t0) (hK : Kept P0 s) : Kept P0 t0 := by
  unfold execRefLossP3 at eN
  try dsimp only at eN
  injection eN with eN
  subst eN
  repeat' (first | (with_reducible assumption) | (with_reducible (intro _)) | (with_reducible apply forceP3_kept)
                  | (with_reducible apply Kept.ite))

theorem execRefLossHostDown_kept {P0 : List Instr} {t0 : State} (s : State) (eN : execRefLossHostDown s = .next t0) (hK : Kept P0 s) : Kept P0 t0 := by
  unfold execRefLossHostDown at eN
  try dsimp only at eN
  injection eN with eN
  subst eN
  repeat' (first | (with_reducible assumption) | (with_reducible (intro _)) | (with_reducible apply hostDown_kept)
                  | (with_reducible apply wr_kept) | (with_reducible apply Kept.ite) | (with_reducible apply Kept.foldl))

theorem execRefBack_kept {P0 : List Instr} {t0 : State} (s : State) (eN : execRefBack s = .next t0) (hK : Kept P0 s) : Kept P0 t0 := by
  unfold execRefBack at eN
  try dsimp only at eN
  injection eN with eN
  subst eN
  repeat' (first | (with_reducible assumption) | (with_reducible (intro _)) | (with_reducible apply wr_kept)
                  | (with_reducible apply evPower_kept) | (with_reducible apply updPow_kept)
                  | (with_reducible apply Kept.ite))

theorem execEscCheck_kept {P0 : List Instr} {t0 : State} (d : Fin 4) (copy : BitVec 64) (s : State) (eN : execEscCheck d copy s = .next t0) (hK : Kept P0 s) : Kept P0 t0 := by
  unfold execEscCheck at eN
  try dsimp only at eN
  injection eN with eN
  subst eN
  repeat' (first | (with_reducible assumption) | (with_reducible (intro _)) | (with_reducible apply setErr_kept)
                  | (with_reducible apply addSat_kept) | (with_reducible apply Kept.ite))

theorem execPowerSample_kept {P0 : List Instr} {t0 : State} (input : BitVec 13) (d0 d1 d2 d3 : BitVec 12) (mons : List (Fin 72 × BitVec 16)) (s : State) (eN : execPowerSample input d0 d1 d2 d3 mons s = .next t0) (hK : Kept P0 s) : Kept P0 t0 := by
  unfold execPowerSample at eN
  try dsimp only at eN
  injection eN with eN
  subst eN
  repeat' (first | (with_reducible assumption) | (with_reducible (intro _)) | (with_reducible apply raiseMax_kept)
                  | (with_reducible apply wr_kept) | (with_reducible apply add64_kept)
                  | (with_reducible apply updPow_kept) | (with_reducible apply wr1_kept)
                  | (with_reducible apply sampleSens_kept) | (with_reducible apply Kept.ite)
                  | (with_reducible apply Kept.foldl))

theorem setCap_kept {P0 : List Instr} (s : State) (d v : Nat) (hK : Kept P0 s) : Kept P0 (setCap s d v) := by
  unfold setCap
  try dsimp only
  repeat' (first | (with_reducible assumption) | (with_reducible apply updPow_kept))

theorem capRules_kept {P0 : List Instr} (s : State) (hK : Kept P0 s) : Kept P0 (capRules s) := by
  unfold capRules
  try dsimp only
  repeat' (first | (with_reducible assumption) | (with_reducible (intro _)) | (with_reducible apply updPow_kept)
                  | (with_reducible apply setCap_kept) | (with_reducible apply Kept.ite)
                  | (with_reducible apply Kept.foldl) | (split))

theorem execCapLoopTick_kept {P0 : List Instr} {t0 : State} (s : State) (eN : execCapLoopTick s = .next t0) (hK : Kept P0 s) : Kept P0 t0 := by
  unfold execCapLoopTick at eN
  try dsimp only at eN
  injection eN with eN
  subst eN
  repeat' (first | (with_reducible assumption) | (with_reducible (intro _)) | (with_reducible apply finishCmd_kept)
                  | (with_reducible apply wr_kept) | (with_reducible apply settleDemands_kept)
                  | (with_reducible apply capRules_kept) | (with_reducible apply Kept.foldl))

theorem execCurrentDemand_kept {P0 : List Instr} {t0 : State} (d : Fin 4) (s : State) (eN : execCurrentDemand d s = .next t0) (hK : Kept P0 s) : Kept P0 t0 := by
  unfold execCurrentDemand at eN
  try dsimp only at eN
  injection eN with eN
  subst eN
  repeat' (first | (with_reducible assumption) | (with_reducible apply settleDemands_kept)
                  | (with_reducible apply updPow_kept))

theorem execCurrentDemandEnd_kept {P0 : List Instr} {t0 : State} (d : Fin 4) (s : State) (eN : execCurrentDemandEnd d s = .next t0) (hK : Kept P0 s) : Kept P0 t0 := by
  unfold execCurrentDemandEnd at eN
  try dsimp only at eN
  injection eN with eN
  subst eN
  repeat' (first | (with_reducible assumption) | (with_reducible (intro _)) | (with_reducible apply settleDemands_kept)
                  | (with_reducible apply updPow_kept) | (with_reducible apply Kept.ite))

theorem execThrotN_kept {P0 : List Instr} {t0 : State} (s : State) (eN : execThrotN s = .next t0) (hK : Kept P0 s) : Kept P0 t0 := by
  unfold execThrotN at eN
  try dsimp only at eN
  injection eN with eN
  subst eN
  repeat' (first | (with_reducible assumption) | (with_reducible (intro _)) | (with_reducible apply setErr_kept)
                  | (with_reducible apply wr_kept) | (with_reducible apply settleDemands_kept)
                  | (with_reducible apply evPower_kept) | (with_reducible apply updPow_kept)
                  | (with_reducible apply Kept.ite))

theorem execThrotNEnd_kept {P0 : List Instr} {t0 : State} (s : State) (eN : execThrotNEnd s = .next t0) (hK : Kept P0 s) : Kept P0 t0 := by
  unfold execThrotNEnd at eN
  try dsimp only at eN
  injection eN with eN
  subst eN
  repeat' (first | (with_reducible assumption) | (with_reducible apply settleDemands_kept)
                  | (with_reducible apply updPow_kept) | (with_reducible apply wr_kept))

theorem execThrotStuck_kept {P0 : List Instr} {t0 : State} (s : State) (eN : execThrotStuck s = .next t0) (hK : Kept P0 s) : Kept P0 t0 := by
  unfold execThrotStuck at eN
  try dsimp only at eN
  injection eN with eN
  subst eN
  repeat' (first | (with_reducible assumption) | (with_reducible (intro _)) | (with_reducible apply evPower_kept)
                  | (with_reducible apply wr_kept) | (with_reducible apply Kept.ite))

theorem execLeak_kept {P0 : List Instr} {t0 : State} (s : State) (eN : execLeak s = .next t0) (hK : Kept P0 s) : Kept P0 t0 := by
  unfold execLeak at eN
  try dsimp only at eN
  injection eN with eN
  subst eN
  repeat' (first | (with_reducible assumption) | (with_reducible (intro _)) | (with_reducible apply logRec_kept)
                  | (with_reducible apply wr_kept) | (with_reducible apply forceP3_kept)
                  | (with_reducible apply evPower_kept) | (with_reducible apply setErr_kept)
                  | (with_reducible apply updPow_kept) | (with_reducible apply Kept.ite))

theorem clearLeak_kept {P0 : List Instr} (s : State) (high : Bool) (hK : Kept P0 s) : Kept P0 (clearLeak s high) := by
  unfold clearLeak
  try dsimp only
  repeat' (first | (with_reducible assumption) | (with_reducible (intro _)) | (with_reducible apply updPow_kept)
                  | (with_reducible apply wr_kept) | (with_reducible apply setErr_kept) | (with_reducible apply Kept.ite))

theorem execLeakClr_kept {P0 : List Instr} {t0 : State} (high : Bool) (s : State) (eN : execLeakClr high s = .next t0) (hK : Kept P0 s) : Kept P0 t0 := by
  unfold execLeakClr at eN
  try dsimp only at eN
  injection eN with eN
  subst eN
  repeat' (first | (with_reducible assumption) | (with_reducible apply clearLeak_kept))

theorem execTempHot_kept {P0 : List Instr} {t0 : State} (u : TempAt) (s : State) (eN : execTempHot u s = .next t0) (hK : Kept P0 s) : Kept P0 t0 := by
  unfold execTempHot at eN
  try dsimp only at eN
  injection eN with eN
  subst eN
  repeat' (first | (with_reducible assumption) | (with_reducible (intro _)) | (with_reducible apply sampleTemp_kept)
                  | (with_reducible apply stepUp_kept) | (with_reducible apply evPower_kept)
                  | (with_reducible apply Kept.ite) | (with_reducible apply Kept.foldl))

theorem execThermalStep_kept {P0 : List Instr} {t0 : State} (d : Fin 4) (s : State) (eN : execThermalStep d s = .next t0) (hK : Kept P0 s) : Kept P0 t0 := by
  unfold execThermalStep at eN
  try dsimp only at eN
  injection eN with eN
  subst eN
  repeat' (first | (with_reducible assumption) | (with_reducible (intro _)) | (with_reducible apply stepUp_kept)
                  | (with_reducible apply updPow_kept) | (with_reducible apply setTherm_kept)
                  | (with_reducible apply Kept.ite))

theorem execTrip_kept {P0 : List Instr} {t0 : State} (u : TempAt) (s : State) (eN : execTrip u s = .next t0) (hK : Kept P0 s) : Kept P0 t0 := by
  unfold execTrip at eN
  try dsimp only at eN
  injection eN with eN
  subst eN
  repeat' (first | (with_reducible assumption) | (with_reducible (intro _)) | (with_reducible apply sampleTemp_kept)
                  | (with_reducible apply wr_kept) | (with_reducible apply updPow_kept)
                  | (with_reducible apply setErr_kept) | (with_reducible apply forceP3_kept)
                  | (with_reducible apply evPower_kept) | (with_reducible apply Kept.ite))

theorem sampleEngine_kept {P0 : List Instr} (s : State) (e : Nat) (temp : BitVec 8) (hK : Kept P0 s) : Kept P0 (sampleEngine s e temp) := by
  unfold sampleEngine
  try dsimp only
  repeat' (first | (with_reducible assumption) | (with_reducible (intro _)) | (with_reducible apply sampleSens_kept)
                  | (with_reducible apply raiseMax_kept) | (with_reducible apply wr_kept)
                  | (with_reducible apply Kept.ite))

theorem execEngineHot_kept {P0 : List Instr} {t0 : State} (e : Fin 17) (temp : BitVec 8) (s : State) (eN : execEngineHot e temp s = .next t0) (hK : Kept P0 s) : Kept P0 t0 := by
  unfold execEngineHot at eN
  try dsimp only at eN
  injection eN with eN
  subst eN
  repeat' (first | (with_reducible assumption) | (with_reducible (intro _)) | (with_reducible apply sampleEngine_kept)
                  | (with_reducible apply evPower_kept) | (with_reducible apply setErr_kept)
                  | (with_reducible apply closeDone_kept) | (with_reducible apply rerouteQueued_kept)
                  | (with_reducible apply updLk_kept) | (with_reducible apply setLinkState_kept)
                  | (with_reducible apply updFab_kept) | (with_reducible apply Kept.ite)
                  | (with_reducible apply Kept.foldl))

theorem execEngineCool_kept {P0 : List Instr} {t0 : State} (e : Fin 17) (temp : BitVec 8) (s : State) (eN : execEngineCool e temp s = .next t0) (hK : Kept P0 s) : Kept P0 t0 := by
  unfold execEngineCool at eN
  try dsimp only at eN
  injection eN with eN
  subst eN
  repeat' (first | (with_reducible assumption) | (with_reducible (intro _)) | (with_reducible apply sampleEngine_kept)
                  | (with_reducible apply updFab_kept) | (with_reducible apply beginTraining_kept)
                  | (with_reducible apply Kept.ite) | (with_reducible apply Kept.foldl))

theorem execCoolantHot_kept {P0 : List Instr} {t0 : State} (inlet : BitVec 8) (s : State) (eN : execCoolantHot inlet s = .next t0) (hK : Kept P0 s) : Kept P0 t0 := by
  unfold execCoolantHot at eN
  try dsimp only at eN
  injection eN with eN
  subst eN
  repeat' (first | (with_reducible assumption) | (with_reducible (intro _)) | (with_reducible apply wr_kept)
                  | (with_reducible apply sampleSens_kept) | (with_reducible apply evPower_kept)
                  | (with_reducible apply setErr_kept) | (with_reducible apply Kept.ite))

theorem execFlowLow_kept {P0 : List Instr} {t0 : State} (inlet outlet : BitVec 8) (s : State) (eN : execFlowLow inlet outlet s = .next t0) (hK : Kept P0 s) : Kept P0 t0 := by
  unfold execFlowLow at eN
  try dsimp only at eN
  injection eN with eN
  subst eN
  repeat' (first | (with_reducible assumption) | (with_reducible (intro _)) | (with_reducible apply sampleSens_kept)
                  | (with_reducible apply wr_kept) | (with_reducible apply evPower_kept)
                  | (with_reducible apply setErr_kept) | (with_reducible apply Kept.ite))

theorem execInputRange_kept {P0 : List Instr} {t0 : State} (v : BitVec 16) (s : State) (eN : execInputRange v s = .next t0) (hK : Kept P0 s) : Kept P0 t0 := by
  unfold execInputRange at eN
  try dsimp only at eN
  injection eN with eN
  subst eN
  repeat' (first | (with_reducible assumption) | (with_reducible (intro _)) | (with_reducible apply evLimited_kept)
                  | (with_reducible apply Kept.ite))

theorem execP3Entry_kept {P0 : List Instr} {t0 : State} (s : State) (eN : execP3Entry s = .next t0) (hK : Kept P0 s) : Kept P0 t0 := by
  unfold execP3Entry at eN
  try dsimp only at eN
  injection eN with eN
  subst eN
  repeat' (first | (with_reducible assumption) | (with_reducible (intro _)) | (with_reducible apply wr_kept)
                  | (with_reducible apply storeTraining_kept) | (with_reducible apply finishOpt_kept)
                  | (with_reducible apply enterState_kept) | (with_reducible apply powerOff_kept)
                  | (with_reducible apply updPow_kept) | (with_reducible apply updBoot_kept)
                  | (with_reducible apply beginState_kept) | (with_reducible apply Kept.ite)
                  | (with_reducible apply Kept.foldl))

theorem parkCore_kept {P0 : List Instr} (s : State) (n : Nat) (hK : Kept P0 s) : Kept P0 (parkCore s n) := by
  unfold parkCore
  try dsimp only
  repeat' (first | (with_reducible assumption) | (with_reducible (intro _))
                  | (with_reducible (refine updCore_kept ?_ _ ?_)) | (with_reducible apply wr1_kept)
                  | (with_reducible apply setBlk_kept) | (with_reducible exact Core.reset_ok)
                  | (simp only [Core.mk_eq]; with_reducible apply Core.ok.tabs))

theorem execCorePark_kept {P0 : List Instr} {t0 : State} (c : Fin 256) (s : State) (eN : execCorePark c s = .next t0) (hK : Kept P0 s) : Kept P0 t0 := by
  unfold execCorePark at eN
  try dsimp only at eN
  injection eN with eN
  subst eN
  repeat' (first | (with_reducible assumption) | (with_reducible (intro _)) | (with_reducible apply startTest_kept)
                  | (with_reducible apply parkCore_kept) | (with_reducible apply Kept.ite))

end Sys2Proof.Machine
end

