-- ==== Sys2Proof/Laws/Kept/BringUp.lean ====
section
/-!
SUPPORT. Every operation of Machine/BringUp.lean keeps the invariant and the queue.
-/
namespace Sys2Proof.Machine

theorem heldRegs_wf (s : State) : smWf regDefault (heldRegs s) = true := by
  unfold heldRegs
  exact foldl_keeps (fun t : State => smWf regDefault t.regs = true) _ _ _ rfl (fun t x h => smPut_wf _ _ _ _ h)

theorem moduleReset_kept {P0 : List Instr} (s : State) (hK : Kept P0 s) : Kept P0 (moduleReset s) := by
  unfold moduleReset
  have h1 := heldRegs_wf s
  generalize heldRegs s = r at h1
  dsimp only
  simp only [Kept.mk_eq]
  refine ⟨hK.1, ⟨h1, rfl, ?_, rfl, ?_, rfl, rfl, hK.2.mem, Nat.zero_le _, Nat.zero_le _⟩⟩
  · intro e h; cases h
  · intro e h; cases h

theorem passportReset_kept {P0 : List Instr} (s : State) (hK : Kept P0 s) : Kept P0 (passportReset s) := by
  unfold passportReset
  try dsimp only
  repeat' (first | (with_reducible assumption) | (with_reducible (intro _)) | (with_reducible apply drawFree_kept)
                  | (with_reducible apply wr1_kept) | (with_reducible apply extend_kept) | (with_reducible apply wr_kept)
                  | (with_reducible apply logSec_kept) | (with_reducible apply setErr_kept)
                  | (with_reducible apply Kept.ite) | (with_reducible apply Kept.foldl))

theorem bringUpUnit_kept {P0 : List Instr} (s : State) (u : Nat) (hK : Kept P0 s) : Kept P0 (bringUpUnit s u) := by
  unfold bringUpUnit
  try dsimp only
  repeat' (first | (with_reducible assumption) | (with_reducible (intro _)) | (with_reducible apply updBoot_kept)
                  | (with_reducible apply startTest_kept) | (with_reducible apply setBlk_kept)
                  | (with_reducible apply consumeResult_kept) | (with_reducible apply Kept.ite)
                  | (with_reducible apply Kept.foldl))

theorem powerDies_kept {P0 : List Instr} (s : State) (hK : Kept P0 s) : Kept P0 (powerDies s) := by
  unfold powerDies
  try dsimp only
  repeat' (first | (with_reducible assumption) | (with_reducible (intro _)) | (with_reducible apply wr_kept)
                  | (with_reducible apply loadType_kept) | (with_reducible apply setHealthy_kept)
                  | (with_reducible (refine resetPage_kept ?_ ..)) | (with_reducible apply setBlk_kept)
                  | (with_reducible apply bringUpUnit_kept) | (with_reducible apply Kept.foldl))

theorem tryStart_kept {P0 : List Instr} (s : State) (hK : Kept P0 s) : Kept P0 (tryStart s) := by
  unfold tryStart
  try dsimp only
  repeat' (first | (with_reducible assumption) | (with_reducible (intro _)) | (with_reducible apply wr_kept)
                  | (with_reducible apply updBoot_kept) | (with_reducible apply setErr_kept)
                  | (with_reducible apply Kept.ite))

theorem execPowerUp_kept {P0 : List Instr} {t0 : State} (s : State) (eN : execPowerUp s = .next t0) (hK : Kept P0 s) : Kept P0 t0 := by
  unfold execPowerUp at eN
  try dsimp only at eN
  injection eN with eN
  subst eN
  repeat' (first | (with_reducible assumption) | (with_reducible (intro _)) | (with_reducible apply wr_kept)
                  | (with_reducible apply bootInnk_kept) | (with_reducible apply passportReset_kept)
                  | (with_reducible apply bringUpUnit_kept) | (with_reducible apply setBlk_kept)
                  | (with_reducible apply powerDies_kept) | (with_reducible apply loadType_kept)
                  | (with_reducible apply updBoot_kept) | (with_reducible apply Kept.ite)
                  | (with_reducible apply Kept.foldl) | (simp only [Kept.mk_eq]; with_reducible apply Kept.view))

theorem execBoot_kept {P0 : List Instr} {t0 : State} (s : State) (eN : execBoot s = .next t0) (hK : Kept P0 s) : Kept P0 t0 := by
  unfold execBoot at eN
  try dsimp only at eN
  injection eN with eN
  subst eN
  repeat' (first | (with_reducible assumption) | (with_reducible (intro _)) | (with_reducible apply bootInnk_kept)
                  | (with_reducible apply Kept.ite))

theorem execDomainReady_kept {P0 : List Instr} {t0 : State} (d : Fin 4) (s : State) (eN : execDomainReady d s = .next t0) (hK : Kept P0 s) : Kept P0 t0 := by
  unfold execDomainReady at eN
  try dsimp only at eN
  injection eN with eN
  subst eN
  repeat' (first | (with_reducible assumption) | (with_reducible (intro _)) | (with_reducible apply storeTraining_kept)
                  | (with_reducible apply rebuildDomain_kept) | (with_reducible apply wr1_kept)
                  | (with_reducible apply tryStart_kept) | (with_reducible apply Kept.ite)
                  | (with_reducible apply Kept.foldl))

theorem execCoreBringUp_kept {P0 : List Instr} {t0 : State} (c : Fin 256) (s : State) (eN : execCoreBringUp c s = .next t0) (hK : Kept P0 s) : Kept P0 t0 := by
  unfold execCoreBringUp at eN
  try dsimp only at eN
  injection eN with eN
  subst eN
  repeat' (first | (with_reducible assumption) | (with_reducible (intro _)) | (with_reducible apply tryStart_kept)
                  | (with_reducible apply bringUpCore_kept) | (with_reducible apply Kept.ite))

theorem execP3Exit_kept {P0 : List Instr} {t0 : State} (s : State) (eN : execP3Exit s = .next t0) (hK : Kept P0 s) : Kept P0 t0 := by
  unfold execP3Exit at eN
  try dsimp only at eN
  injection eN with eN
  subst eN
  repeat' (first | (with_reducible assumption) | (with_reducible (intro _)) | (with_reducible apply wr_kept)
                  | (with_reducible apply updBoot_kept) | (with_reducible apply powerDies_kept)
                  | (with_reducible apply enterState_kept) | (with_reducible apply setBlk_kept)
                  | (with_reducible apply trainPort_kept) | (with_reducible apply updPow_kept)
                  | (with_reducible apply finishOpt_kept) | (with_reducible apply Kept.ite)
                  | (with_reducible apply Kept.foldl))

theorem execResetN_kept {P0 : List Instr} {t0 : State} (s : State) (eN : execResetN s = .next t0) (hK : Kept P0 s) : Kept P0 t0 := by
  unfold execResetN at eN
  try dsimp only at eN
  injection eN with eN
  subst eN
  repeat' (first | (with_reducible assumption) | (with_reducible (intro _)) | (with_reducible apply moduleReset_kept)
                  | (with_reducible apply logMgmt_kept) | (with_reducible apply Kept.ite))

theorem execResetIgnored_kept {P0 : List Instr} {t0 : State} (us : BitVec 8) (s : State) (eN : execResetIgnored us s = .next t0) (hK : Kept P0 s) : Kept P0 t0 := by
  unfold execResetIgnored at eN
  try dsimp only at eN
  injection eN with eN
  subst eN
  repeat' (first | (with_reducible assumption) | (with_reducible (intro _)) | (with_reducible apply logMgmt_kept)
                  | (with_reducible apply Kept.ite))

theorem execSelftestStart_kept {P0 : List Instr} {t0 : State} (u : Fin 262) (s : State) (eN : execSelftestStart u s = .next t0) (hK : Kept P0 s) : Kept P0 t0 := by
  unfold execSelftestStart at eN
  try dsimp only at eN
  injection eN with eN
  subst eN
  repeat' (first | (with_reducible assumption) | (with_reducible (intro _)) | (with_reducible apply startTest_kept)
                  | (with_reducible apply wr_kept) | (with_reducible apply Kept.ite))

theorem endTest_kept {P0 : List Instr} (s : State) (u : Nat) (b : Bist) (hK : Kept P0 s) : Kept P0 (endTest s u b) := by
  unfold endTest
  try dsimp only
  repeat' (first | (with_reducible assumption) | (with_reducible (intro _)) | (with_reducible apply setBist_kept)
                  | (with_reducible apply eventSelftest_kept) | (with_reducible apply updBoot_kept)
                  | (with_reducible apply markCoreFailed_kept) | (with_reducible apply finishCore_kept)
                  | (with_reducible apply resetCore_kept) | (with_reducible apply consumeResult_kept)
                  | (with_reducible apply parkCore_kept) | (with_reducible (refine updCore_kept ?_ _ ?_))
                  | (with_reducible apply setBlk_kept) | (with_reducible apply Kept.ite)
                  | (with_reducible apply Kept.foldl) | (with_reducible exact Core.reset_ok))

theorem softRepair_buf (fs : List TestFail) : ∀ i : Innk, (softRepair fs i).2.buf.length = i.buf.length := by
  induction fs with
  | nil => intro i; rfl
  | cons f fs ih =>
    intro i
    unfold softRepair
    split
    · exact ih _
    · rfl
theorem execSelftestDone_kept {P0 : List Instr} {t0 : State} (u : Fin 262) (f : TestFinding) (s : State) (eN : execSelftestDone u f s = .next t0) (hK : Kept P0 s) : Kept P0 t0 := by
  have e := eN
  clear eN
  unfold execSelftestDone at e
  dsimp only at e
  injection e with e
  subst e
  apply Kept.ite <;> intro _
  · apply tryStart_kept
    apply endTest_kept
    simp only [Kept.mk_eq]
    apply hK.view_buf
    have hb : ∀ (c : Prop) [Decidable c] (a b : Innk), a.buf.length ≤ 512 → b.buf.length ≤ 512 → (if c then a else b).buf.length ≤ 512 := by
      intro c _ a b ha hb
      split <;> assumption
    apply hb
    · exact le_of_eq_of_le (softRepair_buf _ _) hK.2.buf
    · exact hK.2.buf
  · exact hK

theorem execSelftestBudget_kept {P0 : List Instr} {t0 : State} (u : Fin 262) (s : State) (eN : execSelftestBudget u s = .next t0) (hK : Kept P0 s) : Kept P0 t0 := by
  unfold execSelftestBudget at eN
  try dsimp only at eN
  injection eN with eN
  subst eN
  repeat' (first | (with_reducible assumption) | (with_reducible (intro _)) | (with_reducible apply tryStart_kept)
                  | (with_reducible apply endTest_kept) | (with_reducible apply Kept.ite))

theorem execFuseBurn_kept {P0 : List Instr} {t0 : State} (page : Fin 16384) (element : BitVec 8) (ok : Bool) (s : State) (eN : execFuseBurn page element ok s = .next t0) (hK : Kept P0 s) : Kept P0 t0 := by
  unfold execFuseBurn at eN
  try dsimp only at eN
  injection eN with eN
  subst eN
  repeat' (first | (with_reducible assumption) | (with_reducible (intro _)) | (with_reducible apply updInnk_kept)
                  | (with_reducible apply logMgmt_kept) | (with_reducible apply Kept.ite) | (split))

theorem execComponentLoad_kept {P0 : List Instr} {t0 : State} (t : Fin 6) (s : State) (eN : execComponentLoad t s = .next t0) (hK : Kept P0 s) : Kept P0 t0 := by
  unfold execComponentLoad at eN
  try dsimp only at eN
  injection eN with eN
  subst eN
  repeat' (first | (with_reducible assumption) | (with_reducible (intro _)) | (with_reducible apply loadType_kept)
                  | (with_reducible apply Kept.ite))

theorem execPendingComponentLoad_kept {P0 : List Instr} {t0 : State} (d : Fin 4) (s : State) (eN : execPendingComponentLoad d s = .next t0) (hK : Kept P0 s) : Kept P0 t0 := by
  unfold execPendingComponentLoad at eN
  try dsimp only at eN
  injection eN with eN
  subst eN
  repeat' (first | (with_reducible assumption) | (with_reducible (intro _)) | (with_reducible apply logMgmt_kept)
                  | (with_reducible apply loadType_kept) | (with_reducible apply voidResults_kept)
                  | (with_reducible apply setPending_kept) | (with_reducible apply Kept.ite)
                  | (with_reducible apply Kept.foldl))

end Sys2Proof.Machine
end

