-- ==== Sys2Proof/Laws/Kept/Optical.lean ====
section
/-!
SUPPORT. Every operation of Machine/Optical.lean keeps the invariant and the queue.
-/
namespace Sys2Proof.Machine

theorem setSpare_kept {P0 : List Instr} (s : State) (p : Nat) (v : SpareSw) (hK : Kept P0 s) : Kept P0 (setSpare s p v) := by
  unfold setSpare
  try dsimp only
  repeat' (first | (with_reducible assumption) | (with_reducible apply wr_kept) | (with_reducible apply updFab_kept))

theorem sendSpareReq_kept {P0 : List Instr} (s : State) (p : Nat) (hK : Kept P0 s) : Kept P0 (sendSpareReq s p) := by
  unfold sendSpareReq
  try dsimp only
  repeat' (first | (with_reducible assumption) | (with_reducible (intro _)) | (with_reducible apply setSpare_kept)
                  | (with_reducible apply sendCtrl_kept) | (with_reducible apply Kept.ite) | (split))

theorem askSpare_kept {P0 : List Instr} (s : State) (l lane : Nat) (hK : Kept P0 s) : Kept P0 (askSpare s l lane) := by
  unfold askSpare
  try dsimp only
  repeat' (first | (with_reducible assumption) | (with_reducible (intro _)) | (with_reducible apply sendSpareReq_kept)
                  | (with_reducible apply setSpare_kept) | (with_reducible apply Kept.ite) | (split))

theorem dropSwitch_kept {P0 : List Instr} (s : State) (l : Nat) (hK : Kept P0 s) : Kept P0 (dropSwitch s l) := by
  unfold dropSwitch
  try dsimp only
  repeat' (first | (with_reducible assumption) | (with_reducible apply setSpare_kept))

theorem restartSwitch_kept {P0 : List Instr} (s : State) (p : Nat) (hK : Kept P0 s) : Kept P0 (restartSwitch s p) := by
  unfold restartSwitch
  try dsimp only
  repeat' (first | (with_reducible assumption) | (with_reducible apply sendSpareReq_kept)
                  | (with_reducible apply setSpare_kept))

theorem installMap_kept {P0 : List Instr} (s : State) (l : Nat) (m : List Nat) (fibre : Nat) (hK : Kept P0 s) : Kept P0 (installMap s l m fibre) := by
  unfold installMap
  try dsimp only
  repeat' (first | (with_reducible assumption) | (with_reducible (intro _)) | (with_reducible apply updLk_kept)
                  | (with_reducible apply setErr_kept) | (with_reducible apply wr_kept)
                  | (with_reducible apply setLaneState_kept) | (with_reducible apply setSpare_kept)
                  | (with_reducible apply setSpareCount_kept) | (with_reducible apply setLanes_kept)
                  | (with_reducible apply linkDown_kept) | (with_reducible apply sendSpareReq_kept)
                  | (with_reducible apply Kept.ite) | (split))

theorem trainFail_kept {P0 : List Instr} (s : State) (l state cause : Nat) (hK : Kept P0 s) : Kept P0 (trainFail s l state cause) := by
  unfold trainFail
  try dsimp only
  repeat' (first | (with_reducible assumption) | (with_reducible (intro _)) | (with_reducible apply setLinkState_kept)
                  | (with_reducible apply updLk_kept) | (with_reducible apply eventLink_kept)
                  | (with_reducible apply setErr_kept) | (with_reducible apply wr1_kept)
                  | (with_reducible apply addWrap1_kept) | (with_reducible apply Kept.ite))

theorem qualifyLanes_kept {P0 : List Instr} (s : State) (l : Nat) (qual : BitVec 17) (hK : Kept P0 s) : Kept P0 (qualifyLanes s l qual) := by
  unfold qualifyLanes
  try dsimp only
  repeat' (first | (with_reducible assumption) | (with_reducible (intro _)) | (with_reducible apply wr_kept)
                  | (with_reducible apply wr1_kept) | (with_reducible apply setLaneState_kept)
                  | (with_reducible apply updLk_kept) | (with_reducible apply setErr_kept)
                  | (with_reducible apply Kept.ite) | (with_reducible apply Kept.foldl) | (split))

theorem execLinkTraining_kept {P0 : List Instr} {t0 : State} (l : Fin 64) (peer : BitVec 20) (port : Fin 16) (link : Fin 4) (split : BitVec 2) (inPlace : Bool) (qual txLanes : BitVec 17) (txSpareLane : Fin 16) (txFibre : Fin 8) (loop_ : BitVec 12) (s : State) (eN : execLinkTraining l peer port link split inPlace qual txLanes txSpareLane txFibre loop_ s = .next t0) (hK : Kept P0 s) : Kept P0 t0 := by
  unfold execLinkTraining at eN
  try dsimp only at eN
  injection eN with eN
  subst eN
  repeat' (first | (with_reducible assumption) | (with_reducible (intro _)) | (with_reducible apply wr1_kept)
                  | (with_reducible apply trainFail_kept) | (with_reducible apply qualifyLanes_kept)
                  | (with_reducible apply updLk_kept) | (with_reducible apply wr_kept)
                  | (with_reducible apply setLanes_kept) | (with_reducible apply setLinkState_kept)
                  | (with_reducible apply setSpareCount_kept) | (with_reducible apply eventLink_kept)
                  | (with_reducible apply setErr_kept) | (with_reducible apply Kept.ite))

theorem mapDue_kept {P0 : List Instr} (t : State) (n : Nat) (v : Link) (hK : Kept P0 t) : Kept P0 (mapDue t n v) := by
  unfold mapDue
  try dsimp only
  repeat' (first | (with_reducible assumption) | (with_reducible (intro _)) | (with_reducible apply installMap_kept)
                  | (with_reducible apply Kept.ite) | (split))

theorem execFlitReceive_kept {P0 : List Instr} {t0 : State} (l : Fin 64) (flit : List Byte) (decoded : Bool) (s : State) (eN : execFlitReceive l flit decoded s = .next t0) (hK : Kept P0 s) : Kept P0 t0 := by
  unfold execFlitReceive at eN
  injection eN with e
  subst e
  apply Kept.ite <;> intro _
  · exact hK
  apply Kept.ite <;> intro _
  · exact updLk_kept _ _ _ hK
  have h0 := updLk_kept s l.val (fun v => { applyAck v (natField (bytesToNat (flit.take 12)) 14 12) with goodAt := s.esc + 1 }) hK
  have h1 : Kept P0 (if (bytesToNat (flit.take 12)).testBit 26 then addSat1 (updLk s l.val (fun v => { applyAck v (natField (bytesToNat (flit.take 12)) 14 12) with goodAt := s.esc + 1 })) (linkPg l.val) F.FAB_PORT_RETRY.NAKS (l.val % 4) 1 else (updLk s l.val (fun v => { applyAck v (natField (bytesToNat (flit.take 12)) 14 12) with goodAt := s.esc + 1 }))) :=
    Kept.ite (fun _ => addSat1_kept _ _ _ _ _ h0) (fun _ => h0)
  dsimp only
  apply closeDone_kept
  apply Kept.ite <;> intro _
  · apply Kept.ite <;> intro _
    · exact mapDue_kept _ _ _ (setLk_kept _ _ _ h1)
    · apply Kept.ite <;> intro _
      · exact h1
      · exact updLk_kept _ _ _ h1
  · exact h1

theorem takeCtrl_kept {P0 : List Instr} {s : State} {l code : Nat} {r0 : _} {t0 : State} (e : takeCtrl s l code = some (r0, t0)) (hK : Kept P0 s) : Kept P0 t0 := by
  unfold takeCtrl at e
  split at e
  · dsimp only at e
    split at e
    · simp only [Option.some.injEq, Prod.mk.injEq] at e
      rw [← e.2]; exact updLk_kept _ _ _ hK
    · cases e
  · cases e

theorem execLaneWindow_kept {P0 : List Instr} {t0 : State} (p : Fin 16) (i : Fin 17) (csym ucw : BitVec 32) (s : State) (eN : execLaneWindow p i csym ucw s = .next t0) (hK : Kept P0 s) : Kept P0 t0 := by
  unfold execLaneWindow at eN
  try dsimp only at eN
  injection eN with eN
  subst eN
  repeat' (first | (with_reducible assumption) | (with_reducible (intro _)) | (with_reducible apply updFab_kept)
                  | (with_reducible apply addSat1_kept) | (with_reducible apply wr1_kept)
                  | (with_reducible apply setLaneState_kept) | (with_reducible apply askSpare_kept)
                  | (with_reducible apply Kept.ite))

theorem execLaneFailed_kept {P0 : List Instr} {t0 : State} (p : Fin 16) (i : Fin 17) (why : Fin 3) (s : State) (eN : execLaneFailed p i why s = .next t0) (hK : Kept P0 s) : Kept P0 t0 := by
  unfold execLaneFailed at eN
  try dsimp only at eN
  injection eN with eN
  subst eN
  repeat' (first | (with_reducible assumption) | (with_reducible (intro _)) | (with_reducible apply setLaneState_kept)
                  | (with_reducible apply wr1_kept) | (with_reducible apply sendCtrl_kept)
                  | (with_reducible apply linkDown_kept) | (with_reducible apply askSpare_kept)
                  | (with_reducible apply Kept.ite))

theorem execLaneOut_kept {P0 : List Instr} {t0 : State} (l : Fin 64) (s : State) (eN : execLaneOut l s = .next t0) (hK : Kept P0 s) : Kept P0 t0 := by
  unfold execLaneOut at eN
  try dsimp only at eN
  injection eN with eN
  subst eN
  repeat' (first | (with_reducible assumption) | (with_reducible (intro _))
                  | (with_reducible (apply takeCtrl_kept (by assumption))) | (with_reducible apply updLk_kept)
                  | (with_reducible apply wr_kept) | (with_reducible apply setSpareCount_kept)
                  | (with_reducible apply setLanes_kept) | (with_reducible apply setErr_kept)
                  | (with_reducible apply linkDown_kept) | (with_reducible apply sendCtrl_kept)
                  | (with_reducible apply Kept.ite) | (split))

theorem execSpareReq_kept {P0 : List Instr} {t0 : State} (l : Fin 64) (s : State) (eN : execSpareReq l s = .next t0) (hK : Kept P0 s) : Kept P0 t0 := by
  unfold execSpareReq at eN
  try dsimp only at eN
  injection eN with eN
  subst eN
  repeat' (first | (with_reducible assumption) | (with_reducible (intro _))
                  | (with_reducible (apply takeCtrl_kept (by assumption))) | (with_reducible apply setSpare_kept)
                  | (with_reducible apply Kept.ite) | (split))

theorem execSpareQualified_kept {P0 : List Instr} {t0 : State} (p : Fin 16) (s : State) (eN : execSpareQualified p s = .next t0) (hK : Kept P0 s) : Kept P0 t0 := by
  unfold execSpareQualified at eN
  try dsimp only at eN
  injection eN with eN
  subst eN
  repeat' (first | (with_reducible assumption) | (with_reducible (intro _)) | (with_reducible apply sendCtrl_kept)
                  | (with_reducible apply wr1_kept) | (with_reducible apply Kept.ite) | (split))

theorem execSpareReady_kept {P0 : List Instr} {t0 : State} (l : Fin 64) (s : State) (eN : execSpareReady l s = .next t0) (hK : Kept P0 s) : Kept P0 t0 := by
  unfold execSpareReady at eN
  try dsimp only at eN
  injection eN with eN
  subst eN
  repeat' (first | (with_reducible assumption) | (with_reducible (intro _))
                  | (with_reducible (apply takeCtrl_kept (by assumption))) | (with_reducible apply updLk_kept)
                  | (with_reducible apply wr_kept) | (with_reducible apply setErr_kept)
                  | (with_reducible apply setSpare_kept) | (with_reducible apply setSpareCount_kept)
                  | (with_reducible apply setLanes_kept) | (with_reducible apply sendCtrl_kept)
                  | (with_reducible apply Kept.ite) | (split))

theorem execMap_kept {P0 : List Instr} {t0 : State} (l : Fin 64) (s : State) (eN : execMap l s = .next t0) (hK : Kept P0 s) : Kept P0 t0 := by
  unfold execMap at eN
  try dsimp only at eN
  injection eN with eN
  subst eN
  repeat' (first | (with_reducible assumption) | (with_reducible (intro _))
                  | (with_reducible (apply takeCtrl_kept (by assumption))) | (with_reducible apply installMap_kept)
                  | (with_reducible apply wr_kept) | (with_reducible apply updLk_kept) | (with_reducible apply Kept.ite)
                  | (split))

theorem execClose_kept {P0 : List Instr} {t0 : State} (l : Fin 64) (s : State) (eN : execClose l s = .next t0) (hK : Kept P0 s) : Kept P0 t0 := by
  unfold execClose at eN
  try dsimp only at eN
  injection eN with eN
  subst eN
  repeat' (first | (with_reducible assumption) | (with_reducible (apply takeCtrl_kept (by assumption)))
                  | (with_reducible apply linkDown_kept) | (split))

theorem execLinkDead_kept {P0 : List Instr} {t0 : State} (l : Fin 64) (s : State) (eN : execLinkDead l s = .next t0) (hK : Kept P0 s) : Kept P0 t0 := by
  unfold execLinkDead at eN
  try dsimp only at eN
  injection eN with eN
  subst eN
  repeat' (first | (with_reducible assumption) | (with_reducible (intro _)) | (with_reducible apply linkDown_kept)
                  | (with_reducible apply Kept.ite))

theorem execRetrainTimer_kept {P0 : List Instr} {t0 : State} (l : Fin 64) (s : State) (eN : execRetrainTimer l s = .next t0) (hK : Kept P0 s) : Kept P0 t0 := by
  unfold execRetrainTimer at eN
  try dsimp only at eN
  injection eN with eN
  subst eN
  repeat' (first | (with_reducible assumption) | (with_reducible (intro _)) | (with_reducible apply beginTraining_kept)
                  | (with_reducible apply setLk_kept) | (with_reducible apply Kept.ite))

theorem execCloseTimeout_kept {P0 : List Instr} {t0 : State} (l : Fin 64) (s : State) (eN : execCloseTimeout l s = .next t0) (hK : Kept P0 s) : Kept P0 t0 := by
  unfold execCloseTimeout at eN
  try dsimp only at eN
  injection eN with eN
  subst eN
  repeat' (first | (with_reducible assumption) | (with_reducible (intro _)) | (with_reducible apply linkDown_kept)
                  | (with_reducible apply Kept.ite))

theorem execRetrain_kept {P0 : List Instr} {t0 : State} (l : Fin 64) (s : State) (eN : execRetrain l s = .next t0) (hK : Kept P0 s) : Kept P0 t0 := by
  unfold execRetrain at eN
  try dsimp only at eN
  injection eN with eN
  subst eN
  repeat' (first | (with_reducible assumption) | (with_reducible (intro _)) | (with_reducible apply setErr_kept)
                  | (with_reducible apply dropSwitch_kept) | (with_reducible apply updLk_kept)
                  | (with_reducible apply setLinkState_kept) | (with_reducible apply beginTraining_kept)
                  | (with_reducible apply sendLinkLast_kept) | (with_reducible apply returnMsgs_kept)
                  | (with_reducible apply Kept.ite))

theorem execFabClose_kept {P0 : List Instr} {t0 : State} (l : Fin 64) (s : State) (eN : execFabClose l s = .next t0) (hK : Kept P0 s) : Kept P0 t0 := by
  unfold execFabClose at eN
  try dsimp only at eN
  injection eN with eN
  subst eN
  repeat' (first | (with_reducible assumption) | (with_reducible (intro _)) | (with_reducible apply closeDone_kept)
                  | (with_reducible apply rerouteQueued_kept) | (with_reducible apply updLk_kept)
                  | (with_reducible apply Kept.ite))

theorem measureFeed_kept {P0 : List Instr} (s : State) (p b : Nat) (l0 l1 l2 : BitVec 10) (hK : Kept P0 s) : Kept P0 (measureFeed s p b l0 l1 l2) := by
  unfold measureFeed
  try dsimp only
  repeat' (first | (with_reducible assumption) | (with_reducible (intro _)) | (with_reducible apply wr_kept)
                  | (with_reducible apply setErr_kept) | (with_reducible apply Kept.ite))

theorem eventFeed_kept {P0 : List Instr} (s : State) (engine what : Nat) (hK : Kept P0 s) : Kept P0 (eventFeed s engine what) := by
  unfold eventFeed
  try dsimp only
  repeat' (first | (with_reducible assumption) | (with_reducible apply raiseEvent_kept))

theorem switchFeed_kept {P0 : List Instr} (s : State) (p b : Nat) (hK : Kept P0 s) : Kept P0 (switchFeed s p b) := by
  unfold switchFeed
  try dsimp only
  repeat' (first | (with_reducible assumption) | (with_reducible apply restartSwitch_kept)
                  | (with_reducible apply setErr_kept) | (with_reducible apply addWrap_kept)
                  | (with_reducible apply wr_kept))

theorem execFeedSwap_kept {P0 : List Instr} {t0 : State} (p : Fin 16) (s : State) (eN : execFeedSwap p s = .next t0) (hK : Kept P0 s) : Kept P0 t0 := by
  unfold execFeedSwap at eN
  try dsimp only at eN
  injection eN with eN
  subst eN
  repeat' (first | (with_reducible assumption) | (with_reducible (intro _)) | (with_reducible apply switchFeed_kept)
                  | (with_reducible apply setErr_kept) | (with_reducible apply Kept.ite))

theorem execFeedLoss_kept {P0 : List Instr} {t0 : State} (p : Fin 16) (b : Fin 2) (l0 l1 l2 : BitVec 10) (long : Bool) (s : State) (eN : execFeedLoss p b l0 l1 l2 long s = .next t0) (hK : Kept P0 s) : Kept P0 t0 := by
  unfold execFeedLoss at eN
  try dsimp only at eN
  injection eN with eN
  subst eN
  repeat' (first | (with_reducible assumption) | (with_reducible (intro _)) | (with_reducible apply measureFeed_kept)
                  | (with_reducible apply eventFeed_kept) | (with_reducible apply switchFeed_kept)
                  | (with_reducible apply linkDown_kept) | (with_reducible apply setLinkState_kept)
                  | (with_reducible apply updFab_kept) | (with_reducible apply Kept.ite)
                  | (with_reducible apply Kept.foldl))

theorem execFeedOk_kept {P0 : List Instr} {t0 : State} (p : Fin 16) (b : Fin 2) (l0 l1 l2 : BitVec 10) (s : State) (eN : execFeedOk p b l0 l1 l2 s = .next t0) (hK : Kept P0 s) : Kept P0 t0 := by
  unfold execFeedOk at eN
  try dsimp only at eN
  injection eN with eN
  subst eN
  repeat' (first | (with_reducible assumption) | (with_reducible (intro _)) | (with_reducible apply measureFeed_kept)
                  | (with_reducible apply eventFeed_kept) | (with_reducible apply switchFeed_kept)
                  | (with_reducible apply beginTraining_kept) | (with_reducible apply updFab_kept)
                  | (with_reducible apply Kept.ite) | (with_reducible apply Kept.foldl))

theorem execFabRtrId_kept {P0 : List Instr} {t0 : State} (id : BitVec 20) (s : State) (eN : execFabRtrId id s = .next t0) (hK : Kept P0 s) : Kept P0 t0 := by
  unfold execFabRtrId at eN
  try dsimp only at eN
  injection eN with eN
  subst eN
  repeat' (first | (with_reducible assumption) | (with_reducible (intro _)) | (with_reducible apply setErr_kept)
                  | (with_reducible apply trainPort_kept) | (with_reducible apply wr_kept)
                  | (with_reducible apply Kept.ite) | (with_reducible apply Kept.foldl))

theorem execSplit_kept {P0 : List Instr} {t0 : State} (p : Fin 16) (v : BitVec 2) (s : State) (eN : execSplit p v s = .next t0) (hK : Kept P0 s) : Kept P0 t0 := by
  unfold execSplit at eN
  try dsimp only at eN
  injection eN with eN
  subst eN
  repeat' (first | (with_reducible assumption) | (with_reducible (intro _)) | (with_reducible apply setErr_kept)
                  | (with_reducible apply wr_kept) | (with_reducible apply Kept.ite))

theorem setPortEn_kept {P0 : List Instr} (s : State) (p : Nat) (en : Bool) (hK : Kept P0 s) : Kept P0 (setPortEn s p en) := by
  unfold setPortEn
  try dsimp only
  repeat' (first | (with_reducible assumption) | (with_reducible (intro _)) | (with_reducible apply wr_kept)
                  | (with_reducible apply trainPort_kept) | (with_reducible apply setLinkState_kept)
                  | (with_reducible apply linkDown_kept) | (with_reducible apply setLaneState_kept)
                  | (with_reducible apply Kept.ite) | (with_reducible apply Kept.foldl))

end Sys2Proof.Machine
end

