-- ==== Sys2Proof/Laws/Kept/HotPlug.lean ====
section
/-!
SUPPORT. Every operation of Machine/HotPlug.lean keeps the invariant and the queue.
-/
namespace Sys2Proof.Machine

theorem powerOn_kept {P0 : List Instr} (s : State) (fromEn : Bool) (hK : Kept P0 s) : Kept P0 (powerOn s fromEn) := by
  unfold powerOn
  try dsimp only
  repeat' (first | (with_reducible assumption) | (with_reducible (intro _)) | (with_reducible apply moduleReset_kept)
                  | (with_reducible apply wr_kept) | (with_reducible apply addSat_kept) | (with_reducible apply Kept.ite))

theorem execPrechargeDone_kept {P0 : List Instr} {t0 : State} (s : State) (eN : execPrechargeDone s = .next t0) (hK : Kept P0 s) : Kept P0 t0 := by
  unfold execPrechargeDone at eN
  try dsimp only at eN
  injection eN with eN
  subst eN
  repeat' (first | (with_reducible assumption) | (with_reducible (intro _)) | (with_reducible apply updBoot_kept)
                  | (with_reducible apply powerOn_kept) | (with_reducible apply Kept.ite))

theorem execPwrEnAssert_kept {P0 : List Instr} {t0 : State} (slot : BitVec 8) (s : State) (eN : execPwrEnAssert slot s = .next t0) (hK : Kept P0 s) : Kept P0 t0 := by
  unfold execPwrEnAssert at eN
  try dsimp only at eN
  injection eN with eN
  subst eN
  repeat' (first | (with_reducible assumption) | (with_reducible (intro _)) | (with_reducible apply wr_kept)
                  | (with_reducible apply powerOn_kept) | (with_reducible apply updBoot_kept)
                  | (with_reducible apply Kept.ite))

theorem allOff_kept {P0 : List Instr} (s : State) (hK : Kept P0 s) : Kept P0 (allOff s) := by
  unfold allOff
  dsimp only
  have h := moduleReset_kept s hK
  generalize moduleReset s = t at h
  simp only [Kept.mk_eq]
  exact h.view_mem rfl

theorem execLossOfInput_kept {P0 : List Instr} {t0 : State} (low : Bool) (ms : BitVec 16) (s : State) (eN : execLossOfInput low ms s = .next t0) (hK : Kept P0 s) : Kept P0 t0 := by
  have e := eN
  clear eN
  unfold execLossOfInput at e
  dsimp only at e
  injection e with e
  subst e
  apply Kept.ite <;> intro _
  · exact hK
  · apply Kept.ite <;> intro _
    · have h := allOff_kept s hK
      simp only [Kept.mk_eq]
      exact h.view_buf hK.2.buf
    · simp only [Kept.mk_eq]
      apply Kept.view
      apply allOff_kept
      apply addSat_kept
      apply wr_kept
      apply wr_kept
      exact updInnk_kept _ _ hK (fun _ _ => Nat.zero_le _)

theorem execInputRestore_kept {P0 : List Instr} {t0 : State} (s : State) (eN : execInputRestore s = .next t0) (hK : Kept P0 s) : Kept P0 t0 := by
  unfold execInputRestore at eN
  try dsimp only at eN
  injection eN with eN
  subst eN
  repeat' (first | (with_reducible assumption) | (with_reducible (intro _)) | (with_reducible apply powerOn_kept)
                  | (with_reducible apply Kept.ite))

theorem execEjectN_kept {P0 : List Instr} {t0 : State} (fresh : Bool) (s : State) (eN : execEjectN fresh s = .next t0) (hK : Kept P0 s) : Kept P0 t0 := by
  unfold execEjectN at eN
  try dsimp only at eN
  injection eN with eN
  subst eN
  repeat' (first | (with_reducible assumption) | (with_reducible (intro _)) | (with_reducible apply wr_kept)
                  | (with_reducible apply logMgmt_kept) | (with_reducible apply setErr_kept)
                  | (with_reducible apply raiseEvent_kept) | (with_reducible apply Kept.ite))

theorem startP4_kept {P0 : List Instr} (s : State) (cause : Nat) (cmd : Option (Nat × Nat)) (hK : Kept P0 s) : Kept P0 (startP4 s cause cmd) := by
  unfold startP4
  try dsimp only
  repeat' (first | (with_reducible assumption) | (with_reducible (intro _)) | (with_reducible apply beginState_kept)
                  | (with_reducible apply updBoot_kept) | (with_reducible apply closeLinks_kept)
                  | (with_reducible apply closeHigh_kept) | (with_reducible apply wr_kept)
                  | (with_reducible apply Kept.ite))

theorem execP4Entry_kept {P0 : List Instr} {t0 : State} (s : State) (eN : execP4Entry s = .next t0) (hK : Kept P0 s) : Kept P0 t0 := by
  unfold execP4Entry at eN
  dsimp only at eN
  injection eN with e
  subst e
  apply Kept.ite <;> intro _
  · exact startP4_kept _ _ _ hK
  apply Kept.ite <;> intro _
  · apply updBoot_kept
    apply updPow_kept
    simp only [Kept.mk_eq]
    refine Kept.view_mem ?_ rfl
    iterate 5 apply wr_kept
    refine Kept.foldl ?_ (fun s d h => wr1_kept _ _ _ _ _ h)
    refine Kept.foldl ?_ (fun s p h => setBlk_kept _ _ _ h)
    refine Kept.foldl ?_ (fun s i h => hostDown_kept _ _ h)
    apply powerOff_kept
    apply flushLog_kept
    apply enterState_kept
    apply logMgmt_kept
    apply finishOpt_kept
    exact storeTraining_kept _ hK
  · exact hK

theorem measureHostFeed_kept {P0 : List Instr} (s : State) (pwr : BitVec 10) (hK : Kept P0 s) : Kept P0 (measureHostFeed s pwr) := by
  unfold measureHostFeed
  try dsimp only
  repeat' (first | (with_reducible assumption) | (with_reducible (intro _)) | (with_reducible apply wr_kept)
                  | (with_reducible apply setErr_kept) | (with_reducible apply Kept.ite)
                  | (with_reducible apply Kept.foldl))

theorem execHostFeedLoss_kept {P0 : List Instr} {t0 : State} (pwr : BitVec 10) (s : State) (eN : execHostFeedLoss pwr s = .next t0) (hK : Kept P0 s) : Kept P0 t0 := by
  unfold execHostFeedLoss at eN
  try dsimp only at eN
  injection eN with eN
  subst eN
  repeat' (first | (with_reducible assumption) | (with_reducible (intro _)) | (with_reducible apply measureHostFeed_kept)
                  | (with_reducible apply eventFeed_kept) | (with_reducible apply updHost_kept)
                  | (with_reducible apply setErr_kept) | (with_reducible apply hostDown_kept)
                  | (with_reducible apply Kept.ite) | (with_reducible apply Kept.foldl))

theorem execHostFeedOk_kept {P0 : List Instr} {t0 : State} (pwr : BitVec 10) (s : State) (eN : execHostFeedOk pwr s = .next t0) (hK : Kept P0 s) : Kept P0 t0 := by
  unfold execHostFeedOk at eN
  try dsimp only at eN
  injection eN with eN
  subst eN
  repeat' (first | (with_reducible assumption) | (with_reducible (intro _)) | (with_reducible apply measureHostFeed_kept)
                  | (with_reducible apply updHost_kept) | (with_reducible apply eventFeed_kept)
                  | (with_reducible apply Kept.ite))

theorem execHostLink_kept {P0 : List Instr} {t0 : State} (i : Fin 4) (up lfault rfault : Bool) (fec : BitVec 4) (s : State) (eN : execHostLink i up lfault rfault fec s = .next t0) (hK : Kept P0 s) : Kept P0 t0 := by
  unfold execHostLink at eN
  try dsimp only at eN
  injection eN with eN
  subst eN
  repeat' (first | (with_reducible assumption) | (with_reducible (intro _)) | (with_reducible apply wr_kept)
                  | (with_reducible apply raiseEvent_kept) | (with_reducible apply setErr_kept)
                  | (with_reducible apply hostDown_kept) | (with_reducible apply Kept.ite))

end Sys2Proof.Machine
end

