-- ==== Sys2Proof/Laws/Kept/RegOps.lean ====
section
/-!
SUPPORT. Every operation of Machine/RegOps.lean keeps the invariant and the queue.
-/
namespace Sys2Proof.Machine

theorem setLatch_kept {P0 : List Instr} (s : State) (src : Src) (page off : Nat) (v : Word) (hK : Kept P0 s) : Kept P0 (setLatch s src page off v) := by
  unfold setLatch
  try dsimp only
  repeat' (first | (with_reducible assumption) | (with_reducible apply updHost_kept))

theorem clearLatch_kept {P0 : List Instr} (s : State) (src : Src) (hK : Kept P0 s) : Kept P0 (clearLatch s src) := by
  unfold clearLatch
  try dsimp only
  repeat' (first | (with_reducible assumption) | (with_reducible apply updHost_kept))

theorem clearRc_kept {P0 : List Instr} (s : State) (b : Blk) (page off : Nat) (hK : Kept P0 s) : Kept P0 (clearRc s b page off) := by
  unfold clearRc
  try dsimp only
  repeat' (first | (with_reducible assumption) | (with_reducible (intro _)) | (with_reducible (refine wrW_kept ?_ ..))
                  | (with_reducible apply Kept.ite) | (with_reducible apply Kept.foldl))

theorem imemAdvance_kept {P0 : List Instr} (s : State) (n : Nat) (hK : Kept P0 s) : Kept P0 (imemAdvance s n) := by
  unfold imemAdvance
  try dsimp only
  repeat' (first | (with_reducible assumption) | (with_reducible (intro _)) | (with_reducible apply wr_kept)
                  | (with_reducible apply Kept.ite))

theorem after_kept {P0 : List Instr} (s : State) (x0 : Host.Outcome State Fault Refusal) (hK : Kept P0 s)
    (hx : ∀ t, x0 = .next t → Kept P0 t) : Kept P0 (after s x0) := by
  cases x0 with
  | next t => exact hx t rfl
  | fault _ => exact hK
  | refused _ => exact hK

theorem takeSem_kept {P0 : List Instr} (s : State) (src : Src) (k : Nat) (hK : Kept P0 s) : Kept P0 (takeSem s src k) := by
  unfold takeSem
  try dsimp only
  repeat' (first | (with_reducible assumption) | (with_reducible (intro _)) | (with_reducible apply wr1_kept)
                  | (with_reducible apply updInnk_kept) | (with_reducible apply Kept.ite) | (split))

theorem readEffect_kept {P0 : List Instr} (s : State) (src : Src) (b : Blk) (i page off : Nat) (hK : Kept P0 s) : Kept P0 (readEffect s src b i page off) := by
  unfold readEffect
  try dsimp only
  repeat' (first | (with_reducible assumption) | (with_reducible (intro _)) | (with_reducible apply imemAdvance_kept)
                  | (with_reducible (refine after_kept _ _ ?_ (fun t e => execCaravanPlanData_kept (eN := e) (hK := ?_) ..)))
                  | (with_reducible (refine after_kept _ _ ?_ (fun t e => execCaravanRankData_kept (eN := e) (hK := ?_) ..)))
                  | (with_reducible apply clearRc_kept) | (with_reducible apply updPow_kept)
                  | (with_reducible apply takeSem_kept) | (with_reducible apply wr_kept)
                  | (with_reducible apply Kept.ite) | (split))

theorem regRead_kept {P0 : List Instr} (s : State) (src : Src) (page off : Nat) (hK : Kept P0 s) : Kept P0 (regRead s src page off).2 := by
  unfold regRead
  try dsimp only
  repeat' (first | (with_reducible assumption) | (with_reducible apply readEffect_kept)
                  | (with_reducible apply setLatch_kept) | (with_reducible apply clearLatch_kept) | (split))

theorem regRead_kept_of {P0 : List Instr} {s : State} {src : Src} {page off : Nat} {r0 : Word} {t0 : State} (e : regRead s src page off = (r0, t0)) (hK : Kept P0 s) : Kept P0 t0 := by
  have := regRead_kept s src page off hK
  rw [e] at this
  exact this

theorem ignoreWrite_kept {P0 : List Instr} (s : State) (src page off cause : Nat) (hK : Kept P0 s) : Kept P0 (ignoreWrite s src page off cause) := by
  unfold ignoreWrite
  try dsimp only
  repeat' (first | (with_reducible assumption) | (with_reducible (intro _)) | (with_reducible apply addSat_kept)
                  | (with_reducible apply wr_kept) | (with_reducible apply setErr_kept) | (with_reducible apply Kept.ite))

theorem onPage_kept {P0 : List Instr} (s : State) (page off : Nat) (f : State → State) (hK : Kept P0 s) (hf_f : ∀ (y0 : State), Kept P0 y0 → Kept P0 (f y0)) : Kept P0 (onPage s page off f) := by
  unfold onPage
  try dsimp only
  repeat' (first | (with_reducible assumption) | (with_reducible (intro _)) | (with_reducible apply hf_f)
                  | (with_reducible apply ignoreWrite_kept) | (with_reducible apply Kept.ite))

theorem applyWord_kept {P0 : List Instr} (s : State) (src : Nat) (b : Blk) (page off v : Nat) (hK : Kept P0 s) : Kept P0 (applyWord s src b page off v) := by
  unfold applyWord
  try dsimp only
  repeat' (first | (with_reducible assumption) | (with_reducible (intro _)) | (with_reducible (refine wrW_kept ?_ ..))
                  | (with_reducible apply ignoreWrite_kept) | (with_reducible apply Kept.ite))

theorem clearErrs_kept {P0 : List Instr} (s : State) (page : Nat) (hK : Kept P0 s) : Kept P0 (clearErrs s page) := by
  unfold clearErrs
  try dsimp only
  repeat' (first | (with_reducible assumption) | (with_reducible (refine wrW_kept ?_ ..)))

theorem clearCounts_kept {P0 : List Instr} (s : State) (page : Nat) (hK : Kept P0 s) : Kept P0 (clearCounts s page) := by
  unfold clearCounts
  try dsimp only
  repeat' (first | (with_reducible assumption) | (with_reducible (intro _)) | (with_reducible (refine wrW_kept ?_ ..))
                  | (with_reducible apply setBist_kept) | (with_reducible apply updCar_kept)
                  | (with_reducible apply updPsp_kept) | (with_reducible apply Kept.ite)
                  | (with_reducible apply Kept.foldl) | (split))

end Sys2Proof.Machine
end

