-- ==== Sys2Proof/Laws/Kept/Seq.lean ====
section
/-!
SUPPORT. Every operation of Machine/Seq.lean keeps the invariant and the queue.
-/
namespace Sys2Proof.Machine

theorem seqBinary_kept {P0 : List Instr} (s : State) (n lat rd ra rb : Nat) (f : DWord → DWord → DWord) (hK : Kept P0 s) : Kept P0 (seqBinary s n lat rd ra rb f) := by
  unfold seqBinary
  try dsimp only
  repeat' (first | (with_reducible assumption) | (with_reducible (intro _)) | (with_reducible apply issueSeq_kept)
                  | (with_reducible apply addResult_kept))

theorem seqNopAt_kept {P0 : List Instr} (s : State) (n : Nat) (hK : Kept P0 s) : Kept P0 (seqNopAt s n) := by
  unfold seqNopAt
  try dsimp only
  repeat' (first | (with_reducible assumption) | (with_reducible (intro _)) | (with_reducible apply issueSeq_kept))

theorem execNop_kept {P0 : List Instr} {t0 : State} (i : Issue) (slot : Slot) (s : State) (eN : execNop i slot s = .next t0) (hK : Kept P0 s) : Kept P0 t0 := by
  unfold execNop at eN
  try dsimp only at eN
  injection eN with eN
  subst eN
  repeat' (first | (with_reducible assumption) | (with_reducible (intro _)) | (with_reducible apply seqNopAt_kept)
                  | (with_reducible apply markSlot_kept) | (with_reducible apply Kept.ite) | (split))

theorem execSeqAdd_kept {P0 : List Instr} {t0 : State} (c : Fin 256) (rd ra rb : Fin 32) (s : State) (eN : execSeqAdd c rd ra rb s = .next t0) (hK : Kept P0 s) : Kept P0 t0 := by
  unfold execSeqAdd at eN
  try dsimp only at eN
  injection eN with eN
  subst eN
  repeat' (first | (with_reducible assumption) | (with_reducible apply seqBinary_kept))

theorem execSub_kept {P0 : List Instr} {t0 : State} (c : Fin 256) (rd ra rb : Fin 32) (s : State) (eN : execSub c rd ra rb s = .next t0) (hK : Kept P0 s) : Kept P0 t0 := by
  unfold execSub at eN
  try dsimp only at eN
  injection eN with eN
  subst eN
  repeat' (first | (with_reducible assumption) | (with_reducible apply seqBinary_kept))

theorem execAnd_kept {P0 : List Instr} {t0 : State} (c : Fin 256) (rd ra rb : Fin 32) (s : State) (eN : execAnd c rd ra rb s = .next t0) (hK : Kept P0 s) : Kept P0 t0 := by
  unfold execAnd at eN
  try dsimp only at eN
  injection eN with eN
  subst eN
  repeat' (first | (with_reducible assumption) | (with_reducible apply seqBinary_kept))

theorem execOr_kept {P0 : List Instr} {t0 : State} (c : Fin 256) (rd ra rb : Fin 32) (s : State) (eN : execOr c rd ra rb s = .next t0) (hK : Kept P0 s) : Kept P0 t0 := by
  unfold execOr at eN
  try dsimp only at eN
  injection eN with eN
  subst eN
  repeat' (first | (with_reducible assumption) | (with_reducible apply seqBinary_kept))

theorem execXor_kept {P0 : List Instr} {t0 : State} (c : Fin 256) (rd ra rb : Fin 32) (s : State) (eN : execXor c rd ra rb s = .next t0) (hK : Kept P0 s) : Kept P0 t0 := by
  unfold execXor at eN
  try dsimp only at eN
  injection eN with eN
  subst eN
  repeat' (first | (with_reducible assumption) | (with_reducible apply seqBinary_kept))

theorem execShl_kept {P0 : List Instr} {t0 : State} (c : Fin 256) (rd ra rb : Fin 32) (s : State) (eN : execShl c rd ra rb s = .next t0) (hK : Kept P0 s) : Kept P0 t0 := by
  unfold execShl at eN
  try dsimp only at eN
  injection eN with eN
  subst eN
  repeat' (first | (with_reducible assumption) | (with_reducible apply seqBinary_kept))

theorem execShr_kept {P0 : List Instr} {t0 : State} (c : Fin 256) (rd ra rb : Fin 32) (s : State) (eN : execShr c rd ra rb s = .next t0) (hK : Kept P0 s) : Kept P0 t0 := by
  unfold execShr at eN
  try dsimp only at eN
  injection eN with eN
  subst eN
  repeat' (first | (with_reducible assumption) | (with_reducible apply seqBinary_kept))

theorem execSra_kept {P0 : List Instr} {t0 : State} (c : Fin 256) (rd ra rb : Fin 32) (s : State) (eN : execSra c rd ra rb s = .next t0) (hK : Kept P0 s) : Kept P0 t0 := by
  unfold execSra at eN
  try dsimp only at eN
  injection eN with eN
  subst eN
  repeat' (first | (with_reducible assumption) | (with_reducible apply seqBinary_kept))

theorem execMul_kept {P0 : List Instr} {t0 : State} (c : Fin 256) (rd ra rb : Fin 32) (s : State) (eN : execMul c rd ra rb s = .next t0) (hK : Kept P0 s) : Kept P0 t0 := by
  unfold execMul at eN
  try dsimp only at eN
  injection eN with eN
  subst eN
  repeat' (first | (with_reducible assumption) | (with_reducible apply seqBinary_kept))

theorem execAddi_kept {P0 : List Instr} {t0 : State} (c : Fin 256) (rd ra : Fin 32) (imm : BitVec 32) (s : State) (eN : execAddi c rd ra imm s = .next t0) (hK : Kept P0 s) : Kept P0 t0 := by
  unfold execAddi at eN
  try dsimp only at eN
  injection eN with eN
  subst eN
  repeat' (first | (with_reducible assumption) | (with_reducible apply seqBinary_kept))

theorem execLih_kept {P0 : List Instr} {t0 : State} (c : Fin 256) (rd ra : Fin 32) (imm : BitVec 32) (s : State) (eN : execLih c rd ra imm s = .next t0) (hK : Kept P0 s) : Kept P0 t0 := by
  unfold execLih at eN
  try dsimp only at eN
  injection eN with eN
  subst eN
  repeat' (first | (with_reducible assumption) | (with_reducible apply seqBinary_kept))

theorem execCmp_kept {P0 : List Instr} {t0 : State} (c : Fin 256) (qd : Fin 8) (ra rb : Fin 32) (cond : BitVec 3) (s : State) (eN : execCmp c qd ra rb cond s = .next t0) (hK : Kept P0 s) : Kept P0 t0 := by
  unfold execCmp at eN
  try dsimp only at eN
  injection eN with eN
  subst eN
  repeat' (first | (with_reducible assumption) | (with_reducible (intro _)) | (with_reducible apply issueSeq_kept)
                  | (with_reducible apply addResult_kept) | (with_reducible apply recSeqAll_kept) | (split))

theorem execQop_kept {P0 : List Instr} {t0 : State} (c : Fin 256) (qd qa qb : Fin 8) (fn : BitVec 2) (s : State) (eN : execQop c qd qa qb fn s = .next t0) (hK : Kept P0 s) : Kept P0 t0 := by
  unfold execQop at eN
  try dsimp only at eN
  injection eN with eN
  subst eN
  repeat' (first | (with_reducible assumption) | (with_reducible (intro _)) | (with_reducible apply issueSeq_kept)
                  | (with_reducible apply addResult_kept))

theorem takeBranch_kept {P0 : List Instr} (s : State) (n tgt : Nat) (k : Core) (hK : Kept P0 s) : Kept P0 (takeBranch s n tgt k) := by
  unfold takeBranch
  try dsimp only
  repeat' (first | (with_reducible assumption) | (with_reducible (intro _))
                  | (with_reducible (refine updCore_kept ?_ _ ?_))
                  | (simp only [Core.mk_eq]; with_reducible apply Core.ok.tabs))

theorem execBr_kept {P0 : List Instr} {t0 : State} (c : Fin 256) (q : Fin 8) (neg : Bool) (tgt : BitVec 12) (s : State) (eN : execBr c q neg tgt s = .next t0) (hK : Kept P0 s) : Kept P0 t0 := by
  unfold execBr at eN
  try dsimp only at eN
  injection eN with eN
  subst eN
  repeat' (first | (with_reducible assumption) | (with_reducible (intro _)) | (with_reducible apply issueSeq_kept)
                  | (with_reducible apply takeBranch_kept) | (with_reducible apply Kept.ite))

theorem execSeqLoop_kept {P0 : List Instr} {t0 : State} (c : Fin 256) (ra : Fin 32) (last : BitVec 12) (s : State) (eN : execSeqLoop c ra last s = .next t0) (hK : Kept P0 s) : Kept P0 t0 := by
  unfold execSeqLoop at eN
  try dsimp only at eN
  injection eN with eN
  subst eN
  repeat' (first | (with_reducible assumption) | (with_reducible (intro _)) | (with_reducible apply issueSeq_kept)
                  | (with_reducible apply recSeqAll_kept) | (with_reducible (refine updCore_kept ?_ _ ?_))
                  | (with_reducible apply Kept.ite) | (simp only [Core.mk_eq]; with_reducible apply Core.ok.tabs))

theorem recSpadAll_kept {P0 : List Instr} (s : State) (n code port bank row : Nat) (hK : Kept P0 s) : Kept P0 (recSpadAll s n code port bank row) := by
  unfold recSpadAll
  try dsimp only
  repeat' (first | (with_reducible assumption) | (with_reducible (intro _)) | (with_reducible apply recSpad_kept)
                  | (with_reducible apply Kept.foldl))

theorem recGrantAll_kept {P0 : List Instr} (s : State) (n h : Nat) (hK : Kept P0 s) : Kept P0 (recGrantAll s n h) := by
  unfold recGrantAll
  try dsimp only
  repeat' (first | (with_reducible assumption) | (with_reducible (intro _)) | (with_reducible apply recStream_kept)
                  | (with_reducible apply Kept.foldl))

theorem execLds_kept {P0 : List Instr} {t0 : State} (c : Fin 256) (rd ra : Fin 32) (h : Fin 64) (s : State) (eN : execLds c rd ra h s = .next t0) (hK : Kept P0 s) : Kept P0 t0 := by
  unfold execLds at eN
  try dsimp only at eN
  injection eN with eN
  subst eN
  repeat' (first | (with_reducible assumption) | (with_reducible (intro _)) | (with_reducible apply issueSeq_kept)
                  | (with_reducible apply recSpadAll_kept) | (with_reducible apply recGrantAll_kept)
                  | (with_reducible apply narrowAccess_kept) | (with_reducible apply Kept.ite))

theorem execRds_kept {P0 : List Instr} {t0 : State} (c : Fin 256) (rd : Fin 32) (sel : BitVec 8) (s : State) (eN : execRds c rd sel s = .next t0) (hK : Kept P0 s) : Kept P0 t0 := by
  unfold execRds at eN
  try dsimp only at eN
  injection eN with eN
  subst eN
  repeat' (first | (with_reducible assumption) | (with_reducible (intro _)) | (with_reducible apply issueSeq_kept)
                  | (with_reducible apply addResult_kept) | (with_reducible apply recSeqAll_kept) | (split))

theorem execFtest_kept {P0 : List Instr} {t0 : State} (c : Fin 256) (qd : Fin 8) (part : Fin 4) (clr : Bool) (mask : BitVec 5) (s : State) (eN : execFtest c qd part clr mask s = .next t0) (hK : Kept P0 s) : Kept P0 t0 := by
  unfold execFtest at eN
  try dsimp only at eN
  injection eN with eN
  subst eN
  repeat' (first | (with_reducible assumption) | (with_reducible (intro _)) | (with_reducible apply issueSeq_kept)
                  | (with_reducible apply addResult_kept) | (with_reducible (refine updCore_kept ?_ _ ?_))
                  | (with_reducible apply recSeqAll_kept) | (with_reducible apply Kept.ite)
                  | (simp only [Core.mk_eq]; with_reducible apply Core.ok.tabs))

theorem execMuster_kept {P0 : List Instr} {t0 : State} (c : Fin 256) (scope : Bool) (kind fence : BitVec 2) (s : State) (eN : execMuster c scope kind fence s = .next t0) (hK : Kept P0 s) : Kept P0 t0 := by
  unfold execMuster at eN
  try dsimp only at eN
  injection eN with eN
  subst eN
  repeat' (first | (with_reducible assumption) | (with_reducible (intro _)) | (with_reducible apply issueSeq_kept)
                  | (with_reducible apply recSeqAll_kept) | (with_reducible (refine updCore_kept ?_ _ ?_))
                  | (with_reducible apply wr_kept) | (with_reducible apply Kept.ite)
                  | (simp only [Core.mk_eq]; with_reducible apply Core.ok.tabs))

theorem execWaitt_kept {P0 : List Instr} {t0 : State} (c : Fin 256) (qd : Fin 8) (ra : Fin 32) (h : Fin 64) (s : State) (eN : execWaitt c qd ra h s = .next t0) (hK : Kept P0 s) : Kept P0 t0 := by
  unfold execWaitt at eN
  try dsimp only at eN
  injection eN with eN
  subst eN
  repeat' (first | (with_reducible assumption) | (with_reducible (intro _)) | (with_reducible apply issueSeq_kept)
                  | (with_reducible apply addResult_kept) | (with_reducible apply recSpadAll_kept) | (with_reducible (refine updCore_kept ?_ _ ?_))
                  | (with_reducible apply Kept.ite) | (simp only [Core.mk_eq]; with_reducible apply Core.ok.tabs))

theorem execWaittResume_kept {P0 : List Instr} {t0 : State} (c : Fin 256) (s : State) (eN : execWaittResume c s = .next t0) (hK : Kept P0 s) : Kept P0 t0 := by
  unfold execWaittResume at eN
  try dsimp only at eN
  injection eN with eN
  subst eN
  repeat' (first | (with_reducible assumption) | (with_reducible (intro _)) | (with_reducible apply addResult_kept)
                  | (with_reducible (refine updCore_kept ?_ _ ?_)) | (with_reducible apply Kept.ite)
                  | (simp only [Core.mk_eq]; with_reducible apply Core.ok.tabs) | (split))

theorem execSeqEnd_kept {P0 : List Instr} {t0 : State} (c : Fin 256) (s : State) (eN : execSeqEnd c s = .next t0) (hK : Kept P0 s) : Kept P0 t0 := by
  unfold execSeqEnd at eN
  try dsimp only at eN
  injection eN with eN
  subst eN
  repeat' (first | (with_reducible assumption) | (with_reducible (intro _)) | (with_reducible apply issueSeq_kept)
                  | (with_reducible (refine updCore_kept ?_ _ ?_))
                  | (simp only [Core.mk_eq]; with_reducible apply Core.ok.tabs))

end Sys2Proof.Machine
end

