-- ==== Sys2Proof/Laws/Kept/Bundle.lean ====
section
/-!
SUPPORT. Every operation of Machine/Bundle.lean keeps the invariant and the queue.
-/
namespace Sys2Proof.Machine

theorem runSeqSlot_kept {P0 : List Instr} {t0 : State} (c : Fin 256) (v : Nat) (s : State) (eN : runSeqSlot c v s = .next t0) (hK : Kept P0 s) : Kept P0 t0 := by
  have e := eN
  clear eN
  unfold runSeqSlot at e
  dsimp only at e
  split at e
  all_goals first
    | with_reducible exact execNop_kept (eN := e) (hK := hK) ..
    | with_reducible exact execSeqAdd_kept (eN := e) (hK := hK) ..
    | with_reducible exact execSub_kept (eN := e) (hK := hK) ..
    | with_reducible exact execAnd_kept (eN := e) (hK := hK) ..
    | with_reducible exact execOr_kept (eN := e) (hK := hK) ..
    | with_reducible exact execXor_kept (eN := e) (hK := hK) ..
    | with_reducible exact execShl_kept (eN := e) (hK := hK) ..
    | with_reducible exact execShr_kept (eN := e) (hK := hK) ..
    | with_reducible exact execSra_kept (eN := e) (hK := hK) ..
    | with_reducible exact execMul_kept (eN := e) (hK := hK) ..
    | with_reducible exact execAddi_kept (eN := e) (hK := hK) ..
    | with_reducible exact execLih_kept (eN := e) (hK := hK) ..
    | with_reducible exact execCmp_kept (eN := e) (hK := hK) ..
    | with_reducible exact execQop_kept (eN := e) (hK := hK) ..
    | with_reducible exact execBr_kept (eN := e) (hK := hK) ..
    | with_reducible exact execSeqLoop_kept (eN := e) (hK := hK) ..
    | with_reducible exact execLds_kept (eN := e) (hK := hK) ..
    | with_reducible exact execRds_kept (eN := e) (hK := hK) ..
    | with_reducible exact execFtest_kept (eN := e) (hK := hK) ..
    | with_reducible exact execMuster_kept (eN := e) (hK := hK) ..
    | with_reducible exact execWaitt_kept (eN := e) (hK := hK) ..
    | with_reducible exact execSeqEnd_kept (eN := e) (hK := hK) ..
    | (injection e with e; subst e; first | exact hK | (exact issueSeq_kept _ _ _ hK (fun k s h => recSeqAll_kept _ _ _ _ _ h)))

theorem runArrSlot_kept {P0 : List Instr} {t0 : State} (i : Issue) (v : Nat) (s : State) (eN : runArrSlot i v s = .next t0) (hK : Kept P0 s) : Kept P0 t0 := by
  have e := eN
  clear eN
  unfold runArrSlot at e
  split at e
  all_goals first
    | with_reducible exact execPass_kept (eN := e) (hK := hK) ..
    | with_reducible exact execDset_kept (eN := e) (hK := hK) ..
    | (injection e with e; subst e; first | exact hK | (exact issueSlot_kept _ _ _ _ hK (fun p _ s h => illegalSlot_kept _ _ _ _ h)))

theorem runVecSlot_kept {P0 : List Instr} {t0 : State} (i : Issue) (v : Nat) (s : State) (eN : runVecSlot i v s = .next t0) (hK : Kept P0 s) : Kept P0 t0 := by
  have e := eN
  clear eN
  unfold runVecSlot at e
  dsimp only at e
  split at e
  all_goals first
    | with_reducible exact execVadd_kept (eN := e) (hK := hK) ..
    | with_reducible exact execVsub_kept (eN := e) (hK := hK) ..
    | with_reducible exact execVmul_kept (eN := e) (hK := hK) ..
    | with_reducible exact execVfma_kept (eN := e) (hK := hK) ..
    | with_reducible exact execVmax_kept (eN := e) (hK := hK) ..
    | with_reducible exact execVmin_kept (eN := e) (hK := hK) ..
    | with_reducible exact execVabs_kept (eN := e) (hK := hK) ..
    | with_reducible exact execVneg_kept (eN := e) (hK := hK) ..
    | with_reducible exact execVsgn_kept (eN := e) (hK := hK) ..
    | with_reducible exact execVdiv_kept (eN := e) (hK := hK) ..
    | with_reducible exact execVsqrt_kept (eN := e) (hK := hK) ..
    | with_reducible exact execVexp2_kept (eN := e) (hK := hK) ..
    | with_reducible exact execVlog2_kept (eN := e) (hK := hK) ..
    | with_reducible exact execVcmp_kept (eN := e) (hK := hK) ..
    | with_reducible exact execVsel_kept (eN := e) (hK := hK) ..
    | with_reducible exact execViadd_kept (eN := e) (hK := hK) ..
    | with_reducible exact execVisub_kept (eN := e) (hK := hK) ..
    | with_reducible exact execViand_kept (eN := e) (hK := hK) ..
    | with_reducible exact execVior_kept (eN := e) (hK := hK) ..
    | with_reducible exact execVixor_kept (eN := e) (hK := hK) ..
    | with_reducible exact execVishl_kept (eN := e) (hK := hK) ..
    | with_reducible exact execVishr_kept (eN := e) (hK := hK) ..
    | with_reducible exact execVftoi_kept (eN := e) (hK := hK) ..
    | with_reducible exact execVitof_kept (eN := e) (hK := hK) ..
    | with_reducible exact execVbcast_kept (eN := e) (hK := hK) ..
    | with_reducible exact execVreds_kept (eN := e) (hK := hK) ..
    | with_reducible exact execVbmax_kept (eN := e) (hK := hK) ..
    | with_reducible exact execVscaleb_kept (eN := e) (hK := hK) ..
    | with_reducible exact execVcvt_kept (eN := e) (hK := hK) ..
    | with_reducible exact execVdec_kept (eN := e) (hK := hK) ..
    | with_reducible exact execVrng_kept (eN := e) (hK := hK) ..
    | with_reducible exact execVld_kept (eN := e) (hK := hK) ..
    | with_reducible exact execVst_kept (eN := e) (hK := hK) ..
    | with_reducible exact execVmpack_kept (eN := e) (hK := hK) ..
    | with_reducible exact execVmunpk_kept (eN := e) (hK := hK) ..
    | with_reducible exact execVscrd_kept (eN := e) (hK := hK) ..
    | with_reducible exact execVscwr_kept (eN := e) (hK := hK) ..
    | (injection e with e; subst e; first | exact hK | (exact issueSlot_kept _ _ _ _ hK (fun p _ s h => illegalSlot_kept _ _ _ _ (add64_kept _ _ _ _ _ _ h))))

theorem runStrSlot_kept {P0 : List Instr} {t0 : State} (i : Issue) (v : Nat) (s : State) (eN : runStrSlot i v s = .next t0) (hK : Kept P0 s) : Kept P0 t0 := by
  have e := eN
  clear eN
  unfold runStrSlot at e
  dsimp only at e
  split at e
  all_goals first
    | with_reducible exact execStart_kept (eN := e) (hK := hK) ..
    | with_reducible exact execStop_kept (eN := e) (hK := hK) ..
    | with_reducible exact execCredit_kept (eN := e) (hK := hK) ..
    | with_reducible exact execSend_kept (eN := e) (hK := hK) ..
    | with_reducible exact execArm_kept (eN := e) (hK := hK) ..
    | with_reducible exact execStrCopy_kept (eN := e) (hK := hK) ..
    | with_reducible exact execCourierPut_kept (eN := e) (hK := hK) ..
    | with_reducible exact execCourierGet_kept (eN := e) (hK := hK) ..
    | with_reducible exact execCourierAdd_kept (eN := e) (hK := hK) ..
    | with_reducible exact execPush_kept (eN := e) (hK := hK) ..
    | with_reducible exact execPop_kept (eN := e) (hK := hK) ..
    | (injection e with e; subst e; first | exact hK | (exact issueSlot_kept _ _ _ _ hK (fun p _ s h => illegalSlot_kept _ _ _ _ h)))

theorem runBundle_kept {P0 : List Instr} (s : State) (c : Fin 256) (hK : Kept P0 s) : Kept P0 (runBundle s c) := by
  unfold runBundle
  try dsimp only
  repeat' (first | (with_reducible assumption)
                  | (with_reducible (refine after_kept _ _ ?_ (fun t e => runSeqSlot_kept (eN := e) (hK := ?_) ..)))
                  | (with_reducible (refine after_kept _ _ ?_ (fun t e => runArrSlot_kept (eN := e) (hK := ?_) ..)))
                  | (with_reducible (refine after_kept _ _ ?_ (fun t e => runVecSlot_kept (eN := e) (hK := ?_) ..)))
                  | (with_reducible (refine after_kept _ _ ?_ (fun t e => runStrSlot_kept (eN := e) (hK := ?_) ..))))

theorem stepBundle_kept {P0 : List Instr} (s : State) (c : Fin 256) (hK : Kept P0 s) : Kept P0 (stepBundle s c) := by
  unfold stepBundle
  try dsimp only
  repeat' (first | (with_reducible assumption) | (with_reducible (intro _)) | (with_reducible apply wr_kept)
                  | (with_reducible (refine updCore_kept ?_ _ ?_)) | (with_reducible apply runBundle_kept)
                  | (with_reducible apply Kept.ite) | (simp only [Core.mk_eq]; with_reducible apply Core.ok.tabs))

end Sys2Proof.Machine
end

