-- ==== Sys2Proof/Laws/Kept/HostOps.lean ====
section
/-!
SUPPORT. Every operation of Machine/HostOps.lean keeps the invariant and the queue.
-/
namespace Sys2Proof.Machine

theorem setQp_kept {P0 : List Instr} (s : State) (i : Nat) (q : Qp) (hK : Kept P0 s) : Kept P0 (setQp s i q) := by
  unfold setQp
  try dsimp only
  repeat' (first | (with_reducible assumption) | (with_reducible apply updHost_kept))

theorem qpError_kept {P0 : List Instr} (s : State) (i : Nat) (q : Qp) (hK : Kept P0 s) : Kept P0 (qpError s i q) := by
  unfold qpError
  try dsimp only
  repeat' (first | (with_reducible assumption) | (with_reducible apply setErr_kept) | (with_reducible apply setQp_kept))

theorem qpWriteAt_kept {P0 : List Instr} (s : State) (i : Nat) (hK : Kept P0 s) : Kept P0 (qpWriteAt s i) := by
  unfold qpWriteAt
  try dsimp only
  repeat' (first | (with_reducible assumption) | (with_reducible (intro _)) | (with_reducible apply setErr_kept)
                  | (with_reducible apply qpError_kept) | (with_reducible apply setQp_kept)
                  | (with_reducible apply Kept.ite))

theorem mrWriteAt_kept {P0 : List Instr} (s : State) (i : Nat) (hK : Kept P0 s) : Kept P0 (mrWriteAt s i) := by
  unfold mrWriteAt
  try dsimp only
  repeat' (first | (with_reducible assumption) | (with_reducible apply updHost_kept))

theorem zeroIndexes_kept {P0 : List Instr} (s : State) (q : Nat) (hK : Kept P0 s) : Kept P0 (zeroIndexes s q) := by
  unfold zeroIndexes
  try dsimp only
  repeat' (first | (with_reducible assumption) | (with_reducible apply wr1_kept))

theorem queueEnableAt_kept {P0 : List Instr} (s : State) (q : Nat) (hK : Kept P0 s) : Kept P0 (queueEnableAt s q) := by
  unfold queueEnableAt
  try dsimp only
  repeat' (first | (with_reducible assumption) | (with_reducible apply zeroIndexes_kept)
                  | (with_reducible apply wr1_kept))

theorem queueResetAt_kept {P0 : List Instr} (s : State) (q : Nat) (hK : Kept P0 s) : Kept P0 (queueResetAt s q) := by
  unfold queueResetAt
  try dsimp only
  repeat' (first | (with_reducible assumption) | (with_reducible (intro _)) | (with_reducible apply zeroIndexes_kept)
                  | (with_reducible apply updHost_kept) | (with_reducible apply wr1_kept)
                  | (with_reducible apply Kept.ite))

theorem settleReset_kept {P0 : List Instr} (s : State) (q : Nat) (hK : Kept P0 s) : Kept P0 (settleReset s q) := by
  unfold settleReset
  try dsimp only
  repeat' (first | (with_reducible assumption) | (with_reducible (intro _)) | (with_reducible apply updHost_kept)
                  | (with_reducible apply zeroIndexes_kept) | (with_reducible apply Kept.ite))

theorem cmdqWrite_kept {P0 : List Instr} (s : State) (off v : Nat) (hK : Kept P0 s) : Kept P0 (cmdqWrite s off v) := by
  unfold cmdqWrite
  try dsimp only
  repeat' (first | (with_reducible assumption) | (with_reducible (intro _)) | (with_reducible apply setErr_kept)
                  | (with_reducible (refine wrW_kept ?_ ..)) | (with_reducible apply queueEnableAt_kept)
                  | (with_reducible apply queueResetAt_kept) | (with_reducible apply Kept.ite))

end Sys2Proof.Machine
end

