-- ==== Sys2Proof/Laws/Kept/Regs.lean ====
section
/-!
SUPPORT. Every operation of Machine/Regs.lean keeps the invariant and the queue.
-/
namespace Sys2Proof.Machine

theorem startKat_kept {P0 : List Instr} (s : State) (n : Nat) (hK : Kept P0 s) : Kept P0 (startKat s n) := by
  unfold startKat
  try dsimp only
  repeat' (first | (with_reducible assumption) | (with_reducible (intro _))
                  | (with_reducible (refine updCore_kept ?_ _ ?_)) | (with_reducible apply wr_kept)
                  | (with_reducible apply setErr_kept) | (with_reducible apply Kept.ite)
                  | (simp only [Core.mk_eq]; with_reducible apply Core.ok.tabs))

theorem execKat_kept {P0 : List Instr} {t0 : State} (c : Fin 256) (s : State) (eN : execKat c s = .next t0) (hK : Kept P0 s) : Kept P0 t0 := by
  unfold execKat at eN
  try dsimp only at eN
  injection eN with eN
  subst eN
  repeat' (first | (with_reducible assumption) | (with_reducible (intro _)) | (with_reducible apply onPage_kept)
                  | (with_reducible apply startKat_kept))

theorem startZeroFill_kept {P0 : List Instr} (s : State) (n : Nat) (hK : Kept P0 s) : Kept P0 (startZeroFill s n) := by
  unfold startZeroFill
  try dsimp only
  repeat' (first | (with_reducible assumption) | (with_reducible (intro _))
                  | (with_reducible (refine updCore_kept ?_ _ ?_)) | (with_reducible apply setErr_kept)
                  | (with_reducible apply Kept.ite) | (simp only [Core.mk_eq]; with_reducible apply Core.ok.tabs))

theorem execZero_kept {P0 : List Instr} {t0 : State} (c : Fin 256) (s : State) (eN : execZero c s = .next t0) (hK : Kept P0 s) : Kept P0 t0 := by
  unfold execZero at eN
  try dsimp only at eN
  injection eN with eN
  subst eN
  repeat' (first | (with_reducible assumption) | (with_reducible (intro _)) | (with_reducible apply onPage_kept)
                  | (with_reducible apply startZeroFill_kept))

theorem execZeroFillDone_kept {P0 : List Instr} {t0 : State} (c : Fin 256) (s : State) (eN : execZeroFillDone c s = .next t0) (hK : Kept P0 s) : Kept P0 t0 := by
  unfold execZeroFillDone at eN
  try dsimp only at eN
  injection eN with eN
  subst eN
  repeat' (first | (with_reducible assumption) | (with_reducible (intro _))
                  | (with_reducible (refine updCore_kept ?_ _ ?_)) | (with_reducible apply Kept.ite)
                  | (with_reducible apply zeroSpad_ok))

theorem clearParts_kept {P0 : List Instr} (s : State) (n : Nat) (m : Nat) (hK : Kept P0 s) : Kept P0 (clearParts s n m) := by
  unfold clearParts
  try dsimp only
  repeat' (first | (with_reducible assumption) | (with_reducible (intro _)) | (with_reducible apply wr1_kept)
                  | (with_reducible apply setPart_kept) | (with_reducible apply Kept.ite)
                  | (with_reducible apply Kept.foldl))

theorem execPclr_kept {P0 : List Instr} {t0 : State} (c : Fin 256) (m : BitVec 4) (s : State) (eN : execPclr c m s = .next t0) (hK : Kept P0 s) : Kept P0 t0 := by
  unfold execPclr at eN
  try dsimp only at eN
  injection eN with eN
  subst eN
  repeat' (first | (with_reducible assumption) | (with_reducible (intro _)) | (with_reducible apply onPage_kept)
                  | (with_reducible apply clearParts_kept))

theorem setArrayPart_kept {P0 : List Instr} (s : State) (n v : Nat) (hK : Kept P0 s) : Kept P0 (setArrayPart s n v) := by
  unfold setArrayPart
  try dsimp only
  repeat' (first | (with_reducible assumption) | (with_reducible (intro _)) | (with_reducible apply setErr_kept)
                  | (with_reducible (refine wrW_kept ?_ ..)) | (with_reducible apply setPart_kept)
                  | (with_reducible apply Kept.ite) | (with_reducible apply Kept.foldl))

theorem execArrayPart_kept {P0 : List Instr} {t0 : State} (c : Fin 256) (v : BitVec 32) (s : State) (eN : execArrayPart c v s = .next t0) (hK : Kept P0 s) : Kept P0 t0 := by
  unfold execArrayPart at eN
  try dsimp only at eN
  injection eN with eN
  subst eN
  repeat' (first | (with_reducible assumption) | (with_reducible (intro _)) | (with_reducible apply onPage_kept)
                  | (with_reducible apply setArrayPart_kept))

theorem setRepair_kept {P0 : List Instr} (s : State) (n : Nat) (col : Bool) (v : Nat) (hK : Kept P0 s) : Kept P0 (setRepair s n col v) := by
  unfold setRepair
  try dsimp only
  repeat' (first | (with_reducible assumption) | (with_reducible (intro _)) | (with_reducible (refine wrW_kept ?_ ..))
                  | (with_reducible apply setErr_kept) | (with_reducible apply Kept.ite))

theorem execArrayRepair_kept {P0 : List Instr} {t0 : State} (c : Fin 256) (col : Bool) (v : BitVec 32) (s : State) (eN : execArrayRepair c col v s = .next t0) (hK : Kept P0 s) : Kept P0 t0 := by
  unfold execArrayRepair at eN
  try dsimp only at eN
  injection eN with eN
  subst eN
  repeat' (first | (with_reducible assumption) | (with_reducible (intro _)) | (with_reducible apply onPage_kept)
                  | (with_reducible apply setRepair_kept))

theorem setHbase_kept {P0 : List Instr} (s : State) (n h v : Nat) (hK : Kept P0 s) : Kept P0 (setHbase s n h v) := by
  unfold setHbase
  try dsimp only
  repeat' (first | (with_reducible assumption) | (with_reducible (intro _)) | (with_reducible apply wr1_kept)
                  | (with_reducible apply setErr_kept) | (with_reducible apply Kept.ite))

theorem execLedgerHbase_kept {P0 : List Instr} {t0 : State} (c : Fin 256) (h : Fin 64) (v : BitVec 32) (s : State) (eN : execLedgerHbase c h v s = .next t0) (hK : Kept P0 s) : Kept P0 t0 := by
  unfold execLedgerHbase at eN
  try dsimp only at eN
  injection eN with eN
  subst eN
  repeat' (first | (with_reducible assumption) | (with_reducible (intro _)) | (with_reducible apply onPage_kept)
                  | (with_reducible apply setHbase_kept))

theorem stopSlots_kept {P0 : List Instr} (s : State) (n m : Nat) (hK : Kept P0 s) : Kept P0 (stopSlots s n m) := by
  unfold stopSlots
  try dsimp only
  repeat' (first | (with_reducible assumption) | (with_reducible (intro _)) | (with_reducible apply stopSlot_kept)
                  | (with_reducible apply setErr_kept) | (with_reducible apply Kept.ite)
                  | (with_reducible apply Kept.foldl))

theorem execStreamStop_kept {P0 : List Instr} {t0 : State} (c : Fin 256) (m : BitVec 8) (s : State) (eN : execStreamStop c m s = .next t0) (hK : Kept P0 s) : Kept P0 t0 := by
  unfold execStreamStop at eN
  try dsimp only at eN
  injection eN with eN
  subst eN
  repeat' (first | (with_reducible assumption) | (with_reducible (intro _)) | (with_reducible apply onPage_kept)
                  | (with_reducible apply stopSlots_kept))

theorem execSeqHalt_kept {P0 : List Instr} {t0 : State} (c : Fin 256) (v : Bool) (s : State) (eN : execSeqHalt c v s = .next t0) (hK : Kept P0 s) : Kept P0 t0 := by
  unfold execSeqHalt at eN
  try dsimp only at eN
  injection eN with eN
  subst eN
  repeat' (first | (with_reducible assumption) | (with_reducible (intro _)) | (with_reducible apply onPage_kept)
                  | (with_reducible apply wr_kept))

theorem execSeqStep_kept {P0 : List Instr} {t0 : State} (c : Fin 256) (s : State) (eN : execSeqStep c s = .next t0) (hK : Kept P0 s) : Kept P0 t0 := by
  unfold execSeqStep at eN
  try dsimp only at eN
  injection eN with eN
  subst eN
  repeat' (first | (with_reducible assumption) | (with_reducible (intro _)) | (with_reducible apply onPage_kept)
                  | (with_reducible apply stepBundle_kept))

theorem imemAccess_kept {P0 : List Instr} (s : State) (n : Nat) (v : Option Nat) (hK : Kept P0 s) : Kept P0 (imemAccess s n v) := by
  unfold imemAccess
  try dsimp only
  repeat' (first | (with_reducible assumption) | (with_reducible (intro _)) | (with_reducible apply imemAdvance_kept)
                  | (with_reducible (refine updCore_kept ?_ _ ?_)) | (with_reducible apply setErr_kept)
                  | (with_reducible apply Kept.ite) | (simp only [Core.mk_eq]; with_reducible apply Core.ok.tabs)
                  | (split))

theorem execSeqImemData_kept {P0 : List Instr} {t0 : State} (c : Fin 256) (v : Option (BitVec 32)) (s : State) (eN : execSeqImemData c v s = .next t0) (hK : Kept P0 s) : Kept P0 t0 := by
  unfold execSeqImemData at eN
  try dsimp only at eN
  injection eN with eN
  subst eN
  repeat' (first | (with_reducible assumption) | (with_reducible (intro _)) | (with_reducible apply imemAccess_kept)
                  | (with_reducible apply onPage_kept) | (with_reducible apply Kept.ite) | (split))

theorem scaleWrite_kept {P0 : List Instr} (s : State) (n off v : Nat) (hK : Kept P0 s) : Kept P0 (scaleWrite s n off v) := by
  unfold scaleWrite
  try dsimp only
  repeat' (first | (with_reducible assumption) | (with_reducible (intro _))
                  | (with_reducible (refine updCore_kept ?_ _ ?_)) | (with_reducible apply setErr_kept)
                  | (with_reducible apply Kept.ite) | (simp only [Core.mk_eq]; with_reducible apply Core.ok.tabs))

theorem setSecLock_kept {P0 : List Instr} (s : State) (hK : Kept P0 s) : Kept P0 (setSecLock s) := by
  unfold setSecLock
  try dsimp only
  repeat' (first | (with_reducible assumption) | (with_reducible (intro _)) | (with_reducible apply wr_kept)
                  | (with_reducible apply logSec_kept) | (with_reducible apply extendDebug_kept)
                  | (with_reducible apply Kept.ite))

theorem execSecLock_kept {P0 : List Instr} {t0 : State} (s : State) (eN : execSecLock s = .next t0) (hK : Kept P0 s) : Kept P0 t0 := by
  unfold execSecLock at eN
  try dsimp only at eN
  injection eN with eN
  subst eN
  repeat' (first | (with_reducible assumption) | (with_reducible (intro _)) | (with_reducible apply onPage_kept)
                  | (with_reducible apply setSecLock_kept))

theorem execSysSem_kept {P0 : List Instr} {t0 : State} (k : Fin 16) (s : State) (eN : execSysSem k s = .next t0) (hK : Kept P0 s) : Kept P0 t0 := by
  unfold execSysSem at eN
  try dsimp only at eN
  injection eN with eN
  subst eN
  repeat' (first | (with_reducible assumption) | (with_reducible (intro _)) | (with_reducible apply takeSem_kept)
                  | (with_reducible apply Kept.ite))

theorem freeSems_kept {P0 : List Instr} (s : State) (m : Nat) (hK : Kept P0 s) : Kept P0 (freeSems s m) := by
  unfold freeSems
  try dsimp only
  repeat' (first | (with_reducible assumption) | (with_reducible (intro _)) | (with_reducible apply wr1_kept)
                  | (with_reducible apply updInnk_kept) | (with_reducible apply Kept.ite)
                  | (with_reducible apply Kept.foldl))

theorem execSysSemRel_kept {P0 : List Instr} {t0 : State} (v : BitVec 16) (s : State) (eN : execSysSemRel v s = .next t0) (hK : Kept P0 s) : Kept P0 t0 := by
  unfold execSysSemRel at eN
  try dsimp only at eN
  injection eN with eN
  subst eN
  repeat' (first | (with_reducible assumption) | (with_reducible (intro _)) | (with_reducible apply onPage_kept)
                  | (with_reducible apply freeSems_kept))

theorem execSemBreak_kept {P0 : List Instr} {t0 : State} (s : State) (eN : execSemBreak s = .next t0) (hK : Kept P0 s) : Kept P0 t0 := by
  unfold execSemBreak at eN
  try dsimp only at eN
  injection eN with eN
  subst eN
  repeat' (first | (with_reducible assumption) | (with_reducible (intro _)) | (with_reducible apply setErr_kept)
                  | (with_reducible apply updInnk_kept) | (with_reducible apply wr1_kept)
                  | (with_reducible apply Kept.ite))

theorem portCfgWrite_kept {P0 : List Instr} (s : State) (p v : Nat) (hK : Kept P0 s) : Kept P0 (portCfgWrite s p v) := by
  unfold portCfgWrite
  try dsimp only
  repeat' (first | (with_reducible assumption) | (with_reducible (intro _))
                  | (with_reducible (refine after_kept _ _ ?_ (fun t e => execSplit_kept (eN := e) (hK := ?_) ..)))
                  | (with_reducible apply wr_kept) | (with_reducible apply setPortEn_kept)
                  | (with_reducible apply Kept.ite))

theorem portCmdWrite_kept {P0 : List Instr} (s : State) (p v : Nat) (hK : Kept P0 s) : Kept P0 (portCmdWrite s p v) := by
  unfold portCmdWrite
  try dsimp only
  repeat' (first | (with_reducible assumption) | (with_reducible (intro _))
                  | (with_reducible (refine after_kept _ _ ?_ (fun t e => execRetrain_kept (eN := e) (hK := ?_) ..)))
                  | (with_reducible (refine after_kept _ _ ?_ (fun t e => execFabClose_kept (eN := e) (hK := ?_) ..)))
                  | (with_reducible (refine after_kept _ _ ?_ (fun t e => execFeedSwap_kept (eN := e) (hK := ?_) ..)))
                  | (with_reducible apply Kept.ite) | (with_reducible apply Kept.foldl))

theorem mapCtrlWrite_kept {P0 : List Instr} (s : State) (k v : Nat) (hK : Kept P0 s) : Kept P0 (mapCtrlWrite s k v) := by
  unfold mapCtrlWrite
  try dsimp only
  repeat' (first | (with_reducible assumption) | (with_reducible (intro _))
                  | (with_reducible (refine after_kept _ _ ?_ (fun t e => execMode_kept (eN := e) (hK := ?_) ..)))
                  | (with_reducible (refine after_kept _ _ ?_ (fun t e => execRebuild_kept (eN := e) (hK := ?_) ..)))
                  | (with_reducible apply Kept.ite))

theorem chCmdWrite_kept {P0 : List Instr} (s : State) (n v : Nat) (hK : Kept P0 s) : Kept P0 (chCmdWrite s n v) := by
  unfold chCmdWrite
  try dsimp only
  repeat' (first | (with_reducible assumption) | (with_reducible (intro _))
                  | (with_reducible (refine after_kept _ _ ?_ (fun t e => execFail_kept (eN := e) (hK := ?_) ..)))
                  | (with_reducible (refine after_kept _ _ ?_ (fun t e => execTestEnter_kept (eN := e) (hK := ?_) ..)))
                  | (with_reducible (refine after_kept _ _ ?_ (fun t e => execTestExit_kept (eN := e) (hK := ?_) ..)))
                  | (with_reducible apply Kept.ite))

theorem tgCtrlAct_kept {P0 : List Instr} (s : State) (n p v : Nat) (hK : Kept P0 s) : Kept P0 (tgCtrlAct s n p v) := by
  unfold tgCtrlAct
  try dsimp only
  repeat' (first | (with_reducible assumption) | (with_reducible (intro _))
                  | (with_reducible (refine after_kept _ _ ?_ (fun t e => execTgStart_kept (eN := e) (hK := ?_) ..)))
                  | (with_reducible (refine after_kept _ _ ?_ (fun t e => execTgStop_kept (eN := e) (hK := ?_) ..)))
                  | (with_reducible apply Kept.ite))

theorem carWrite_kept {P0 : List Instr} (s : State) (src page off v : Nat) (hK : Kept P0 s) : Kept P0 (carWrite s src page off v) := by
  unfold carWrite
  try dsimp only
  repeat' (first | (with_reducible assumption) | (with_reducible (intro _)) | (with_reducible apply setErr_kept)
                  | (with_reducible apply applyWord_kept)
                  | (with_reducible (refine after_kept _ _ ?_ (fun t e => execArmReshard_kept (eN := e) (hK := ?_) ..)))
                  | (with_reducible apply carTableWrite_kept) | (with_reducible apply updCar_kept)
                  | (with_reducible (refine after_kept _ _ ?_ (fun t e => execCaravanRankData_kept (eN := e) (hK := ?_) ..)))
                  | (with_reducible (refine after_kept _ _ ?_ (fun t e => execCaravanPlanData_kept (eN := e) (hK := ?_) ..)))
                  | (with_reducible apply Kept.ite) | (split))

theorem rtrWrite_kept {P0 : List Instr} (s : State) (src page off v : Nat) (hK : Kept P0 s) : Kept P0 (rtrWrite s src page off v) := by
  unfold rtrWrite
  try dsimp only
  repeat' (first | (with_reducible assumption) | (with_reducible (intro _))
                  | (with_reducible (refine after_kept _ _ ?_ (fun t e => execFabRtrId_kept (eN := e) (hK := ?_) ..)))
                  | (with_reducible apply applyWord_kept)
                  | (with_reducible (refine after_kept _ _ ?_ (fun t e => execRtWrite_kept (eN := e) (hK := ?_) ..)))
                  | (with_reducible (refine after_kept _ _ ?_ (fun t e => execOpen_kept (eN := e) (hK := ?_) ..)))
                  | (with_reducible (refine after_kept _ _ ?_ (fun t e => execWinClose_kept (eN := e) (hK := ?_) ..)))
                  | (with_reducible apply Kept.ite) | (split))

theorem coreWrite_kept {P0 : List Instr} (s : State) (src : Nat) (b : Blk) (n page off v : Nat) (hK : Kept P0 s) : Kept P0 (coreWrite s src b n page off v) := by
  unfold coreWrite
  try dsimp only
  repeat' (first | (with_reducible assumption) | (with_reducible (intro _)) | (with_reducible apply applyWord_kept)
                  | (with_reducible apply setArrayPart_kept) | (with_reducible apply clearParts_kept)
                  | (with_reducible apply setRepair_kept) | (with_reducible apply startZeroFill_kept)
                  | (with_reducible apply setHbase_kept) | (with_reducible apply setErr_kept)
                  | (with_reducible apply stopSlots_kept) | (with_reducible apply stepBundle_kept)
                  | (with_reducible apply imemAccess_kept) | (with_reducible apply scaleWrite_kept)
                  | (with_reducible apply startKat_kept) | (with_reducible apply Kept.ite) | (split))

theorem blockWrite_kept {P0 : List Instr} (s : State) (src : Nat) (b : Blk) (i page off v : Nat) (hK : Kept P0 s) : Kept P0 (blockWrite s src b i page off v) := by
  unfold blockWrite
  try dsimp only
  repeat' (first | (with_reducible assumption) | (with_reducible (intro _)) | (with_reducible apply applyWord_kept)
                  | (with_reducible apply coreWrite_kept) | (with_reducible apply mapCtrlWrite_kept)
                  | (with_reducible (refine after_kept _ _ ?_ (fun t e => execHbmXlate_kept (eN := e) (hK := ?_) ..)))
                  | (with_reducible apply chCmdWrite_kept) | (with_reducible apply tgCtrlAct_kept)
                  | (with_reducible apply portCfgWrite_kept) | (with_reducible apply portCmdWrite_kept)
                  | (with_reducible apply rtrWrite_kept) | (with_reducible apply carWrite_kept)
                  | (with_reducible apply hostDown_kept) | (with_reducible apply qpWriteAt_kept)
                  | (with_reducible apply mrWriteAt_kept) | (with_reducible apply cmdqWrite_kept)
                  | (with_reducible apply clearLeak_kept) | (with_reducible apply setErr_kept)
                  | (with_reducible apply setSecLock_kept) | (with_reducible apply freeSems_kept)
                  | (with_reducible apply Kept.ite) | (split))

theorem hdrWrite_kept {P0 : List Instr} (s : State) (src : Nat) (page off v : Nat) (hK : Kept P0 s) : Kept P0 (hdrWrite s src page off v) := by
  unfold hdrWrite
  try dsimp only
  repeat' (first | (with_reducible assumption) | (with_reducible (intro _)) | (with_reducible apply applyWord_kept)
                  | (with_reducible apply clearErrs_kept) | (with_reducible apply clearCounts_kept)
                  | (with_reducible apply Kept.ite))

theorem holdLo_kept {P0 : List Instr} (s : State) (src : Src) (page off v : Nat) (hK : Kept P0 s) : Kept P0 (holdLo s src page off v) := by
  unfold holdLo
  try dsimp only
  repeat' (first | (with_reducible assumption) | (with_reducible apply updHost_kept))

theorem pairWrite_kept {P0 : List Instr} (s : State) (src : Src) (b : Blk) (i page off v : Nat) (hK : Kept P0 s) : Kept P0 (pairWrite s src b i page off v) := by
  unfold pairWrite
  try dsimp only
  repeat' (first | (with_reducible assumption) | (with_reducible (intro _)) | (with_reducible apply updHost_kept)
                  | (with_reducible apply blockWrite_kept) | (with_reducible apply Kept.ite) | (split))

theorem regWrite_kept {P0 : List Instr} (s : State) (src : Src) (page off v : Nat) (hK : Kept P0 s) : Kept P0 (regWrite s src page off v) := by
  unfold regWrite
  try dsimp only
  repeat' (first | (with_reducible assumption) | (with_reducible (intro _)) | (with_reducible apply ignoreWrite_kept)
                  | (with_reducible apply hdrWrite_kept) | (with_reducible apply holdLo_kept)
                  | (with_reducible apply pairWrite_kept) | (with_reducible apply blockWrite_kept)
                  | (with_reducible apply Kept.ite) | (split))

theorem execRegisterWrite_kept {P0 : List Instr} {t0 : State} (src : Src) (page : Fin 16384) (word : Fin 1024) (v : BitVec 32) (s : State) (eN : execRegisterWrite src page word v s = .next t0) (hK : Kept P0 s) : Kept P0 t0 := by
  unfold execRegisterWrite at eN
  try dsimp only at eN
  injection eN with eN
  subst eN
  repeat' (first | (with_reducible assumption) | (with_reducible apply regWrite_kept))

theorem execPairLoWrite_kept {P0 : List Instr} {t0 : State} (src : Src) (page : Fin 16384) (word : Fin 1024) (v : BitVec 32) (s : State) (eN : execPairLoWrite src page word v s = .next t0) (hK : Kept P0 s) : Kept P0 t0 := by
  unfold execPairLoWrite at eN
  try dsimp only at eN
  injection eN with eN
  subst eN
  repeat' (first | (with_reducible assumption) | (with_reducible apply regWrite_kept))

theorem execPairLoRead_kept {P0 : List Instr} {t0 : State} (src : Src) (page : Fin 16384) (word : Fin 1024) (s : State) (eN : execPairLoRead src page word s = .next t0) (hK : Kept P0 s) : Kept P0 t0 := by
  unfold execPairLoRead at eN
  try dsimp only at eN
  injection eN with eN
  subst eN
  repeat' (first | (with_reducible assumption) | (with_reducible apply regRead_kept))

theorem execRcRead_kept {P0 : List Instr} {t0 : State} (src : Src) (page : Fin 16384) (word : Fin 1024) (s : State) (eN : execRcRead src page word s = .next t0) (hK : Kept P0 s) : Kept P0 t0 := by
  unfold execRcRead at eN
  try dsimp only at eN
  injection eN with eN
  subst eN
  repeat' (first | (with_reducible assumption) | (with_reducible apply regRead_kept))

theorem execJobStepnum_kept {P0 : List Instr} {t0 : State} (src : Src) (b : Fin 2) (hi : Bool) (v : BitVec 32) (s : State) (eN : execJobStepnum src b hi v s = .next t0) (hK : Kept P0 s) : Kept P0 t0 := by
  unfold execJobStepnum at eN
  try dsimp only at eN
  injection eN with eN
  subst eN
  repeat' (first | (with_reducible assumption) | (with_reducible apply regWrite_kept))

theorem execErrClr_kept {P0 : List Instr} {t0 : State} (page : Fin 16384) (s : State) (eN : execErrClr page s = .next t0) (hK : Kept P0 s) : Kept P0 t0 := by
  unfold execErrClr at eN
  try dsimp only at eN
  injection eN with eN
  subst eN
  repeat' (first | (with_reducible assumption) | (with_reducible apply ignoreWrite_kept)
                  | (with_reducible apply clearErrs_kept) | (split))

theorem execCntClr_kept {P0 : List Instr} {t0 : State} (page : Fin 16384) (s : State) (eN : execCntClr page s = .next t0) (hK : Kept P0 s) : Kept P0 t0 := by
  unfold execCntClr at eN
  try dsimp only at eN
  injection eN with eN
  subst eN
  repeat' (first | (with_reducible assumption) | (with_reducible apply ignoreWrite_kept)
                  | (with_reducible apply clearCounts_kept) | (split))

theorem execNocHazHitClear_kept {P0 : List Instr} {t0 : State} (d : Fin 4) (w : Fin 4) (s : State) (eN : execNocHazHitClear d w s = .next t0) (hK : Kept P0 s) : Kept P0 t0 := by
  unfold execNocHazHitClear at eN
  try dsimp only at eN
  injection eN with eN
  subst eN
  repeat' (first | (with_reducible assumption) | (with_reducible (intro _)) | (with_reducible apply onPage_kept)
                  | (with_reducible apply wr1_kept))

end Sys2Proof.Machine
end

