-- ==== Sys2Proof/Laws/Kept/Host.lean ====
section
/-!
SUPPORT. Every operation of Machine/Host.lean keeps the invariant and the queue.
-/
namespace Sys2Proof.Machine

theorem putFrame_kept {P0 : List Instr} (i : Nat) (s : State) (o : Out) (hK : Kept P0 s) : Kept P0 (putFrame i s o) := by
  unfold putFrame
  try dsimp only
  repeat' (first | (with_reducible assumption) | (with_reducible apply add64_kept) | (with_reducible apply emit_kept))

theorem flushTx_kept {P0 : List Instr} (s : State) (i : Nat) (hK : Kept P0 s) : Kept P0 (flushTx s i) := by
  unfold flushTx
  try dsimp only
  repeat' (first | (with_reducible assumption) | (with_reducible (intro _)) | (with_reducible apply putFrame_kept)
                  | (with_reducible apply updHost_kept) | (with_reducible apply Kept.ite)
                  | (with_reducible apply Kept.foldl) | (split))

theorem sendFrame_kept {P0 : List Instr} (s : State) (i : Nat) (o : Out) (hK : Kept P0 s) : Kept P0 (sendFrame s i o) := by
  unfold sendFrame
  try dsimp only
  repeat' (first | (with_reducible assumption) | (with_reducible (intro _)) | (with_reducible apply flushTx_kept)
                  | (with_reducible apply updHost_kept) | (with_reducible apply Kept.ite))

theorem execEthFrame_kept {P0 : List Instr} {t0 : State} (i : Fin 4) (f : EthFrame) (full : Bool) (s : State) (eN : execEthFrame i f full s = .next t0) (hK : Kept P0 s) : Kept P0 t0 := by
  unfold execEthFrame at eN
  try dsimp only at eN
  injection eN with eN
  subst eN
  repeat' (first | (with_reducible assumption) | (with_reducible (intro _)) | (with_reducible apply add64_kept)
                  | (with_reducible apply setErr_kept) | (with_reducible apply addSat_kept)
                  | (with_reducible apply Kept.ite))

theorem execArp_kept {P0 : List Instr} {t0 : State} (i : Fin 4) (ip : BitVec 32) (s : State) (eN : execArp i ip s = .next t0) (hK : Kept P0 s) : Kept P0 t0 := by
  unfold execArp at eN
  try dsimp only at eN
  injection eN with eN
  subst eN
  repeat' (first | (with_reducible assumption) | (with_reducible (intro _)) | (with_reducible apply sendFrame_kept)
                  | (with_reducible apply Kept.ite))

theorem execNeighbourSolicitation_kept {P0 : List Instr} {t0 : State} (i : Fin 4) (ip : BitVec 128) (s : State) (eN : execNeighbourSolicitation i ip s = .next t0) (hK : Kept P0 s) : Kept P0 t0 := by
  unfold execNeighbourSolicitation at eN
  try dsimp only at eN
  injection eN with eN
  subst eN
  repeat' (first | (with_reducible assumption) | (with_reducible (intro _)) | (with_reducible apply sendFrame_kept)
                  | (with_reducible apply Kept.ite))

theorem execPfcFrame_kept {P0 : List Instr} {t0 : State} (i : Fin 4) (en : BitVec 8) (times : List (BitVec 16)) (s : State) (eN : execPfcFrame i en times s = .next t0) (hK : Kept P0 s) : Kept P0 t0 := by
  unfold execPfcFrame at eN
  try dsimp only at eN
  injection eN with eN
  subst eN
  repeat' (first | (with_reducible assumption) | (with_reducible (intro _)) | (with_reducible apply addWrap_kept)
                  | (with_reducible apply updHost_kept) | (with_reducible apply flushTx_kept)
                  | (with_reducible apply Kept.ite) | (with_reducible apply Kept.foldl))

theorem sendPause_kept {P0 : List Instr} (s : State) (i quanta : Nat) (hK : Kept P0 s) : Kept P0 (sendPause s i quanta) := by
  unfold sendPause
  try dsimp only
  repeat' (first | (with_reducible assumption) | (with_reducible apply addWrap_kept)
                  | (with_reducible apply putFrame_kept))

theorem pauseAt_kept {P0 : List Instr} (s : State) (i free : Nat) (hK : Kept P0 s) : Kept P0 (pauseAt s i free) := by
  unfold pauseAt
  try dsimp only
  repeat' (first | (with_reducible assumption) | (with_reducible (intro _)) | (with_reducible apply updHost_kept)
                  | (with_reducible apply sendPause_kept) | (with_reducible apply Kept.ite))

theorem execPfcXoff_kept {P0 : List Instr} {t0 : State} (i : Fin 4) (free : BitVec 12) (s : State) (eN : execPfcXoff i free s = .next t0) (hK : Kept P0 s) : Kept P0 t0 := by
  unfold execPfcXoff at eN
  try dsimp only at eN
  injection eN with eN
  subst eN
  repeat' (first | (with_reducible assumption) | (with_reducible apply pauseAt_kept))

theorem execPfcXon_kept {P0 : List Instr} {t0 : State} (i : Fin 4) (free : BitVec 12) (s : State) (eN : execPfcXon i free s = .next t0) (hK : Kept P0 s) : Kept P0 t0 := by
  unfold execPfcXon at eN
  try dsimp only at eN
  injection eN with eN
  subst eN
  repeat' (first | (with_reducible assumption) | (with_reducible (intro _)) | (with_reducible apply updHost_kept)
                  | (with_reducible apply sendPause_kept) | (with_reducible apply Kept.ite))

theorem badQp_kept {P0 : List Instr} (s : State) (hK : Kept P0 s) : Kept P0 (badQp s) := by
  unfold badQp
  try dsimp only
  repeat' (first | (with_reducible assumption) | (with_reducible apply setErr_kept) | (with_reducible apply addSat_kept))

theorem markCe_kept {P0 : List Instr} (s : State) (i : Nat) (ce : Bool) (hK : Kept P0 s) : Kept P0 (markCe s i ce) := by
  unfold markCe
  try dsimp only
  repeat' (first | (with_reducible assumption) | (with_reducible (intro _)) | (with_reducible apply addWrap_kept)
                  | (with_reducible apply sendFrame_kept) | (with_reducible apply setQp_kept)
                  | (with_reducible apply Kept.ite))

theorem onPacket_kept {P0 : List Instr} (s : State) (p : RocePkt) (f : State → Nat → State) (hK : Kept P0 s) (hf_f : ∀ (y0 : State) (y1 : Nat), Kept P0 y0 → Kept P0 (f y0 y1)) : Kept P0 (onPacket s p f) := by
  unfold onPacket
  try dsimp only
  repeat' (first | (with_reducible assumption) | (with_reducible (intro _)) | (with_reducible apply hf_f)
                  | (with_reducible apply markCe_kept) | (with_reducible apply badQp_kept)
                  | (with_reducible apply Kept.ite) | (split))

theorem sendNak_kept {P0 : List Instr} (s : State) (i psn synd : Nat) (hK : Kept P0 s) : Kept P0 (sendNak s i psn synd) := by
  unfold sendNak
  try dsimp only
  repeat' (first | (with_reducible assumption) | (with_reducible (intro _)) | (with_reducible apply addSat_kept)
                  | (with_reducible apply sendFrame_kept) | (with_reducible apply setQp_kept)
                  | (with_reducible apply setErr_kept) | (with_reducible apply qpError_kept)
                  | (with_reducible apply Kept.ite))

theorem rejectDb_kept {P0 : List Instr} (s : State) (q : Nat) (hK : Kept P0 s) : Kept P0 (rejectDb s q) := by
  unfold rejectDb
  try dsimp only
  repeat' (first | (with_reducible assumption) | (with_reducible apply setErr_kept) | (with_reducible apply addSat1_kept))

theorem sqDoorbell_kept {P0 : List Instr} (s : State) (q qp v : Nat) (hK : Kept P0 s) : Kept P0 (sqDoorbell s q qp v) := by
  unfold sqDoorbell
  try dsimp only
  repeat' (first | (with_reducible assumption) | (with_reducible (intro _)) | (with_reducible apply rejectDb_kept)
                  | (with_reducible apply wr1_kept) | (with_reducible apply setErr_kept)
                  | (with_reducible apply Kept.ite))

theorem cqDoorbell_kept {P0 : List Instr} (s : State) (q qp v : Nat) (hK : Kept P0 s) : Kept P0 (cqDoorbell s q qp v) := by
  unfold cqDoorbell
  try dsimp only
  repeat' (first | (with_reducible assumption) | (with_reducible (intro _)) | (with_reducible apply rejectDb_kept)
                  | (with_reducible apply wr1_kept) | (with_reducible apply setErr_kept)
                  | (with_reducible apply Kept.ite))

theorem execSqDb_kept {P0 : List Instr} {t0 : State} (q : Fin 4) (qp : Fin 2048) (v : BitVec 32) (s : State) (eN : execSqDb q qp v s = .next t0) (hK : Kept P0 s) : Kept P0 t0 := by
  unfold execSqDb at eN
  try dsimp only at eN
  injection eN with eN
  subst eN
  repeat' (first | (with_reducible assumption) | (with_reducible (intro _)) | (with_reducible apply sqDoorbell_kept)
                  | (with_reducible apply Kept.ite))

theorem execCqDb_kept {P0 : List Instr} {t0 : State} (q : Fin 4) (qp : Fin 2048) (v : BitVec 32) (s : State) (eN : execCqDb q qp v s = .next t0) (hK : Kept P0 s) : Kept P0 t0 := by
  unfold execCqDb at eN
  try dsimp only at eN
  injection eN with eN
  subst eN
  repeat' (first | (with_reducible assumption) | (with_reducible (intro _)) | (with_reducible apply cqDoorbell_kept)
                  | (with_reducible apply Kept.ite))

theorem doorbellWrite_kept {P0 : List Instr} (s : State) (qp off : Nat) (bs : List Byte) (hK : Kept P0 s) : Kept P0 (doorbellWrite s qp off bs) := by
  unfold doorbellWrite
  try dsimp only
  repeat' (first | (with_reducible assumption) | (with_reducible (intro _)) | (with_reducible apply sqDoorbell_kept)
                  | (with_reducible apply cqDoorbell_kept) | (with_reducible apply rejectDb_kept)
                  | (with_reducible apply Kept.ite))

theorem windowWrite_kept {P0 : List Instr} (src : Src) (k : Nat) : ∀ (s : State) (a : Nat) (bs : List Byte), Kept P0 s → Kept P0 (windowWrite src k s a bs) := by
  induction k with
  | zero => intro s a bs h; exact h
  | succ k ih => intro s a bs h; exact ih _ _ _ (regWrite_kept _ _ _ _ _ h)

theorem windowRead_kept {P0 : List Instr} (src : Src) (k : Nat) : ∀ (s : State) (a : Nat), Kept P0 s → Kept P0 (windowRead src k s a).2 := by
  induction k with
  | zero => intro s a h; exact h
  | succ k ih => intro s a h; exact ih _ _ (regRead_kept _ _ _ _ h)
theorem windowRead_kept_of {P0 : List Instr} {src : Src} {k : Nat} {s : State} {a : Nat} {r0 : List Byte} {t0 : State} (e : windowRead src k s a = (r0, t0)) (hK : Kept P0 s) : Kept P0 t0 := by
  have := windowRead_kept src k s a hK
  rw [e] at this
  exact this

theorem rdmaApply_kept {P0 : List Instr} (s : State) (i key va : Nat) (bs : List Byte) (hK : Kept P0 s) : Kept P0 (rdmaApply s i key va bs) := by
  unfold rdmaApply
  try dsimp only
  repeat' (first | (with_reducible assumption) | (with_reducible (intro _)) | (with_reducible apply windowWrite_kept)
                  | (with_reducible apply doorbellWrite_kept) | (with_reducible apply hbmWrite_kept)
                  | (with_reducible apply Kept.ite))

theorem writePkt_kept {P0 : List Instr} (s : State) (p : RocePkt) (i : Nat) (hK : Kept P0 s) : Kept P0 (writePkt s p i) := by
  unfold writePkt
  try dsimp only
  repeat' (first | (with_reducible assumption) | (with_reducible (intro _)) | (with_reducible apply sendNak_kept)
                  | (with_reducible apply sendFrame_kept) | (with_reducible apply rdmaApply_kept)
                  | (with_reducible apply setQp_kept) | (with_reducible apply Kept.ite) | (split))

theorem execRdmaWrite_kept {P0 : List Instr} {t0 : State} (p : RocePkt) (s : State) (eN : execRdmaWrite p s = .next t0) (hK : Kept P0 s) : Kept P0 t0 := by
  unfold execRdmaWrite at eN
  try dsimp only at eN
  injection eN with eN
  subst eN
  repeat' (first | (with_reducible assumption) | (with_reducible (intro _)) | (with_reducible apply onPacket_kept)
                  | (with_reducible apply writePkt_kept))

theorem rdmaFetch_kept {P0 : List Instr} (s : State) (i key va n : Nat) (hK : Kept P0 s) : Kept P0 (rdmaFetch s i key va n).2.2 := by
  unfold rdmaFetch
  try dsimp only
  repeat' (first | (with_reducible assumption) | (with_reducible apply windowRead_kept)
                  | (with_reducible apply freeBytes_kept) | (with_reducible apply hbmRead_kept) | (split))

theorem rdmaFetch_kept_of {P0 : List Instr} {s : State} {i key va n : Nat} {r0 : List Byte} {r1 : Bool} {t0 : State} (e : rdmaFetch s i key va n = (r0, r1, t0)) (hK : Kept P0 s) : Kept P0 t0 := by
  have := rdmaFetch_kept s i key va n hK
  rw [e] at this
  exact this

theorem readResponses_kept {P0 : List Instr} (i key psn mtu : Nat) (k : Nat) : ∀ (s : State) (j va left : Nat), Kept P0 s → Kept P0 (readResponses i key psn mtu k s j va left) := by
  induction k with
  | zero => intro s j va left h; exact h
  | succ k ih =>
    intro s j va left h
    unfold readResponses
    dsimp only
    apply Kept.ite <;> intro _
    · exact sendNak_kept _ _ _ _ (rdmaFetch_kept _ _ _ _ _ h)
    · exact ih _ _ _ _ (sendFrame_kept _ _ _ (rdmaFetch_kept _ _ _ _ _ h))

theorem readPkt_kept {P0 : List Instr} (s : State) (p : RocePkt) (i : Nat) (hK : Kept P0 s) : Kept P0 (readPkt s p i) := by
  unfold readPkt
  try dsimp only
  repeat' (first | (with_reducible assumption) | (with_reducible (intro _)) | (with_reducible apply sendNak_kept)
                  | (with_reducible apply setQp_kept) | (with_reducible apply readResponses_kept)
                  | (with_reducible apply Kept.ite))

theorem execRdmaRead_kept {P0 : List Instr} {t0 : State} (p : RocePkt) (s : State) (eN : execRdmaRead p s = .next t0) (hK : Kept P0 s) : Kept P0 t0 := by
  unfold execRdmaRead at eN
  try dsimp only at eN
  injection eN with eN
  subst eN
  repeat' (first | (with_reducible assumption) | (with_reducible (intro _)) | (with_reducible apply onPacket_kept)
                  | (with_reducible apply readPkt_kept))

theorem execReceivedSend_kept {P0 : List Instr} {t0 : State} (p : RocePkt) (s : State) (eN : execReceivedSend p s = .next t0) (hK : Kept P0 s) : Kept P0 t0 := by
  unfold execReceivedSend at eN
  try dsimp only at eN
  injection eN with eN
  subst eN
  repeat' (first | (with_reducible assumption) | (with_reducible (intro _)) | (with_reducible apply onPacket_kept)
                  | (with_reducible apply sendNak_kept) | (with_reducible apply Kept.ite))

theorem execCnp_kept {P0 : List Instr} {t0 : State} (qpn : BitVec 24) (s : State) (eN : execCnp qpn s = .next t0) (hK : Kept P0 s) : Kept P0 t0 := by
  unfold execCnp at eN
  try dsimp only at eN
  injection eN with eN
  subst eN
  repeat' (first | (with_reducible assumption) | (with_reducible (intro _)) | (with_reducible apply badQp_kept)
                  | (with_reducible apply addWrap_kept) | (with_reducible apply setQp_kept)
                  | (with_reducible apply Kept.ite) | (split))

theorem execRateInterval_kept {P0 : List Instr} {t0 : State} (i : Fin 2048) (s : State) (eN : execRateInterval i s = .next t0) (hK : Kept P0 s) : Kept P0 t0 := by
  unfold execRateInterval at eN
  try dsimp only at eN
  injection eN with eN
  subst eN
  repeat' (first | (with_reducible assumption) | (with_reducible (intro _)) | (with_reducible apply setQp_kept)
                  | (with_reducible apply Kept.ite))

theorem sendOn_kept {P0 : List Instr} (s : State) (i : Nat) (bs : List Byte) (hK : Kept P0 s) : Kept P0 (sendOn s i bs) := by
  unfold sendOn
  try dsimp only
  repeat' (first | (with_reducible assumption) | (with_reducible apply setQp_kept)
                  | (with_reducible apply sendFrame_kept))

theorem notifyOn_kept {P0 : List Instr} (s : State) (q : Nat) (bs : List Byte) (hK : Kept P0 s) : Kept P0 (notifyOn s q bs) := by
  unfold notifyOn
  try dsimp only
  repeat' (first | (with_reducible assumption) | (with_reducible (intro _)) | (with_reducible apply sendOn_kept)
                  | (with_reducible apply setErr_kept) | (with_reducible apply addSat_kept)
                  | (with_reducible apply Kept.ite))

theorem resend_kept {P0 : List Instr} (s : State) (i : Nat) (q : Qp) (hK : Kept P0 s) : Kept P0 (resend s i q) := by
  unfold resend
  try dsimp only
  repeat' (first | (with_reducible assumption) | (with_reducible (intro _)) | (with_reducible apply sendFrame_kept)
                  | (with_reducible apply setQp_kept) | (with_reducible apply addSat_kept)
                  | (with_reducible apply Kept.foldl))

theorem execAck_kept {P0 : List Instr} {t0 : State} (qpn psn : BitVec 24) (synd : BitVec 8) (s : State) (eN : execAck qpn psn synd s = .next t0) (hK : Kept P0 s) : Kept P0 t0 := by
  unfold execAck at eN
  try dsimp only at eN
  injection eN with eN
  subst eN
  repeat' (first | (with_reducible assumption) | (with_reducible (intro _)) | (with_reducible apply badQp_kept)
                  | (with_reducible apply setQp_kept) | (with_reducible apply qpError_kept)
                  | (with_reducible apply resend_kept) | (with_reducible apply Kept.ite) | (split))

theorem execRetransmitTimeout_kept {P0 : List Instr} {t0 : State} (i : Fin 2048) (s : State) (eN : execRetransmitTimeout i s = .next t0) (hK : Kept P0 s) : Kept P0 t0 := by
  unfold execRetransmitTimeout at eN
  try dsimp only at eN
  injection eN with eN
  subst eN
  repeat' (first | (with_reducible assumption) | (with_reducible (intro _)) | (with_reducible apply qpError_kept)
                  | (with_reducible apply resend_kept) | (with_reducible apply Kept.ite))

theorem execQpWrite_kept {P0 : List Instr} {t0 : State} (i : Fin 2048) (s : State) (eN : execQpWrite i s = .next t0) (hK : Kept P0 s) : Kept P0 t0 := by
  unfold execQpWrite at eN
  try dsimp only at eN
  injection eN with eN
  subst eN
  repeat' (first | (with_reducible assumption) | (with_reducible (intro _)) | (with_reducible apply onPage_kept)
                  | (with_reducible apply qpWriteAt_kept) | (with_reducible apply wr_kept))

theorem execMrWrite_kept {P0 : List Instr} {t0 : State} (i : Fin 64) (s : State) (eN : execMrWrite i s = .next t0) (hK : Kept P0 s) : Kept P0 t0 := by
  unfold execMrWrite at eN
  try dsimp only at eN
  injection eN with eN
  subst eN
  repeat' (first | (with_reducible assumption) | (with_reducible (intro _)) | (with_reducible apply onPage_kept)
                  | (with_reducible apply mrWriteAt_kept) | (with_reducible apply wr_kept))

theorem startCmd_kept {P0 : List Instr} (s : State) (q n bytes : Nat) (hK : Kept P0 s) : Kept P0 (startCmd s q n bytes) := by
  unfold startCmd
  try dsimp only
  repeat' (first | (with_reducible assumption) | (with_reducible apply updHost_kept))

theorem execCommandFetch_kept {P0 : List Instr} {t0 : State} (q : Fin 4) (s : State) (eN : execCommandFetch q s = .next t0) (hK : Kept P0 s) : Kept P0 t0 := by
  unfold execCommandFetch at eN
  try dsimp only at eN
  injection eN with eN
  subst eN
  repeat' (first | (with_reducible assumption) | (with_reducible (intro _)) | (with_reducible apply hbmRead_kept)
                  | (with_reducible apply wr1_kept) | (with_reducible apply startCmd_kept)
                  | (with_reducible apply finishCmd_kept) | (with_reducible apply Kept.ite))

theorem putRecord_kept {P0 : List Instr} (s : State) (q tag slot opc status detail result : Nat) (note : Bool) (hK : Kept P0 s) : Kept P0 (putRecord s q tag slot opc status detail result note) := by
  unfold putRecord
  try dsimp only
  repeat' (first | (with_reducible assumption) | (with_reducible (intro _)) | (with_reducible apply wr1_kept)
                  | (with_reducible apply hbmWriteOwn_kept) | (with_reducible apply notifyOn_kept)
                  | (with_reducible apply Kept.ite))

theorem dropCmd_kept {P0 : List Instr} (s : State) (q n : Nat) (hK : Kept P0 s) : Kept P0 (dropCmd s q n) := by
  unfold dropCmd
  try dsimp only
  repeat' (first | (with_reducible assumption) | (with_reducible apply updHost_kept))

theorem execCommandComplete_kept {P0 : List Instr} {t0 : State} (q : Fin 5) (n : BitVec 32) (s : State) (eN : execCommandComplete q n s = .next t0) (hK : Kept P0 s) : Kept P0 t0 := by
  unfold execCommandComplete at eN
  try dsimp only at eN
  injection eN with eN
  subst eN
  repeat' (first | (with_reducible assumption) | (with_reducible (intro _)) | (with_reducible apply settleReset_kept)
                  | (with_reducible apply putRecord_kept) | (with_reducible apply dropCmd_kept)
                  | (with_reducible apply drawFree_kept) | (with_reducible apply reply_kept)
                  | (with_reducible apply Kept.ite) | (split))

theorem execEvent_kept {P0 : List Instr} {t0 : State} (s : State) (eN : execEvent s = .next t0) (hK : Kept P0 s) : Kept P0 t0 := by
  have e := eN
  clear eN
  unfold execEvent at e
  injection e with e
  subst e
  split
  · exact hK
  · rename_i x es hx
    have hle : es.length ≤ 256 := by
      have := hK.2.events; rw [hx] at this; simp only [List.length_cons] at this; omega
    have h0 : Kept P0 { s with events := es } := ⟨hK.1, { hK.2 with events := hle }⟩
    dsimp only
    apply Kept.ite <;> intro _
    · have h1 := putRecord_kept _ 2 x.seq 0xFFFF 0xFF x.status x.detail x.result true h0
      apply Kept.ite <;> intro _
      · exact h1
      · exact raiseEvent_kept _ _ _ _ _ (updHost_kept _ _ h1)
    · exact hK

theorem execQueueReset_kept {P0 : List Instr} {t0 : State} (q : Fin 4) (s : State) (eN : execQueueReset q s = .next t0) (hK : Kept P0 s) : Kept P0 t0 := by
  unfold execQueueReset at eN
  try dsimp only at eN
  injection eN with eN
  subst eN
  repeat' (first | (with_reducible assumption) | (with_reducible (intro _)) | (with_reducible apply onPage_kept)
                  | (with_reducible apply queueResetAt_kept))

theorem execQueueEnable_kept {P0 : List Instr} {t0 : State} (q : Fin 4) (s : State) (eN : execQueueEnable q s = .next t0) (hK : Kept P0 s) : Kept P0 t0 := by
  unfold execQueueEnable at eN
  try dsimp only at eN
  injection eN with eN
  subst eN
  repeat' (first | (with_reducible assumption) | (with_reducible (intro _)) | (with_reducible apply onPage_kept)
                  | (with_reducible apply queueEnableAt_kept))

end Sys2Proof.Machine
end

