-- ==== Sys2Proof/Laws/Kept/Passport.lean ====
section
/-!
SUPPORT. Every operation of Machine/Passport.lean keeps the invariant and the queue.
-/
namespace Sys2Proof.Machine

theorem fabricMsg_kept {P0 : List Instr} {s : State} {op ty : Nat} {r0 : _} {t0 : State} (e : fabricMsg s op ty = some (r0, t0)) (hK : Kept P0 s) : Kept P0 t0 := by
  unfold fabricMsg at e
  split at e
  · rename_i h1
    dsimp only at e
    split at e
    · simp only [Option.some.injEq, Prod.mk.injEq] at e
      rw [← e.2]; exact takeMgmt_kept h1 hK
    · cases e
  · cases e

theorem serveFabric_kept {P0 : List Instr} (s : State) (m : Msg) (op : Nat) (f : State → Reply → List Byte → State) (hK : Kept P0 s) (hf_f : ∀ (y0 : State) (y1 : Reply) (y2 : List Byte), Kept P0 y0 → Kept P0 (f y0 y1 y2)) : Kept P0 (serveFabric s m op f) := by
  unfold serveFabric
  try dsimp only
  repeat' (first | (with_reducible assumption) | (with_reducible (intro _)) | (with_reducible apply hf_f)
                  | (with_reducible apply reply_kept) | (with_reducible apply Kept.ite))

theorem onMsg_kept {P0 : List Instr} (s : State) (v : Via) (ty : Nat) (f : State → Reply → List Byte → State) (hK : Kept P0 s)
    (hf_f : ∀ y0 y1 y2, Kept P0 y0 → Kept P0 (f y0 y1 y2)) : Kept P0 (onMsg s v ty f) := by
  unfold onMsg
  split
  · apply Kept.ite <;> intro _
    · apply Kept.ite <;> intro _
      · exact reply_kept _ _ _ _ _ _ hK
      · exact hf_f _ _ _ hK
    · exact hK
  · split
    · rename_i e
      split at e
      · exact serveFabric_kept _ _ _ _ (fabricMsg_kept e hK) hf_f
      · cases e
    · split
      · rename_i e
        split at e
        · exact serveFabric_kept _ _ _ _ (fabricMsg_kept e hK) hf_f
        · cases e
      · exact hK

theorem onEmpty_kept {P0 : List Instr} (s : State) (who : Reply) (body : List Byte) (f : State → State) (hK : Kept P0 s) (hf_f : ∀ (y0 : State), Kept P0 y0 → Kept P0 (f y0)) : Kept P0 (onEmpty s who body f) := by
  unfold onEmpty
  try dsimp only
  repeat' (first | (with_reducible assumption) | (with_reducible (intro _)) | (with_reducible apply hf_f)
                  | (with_reducible apply reply_kept) | (with_reducible apply Kept.ite))

theorem msgGetInfo_kept {P0 : List Instr} (s : State) (who : Reply) (body : List Byte) (hK : Kept P0 s) : Kept P0 (msgGetInfo s who body) := by
  unfold msgGetInfo
  try dsimp only
  repeat' (first | (with_reducible assumption) | (with_reducible (intro _)) | (with_reducible apply onEmpty_kept)
                  | (with_reducible apply reply_kept))

theorem msgGetCert_kept {P0 : List Instr} (s : State) (who : Reply) (body : List Byte) (hK : Kept P0 s) : Kept P0 (msgGetCert s who body) := by
  unfold msgGetCert
  try dsimp only
  repeat' (first | (with_reducible assumption) | (with_reducible (intro _)) | (with_reducible apply reply_kept)
                  | (with_reducible apply Kept.ite))

theorem msgGetMeasLog_kept {P0 : List Instr} (s : State) (who : Reply) (body : List Byte) (hK : Kept P0 s) : Kept P0 (msgGetMeasLog s who body) := by
  unfold msgGetMeasLog
  try dsimp only
  repeat' (first | (with_reducible assumption) | (with_reducible (intro _)) | (with_reducible apply reply_kept)
                  | (with_reducible apply Kept.ite))

theorem msgGetReport_kept {P0 : List Instr} (s : State) (who : Reply) (body : List Byte) (hK : Kept P0 s) : Kept P0 (msgGetReport s who body) := by
  unfold msgGetReport
  try dsimp only
  repeat' (first | (with_reducible assumption) | (with_reducible (intro _)) | (with_reducible apply reply_kept)
                  | (with_reducible apply drawFree_kept) | (with_reducible apply Kept.ite))

theorem msgGetNonce_kept {P0 : List Instr} (s : State) (who : Reply) (body : List Byte) (hK : Kept P0 s) : Kept P0 (msgGetNonce s who body) := by
  unfold msgGetNonce
  try dsimp only
  repeat' (first | (with_reducible assumption) | (with_reducible (intro _)) | (with_reducible apply onEmpty_kept)
                  | (with_reducible apply reply_kept))

theorem onToken_kept {P0 : List Instr} (s : State) (who : Reply) (kind : Nat) (t : List Byte) (f : State → State) (hK : Kept P0 s) (hf_f : ∀ (y0 : State), Kept P0 y0 → Kept P0 (f y0)) : Kept P0 (onToken s who kind t f) := by
  unfold onToken
  try dsimp only
  repeat' (first | (with_reducible assumption) | (with_reducible (intro _)) | (with_reducible apply hf_f)
                  | (with_reducible apply reply_kept) | (with_reducible apply rejectToken_kept)
                  | (with_reducible apply acceptToken_kept) | (with_reducible apply Kept.ite) | (split))

theorem msgDebugToken_kept {P0 : List Instr} (s : State) (who : Reply) (body : List Byte) (hK : Kept P0 s) : Kept P0 (msgDebugToken s who body) := by
  unfold msgDebugToken
  try dsimp only
  repeat' (first | (with_reducible assumption) | (with_reducible (intro _)) | (with_reducible apply onToken_kept)
                  | (with_reducible apply openLevel_kept))

theorem msgLifecycleToken_kept {P0 : List Instr} (s : State) (who : Reply) (body : List Byte) (hK : Kept P0 s) : Kept P0 (msgLifecycleToken s who body) := by
  unfold msgLifecycleToken
  try dsimp only
  repeat' (first | (with_reducible assumption) | (with_reducible (intro _)) | (with_reducible apply onToken_kept)
                  | (with_reducible apply startZero_kept))

theorem msgRevokeToken_kept {P0 : List Instr} (s : State) (who : Reply) (body : List Byte) (hK : Kept P0 s) : Kept P0 (msgRevokeToken s who body) := by
  unfold msgRevokeToken
  try dsimp only
  repeat' (first | (with_reducible assumption) | (with_reducible (intro _)) | (with_reducible apply onToken_kept)
                  | (with_reducible apply wr_kept) | (with_reducible apply reply_kept)
                  | (with_reducible apply logSec_kept) | (with_reducible apply setErr_kept))

theorem msgDebugCloseOp_kept {P0 : List Instr} (s : State) (who : Reply) (body : List Byte) (hK : Kept P0 s) : Kept P0 (msgDebugCloseOp s who body) := by
  unfold msgDebugCloseOp
  try dsimp only
  repeat' (first | (with_reducible assumption) | (with_reducible (intro _)) | (with_reducible apply onEmpty_kept)
                  | (with_reducible apply reply_kept) | (with_reducible apply closeDebug_kept))

theorem passportMsg_kept {P0 : List Instr} (s : State) (ty : Nat) (who : Reply) (body : List Byte) (hK : Kept P0 s) : Kept P0 (passportMsg s ty who body) := by
  unfold passportMsg
  try dsimp only
  repeat' (first | (with_reducible assumption) | (with_reducible apply msgGetInfo_kept)
                  | (with_reducible apply msgGetCert_kept) | (with_reducible apply msgGetMeasLog_kept)
                  | (with_reducible apply msgGetReport_kept) | (with_reducible apply msgGetNonce_kept)
                  | (with_reducible apply msgDebugToken_kept) | (with_reducible apply msgLifecycleToken_kept)
                  | (with_reducible apply msgRevokeToken_kept) | (with_reducible apply msgDebugCloseOp_kept)
                  | (with_reducible apply reply_kept) | (split))

theorem execGetInfo_kept {P0 : List Instr} {t0 : State} (v : Via) (s : State) (eN : execGetInfo v s = .next t0) (hK : Kept P0 s) : Kept P0 t0 := by
  unfold execGetInfo at eN
  try dsimp only at eN
  injection eN with eN
  subst eN
  repeat' (first | (with_reducible assumption) | (with_reducible (intro _)) | (with_reducible apply onMsg_kept)
                  | (with_reducible apply msgGetInfo_kept))

theorem execGetCert_kept {P0 : List Instr} {t0 : State} (v : Via) (s : State) (eN : execGetCert v s = .next t0) (hK : Kept P0 s) : Kept P0 t0 := by
  unfold execGetCert at eN
  try dsimp only at eN
  injection eN with eN
  subst eN
  repeat' (first | (with_reducible assumption) | (with_reducible (intro _)) | (with_reducible apply onMsg_kept)
                  | (with_reducible apply msgGetCert_kept))

theorem execGetMeasLog_kept {P0 : List Instr} {t0 : State} (v : Via) (s : State) (eN : execGetMeasLog v s = .next t0) (hK : Kept P0 s) : Kept P0 t0 := by
  unfold execGetMeasLog at eN
  try dsimp only at eN
  injection eN with eN
  subst eN
  repeat' (first | (with_reducible assumption) | (with_reducible (intro _)) | (with_reducible apply onMsg_kept)
                  | (with_reducible apply msgGetMeasLog_kept))

theorem execGetReport_kept {P0 : List Instr} {t0 : State} (v : Via) (s : State) (eN : execGetReport v s = .next t0) (hK : Kept P0 s) : Kept P0 t0 := by
  unfold execGetReport at eN
  try dsimp only at eN
  injection eN with eN
  subst eN
  repeat' (first | (with_reducible assumption) | (with_reducible (intro _)) | (with_reducible apply onMsg_kept)
                  | (with_reducible apply msgGetReport_kept))

theorem execGetNonce_kept {P0 : List Instr} {t0 : State} (v : Via) (s : State) (eN : execGetNonce v s = .next t0) (hK : Kept P0 s) : Kept P0 t0 := by
  unfold execGetNonce at eN
  try dsimp only at eN
  injection eN with eN
  subst eN
  repeat' (first | (with_reducible assumption) | (with_reducible (intro _)) | (with_reducible apply onMsg_kept)
                  | (with_reducible apply msgGetNonce_kept))

theorem execDebugToken_kept {P0 : List Instr} {t0 : State} (v : Via) (s : State) (eN : execDebugToken v s = .next t0) (hK : Kept P0 s) : Kept P0 t0 := by
  unfold execDebugToken at eN
  try dsimp only at eN
  injection eN with eN
  subst eN
  repeat' (first | (with_reducible assumption) | (with_reducible (intro _)) | (with_reducible apply onMsg_kept)
                  | (with_reducible apply msgDebugToken_kept))

theorem execLifecycleToken_kept {P0 : List Instr} {t0 : State} (v : Via) (s : State) (eN : execLifecycleToken v s = .next t0) (hK : Kept P0 s) : Kept P0 t0 := by
  unfold execLifecycleToken at eN
  try dsimp only at eN
  injection eN with eN
  subst eN
  repeat' (first | (with_reducible assumption) | (with_reducible (intro _)) | (with_reducible apply onMsg_kept)
                  | (with_reducible apply msgLifecycleToken_kept))

theorem execRevokeToken_kept {P0 : List Instr} {t0 : State} (v : Via) (s : State) (eN : execRevokeToken v s = .next t0) (hK : Kept P0 s) : Kept P0 t0 := by
  unfold execRevokeToken at eN
  try dsimp only at eN
  injection eN with eN
  subst eN
  repeat' (first | (with_reducible assumption) | (with_reducible (intro _)) | (with_reducible apply onMsg_kept)
                  | (with_reducible apply msgRevokeToken_kept))

theorem execMsgDebugClose_kept {P0 : List Instr} {t0 : State} (v : Via) (s : State) (eN : execMsgDebugClose v s = .next t0) (hK : Kept P0 s) : Kept P0 t0 := by
  unfold execMsgDebugClose at eN
  try dsimp only at eN
  injection eN with eN
  subst eN
  repeat' (first | (with_reducible assumption) | (with_reducible (intro _)) | (with_reducible apply onMsg_kept)
                  | (with_reducible apply msgDebugCloseOp_kept))

theorem changeLife_kept {P0 : List Instr} (s : State) (t : Nat) (who : Reply) (hK : Kept P0 s) : Kept P0 (changeLife s t who) := by
  unfold changeLife
  try dsimp only
  repeat' (first | (with_reducible assumption) | (with_reducible (intro _)) | (with_reducible apply updPsp_kept)
                  | (with_reducible apply updInnk_kept) | (with_reducible apply logSec_kept)
                  | (with_reducible apply wr_kept) | (with_reducible apply reply_kept)
                  | (with_reducible apply flushLog_kept) | (with_reducible apply Kept.ite)
                  | (with_reducible exact buf_nil_le))

theorem execZeroize_kept {P0 : List Instr} {t0 : State} (s : State) (eN : execZeroize s = .next t0) (hK : Kept P0 s) : Kept P0 t0 := by
  unfold execZeroize at eN
  try dsimp only at eN
  injection eN with eN
  subst eN
  repeat' (first | (with_reducible assumption) | (with_reducible (intro _)) | (with_reducible apply wr_kept)
                  | (with_reducible apply zeroMemories_kept) | (with_reducible apply logSec_kept)
                  | (with_reducible apply setErr_kept) | (with_reducible apply updPsp_kept)
                  | (with_reducible apply changeLife_kept) | (with_reducible apply reply_kept)
                  | (with_reducible apply setLevel_kept) | (with_reducible apply Kept.ite) | (split))

theorem execLifecycleReset_kept {P0 : List Instr} {t0 : State} (s : State) (eN : execLifecycleReset s = .next t0) (hK : Kept P0 s) : Kept P0 t0 := by
  unfold execLifecycleReset at eN
  try dsimp only at eN
  injection eN with eN
  subst eN
  repeat' (first | (with_reducible assumption) | (with_reducible (intro _)) | (with_reducible apply moduleReset_kept)
                  | (with_reducible apply Kept.ite))

end Sys2Proof.Machine
end

