-- ==== Sys2Proof/Laws/Kept/HostCmd.lean ====
section
/-!
SUPPORT. Every operation of Machine/HostCmd.lean keeps the invariant and the queue.
-/
namespace Sys2Proof.Machine

theorem markRun_kept {P0 : List Instr} (s : State) (c : Cmd) (hK : Kept P0 s) : Kept P0 (markRun s c) := by
  unfold markRun
  try dsimp only
  repeat' (first | (with_reducible assumption) | (with_reducible apply updHost_kept))

theorem runOnce_kept {P0 : List Instr} (s : State) (q n opc : Nat) (ready : Cmd → Bool) (f : State → Cmd → State) (hK : Kept P0 s) (hf_f : ∀ (y0 : State) (y1 : Cmd), Kept P0 y0 → Kept P0 (f y0 y1)) : Kept P0 (runOnce s q n opc ready f) := by
  unfold runOnce
  try dsimp only
  repeat' (first | (with_reducible assumption) | (with_reducible (intro _)) | (with_reducible apply hf_f)
                  | (with_reducible apply runCmd_kept) | (with_reducible apply markRun_kept)
                  | (with_reducible apply Kept.ite))

theorem endCmd_kept {P0 : List Instr} (s : State) (c : Cmd) (status detail result : Nat) (hK : Kept P0 s) : Kept P0 (endCmd s c status detail result) := by
  unfold endCmd
  try dsimp only
  repeat' (first | (with_reducible assumption) | (with_reducible apply finishCmd_kept))

theorem execCmdNop_kept {P0 : List Instr} {t0 : State} (q : Fin 5) (n : BitVec 32) (s : State) (eN : execCmdNop q n s = .next t0) (hK : Kept P0 s) : Kept P0 t0 := by
  unfold execCmdNop at eN
  try dsimp only at eN
  injection eN with eN
  subst eN
  repeat' (first | (with_reducible assumption) | (with_reducible (intro _)) | (with_reducible apply runOnce_kept)
                  | (with_reducible apply endCmd_kept))

theorem execCmdCopy_kept {P0 : List Instr} {t0 : State} (q : Fin 5) (n : BitVec 32) (s : State) (eN : execCmdCopy q n s = .next t0) (hK : Kept P0 s) : Kept P0 t0 := by
  unfold execCmdCopy at eN
  try dsimp only at eN
  injection eN with eN
  subst eN
  repeat' (first | (with_reducible assumption) | (with_reducible (intro _)) | (with_reducible apply runOnce_kept)
                  | (with_reducible apply endCmd_kept) | (with_reducible apply hbmRead_kept)
                  | (with_reducible apply freeBytes_kept) | (with_reducible apply hbmWriteOwn_kept)
                  | (with_reducible apply Kept.ite))

theorem execFill_kept {P0 : List Instr} {t0 : State} (q : Fin 5) (n : BitVec 32) (s : State) (eN : execFill q n s = .next t0) (hK : Kept P0 s) : Kept P0 t0 := by
  unfold execFill at eN
  try dsimp only at eN
  injection eN with eN
  subst eN
  repeat' (first | (with_reducible assumption) | (with_reducible (intro _)) | (with_reducible apply runOnce_kept)
                  | (with_reducible apply endCmd_kept) | (with_reducible apply hbmWriteOwn_kept)
                  | (with_reducible apply Kept.ite))

theorem execCrc_kept {P0 : List Instr} {t0 : State} (q : Fin 5) (n : BitVec 32) (s : State) (eN : execCrc q n s = .next t0) (hK : Kept P0 s) : Kept P0 t0 := by
  unfold execCrc at eN
  try dsimp only at eN
  injection eN with eN
  subst eN
  repeat' (first | (with_reducible assumption) | (with_reducible (intro _)) | (with_reducible apply runOnce_kept)
                  | (with_reducible apply endCmd_kept) | (with_reducible apply hbmRead_kept)
                  | (with_reducible apply Kept.ite))

theorem execInfo_kept {P0 : List Instr} {t0 : State} (q : Fin 5) (n : BitVec 32) (s : State) (eN : execInfo q n s = .next t0) (hK : Kept P0 s) : Kept P0 t0 := by
  unfold execInfo at eN
  try dsimp only at eN
  injection eN with eN
  subst eN
  repeat' (first | (with_reducible assumption) | (with_reducible (intro _)) | (with_reducible apply runOnce_kept)
                  | (with_reducible apply endCmd_kept))

theorem execPowerLimit_kept {P0 : List Instr} {t0 : State} (q : Fin 5) (n : BitVec 32) (s : State) (eN : execPowerLimit q n s = .next t0) (hK : Kept P0 s) : Kept P0 t0 := by
  unfold execPowerLimit at eN
  try dsimp only at eN
  injection eN with eN
  subst eN
  repeat' (first | (with_reducible assumption) | (with_reducible (intro _)) | (with_reducible apply runOnce_kept)
                  | (with_reducible apply endCmd_kept) | (with_reducible apply Kept.ite))

theorem unparkAll_kept {P0 : List Instr} (s : State) (hK : Kept P0 s) : Kept P0 (unparkAll s) := by
  unfold unparkAll
  try dsimp only
  repeat' (first | (with_reducible assumption) | (with_reducible (intro _)) | (with_reducible apply bringUpCore_kept)
                  | (with_reducible (refine updCore_kept ?_ _ ?_)) | (with_reducible apply wr1_kept)
                  | (with_reducible apply Kept.foldl) | (simp only [Core.mk_eq]; with_reducible apply Core.ok.tabs))

theorem enterRun_kept {P0 : List Instr} (s : State) (t : Nat) (hK : Kept P0 s) : Kept P0 (enterRun s t) := by
  unfold enterRun
  try dsimp only
  repeat' (first | (with_reducible assumption) | (with_reducible (intro _)) | (with_reducible apply enterState_kept)
                  | (with_reducible apply unparkAll_kept) | (with_reducible apply wr_kept)
                  | (with_reducible apply Kept.ite))

theorem execPowerState_kept {P0 : List Instr} {t0 : State} (q : Fin 5) (n : BitVec 32) (s : State) (eN : execPowerState q n s = .next t0) (hK : Kept P0 s) : Kept P0 t0 := by
  unfold execPowerState at eN
  try dsimp only at eN
  injection eN with eN
  subst eN
  repeat' (first | (with_reducible assumption) | (with_reducible (intro _)) | (with_reducible apply runOnce_kept)
                  | (with_reducible apply endCmd_kept) | (with_reducible apply startP4_kept)
                  | (with_reducible apply startP3_kept) | (with_reducible apply beginState_kept)
                  | (with_reducible apply enterRun_kept) | (with_reducible apply Kept.ite))

theorem execUpdate_kept {P0 : List Instr} {t0 : State} (q : Fin 5) (n : BitVec 32) (s : State) (eN : execUpdate q n s = .next t0) (hK : Kept P0 s) : Kept P0 t0 := by
  unfold execUpdate at eN
  try dsimp only at eN
  injection eN with eN
  subst eN
  repeat' (first | (with_reducible assumption) | (with_reducible (intro _)) | (with_reducible apply runOnce_kept)
                  | (with_reducible apply endCmd_kept) | (with_reducible apply hbmRead_kept)
                  | (with_reducible apply wr_kept) | (with_reducible apply updInnk_kept)
                  | (with_reducible apply applyBundle_kept) | (with_reducible apply stagePut_kept)
                  | (with_reducible apply Kept.ite))

theorem execCmdLogRead_kept {P0 : List Instr} {t0 : State} (q : Fin 5) (n : BitVec 32) (s : State) (eN : execCmdLogRead q n s = .next t0) (hK : Kept P0 s) : Kept P0 t0 := by
  unfold execCmdLogRead at eN
  try dsimp only at eN
  injection eN with eN
  subst eN
  repeat' (first | (with_reducible assumption) | (with_reducible (intro _)) | (with_reducible apply runOnce_kept)
                  | (with_reducible apply endCmd_kept) | (with_reducible apply hbmWriteOwn_kept)
                  | (with_reducible apply Kept.ite))

theorem execAttest_kept {P0 : List Instr} {t0 : State} (q : Fin 5) (n : BitVec 32) (s : State) (eN : execAttest q n s = .next t0) (hK : Kept P0 s) : Kept P0 t0 := by
  unfold execAttest at eN
  try dsimp only at eN
  injection eN with eN
  subst eN
  repeat' (first | (with_reducible assumption) | (with_reducible (intro _)) | (with_reducible apply runOnce_kept)
                  | (with_reducible apply endCmd_kept) | (with_reducible apply hbmRead_kept)
                  | (with_reducible apply passportMsg_kept) | (with_reducible apply Kept.ite))

theorem execRemoveReady_kept {P0 : List Instr} {t0 : State} (q : Fin 5) (n : BitVec 32) (s : State) (eN : execRemoveReady q n s = .next t0) (hK : Kept P0 s) : Kept P0 t0 := by
  unfold execRemoveReady at eN
  try dsimp only at eN
  injection eN with eN
  subst eN
  repeat' (first | (with_reducible assumption) | (with_reducible (intro _)) | (with_reducible apply runOnce_kept)
                  | (with_reducible apply endCmd_kept) | (with_reducible apply logMgmt_kept)
                  | (with_reducible apply wr_kept) | (with_reducible apply startP4_kept)
                  | (with_reducible apply Kept.ite))

theorem execDebugOpen_kept {P0 : List Instr} {t0 : State} (q : Fin 5) (n : BitVec 32) (s : State) (eN : execDebugOpen q n s = .next t0) (hK : Kept P0 s) : Kept P0 t0 := by
  unfold execDebugOpen at eN
  try dsimp only at eN
  injection eN with eN
  subst eN
  repeat' (first | (with_reducible assumption) | (with_reducible (intro _)) | (with_reducible apply runOnce_kept)
                  | (with_reducible apply endCmd_kept) | (with_reducible apply openLevel_kept)
                  | (with_reducible apply hbmRead_kept) | (with_reducible apply msgDebugToken_kept)
                  | (with_reducible apply Kept.ite))

theorem execDebugClose_kept {P0 : List Instr} {t0 : State} (q : Fin 5) (n : BitVec 32) (s : State) (eN : execDebugClose q n s = .next t0) (hK : Kept P0 s) : Kept P0 t0 := by
  unfold execDebugClose at eN
  try dsimp only at eN
  injection eN with eN
  subst eN
  repeat' (first | (with_reducible assumption) | (with_reducible (intro _)) | (with_reducible apply runOnce_kept)
                  | (with_reducible apply endCmd_kept) | (with_reducible apply closeDebug_kept))

theorem onContext_kept {P0 : List Instr} (s : State) (q n opc : Nat) (f : State → Cmd → Nat → State) (hK : Kept P0 s) (hf_f : ∀ (y0 : State) (y1 : Cmd) (y2 : Nat), Kept P0 y0 → Kept P0 (f y0 y1 y2)) : Kept P0 (onContext s q n opc f) := by
  unfold onContext
  try dsimp only
  repeat' (first | (with_reducible assumption) | (with_reducible (intro _)) | (with_reducible apply hf_f)
                  | (with_reducible apply runOnce_kept) | (with_reducible apply endCmd_kept)
                  | (with_reducible apply Kept.ite))

theorem execHalt_kept {P0 : List Instr} {t0 : State} (q : Fin 5) (n : BitVec 32) (s : State) (eN : execHalt q n s = .next t0) (hK : Kept P0 s) : Kept P0 t0 := by
  unfold execHalt at eN
  try dsimp only at eN
  injection eN with eN
  subst eN
  repeat' (first | (with_reducible assumption) | (with_reducible (intro _)) | (with_reducible apply onContext_kept)
                  | (with_reducible apply endCmd_kept) | (with_reducible (refine updCore_kept ?_ _ ?_))
                  | (with_reducible apply Kept.foldl) | (simp only [Core.mk_eq]; with_reducible apply Core.ok.tabs))

theorem execResume_kept {P0 : List Instr} {t0 : State} (q : Fin 5) (n : BitVec 32) (s : State) (eN : execResume q n s = .next t0) (hK : Kept P0 s) : Kept P0 t0 := by
  unfold execResume at eN
  try dsimp only at eN
  injection eN with eN
  subst eN
  repeat' (first | (with_reducible assumption) | (with_reducible (intro _)) | (with_reducible apply onContext_kept)
                  | (with_reducible apply endCmd_kept) | (with_reducible (refine updCore_kept ?_ _ ?_))
                  | (with_reducible apply Kept.foldl) | (simp only [Core.mk_eq]; with_reducible apply Core.ok.tabs))

theorem execSnapshot_kept {P0 : List Instr} {t0 : State} (q : Fin 5) (n : BitVec 32) (s : State) (eN : execSnapshot q n s = .next t0) (hK : Kept P0 s) : Kept P0 t0 := by
  unfold execSnapshot at eN
  try dsimp only at eN
  injection eN with eN
  subst eN
  repeat' (first | (with_reducible assumption) | (with_reducible (intro _)) | (with_reducible apply onContext_kept)
                  | (with_reducible apply endCmd_kept) | (with_reducible apply freeBytes_kept)
                  | (with_reducible apply updHost_kept) | (with_reducible apply hbmWriteOwn_kept)
                  | (with_reducible apply Kept.ite))

end Sys2Proof.Machine
end

