-- ==== Sys2Proof/Laws/Kept/Innk.lean ====
section
/-!
SUPPORT. Every operation of Machine/Innk.lean keeps the invariant and the queue.
-/
namespace Sys2Proof.Machine

theorem execWatchdogExpiry_kept {P0 : List Instr} {t0 : State} (s : State) (eN : execWatchdogExpiry s = .next t0) (hK : Kept P0 s) : Kept P0 t0 := by
  unfold execWatchdogExpiry at eN
  try dsimp only at eN
  injection eN with eN
  subst eN
  repeat' (first | (with_reducible assumption) | (with_reducible (intro _)) | (with_reducible apply restartInnk_kept)
                  | (with_reducible apply Kept.ite))

theorem execSramUe_kept {P0 : List Instr} {t0 : State} (s : State) (eN : execSramUe s = .next t0) (hK : Kept P0 s) : Kept P0 t0 := by
  unfold execSramUe at eN
  try dsimp only at eN
  injection eN with eN
  subst eN
  repeat' (first | (with_reducible assumption) | (with_reducible (intro _)) | (with_reducible apply restartInnk_kept)
                  | (with_reducible apply Kept.ite))

theorem execRollback_kept {P0 : List Instr} {t0 : State} (s : State) (eN : execRollback s = .next t0) (hK : Kept P0 s) : Kept P0 t0 := by
  unfold execRollback at eN
  try dsimp only at eN
  injection eN with eN
  subst eN
  repeat' (first | (with_reducible assumption) | (with_reducible (intro _)) | (with_reducible apply rollBack_kept)
                  | (with_reducible apply Kept.ite))

theorem execHealthTimeout_kept {P0 : List Instr} {t0 : State} (s : State) (eN : execHealthTimeout s = .next t0) (hK : Kept P0 s) : Kept P0 t0 := by
  unfold execHealthTimeout at eN
  try dsimp only at eN
  injection eN with eN
  subst eN
  repeat' (first | (with_reducible assumption) | (with_reducible (intro _)) | (with_reducible apply rollBack_kept)
                  | (with_reducible apply Kept.ite) | (split))

theorem execHealthy_kept {P0 : List Instr} {t0 : State} (s : State) (eN : execHealthy s = .next t0) (hK : Kept P0 s) : Kept P0 t0 := by
  unfold execHealthy at eN
  try dsimp only at eN
  injection eN with eN
  subst eN
  repeat' (first | (with_reducible assumption) | (with_reducible (intro _)) | (with_reducible apply setHealthyFw_kept)
                  | (with_reducible apply Kept.ite))

theorem execLogFlush_kept {P0 : List Instr} {t0 : State} (s : State) (eN : execLogFlush s = .next t0) (hK : Kept P0 s) : Kept P0 t0 := by
  unfold execLogFlush at eN
  try dsimp only at eN
  injection eN with eN
  subst eN
  repeat' (first | (with_reducible assumption) | (with_reducible (intro _)) | (with_reducible apply flushLog_kept)
                  | (with_reducible apply Kept.ite))

theorem inBand_kept {P0 : List Instr} (s : State) (cls i v : Nat) (hK : Kept P0 s) : Kept P0 (inBand s cls i v) := by
  unfold inBand
  try dsimp only
  repeat' (first | (with_reducible assumption) | (with_reducible (intro _)) | (with_reducible apply wr_kept)
                  | (with_reducible apply wr1_kept) | (with_reducible apply Kept.ite))

theorem execSensorRefresh_kept {P0 : List Instr} {t0 : State} (values : List (Fin 7 × Fin 272 × BitVec 16)) (s : State) (eN : execSensorRefresh values s = .next t0) (hK : Kept P0 s) : Kept P0 t0 := by
  unfold execSensorRefresh at eN
  try dsimp only at eN
  injection eN with eN
  subst eN
  repeat' (first | (with_reducible assumption) | (with_reducible (intro _)) | (with_reducible apply inBand_kept)
                  | (with_reducible apply updPow_kept) | (with_reducible apply Kept.ite)
                  | (with_reducible apply Kept.foldl))

theorem msgGetSensor_kept {P0 : List Instr} (s : State) (who : Reply) (body : List Byte) (hK : Kept P0 s) : Kept P0 (msgGetSensor s who body) := by
  unfold msgGetSensor
  try dsimp only
  repeat' (first | (with_reducible assumption) | (with_reducible (intro _)) | (with_reducible apply reply_kept)
                  | (with_reducible apply Kept.ite))

theorem msgReadReg_kept {P0 : List Instr} (s : State) (who : Reply) (body : List Byte) (hK : Kept P0 s) : Kept P0 (msgReadReg s who body) := by
  unfold msgReadReg
  try dsimp only
  repeat' (first | (with_reducible assumption) | (with_reducible (intro _)) | (with_reducible apply reply_kept)
                  | (with_reducible apply windowRead_kept) | (with_reducible apply Kept.ite))

theorem msgWriteReg_kept {P0 : List Instr} (s : State) (who : Reply) (body : List Byte) (hK : Kept P0 s) : Kept P0 (msgWriteReg s who body) := by
  unfold msgWriteReg
  try dsimp only
  repeat' (first | (with_reducible assumption) | (with_reducible (intro _)) | (with_reducible apply reply_kept)
                  | (with_reducible apply windowWrite_kept) | (with_reducible apply Kept.ite))

theorem msgCommand_kept {P0 : List Instr} (s : State) (who : Reply) (body : List Byte) (hK : Kept P0 s) : Kept P0 (msgCommand s who body) := by
  unfold msgCommand
  try dsimp only
  repeat' (first | (with_reducible assumption) | (with_reducible (intro _)) | (with_reducible apply reply_kept)
                  | (with_reducible apply startCmd_kept) | (with_reducible apply Kept.ite) | (split))

theorem msgLogReadOp_kept {P0 : List Instr} (s : State) (who : Reply) (body : List Byte) (hK : Kept P0 s) : Kept P0 (msgLogReadOp s who body) := by
  unfold msgLogReadOp
  try dsimp only
  repeat' (first | (with_reducible assumption) | (with_reducible (intro _)) | (with_reducible apply reply_kept)
                  | (with_reducible apply Kept.ite))

theorem msgUpdateWrite_kept {P0 : List Instr} (s : State) (who : Reply) (body : List Byte) (hK : Kept P0 s) : Kept P0 (msgUpdateWrite s who body) := by
  unfold msgUpdateWrite
  try dsimp only
  repeat' (first | (with_reducible assumption) | (with_reducible (intro _)) | (with_reducible apply reply_kept)
                  | (with_reducible apply stagePut_kept) | (with_reducible apply Kept.ite))

theorem msgUpdateApply_kept {P0 : List Instr} (s : State) (who : Reply) (body : List Byte) (hK : Kept P0 s) : Kept P0 (msgUpdateApply s who body) := by
  unfold msgUpdateApply
  try dsimp only
  repeat' (first | (with_reducible assumption) | (with_reducible (intro _)) | (with_reducible apply reply_kept)
                  | (with_reducible apply updHost_kept) | (with_reducible apply finishCmd_kept)
                  | (with_reducible apply applyBundle_kept) | (with_reducible apply Kept.ite) | (split))

theorem msgUpdateStatus_kept {P0 : List Instr} (s : State) (who : Reply) (body : List Byte) (hK : Kept P0 s) : Kept P0 (msgUpdateStatus s who body) := by
  unfold msgUpdateStatus
  try dsimp only
  repeat' (first | (with_reducible assumption) | (with_reducible (intro _)) | (with_reducible apply onEmpty_kept)
                  | (with_reducible apply reply_kept))

theorem execGetSensor_kept {P0 : List Instr} {t0 : State} (v : Via) (s : State) (eN : execGetSensor v s = .next t0) (hK : Kept P0 s) : Kept P0 t0 := by
  unfold execGetSensor at eN
  try dsimp only at eN
  injection eN with eN
  subst eN
  repeat' (first | (with_reducible assumption) | (with_reducible (intro _)) | (with_reducible apply onMsg_kept)
                  | (with_reducible apply msgGetSensor_kept))

theorem execReadReg_kept {P0 : List Instr} {t0 : State} (v : Via) (s : State) (eN : execReadReg v s = .next t0) (hK : Kept P0 s) : Kept P0 t0 := by
  unfold execReadReg at eN
  try dsimp only at eN
  injection eN with eN
  subst eN
  repeat' (first | (with_reducible assumption) | (with_reducible (intro _)) | (with_reducible apply onMsg_kept)
                  | (with_reducible apply msgReadReg_kept))

theorem execWriteReg_kept {P0 : List Instr} {t0 : State} (v : Via) (s : State) (eN : execWriteReg v s = .next t0) (hK : Kept P0 s) : Kept P0 t0 := by
  unfold execWriteReg at eN
  try dsimp only at eN
  injection eN with eN
  subst eN
  repeat' (first | (with_reducible assumption) | (with_reducible (intro _)) | (with_reducible apply onMsg_kept)
                  | (with_reducible apply msgWriteReg_kept))

theorem execCommand_kept {P0 : List Instr} {t0 : State} (v : Via) (s : State) (eN : execCommand v s = .next t0) (hK : Kept P0 s) : Kept P0 t0 := by
  unfold execCommand at eN
  try dsimp only at eN
  injection eN with eN
  subst eN
  repeat' (first | (with_reducible assumption) | (with_reducible (intro _)) | (with_reducible apply onMsg_kept)
                  | (with_reducible apply msgCommand_kept))

theorem execMsgLogRead_kept {P0 : List Instr} {t0 : State} (v : Via) (s : State) (eN : execMsgLogRead v s = .next t0) (hK : Kept P0 s) : Kept P0 t0 := by
  unfold execMsgLogRead at eN
  try dsimp only at eN
  injection eN with eN
  subst eN
  repeat' (first | (with_reducible assumption) | (with_reducible (intro _)) | (with_reducible apply onMsg_kept)
                  | (with_reducible apply msgLogReadOp_kept))

theorem execUpdateWrite_kept {P0 : List Instr} {t0 : State} (v : Via) (s : State) (eN : execUpdateWrite v s = .next t0) (hK : Kept P0 s) : Kept P0 t0 := by
  unfold execUpdateWrite at eN
  try dsimp only at eN
  injection eN with eN
  subst eN
  repeat' (first | (with_reducible assumption) | (with_reducible (intro _)) | (with_reducible apply onMsg_kept)
                  | (with_reducible apply msgUpdateWrite_kept))

theorem execUpdateApply_kept {P0 : List Instr} {t0 : State} (v : Via) (s : State) (eN : execUpdateApply v s = .next t0) (hK : Kept P0 s) : Kept P0 t0 := by
  unfold execUpdateApply at eN
  try dsimp only at eN
  injection eN with eN
  subst eN
  repeat' (first | (with_reducible assumption) | (with_reducible (intro _)) | (with_reducible apply onMsg_kept)
                  | (with_reducible apply msgUpdateApply_kept))

theorem execUpdateStatus_kept {P0 : List Instr} {t0 : State} (v : Via) (s : State) (eN : execUpdateStatus v s = .next t0) (hK : Kept P0 s) : Kept P0 t0 := by
  unfold execUpdateStatus at eN
  try dsimp only at eN
  injection eN with eN
  subst eN
  repeat' (first | (with_reducible assumption) | (with_reducible (intro _)) | (with_reducible apply onMsg_kept)
                  | (with_reducible apply msgUpdateStatus_kept))

theorem execMctpControl_kept {P0 : List Instr} {t0 : State} (inst cmd : BitVec 8) (data : List (BitVec 8)) (s : State) (eN : execMctpControl inst cmd data s = .next t0) (hK : Kept P0 s) : Kept P0 t0 := by
  unfold execMctpControl at eN
  try dsimp only at eN
  injection eN with eN
  subst eN
  repeat' (first | (with_reducible assumption) | (with_reducible (intro _)) | (with_reducible apply wr_kept)
                  | (with_reducible apply emit_kept) | (with_reducible apply Kept.ite) | (split))

theorem execEntdaa_kept {P0 : List Instr} {t0 : State} (addr : BitVec 7) (s : State) (eN : execEntdaa addr s = .next t0) (hK : Kept P0 s) : Kept P0 t0 := by
  unfold execEntdaa at eN
  try dsimp only at eN
  injection eN with eN
  subst eN
  repeat' (first | (with_reducible assumption) | (with_reducible (intro _)) | (with_reducible apply wr_kept)
                  | (with_reducible apply Kept.ite))

theorem execJtagInstruction_kept {P0 : List Instr} {t0 : State} (ir : BitVec 8) (s : State) (eN : execJtagInstruction ir s = .next t0) (hK : Kept P0 s) : Kept P0 t0 := by
  unfold execJtagInstruction at eN
  try dsimp only at eN
  injection eN with eN
  subst eN
  repeat' (first | (with_reducible assumption) | (with_reducible (intro _)) | (with_reducible apply updBoot_kept)
                  | (with_reducible apply emit_kept) | (with_reducible apply Kept.ite))

end Sys2Proof.Machine
end

