-- ==== Sys2Proof/Laws/Kept/Tick.lean ====
section
/-!
SUPPORT. Every operation of Machine/Tick.lean keeps the invariant and the queue.
-/
namespace Sys2Proof.Machine

theorem cclkEdge_kept {P0 : List Instr} (s : State) (d : Nat) (hK : Kept P0 s) : Kept P0 (cclkEdge s d) := by
  unfold cclkEdge
  try dsimp only
  repeat' (first | (with_reducible assumption) | (with_reducible (intro _)) | (with_reducible apply updPow_kept)
                  | (with_reducible apply dieEdge_kept) | (with_reducible apply courierPump_kept)
                  | (with_reducible apply Kept.foldl))

theorem countIdle_kept {P0 : List Instr} (s : State) (hK : Kept P0 s) : Kept P0 (countIdle s) := by
  unfold countIdle
  try dsimp only
  repeat' (first | (with_reducible assumption) | (with_reducible (intro _)) | (with_reducible apply updCar_kept)
                  | (with_reducible apply Kept.foldl) | (split))

theorem countThrottle_kept {P0 : List Instr} (s : State) (hK : Kept P0 s) : Kept P0 (countThrottle s) := by
  unfold countThrottle
  try dsimp only
  repeat' (first | (with_reducible assumption) | (with_reducible (intro _)) | (with_reducible apply add64_kept)
                  | (with_reducible apply Kept.ite))

theorem settleMgmt_kept {P0 : List Instr} (s : State) (hK : Kept P0 s) : Kept P0 (settleMgmt s) := by
  unfold settleMgmt
  try dsimp only
  repeat' (first | (with_reducible assumption) | (with_reducible (intro _)) | (with_reducible apply returnUnits_kept)
                  | (with_reducible apply updFab_kept) | (with_reducible apply reply_kept)
                  | (with_reducible apply Kept.ite) | (split))

theorem portTick_kept {P0 : List Instr} (s : State) (i : Nat) (hK : Kept P0 s) : Kept P0 (portTick s i) := by
  unfold portTick
  try dsimp only
  repeat' (first | (with_reducible assumption) | (with_reducible (intro _)) | (with_reducible apply flushTx_kept)
                  | (with_reducible apply pauseAt_kept) | (with_reducible apply Kept.ite))

theorem pclkEdge_kept {P0 : List Instr} (s : State) (hK : Kept P0 s) : Kept P0 (pclkEdge s) := by
  unfold pclkEdge
  try dsimp only
  repeat' (first | (with_reducible assumption) | (with_reducible (intro _)) | (with_reducible apply settleMgmt_kept)
                  | (with_reducible apply portTick_kept) | (with_reducible apply countThrottle_kept)
                  | (with_reducible apply countIdle_kept) | (with_reducible apply Kept.ite)
                  | (with_reducible apply Kept.foldl) | (simp only [Kept.mk_eq]; with_reducible apply Kept.view))

theorem rootTick_kept {P0 : List Instr} (s : State) (hK : Kept P0 s) : Kept P0 (rootTick s) := by
  unfold rootTick
  try dsimp only
  repeat' (first | (with_reducible assumption) | (with_reducible (intro _)) | (with_reducible apply cclkEdge_kept)
                  | (with_reducible apply pclkEdge_kept) | (with_reducible apply Kept.ite)
                  | (with_reducible apply Kept.foldl) | (simp only [Kept.mk_eq]; with_reducible apply Kept.view))

end Sys2Proof.Machine
end

