-- ==== Sys2Proof/Laws/SlotIssue.lean ====
section
/-!
SUPPORT. What the issue of an ARR, VEC or STR slot operation does when its slot may issue and its context is up.
-/
namespace Sys2Proof.Machine

/-- A slot operation that may issue runs on the state with its slot marked. -/
theorem issueSlot_ready {s : State} {i : Issue} {idx : Nat} (h : SlotReady s i idx) (f : Nat → Nat → State → State) :
    issueSlot s i idx f = f i.tag.val (partCtx s i.core.val i.tag.val) (markSlot s i.core.val idx) := by
  unfold issueSlot
  dsimp only
  rw [if_pos h.1, if_pos h.2.1, if_neg]
  rw [h.2.2]
  exact Bool.false_ne_true

theorem markSlot_wf {s : State} {n idx : Nat} (h : smWf (fun _ => Core.reset) s.cores = true) :
    smWf (fun _ => Core.reset) (markSlot s n idx).cores = true := updCore_wf h

theorem core_markSlot_same {s : State} (h : smWf (fun _ => Core.reset) s.cores = true) (n idx : Nat) :
    core (markSlot s n idx) n = slotUsed s n idx := core_updCore_same h n _

theorem core_markSlot_other {s : State} (h : smWf (fun _ => Core.reset) s.cores = true) (n idx m : Nat) (hm : m ≠ n) :
    core (markSlot s n idx) m = core s m := core_updCore_other h n m _ hm

/-- The two words of VEC_OPS after a count (R182), and every other word. -/
theorem vecOps_spec {s : State} (h : smWf regDefault s.regs = true) (n : Nat) :
    let t := add64 s (pgVEC n) F.VEC_OPS_LO.COUNT F.VEC_OPS_HI.COUNT 0 1
    rd64 t (pgVEC n) F.VEC_OPS_LO.COUNT F.VEC_OPS_HI.COUNT 0
        = (rd64 s (pgVEC n) F.VEC_OPS_LO.COUNT F.VEC_OPS_HI.COUNT 0 + 1) % 2 ^ 64 ∧
    ∀ pg off, off < 4096 → ¬ (pg = pgVEC n ∧ (off / 4 = F.VEC_OPS_LO.COUNT.off / 4 ∨ off / 4 = F.VEC_OPS_HI.COUNT.off / 4)) →
      rdW t pg off = rdW s pg off := by
  have kl : ∀ pg, regKey pg (fldOff F.VEC_OPS_LO.COUNT 0 0) = pg * 1024 + 68 := fun pg => rfl
  have kh : ∀ pg, regKey pg (fldOff F.VEC_OPS_HI.COUNT 0 0) = pg * 1024 + 69 := fun pg => rfl
  dsimp only
  constructor
  · unfold add64 wr64 rd64
    simp only [rd1_eq, wr1_eq]
    generalize rd2 s (pgVEC n) F.VEC_OPS_LO.COUNT 0 0 + rd2 s (pgVEC n) F.VEC_OPS_HI.COUNT 0 0 <<< 32 + 1 = v
    rw [rd2_wr2_word (wr2_wf h) _ F.VEC_OPS_HI.COUNT 0 0 _ _ F.VEC_OPS_LO.COUNT 0 0 (by rw [kl, kh]; omega),
      rd2_wr2_same h _ _ _ _ _ (by decide), rd2_wr2_same (wr2_wf h) _ _ _ _ _ (by decide)]
    have e1 : F.VEC_OPS_LO.COUNT.width = 32 := rfl
    have e2 : F.VEC_OPS_HI.COUNT.width = 32 := rfl
    rw [e1, e2]
    unfold natField
    rw [Nat.shiftLeft_eq, Nat.shiftRight_eq_div_pow]
    omega
  · intro pg off ho hn
    have l0 : F.VEC_OPS_LO.COUNT.off / 4 = 68 := rfl
    have h0 : F.VEC_OPS_HI.COUNT.off / 4 = 69 := rfl
    rw [l0, h0] at hn
    unfold add64 wr64
    simp only [wr1_eq]
    unfold wr2
    have n1 : regKey pg off ≠ regKey (pgVEC n) (fldOff F.VEC_OPS_HI.COUNT 0 0) := by
      rw [kh]; unfold regKey; intro e; apply hn; omega
    have n2 : regKey pg off ≠ regKey (pgVEC n) (fldOff F.VEC_OPS_LO.COUNT 0 0) := by
      rw [kl]; unfold regKey; intro e; apply hn; omega
    rw [rdW_wrW (wrW_wf h), if_neg n1, rdW_wrW h, if_neg n2]

/-- The state in which a VEC operation takes effect: its slot marked and the operation counted. -/
def vecState (s : State) (i : Issue) : State :=
  add64 (markSlot s i.core.val 2) (pgVEC i.core.val) F.VEC_OPS_LO.COUNT F.VEC_OPS_HI.COUNT 0 1

theorem core_vecState {s : State} (h : s.Inv) (i : Issue) : core (vecState s i) i.core.val = slotUsed s i.core.val 2 := by
  unfold vecState
  rw [core_add64, core_markSlot_same h.cores]

/-- What a VEC operation does whose own effect is a change `g` of its core (R157, R164). -/
theorem vecIssue_spec {s : State} (h : s.Inv) {i : Issue} (hr : SlotReady s i 2) (f : Nat → Nat → State → State)
    (g : Core → Core)
    (hf : f i.tag.val (partCtx s i.core.val i.tag.val) (vecState s i) = updCore (vecState s i) i.core.val g) :
    VecIssued s (vecIssue s i true f) i g := by
  have e : vecIssue s i true f = updCore (vecState s i) i.core.val g := by
    unfold vecIssue
    rw [issueSlot_ready hr]
    simp only [if_true]
    exact hf
  rw [e]
  have wc : smWf (fun _ => Core.reset) (vecState s i).cores = true := by
    unfold vecState; simp only [add64_cores]; exact markSlot_wf h.cores
  obtain ⟨v1, v2⟩ := vecOps_spec (s := markSlot s i.core.val 2) h.regs i.core.val
  refine ⟨rfl, ?_, ?_, v1, v2⟩
  · intro m hm
    rw [core_updCore_other wc _ _ _ hm]
    unfold vecState
    rw [core_add64, core_markSlot_other h.cores _ _ _ hm]
  · rw [core_updCore_same wc, core_vecState h]

end Sys2Proof.Machine
end

