-- ==== Sys2Proof/WellFormed.lean ====
section
/-!
DEFINITION. Which commands are well formed: the sizes that the spec gives what arrives from outside (R229, R303, R306, R309,
R406 to R408). The operands' types hold every other bound. The meanings are total: an ill-formed command has an effect too, and
no statement speaks of it.
-/
namespace Sys2Proof

/-- A packet's payload is at most the largest MTU (R309). -/
def RocePkt.wf (p : RocePkt) : Bool := decide (p.data.length ≤ 4096)

/-- A message's body is at most 4,088 bytes (R408). -/
def Via.wf : Via → Bool
  | .i3c _ body => decide (body.length ≤ 4088)
  | .fabric => true

/-- Sensors of a class (R406). -/
def sensorCount : Nat → Nat
  | 0 => 112 | 1 => 48 | 2 => 24 | 3 => 32 | 4 => 272 | 5 => 97 | 6 => 16 | _ => 0

/-- The number of a command that an I3C message brought is its 16-bit TAG (R408). -/
def cmdWf (q : Fin 5) (n : BitVec 32) : Bool := q != 4 || decide (n.toNat < 65536)

/-- Well-formed commands. -/
def Instr.wf (i : Instr) : Bool :=
  match i with
  | .flitReceive _ flit _ => flit.length == 640
  | .pfcFrame _ _ times => times.length == 8
  | .rdmaWrite p => p.wf
  | .rdmaRead p => p.wf && p.data.isEmpty
  | .receivedSend p => p.wf
  | .sensorRefresh vs => vs.all (fun x => decide (x.2.1.val < sensorCount x.1.val))
  | .getSensor v => v.wf | .readReg v => v.wf | .writeReg v => v.wf | .command v => v.wf | .msgLogRead v => v.wf
  | .updateWrite v => v.wf | .updateApply v => v.wf | .updateStatus v => v.wf | .getInfo v => v.wf | .getCert v => v.wf
  | .getMeasLog v => v.wf | .getReport v => v.wf | .getNonce v => v.wf | .debugToken v => v.wf | .lifecycleToken v => v.wf
  | .revokeToken v => v.wf | .msgDebugClose v => v.wf
  | .mctpControl _ _ data => decide (data.length ≤ 4092)
  | .componentLoad t => t != 0
  | .commandComplete q n => cmdWf q n
  | .cmdNop q n => cmdWf q n | .jobStart q n => cmdWf q n | .jobStop q n => cmdWf q n | .stepGo q n => cmdWf q n
  | .cmdCopy q n => cmdWf q n | .fill q n => cmdWf q n | .crc q n => cmdWf q n | .info q n => cmdWf q n
  | .powerLimit q n => cmdWf q n | .powerState q n => cmdWf q n | .update q n => cmdWf q n | .cmdLogRead q n => cmdWf q n
  | .attest q n => cmdWf q n | .removeReady q n => cmdWf q n | .debugOpen q n => cmdWf q n | .debugClose q n => cmdWf q n
  | .halt q n => cmdWf q n | .resume q n => cmdWf q n | .snapshot q n => cmdWf q n
  | .nop ..
  | .seqAdd .. | .sub .. | .and .. | .or .. | .xor .. | .shl .. | .shr .. | .sra .. | .mul .. | .addi .. | .lih .. | .cmp ..
  | .qop .. | .br .. | .seqLoop .. | .lds .. | .rds .. | .ftest .. | .muster .. | .waitt .. | .waittResume .. | .seqEnd ..
  | .pass .. | .dset .. | .tileLoad .. | .passLatch .. | .drainRow .. | .drainComplete .. | .arrayErr .. | .vadd .. | .vsub ..
  | .vmul .. | .vfma .. | .vmax .. | .vmin .. | .vabs .. | .vneg .. | .vsgn .. | .vdiv .. | .vsqrt .. | .vexp2 .. | .vlog2 ..
  | .vcmp .. | .vsel .. | .viadd .. | .visub .. | .viand .. | .vior .. | .vixor .. | .vishl .. | .vishr .. | .vftoi ..
  | .vitof .. | .vbcast .. | .vreds .. | .vbmax .. | .vscaleb .. | .vcvt .. | .vdec .. | .vrng .. | .vld .. | .vst ..
  | .vmpack .. | .vmunpk .. | .vscrd .. | .vscwr .. | .start .. | .stop .. | .credit .. | .send .. | .arm .. | .strCopy ..
  | .courierPut .. | .courierGet .. | .courierAdd .. | .courierComplete .. | .push .. | .pop .. | .sbWriteOutComplete ..
  | .sbPrefetchComplete .. | .itinNop .. | .itinLoop .. | .seta .. | .setah .. | .adv .. | .setd .. | .cvt .. | .itinLoad ..
  | .itinStore .. | .gather .. | .fence .. | .itinEnd .. | .requestComplete .. | .deliveryComplete .. | .musterArrival ..
  | .musterRelease .. | .yieldSave .. | .coreRestore .. | .noYield .. | .segmentSwitch .. | .timesliceRequest ..
  | .ctxTeardown .. | .scrubRead .. | .traceFlush .. | .hbmErrWindow .. | .relocationStart .. | .granuleCopy ..
  | .relocationDone .. | .domainRebuild .. | .patrolScrub .. | .refresh .. | .mode .. | .rebuild .. | .hbmXlate .. | .fail ..
  | .testEnter .. | .testExit .. | .tgStart .. | .tgStop .. | .tgRunEnd .. | .tgCheckFail .. | .stackTrained ..
  | .phyTrainingLoss .. | .linkTraining .. | .laneWindow .. | .laneFailed .. | .laneOut .. | .spareReq .. | .spareReady ..
  | .map .. | .close .. | .linkDead .. | .retrainTimer .. | .closeTimeout .. | .retrain .. | .fabClose .. | .feedSwap ..
  | .feedLoss .. | .feedOk .. | .fabRtrId .. | .split .. | .messageArrive .. | .messageForward .. | .creditReturn ..
  | .write .. | .read .. | .craulAdd .. | .writeDone .. | .readData .. | .addOld .. | .linkLast .. | .linkLastTimeout ..
  | .timeout .. | .stall .. | .winOpen .. | .winClose .. | .winBusyClear .. | .rtWrite .. | .entryActivate .. | .entryComplete ..
  | .caravanTmo .. | .collCredit .. | .contrib .. | .result .. | .a2aCount .. | .a2aRows .. | .permuteData .. | .status ..
  | .musterArrive .. | .collMusterRelease .. | .relayBlock .. | .relayCredit .. | .relayPassOn .. | .prefetchFallback ..
  | .armReshard .. | .ethFrame .. | .arp .. | .neighbourSolicitation .. | .pfcXoff .. | .pfcXon .. | .cnp .. | .rateInterval ..
  | .ack .. | .retransmitTimeout .. | .qpWrite .. | .mrWrite .. | .sqDb .. | .cqDb .. | .commandFetch .. | .event ..
  | .queueReset .. | .queueEnable .. | .jobEnd .. | .coreReadyMap .. | .curfewClose .. | .fallbackStart .. | .dividerSwitch ..
  | .refLost .. | .refLossP3 .. | .refLossHostDown .. | .refBack .. | .escCheck .. | .powerSample .. | .capLoopTick ..
  | .currentDemand .. | .throtN .. | .throtNEnd .. | .throtStuck .. | .leak .. | .leakClr .. | .tempHot .. | .thermalStep ..
  | .trip .. | .engineHot .. | .coolantHot .. | .flowLow .. | .p3Entry .. | .p3Exit .. | .corePark .. | .watchdogExpiry ..
  | .rollback .. | .healthTimeout .. | .sramUe .. | .logFlush .. | .pendingComponentLoad .. | .boot .. | .zeroize ..
  | .lifecycleReset .. | .secLock .. | .powerUp .. | .resetN .. | .resetIgnored .. | .domainReady .. | .coreBringUp ..
  | .selftestStart .. | .selftestDone .. | .selftestBudget .. | .fuseBurn .. | .kat .. | .zero .. | .zeroFillDone .. | .pclr ..
  | .arrayPart .. | .arrayRepair .. | .ledgerHbase .. | .streamStop .. | .seqHalt .. | .seqStep .. | .seqImemData ..
  | .caravanPlanData .. | .caravanRankData .. | .jobStepnum .. | .errClr .. | .cntClr .. | .pairLoRead .. | .pairLoWrite ..
  | .sysSem .. | .sysSemRel .. | .semBreak .. | .registerWrite .. | .nocHazHitClear .. | .prechargeDone .. | .pwrEnAssert ..
  | .ejectN .. | .p4Entry .. | .lossOfInput .. | .inputRestore .. | .inputRange .. | .hostFeedLoss .. | .hostLink ..
  | .spareQualified .. | .hostFeedOk .. | .engineCool .. | .currentDemandEnd .. | .healthy .. | .entdaa ..
  | .jtagInstruction .. | .rcRead .. => true
end Sys2Proof
end

