-- ==== Sys2Proof/Tests/Slice0.lean ====
section
/-!
SUPPORT. Tests: ill-formed commands that WellFormed refuses, concrete states and operands that meet the hypotheses of the
statements in Certificates/Slice0/Obligations.lean, clause by clause, and a few single steps.
-/
namespace Sys2Proof.Machine.Tests


set_option Elab.async false

/-! ## Witness states -/

/-- The tables of a core are canonical, as a test. -/
def coreOkB (c : Core) : Bool :=
  Memory.wf c.spad && smWf (fun _ => 0) c.sregs && smWf (fun _ => 0) c.vregs && smWf (fun _ => 0) c.mregs

/-- The invariant, as a test. -/
def invOk (s : State) : Bool :=
  smWf regDefault s.regs && smWf (fun _ => Core.reset) s.cores && s.cores.all (fun e => coreOkB e.2)
    && smWf (fun _ => ({} : Job)) s.jobs
    && s.jobs.all (fun e => e.2.lcores.all (fun l => match l.2.saved with | some c => coreOkB c | none => true))
    && smWf (fun _ => 0) s.dieCyc && smWf (fun _ => ({} : Grant)) s.grants && Memory.wf s.hbm.mem
    && decide (s.events.length ≤ 256) && decide (s.innk.buf.length ≤ 512)

theorem ok_of_coreOkB {c : Core} (h : coreOkB c = true) : c.ok := by
  simp only [coreOkB, Bool.and_eq_true] at h
  exact ⟨h.1.1.1, h.1.1.2, h.1.2, h.2⟩

theorem inv_of_invOk {s : State} (h : invOk s = true) : s.Inv := by
  simp only [invOk, Bool.and_eq_true, List.all_eq_true, decide_eq_true_eq] at h
  obtain ⟨⟨⟨⟨⟨⟨⟨⟨⟨h1, h2⟩, h3⟩, h4⟩, h5⟩, h6⟩, h7⟩, h8⟩, h9⟩, h10⟩ := h
  refine ⟨h1, h2, fun e he => ok_of_coreOkB (h3 e he), h4, ?_, h6, h7, h8, h9, h10⟩
  intro e he l hl c hc
  have hb := h5 e he l hl
  rw [hc] at hb
  exact ok_of_coreOkB hb

/-- A state that meets the invariant and the other premises `p`. -/
theorem wit {s : State} {p : Prop} [Decidable p] (h : (invOk s && decide p) = true) : s.Inv ∧ p := by
  simp only [Bool.and_eq_true, decide_eq_true_eq] at h
  exact ⟨inv_of_invOk h.1, h.2⟩

/-- Right after reset, with register words set: page, offset, value. -/
def regs (ws : List (Nat × Nat × Nat)) : State := ws.foldl (fun s w => wrW s w.1 w.2.1 w.2.2) State.reset

/-- The block of a page is ready. -/
def up (s : State) (pg : Nat) : State := setBlk s pg stREADY

/-- Core 0 as given. -/
def with0 (s : State) (c : Core) : State := setCore s 0 c

/-- Core 0 issues bundles. -/
def tIssue : State := with0 State.reset { run := .issuing }

/-- The issue of a slot of core 0 with tag 0. -/
def i0 : Issue := { core := 0, tag := 0 }

/-- Handle `h` of core 0: base, size and token. -/
def hdl (s : State) (h base size tok : Nat) : State :=
  let pg := pgLEDGER 0
  wr1 (wr1 (wr1 s pg F.LEDGER_HBASE.BASE h base) pg F.LEDGER_HSIZE.SIZE h size) pg F.LEDGER_HTOK.TOK h tok


/-! ## SEQ -/

/-- Core 0 issues with S1 = 5 and one open loop from 0 to 4. -/
def tLoop : State := with0 State.reset { run := .issuing, sregs := [(1, 5)], loops := [⟨0, 4, 1⟩], pc := 1 }

/-- Core 0 issues with four open loops. -/
def tLoops4 : State :=
  with0 State.reset { run := .issuing, sregs := [(1, 5)], loops := [⟨0, 4, 1⟩, ⟨0, 5, 1⟩, ⟨0, 6, 1⟩, ⟨0, 7, 1⟩] }

theorem wit_seqReady : tIssue.Inv ∧ (canIssue tIssue 0 = true ∧ (nextBundle tIssue 0).1 ≤ 4095) := wit (by decide +kernel)
theorem wit_seqReadyLast :
    let s := with0 State.reset { run := .issuing, pc := 4094 }
    s.Inv ∧ (canIssue s 0 = true ∧ (nextBundle s 0).1 ≤ 4095) := wit (by decide +kernel)
theorem wit_ftest : tIssue.Inv ∧ (canIssue tIssue 0 = true ∧ 0 < partCount (partMode tIssue 0)) := wit (by decide +kernel)
theorem wit_branchTaken : tIssue.Inv ∧ (canIssue tIssue 0 = true ∧ preg (core tIssue 0) 0 ≠ false) := wit (by decide +kernel)
theorem wit_branchNotTaken : tIssue.Inv ∧ (canIssue tIssue 0 = true ∧ preg (core tIssue 0) 0 = true) := wit (by decide +kernel)
theorem wit_loopOpens :
    tLoop.Inv ∧ (canIssue tLoop 0 = true ∧ (core tLoop 0).pc < (4 : BitVec 12).toNat ∧
      (core tLoop 0).loops = [⟨0, 4, 1⟩] ∧ 0 < (sreg (core tLoop 0) 1).toNat % 2 ^ 32) := wit (by decide +kernel)
theorem wit_loopSkips :
    tLoop.Inv ∧ (canIssue tLoop 0 = true ∧ (sreg (core tLoop 0) 0).toNat % 2 ^ 32 = 0 ∧
      (loopNext (core tLoop 0).loops 3).1 ≤ 4095) := wit (by decide +kernel)
theorem wit_seqWaits :
    tIssue.Inv ∧ (canIssue tIssue 0 = true ∧ tokOf tIssue 0 5 = false ∧ (5 : Fin 64).val ≠ 63 ∧ (2 : BitVec 2) ≠ 3) := wit (by decide +kernel)
theorem wit_ldsAndWaittSet :
    let t := hdl tIssue 3 0 64 1
    t.Inv ∧ (canIssue t 0 = true ∧ (3 : Fin 64).val ≠ 63 ∧ tokOf t 0 3 = true ∧ boundsBad t 0 3 (handleOf t 0 3) 0 32 = false ∧
      poisonHit t 0 3 0 32 = false) := wit (by decide +kernel)
theorem wit_waittResumes :
    let s := with0 State.reset { run := .waitt 1 3 0 }
    s.Inv ∧ ((core s 0).run = .waitt 1 3 0 ∧ (core s 0).waitFrom + 0 ≤ now s 0) := wit (by decide +kernel)
theorem wit_seqIllegal :
    tLoops4.Inv ∧ (canIssue tLoops4 0 = true ∧ (nextBundle tLoops4 0).1 ≤ 4095 ∧
      (∀ p < partCount (partMode tLoops4 0), ctxDown tLoops4 0 (partCtx tLoops4 0 p) = false ∧
        rd1 tLoops4 (pgSEQ 0) F.SEQ_FAULT.CODE p = 0) ∧
      6 ≤ (6 : BitVec 3).toNat ∧ 7 ≤ (7 : BitVec 8).toNat ∧ partCount (partMode tLoops4 0) ≤ (3 : Fin 4).val ∧
      (0 : BitVec 12).toNat ≤ (core tLoops4 0).pc ∧ 4 < (5 : BitVec 12).toNat ∧ 4 ≤ (core tLoops4 0).loops.length ∧
      (sreg (core tLoops4 0) 1).toNat % 2 ^ 32 ≠ 0) := wit (by decide +kernel)


/-! ## VEC -/

/-- A slot operation of core 0 may issue: handle 3 is readable, handle 4 holds class-A rows. -/
def tSlot : State := hdl (hdl tIssue 3 0 64 1) 4 64 64 1

theorem wit_slotReady :
    tSlot.Inv ∧ (slotOk tSlot 0 2 = true ∧ slotOk tSlot 0 1 = true ∧ slotOk tSlot 0 3 = true ∧
      (0 : Nat) < partCount (partMode tSlot 0) ∧ ctxDown tSlot 0 (partCtx tSlot 0 0) = false ∧
      rd1 tSlot (pgSEQ 0) F.SEQ_FAULT.CODE 0 = 0) := wit (by decide +kernel)
theorem wit_slotReadyQuarter :
    let s := wr tSlot (pgARRAY 0) F.ARRAY_PART.MODE 2
    s.Inv ∧ (slotOk s 0 2 = true ∧ (3 : Nat) < partCount (partMode s 0) ∧ ctxDown s 0 (partCtx s 0 3) = false) :=
  wit (by decide +kernel)
theorem wit_conversionsLastGroup :
    formatOk (formatByteOf 2) = true ∧ (3 : Fin 8).val < 512 / elemBytes (formatByteOf 2).elem 128 ∧ (formatByteOf 2).scl ≠ 1 := by
  decide +kernel
theorem wit_vldVst :
    tSlot.Inv ∧ ((4 : BitVec 3).toNat ≤ 4 ∧ (64 * (handleOf tSlot 0 3).base + 0) % 512 = 0 ∧
      boundsBad tSlot 0 3 (handleOf tSlot 0 3) 0 512 = false ∧ tokOf tSlot 0 3 = true ∧ poisonHit tSlot 0 3 0 512 = false ∧
      (handleOf tSlot 0 3).clsW = false) := wit (by decide +kernel)
theorem wit_vscwr : kOfWord (lane 32 (vreg (core tSlot 0) 0).toNat 0) ≠ none := by decide +kernel
theorem wit_vscwrNan :
    let s := with0 tSlot { core tSlot 0 with vregs := [(1, 0x7FC00000)] }
    s.Inv ∧ (kOfWord (lane 32 (vreg (core s 0) 1).toNat 0) = none) := wit (by decide +kernel)
theorem wit_rounding : fvIsNaN (decodeFmt fmtE4M3 0x7E) = false ∧ 0x7E < 2 ^ fmtWidth fmtE4M3 ∧ (0 : Int) < 1 := by
  decide +kernel
theorem wit_conversions : formatOk (formatByteOf 0) = true ∧ (0 : Fin 8).val < 512 / elemBytes (formatByteOf 0).elem 128 := by
  decide +kernel

/-! ## ARR -/

/-- A descriptor from fields: lowest bit and value. -/
def dsc (fs : List (Nat × Nat)) : BitVec 512 := BitVec.ofNat 512 (fs.foldl (fun a f => a + f.2 * 2 ^ f.1) 0)

/-- A pass that loads a tile: feed and tile FP16-class formats, FP32 drain, feed handle 3, tile handle 4, drain handle 5, two rows,
K 32, one column. -/
def tDesc : BitVec 512 :=
  dsc [(0, 2), (8, 2), (24, 3), (30, 4), (36, 5), (168, 2), (184, 31), (201, 1), (384, 1), (396, 1), (408, 1)]

/-- Core 0 with that descriptor in entry 0 and readable handles. -/
def tPass : State := hdl (hdl (hdl (with0 State.reset { run := .issuing, desc := [(0, tDesc)] }) 3 0 64 1) 4 64 64 1) 5 256 64 1

/-- That pass, issued in cycle 0. -/
def tQ : Pass := { id := 1, desc := tDesc, a := 0, t := 0, s := 0, tileId := 1 }

/-- Partition 0 with passes and their tile. -/
def tPart (q : List Pass) : State :=
  with0 tPass { core tPass 0 with parts := [(0, { q := q, tiles := [(1, { desc := tDesc })], nextId := 2 })] }

theorem wit_slotNop : tPass.Inv ∧ (slotOk tPass 0 1 = true ∧ slotOk tPass 0 2 = true ∧ slotOk tPass 0 3 = true) :=
  wit (by decide +kernel)
theorem wit_passIssues :
    tPass.Inv ∧ (slotOk tPass 0 1 = true ∧ 0 < partCount (partMode tPass 0) ∧ ctxDown tPass 0 (partCtx tPass 0 0) = false ∧
      passFault (partMode tPass 0) 0 (getPart (core tPass 0) 0) (tabGet 0 (core tPass 0).desc 0) = none ∧
      (getPart (core tPass 0) 0).lastS = none) := wit (by decide +kernel)
theorem wit_passIssuesBehind :
    let s := with0 tPass { core tPass 0 with parts := [(0, { lastS := some 7, lastE := some 40, lastT := some 3 })] }
    s.Inv ∧ (passFault (partMode s 0) 0 (getPart (core s 0) 0) (tabGet 0 (core s 0).desc 0) = none ∧
      (getPart (core s 0) 0).lastS = some 7 ∧ (getPart (core s 0) 0).lastE = some 40 ∧ (getPart (core s 0) 0).lastT = some 3) :=
  wit (by decide +kernel)
theorem wit_passFaultFormat :
    tPass.Inv ∧ (slotOk tPass 0 1 = true ∧ rd1 tPass (pgARRAY 0) F.ARRAY_FAULT.CODE 0 = 0 ∧
      formatBad (tabGet 0 (core tPass 0).desc 15) = true) := wit (by decide +kernel)
theorem wit_passFaultShape :
    let d := dsc [(0, 2), (8, 2), (201, 1), (184, 31), (168, 64513)]
    formatBad d = false ∧ 64512 < dM d ∧ shapeBad 0 (dsc [(0, 2), (8, 2), (201, 1), (184, 31), (168, 64512)]) none = false := by
  decide +kernel
theorem wit_passFaultFull :
    let s := tPart [tQ, { tQ with id := 2 }]
    s.Inv ∧ (formatBad tDesc = false ∧ dPart tDesc = 0 ∧ rd1 s (pgARRAY 0) F.ARRAY_FAULT.CODE 0 = 0 ∧
      shapeBad (partMode s 0) tDesc ((getPart (core s 0) 0).resident.bind (tileDesc (getPart (core s 0) 0))) = false ∧
      2 ≤ (getPart (core s 0) 0).q.length) := wit (by decide +kernel)
theorem wit_passLoads :
    let s := tPart [tQ]
    s.Inv ∧ (loadNext s 0 0 = some tQ ∧ tQ.t = now s 0 ∧ scaleAtT tDesc = false ∧
      takeFault s 0 [⟨dTileH tDesc, handleOf s 0 (dTileH tDesc), [tileRows tDesc (handleOf s 0 (dTileH tDesc))],
        [tileRows tDesc (handleOf s 0 (dTileH tDesc))], true⟩] = none) := wit (by decide +kernel)
theorem wit_passLatches :
    let q := { tQ with loading := true }
    let s := tPart [q]
    s.Inv ∧ (latchNext s 0 0 = some q ∧ q.s = now s 0 ∧ takeFault s 0 (latchTakes s 0 tDesc) = none ∧ q.tileId ≠ 0) :=
  wit (by decide +kernel)
theorem wit_drainsRow :
    let q := { tQ with loading := true, latched := true, drainH := handleOf tPass 0 5 }
    let s := { tPart [q] with dieCyc := [(0, 300)] }
    s.Inv ∧ (now s 0 = 300 ∧ drainNext s 0 0 = some q) := wit (by decide +kernel)
theorem wit_drainsRowInTime :
    let q := { tQ with loading := true, latched := true, drainH := handleOf tPass 0 5, s := 300 }
    let cs := 300 + 0 + (coreDim (tPart [q]) 0).delta - 9
    let s := { tPart [q] with dieCyc := [(0, cs)] }
    s.Inv ∧ (drainNext s 0 0 = some q ∧ now s 0 ≤ cs + 4 ∧ dSctEn q.desc = false) := wit (by decide +kernel)
theorem wit_drainCompletes :
    let q := { tQ with loading := true, latched := true, drained := 2 }
    let s := { tPart [q] with dieCyc := [(0, 2 + (coreDim (tPart [q]) 0).delta)] }
    s.Inv ∧ ((getPart (core s 0) 0).q = q :: [] ∧ q.drained = dM q.desc ∧
      q.s + dM q.desc + (coreDim s 0).delta + (if dFO q.desc then 128 else 0) ≤ now s 0) := wit (by decide +kernel)
theorem wit_arrayErrors :
    tPass.Inv ∧ (0 < partCount (partMode tPass 0) ∧ ctxDown tPass 0 (partCtx tPass 0 0) = false ∧
      rd1 tPass (pgARRAY 0) F.ARRAY_FAULT.CODE 0 = 0) := wit (by decide +kernel)
theorem wit_arrayWrites :
    let s := up tPass (pgSEQ 0)
    s.Inv ∧ (pageClosed s (pgARRAY 0) = false ∧ anyPartBusy s 0 = false ∧ coreState s 0 ≠ stSERVICE) := wit (by decide +kernel)
theorem wit_arrayWritesFault :
    let s := up (with0 State.reset { parts := [(0, { fault := true })] }) (pgSEQ 0)
    s.Inv ∧ ((1 : BitVec 4).getLsbD 0 = true ∧ (getPart (core s 0) 0).fault = true ∧ pageClosed s (pgARRAY 0) = false) :=
  wit (by decide +kernel)
theorem wit_arrayWritesBusy :
    let s := up (tPart [tQ]) (pgSEQ 0)
    s.Inv ∧ (anyPartBusy s 0 = true ∧ pageClosed s (pgARRAY 0) = false) := wit (by decide +kernel)
theorem wit_arrayWritesService :
    let s := setBlk State.reset (pgSEQ 0) stSERVICE
    s.Inv ∧ (coreState s 0 = stSERVICE ∧ pageClosed s (pgARRAY 0) = false) := wit (by decide +kernel)

/-! ## STR and Itineraries -/

/-- A grant of the first MiB of the logical addresses to context 0 of bank 0, for reading and writing. -/
def tGrant : Grant := { base := 0, limit := 512, r := true, w := true, valid := true }

/-- Core 0 with readable handles 3 and 4, the grant, and Itinerary slot 2 as given. -/
def tItin (v : Itin) : State :=
  let s := hdl (hdl (hdl tIssue 3 0 64 1) 4 64 64 1) 5 128 64 0
  { with0 s { core s 0 with slots := [(2, v)] } with grants := [(grantKey 0 0 0, tGrant)] }

/-- A request of core 0. -/
def tReq (id : Nat) (kind : ReqKind) (tgt : Target) (bytes : Nat) : Req :=
  { id := id, kind := kind, slot := 2, pc := 0, ctx := 0, tgt := tgt, bytes := bytes, lbytes := bytes, conv := {}, h := 3, off := 0,
    data := List.replicate bytes 7, idx := [], operand := 0, issued := 0, seq := 0, status := none, ue := false, words := 0,
    afterMuster := false, hd := { base := 0, size := 64 } }

/-- Core 0 with outstanding requests. -/
def tReqs (rs : List Req) : State := let s := tItin {}; with0 s { core s 0 with reqs := rs }

/-- Core 0 with stack 1: capacity 2, spill capacity 8, of context 0, with the given depth and staging slot 0. -/
def tBag (depth : Nat) (v : Stage) : State :=
  let pg := pgLEDGER 0
  let s := hdl (tItin {}) 63 1024 4096 1
  let s := wr1 (wr1 (wr1 s pg F.SB_SLOT.EN 1 1) pg F.SB_SLOT.CAP 1 2) pg F.SB_SPILL_CAP.SPILL 1 8
  let s := wr1 s pg F.SB_DEPTH.DEPTH 1 depth
  with0 s { core s 0 with stage := [(16, v)] }

theorem wit_strReady :
    (tItin {}).Inv ∧ (slotOk (tItin {}) 0 3 = true ∧ 0 < partCount (partMode (tItin {}) 0) ∧
      ctxDown (tItin {}) 0 (partCtx (tItin {}) 0 0) = false) := wit (by decide +kernel)
theorem wit_itinStart :
    let s := tItin {}; let r := tItin { st := .run }
    s.Inv ∧ ((slotOf s 0 2).st = .idle ∧ (slotOf r 0 2).st = .run ∧ invOk r = true ∧ slotOk r 0 3 = true ∧
      rd1 r (pgSTREAM 0) F.STREAM_FAULT.CODE (ctxPart r 0 0) = 0) := wit (by decide +kernel)
theorem wit_itinCredit :
    let s := tItin { st := .run, credits := 4094 }
    s.Inv ∧ ((1 : BitVec 12) ≠ 0 ∧ (core s 0).absorb.contains 2 = false ∧ (slotOf s 0 2).credits + 1 ≤ 4095 ∧
      4095 < (slotOf s 0 2).credits + 2) := wit (by decide +kernel)
theorem wit_itinAbsorb :
    let s := with0 tIssue { run := .issuing, absorb := [2] }
    s.Inv ∧ ((core s 0).absorb.contains 2 = true ∧ atMuster (core s 0) = false ∧ slotOk s 0 3 = true) := wit (by decide +kernel)
theorem wit_armSpecial :
    (tItin {}).Inv ∧ ((63 : Fin 64).val = 63 ∧ (1 : BitVec 12) ≠ 0 ∧ rd1 (tItin {}) (pgSPAD 0) F.SPAD_FAULT.CODE 0 = 0) :=
  wit (by decide +kernel)
theorem wit_sendAndCopy :
    let s := tItin {}
    s.Inv ∧ ((wideReadOk (handleAddr (handleOf s 0 3) 0) 2048 = true ∧ boundsBad s 0 3 (handleOf s 0 3) 0 2048 = false ∧
        tokOf s 0 3 = true ∧ poisonHit s 0 3 0 2048 = false) ∧ (core s 0).outq.length < 32 ∧ outBytes (core s 0) + 2048 ≤ 65536 ∧
      writeOk (handleOf s 0 4).clsW (handleAddr (handleOf s 0 4) 0) 2048 = true ∧
      boundsBad s 0 4 (handleOf s 0 4) 0 2048 = false) := wit (by decide +kernel)
theorem wit_sendFull :
    let s := tItin {}
    let s := with0 s { core s 0 with outq := (List.range 32).map (fun i => ⟨i, 2, 32, none⟩) }
    s.Inv ∧ (32 ≤ (core s 0).outq.length ∧ rd1 s (pgSTREAM 0) F.STREAM_FAULT.CODE (ctxPart s 0 0) = 0) := wit (by decide +kernel)
theorem wit_sendLate :
    let s := tItin {}
    s.Inv ∧ (wideReadOk (handleAddr (handleOf s 0 5) 0) 32 = true ∧ boundsBad s 0 5 (handleOf s 0 5) 0 32 = false ∧
      tokOf s 0 5 = false) := wit (by decide +kernel)
theorem wit_push :
    let s := tBag 1 {}
    s.Inv ∧ (rd1 s (pgLEDGER 0) F.SB_SPILL_CAP.SPILL 1 ≤ 262144 ∧ stackOk s 0 1 0 = true ∧
      rd1 s (pgLEDGER 0) F.SB_DEPTH.DEPTH 1 < rd1 s (pgLEDGER 0) F.SB_SLOT.CAP 1 ∧ slotOk s 0 3 = true ∧
      wideReadOk (handleAddr (handleOf s 0 3) 0) 256 = true ∧ boundsBad s 0 3 (handleOf s 0 3) 0 256 = false) :=
  wit (by decide +kernel)
theorem wit_pushSpills :
    let s := tBag 2 {}
    s.Inv ∧ (stackOk s 0 1 0 = true ∧ rd1 s (pgLEDGER 0) F.SB_SLOT.CAP 1 ≤ 2 ∧
      rd1 s (pgLEDGER 0) F.SB_DEPTH.DEPTH 1 < rd1 s (pgLEDGER 0) F.SB_SLOT.CAP 1 + rd1 s (pgLEDGER 0) F.SB_SPILL_CAP.SPILL 1 ∧
      (stageOf s 0 1 0).wout = false) := wit (by decide +kernel)
theorem wit_popStaged :
    let s := tBag 3 { rec_ := some 2 }
    s.Inv ∧ (stackOk s 0 1 0 = true ∧ 2 < rd1 s (pgLEDGER 0) F.SB_DEPTH.DEPTH 1 ∧ (stageOf s 0 1 0).rec_ = some (3 - 1) ∧
      writeOk (handleOf s 0 4).clsW (handleAddr (handleOf s 0 4) 0) 256 = true ∧
      boundsBad s 0 4 (handleOf s 0 4) 0 256 = false) := wit (by decide +kernel)
theorem wit_bagFaults :
    (tBag 10 {}).Inv ∧ (stackOk (tBag 10 {}) 0 1 0 = true ∧ rd1 (tBag 10 {}) (pgLEDGER 0) F.SB_DEPTH.DEPTH 1 = 10 ∧
      rd1 (tBag 0 {}) (pgLEDGER 0) F.SB_DEPTH.DEPTH 1 = 0 ∧ stackOk (tBag 0 {}) 0 1 0 = true ∧ invOk (tBag 0 {}) = true ∧
      (stageOf (tBag 2 { wout := true }) 0 1 0).wout = true ∧ stackOk (tBag 2 { wout := true }) 0 1 0 = true ∧
      rd1 (tBag 10 {}) (pgSPAD 0) F.SPAD_FAULT.CODE 0 = 0) := wit (by decide +kernel)
theorem wit_writeOut :
    let s := tBag 3 { rec_ := some 2, wout := true }
    s.Inv ∧ ((stageOf s 0 1 0).readyAt ≤ now s 0 ∧ (stageOf s 0 1 0).rec_ = some 2 ∧ (stageOf s 0 1 0).wout = true ∧
      granted s (bankOfCore s 0) 0 (spillAddr s 0 1 2) 256 false true = true ∧
      readErrs (core s 0) [(sbSlot s 0 2, 256)] = []) := wit (by decide +kernel)
theorem wit_prefetch :
    let s := tBag 20 { pref := some 2 }
    s.Inv ∧ ((stageOf s 0 1 0).pref = some 2 ∧ granted s (bankOfCore s 0) 0 (spillAddr s 0 1 2) 256 true false = true ∧
      (hbmRead s (spillAddr s 0 1 2) 256).2.1 = false) := wit (by decide +kernel)
theorem wit_courierIssues :
    let s := tItin {}
    s.Inv ∧ (slotOk s 0 3 = true ∧ crrHeld (core s 0) < 16 ∧ (core s 0).reqs = [] ∧
      courierGrant s 0 0 (.hbm 0) 256 true true = true) := wit (by decide +kernel)
theorem wit_courierTarget : targetOf (tItin {}) 0 0 0 0 0 256 32 false = .ok (.hbm 0) := by rfl
theorem wit_courierRefused :
    let s := tReqs ((List.range 16).map (fun i => tReq i .put (.hbm 0) 32))
    s.Inv ∧ (16 ≤ crrHeld (core s 0) ∧ slotOk s 0 3 = true) := wit (by decide +kernel)
theorem wit_courierEffects :
    let a := tReq 9 .put (.hbm 0) 32; let b := tReq 9 .get (.hbm 0) 32; let d := { tReq 9 .add (.hbm 8) 8 with lbytes := 32 }
    (tReqs [a]).Inv ∧ ((∀ r ∈ [a, b, d], invOk (tReqs [r]) = true ∧
        (core (tReqs [r]) 0).reqs.find? (fun x => x.id == r.id && !isItin x) = some r ∧ courierHeld (core (tReqs [r]) 0) r = false ∧
        (core (tReqs [r]) 0).reqs.filter (fun x => x.id != r.id) = [] ∧ (hbmRead (tReqs [r]) 0 r.bytes).2.1 = false ∧
        r.data.length = r.bytes)) := wit (by decide +kernel)
theorem wit_courierSpad :
    let r := tReq 9 .put (.spad 0 4 0) 32
    let s := { tReqs [r] with jobs := [(0, { nl := 1, lcores := [(0, { pcore := some 0 })] })] }
    s.Inv ∧ (pcoreOf s (bankOfCore s 0) 0 = some 0 ∧ writeOk (handleOf s 0 4).clsW (handleAddr (handleOf s 0 4) 0) 32 = true ∧
      boundsBad s 0 4 (handleOf s 0 4) 0 32 = false) := wit (by decide +kernel)
theorem wit_courierAnswers :
    let r := { tReq 9 .get (.window 0 0 0 0) 32 with status := some 1 }
    let s := tReqs [r]
    s.Inv ∧ (r.kind ≠ .put ∧ courierHeld (core s 0) r = false ∧ ctxDown s 0 r.ctx = false ∧
      rd1 s (pgSTREAM 0) F.STREAM_FAULT.CODE (ctxPart s 0 r.ctx) = 0) := wit (by decide +kernel)
theorem wit_itinPlain :
    let s := tItin { st := .run, pc := 30 }
    s.Inv ∧ (itinOk s 0 2 = true ∧ (loopNext (slotOf s 0 2).loops (slotOf s 0 2).pc).1 ≤ 31 ∧ slotBusy (core s 0) 2 = false ∧
      cvtOk 0 = true ∧ ((slotOf s 0 2).pc < 31 ∧ (slotOf s 0 2).loops.length < 6)) := wit (by decide +kernel)
theorem wit_itinPlainFaults :
    let s := tItin { st := .run, pc := 31 }
    s.Inv ∧ (itinOk s 0 2 = true ∧ 31 < (loopNext (slotOf s 0 2).loops (slotOf s 0 2).pc).1 ∧ ¬ (slotOf s 0 2).pc < 31 ∧
      (cvtOk 0xFF && cvtOk 0) = false ∧ rd1 s (pgSTREAM 0) F.STREAM_FAULT.CODE (ctxPart s 0 0) = 0) := wit (by decide +kernel)
theorem wit_itinFenceWaits :
    let s := let s := tItin { st := .run }; with0 s { core s 0 with reqs := [tReq 9 .load (.hbm 0) 32] }
    s.Inv ∧ (itinOk s 0 2 = true ∧ slotBusy (core s 0) 2 = true) := wit (by decide +kernel)
theorem wit_itinRequests :
    let s := tItin { st := .run, credits := 1 }
    s.Inv ∧ (creditNow (slotOf s 0 2) (now s 0) ≠ 0 ∧ reqWait s 0 (slotOf s 0 2) false false = 0 ∧
      localBytes (slotConv (slotOf s 0 2)) 2048 = 2048 ∧ writeOk (handleOf s 0 3).clsW (handleAddr (handleOf s 0 3) 0) 2048 = true ∧
      boundsBad s 0 3 (handleOf s 0 3) 0 2048 = false ∧ granted s (bankOfCore s 0) 0 0 2048 true true = true ∧
      convActive (slotConv (slotOf s 0 2)) = false ∧ readErrs (core s 0) [(handleAddr (handleOf s 0 4) 0, 256)] = [] ∧
      boundsBad s 0 4 (handleOf s 0 4) 0 256 = false ∧
      ∀ i < 64, granted s (bankOfCore s 0) 0 (0 + 32 * memNat (core s 0).spad (handleAddr (handleOf s 0 4) 0 + 4 * i) 4) 32 true false = true) :=
  wit (by decide +kernel)
theorem wit_itinTarget : targetOf (tItin { st := .run, credits := 1 }) 0 0 0 0 0 2048 32 true = .ok (.hbm 0) := by rfl
theorem wit_itinSuppressed :
    let s := { tItin { st := .run, credits := 1 } with grants := [] }
    s.Inv ∧ (granted s (bankOfCore s 0) 0 0 32 true false = false ∧ itinOk s 0 2 = true) := wit (by decide +kernel)
theorem wit_itinStores :
    takeChunks [⟨4, 2, 32, some (List.replicate 32 9)⟩, ⟨5, 2, 32, some (List.replicate 32 8)⟩] 64
      = some (some (List.replicate 32 9 ++ List.replicate 32 8, [4, 5])) := by decide +kernel
theorem wit_requestsComplete :
    let a := tReq 9 .store (.hbm 0) 32; let b := tReq 9 .load (.hbm 0) 32; let d := { b with status := some 0 }
    let e := { tReq 9 .gather (.hbm 0) 32 with idx := [3], status := some 0 }
    let f := { tReq 9 .store (.window 0 0 0 0) 32 with status := some 0 }
    (tReqs [a]).Inv ∧ ((∀ r ∈ [a, b, d, e, f, { d with ue := true }], invOk (tReqs [r]) = true ∧
        (core (tReqs [r]) 0).reqs.find? (fun x => x.id == r.id && isItin x) = some r ∧ r.words = 0) ∧
      isFabric f = true ∧ isFabric d = false ∧ (∀ i ∈ e.idx, i ≠ 2 ^ 32) ∧ e.hd.clsW = false ∧ ctxDown (tReqs [d]) 0 d.ctx = false ∧
      rd1 (tReqs [d]) (pgSTREAM 0) F.STREAM_FAULT.CODE (ctxPart (tReqs [d]) 0 d.ctx) = 0) := wit (by decide +kernel)

/-! ## Jobs -/

/-- Logical core 0 on core 0. -/
def tLcore : LCore := { pcore := some 0 }

/-- A job of one logical core and one context runs in bank 0; core 0 holds its logical core. -/
def tJob (k : Core) (j : Job) : State :=
  setJobState (up { with0 State.reset { k with lcore := some 0 } with
    jobs := [(0, { j with num := 1, nl := 1, nctx := 1, valid := 1, lcores := [(0, tLcore)] })] } (pgSEQ 0)) 0 2

/-- A command in queue 0, slot 0: opcode and a number for its other bytes. -/
def tCmd (s : State) (opc : Nat) (rest : Nat) : State :=
  { s with host := { s.host with cmds := [{ q := 0, n := 0, bytes := opc + rest * 2 ^ 64 }] } }

theorem wit_musterArrives :
    let s := wr (tJob { run := .muster 2 1 0 false } {}) (pgSTREAM 0) F.MUSTER_SEQ.SEQ 2
    s.Inv ∧ ((core s 0).run = .muster 2 1 0 false ∧ (core s 0).lcore = some 0 ∧ fenceMet (core s 0) 2 = true ∧ allDown s 0 = false ∧
      rd s (pgSTREAM 0) F.MUSTER_SEQ.SEQ ≠ (jobOf s (core s 0).bank).mseq) := wit (by decide +kernel)
theorem wit_musterInSequence :
    let s := wr (tJob { run := .muster 0 1 0 false } {}) (pgSTREAM 0) F.MUSTER_SEQ.SEQ 1
    s.Inv ∧ (rd s (pgSTREAM 0) F.MUSTER_SEQ.SEQ = (jobOf s (core s 0).bank).mseq ∧ allDown s 0 = false) := wit (by decide +kernel)

/-- Every core of the job waits at a step-start Muster of SCOPE 0. -/
def tArrived (gate : Bool) (permits : Nat) : State :=
  wr1 { tJob { run := .muster 0 1 0 true } {} with
    jobs := [(0, { num := 1, nl := 1, nctx := 1, valid := 1, stepGate := gate,
                   lcores := [(0, { tLcore with arrived := some (1, 0) })] })] } pgJOB F.JOB_GO.PERMITS 0 permits

theorem wit_musterReleases :
    (tArrived true 1).Inv ∧ (musterDone (tArrived true 1) 0 = some (0, 1, 0) ∧ rd1 (tArrived true 1) pgJOB F.JOB_GO.PERMITS 0 ≠ 0 ∧
      invOk (tArrived false 0) = true ∧ musterDone (tArrived false 0) 0 = some (0, 1, 0) ∧ (jobOf (tArrived false 0) 0).stepGate = false ∧
      (core (tArrived true 1) 0).lcore.isSome = true ∧ atMuster (core (tArrived true 1) 0) = true) := wit (by decide +kernel)
theorem wit_musterGated :
    let s := tArrived true 0
    s.Inv ∧ (musterDone s 0 = some (0, 1, 0) ∧ (jobOf s 0).stepGate = true ∧ (jobOf s 0).permitTaken = false ∧
      rd1 s pgJOB F.JOB_GO.PERMITS 0 = 0) := wit (by decide +kernel)
theorem wit_yieldSaves :
    let s := tJob { run := .waitt 1 3 9, yieldReqAt := 1 } {}
    s.Inv ∧ ((core s 0).yieldReqAt ≠ 0 ∧ yieldPending (core s 0) = true ∧ quiet (core s 0) = true ∧ activeBank s = 0 ∧
      (core s 0).bank = 0 ∧ jobState s 0 = 2 ∧ jobState s 1 ≠ 1) := wit (by decide +kernel)

/-- Logical core 0 of the running job is out, saved or not, and core 0 is free. -/
def tOut (saved : Option Core) : State :=
  setJobState (up { State.reset with
    jobs := [(0, { num := 1, nl := 1, valid := 1, lcores := [(0, { tLcore with pcore := none, saved := saved })] })] } (pgSEQ 0)) 0 2

theorem wit_coreRestores :
    (tOut (some {})).Inv ∧ (∀ s ∈ [tOut (some {}), tOut none], invOk s = true ∧ (freeCores s 0).contains 0 = true ∧
      activeBank s = 0 ∧ jobState s 0 = 2 ∧ (readyOut s 0 0).head? = some 0 ∧ (outCores s 0 0).head? = some 0) := wit (by decide +kernel)
theorem wit_noYield :
    let s := { tJob { run := .issuing, yieldReqAt := 1 } {} with dieCyc := [(0, 131072)] }
    s.Inv ∧ (yieldPending (core s 0) = false ∧ (core s 0).yieldReqAt + 131072 ≤ now s 0 + 1 ∧ 0 < partCount (partMode s 0) ∧
      ctxDown s 0 (partCtx s 0 0) = false ∧ rd1 s (pgSEQ 0) F.SEQ_FAULT.CODE 0 = 0) := wit (by decide +kernel)
theorem wit_segmentSwitch :
    let s := tJob { run := .issuing, segWait := true } {}
    s.Inv ∧ ((core s 0).segWait = true ∧ yieldStopped (core s 0) = false ∧ (core s 0).lcore.isSome = true) := wit (by decide +kernel)
theorem wit_timeslice :
    let s := tJob { run := .waitt 1 3 9 } {}
    let s := { s with jobs := [(0, { num := 1, nl := 2, valid := 1, lcores := [(0, tLcore), (1, { pcore := none })] })] }
    s.Inv ∧ (activeBank s = 0 ∧ jobState s 0 = 2 ∧
      (((bankCores s 0).filter (fun m => dieOf m == 0)).filter (fun m => (core s m).yieldReqAt != 0)).length < (readyOut s 0 0).length ∧
      (((bankCores s 0).filter (fun m => dieOf m == 0)).filter (fun m => !((core s m).yieldReqAt != 0))).filter (fun m => waiting (core s m))
        = [0]) := wit (by decide +kernel)
theorem wit_scrub :
    let s := wr (with0 State.reset { marks := [(0, { ce := 1 })] }) (pgSPAD 0) F.SPAD_CTRL.SCRUB_EN 1
    s.Inv ∧ (rdB s (pgSPAD 0) F.SPAD_CTRL.SCRUB_EN = true ∧ scrubDue s 0 = true ∧
      (rowMark (core s 0) (rd s (pgSPAD 0) F.SPAD_SCRUB_POS.ROW)).ue = 0 ∧
      (rowMark (core s 0) (rd s (pgSPAD 0) F.SPAD_SCRUB_POS.ROW)).ce ≠ 0) := wit (by decide +kernel)
theorem wit_traceFlush :
    let s := tJob { trace := [zeros 32] } {}
    let s := { s with jobs := [(0, { num := 1, trace := some { records := 4 } })] }
    s.Inv ∧ ((jobOf s 0).trace = some { records := 4 } ∧ (core s 0).bank = 0 ∧ (core s 0).trace ≠ []) := wit (by decide +kernel)
theorem wit_teardown :
    let f : FaultRec := ⟨0, 1, 0x44, 0, 1, 0, 0, 0, 0, 0, 0⟩
    let s := tJob {} {}
    let s := { s with faults := [f], jobs := [(0, { num := 1, nl := 1, nctx := 2, valid := 3, lcores := [(0, tLcore)] })] }
    s.Inv ∧ (s.faults.filter (fun g => g.bank == 0 && g.ctx == 1) = [f] ∧ faultBefore f f = true ∧
      ctxGone (jobOf s 0) 1 = false ∧ (jobOf s 0).valid.getLsbD 1 = true ∧ f.status ≠ 0 ∧ (jobOf s 0).fatal = 0 ∧ jobState s 0 ≠ 5 ∧
      ((0 : Nat) ≠ 1 ∧ (jobOf s 0).valid.getLsbD 0 = true ∧ ctxGone (jobOf s 0) 0 = false)) := wit (by decide +kernel)
theorem wit_jobStartBusy :
    let s := tCmd (tJob {} {}) 1 0
    s.Inv ∧ ((cmdOf s 0 0 1).isSome = true ∧ s.psp.zero.isSome = false ∧ rd s pgSEC F.SEC_DEBUG.LEVEL ≠ 3 ∧
      rd s pgSYS F.SYS_REMOVE.PHASE < 2 ∧ jobState s 0 ≠ 0) := wit (by decide +kernel)
theorem wit_jobStopNow :
    let s := tCmd (tJob {} {}) 2 1
    s.Inv ∧ ((match cmdOf s 0 0 2 with | some c => arg c 8 1 | none => 0) = 1 ∧ jobState s 0 = 2 ∧ jobState s 1 ≠ 1) :=
  wit (by decide +kernel)
theorem wit_jobStopYield :
    let s := tCmd (tJob {} {}) 2 0
    s.Inv ∧ ((cmdOf s 0 0 2).isSome = true ∧ jobState s 0 = 2 ∧ bankCores s 0 ≠ []) := wit (by decide +kernel)
theorem wit_stepGo :
    let s := tCmd (wr1 (tArrived true 0) pgJOB F.JOB_GO.PERMITS 0 65534) 3 0
    let t := wr1 s pgJOB F.JOB_GO.PERMITS 0 65535
    s.Inv ∧ ((cmdOf s 0 0 3).isSome = true ∧ (jobOf s 0).stepGate = true ∧ rd1 s pgJOB F.JOB_GO.PERMITS 0 ≠ 65535 ∧
      invOk t = true ∧ rd1 t pgJOB F.JOB_GO.PERMITS 0 = 65535) := wit (by decide +kernel)
theorem wit_jobEnds :
    let s := tJob { run := .ended } {}
    s.Inv ∧ ((jobDone s 0).isSome = true ∧ jobState s 1 ≠ 1) := wit (by decide +kernel)

/-- The running job with milestone 63 closing in cycle 10 of its life, a fall-back or not. -/
def tMile (fb : Bool) : State :=
  let s := tJob {} {}
  wr1 { s with esc := 10, jobs := [(0, { num := 1, nl := 1, valid := 1, lcores := [(0, tLcore)], fbAddr := 4096, fbLen := 1,
                                         miles := [(63, { valid := true, fallback := fb, closes := 10 })] })] }
    pgJOB F.JOB_CURFEW_CTRL.EN 0 1

theorem wit_curfewMisses :
    (tMile true).Inv ∧ (∀ fb ∈ [true, false], invOk (tMile fb) = true ∧ (tabGet {} (jobOf (tMile fb) 0).miles 63).valid = true ∧
      (tabGet {} (jobOf (tMile fb) 0).miles 63).fallback = fb ∧ mileState (tMile fb) 0 63 = 0 ∧
      (tabGet {} (jobOf (tMile fb) 0).miles 63).closes ≤ sinceStart (tMile fb) 0 ∧ jobState (tMile fb) 0 ≠ 0 ∧
      (jobOf (tMile fb) 0).fbAddr ≠ 0 ∧ (jobOf (tMile fb) 0).isFb = false ∧ rd1 (tMile fb) pgJOB F.JOB_CURFEW_CTRL.EN 0 ≠ 0) :=
  wit (by decide +kernel)
theorem wit_fallbackStarts :
    let s := wr1 { State.reset with jobs := [(0, { image := 4096, len := 1 })] } pgJOB F.JOB_CURFEW_CTRL.FB_PEND 0 1
    s.Inv ∧ (rd1 s pgJOB F.JOB_CURFEW_CTRL.FB_PEND 0 = 1 ∧ jobState s 0 = 0 ∧ jobState s 1 = 0) := wit (by decide +kernel)

/-! ## Stacked memory -/

/-- A channel of pseudo-domain 0 with a state, and capacity and headroom of domain 0. -/
def tCh (n st gib room : Nat) (d : Domain) : State :=
  let s := wr (wr (wr State.reset (pgCH n) F.HBM_CH_STATE.STATE st) (domPage 0) F.HBM_CAP.GIB gib) (domPage 0) F.HBM_HEADROOM.GIB room
  setDom s 0 d

theorem wit_memoryReadsBack :
    let s := tCh 0 0 768 0 {}
    s.Inv ∧ ((∀ d ∈ domList s, baseList s d ≠ [] ∧ domCap s d ≤ slotsR * (baseList s d).length)) := wit (by decide +kernel)
theorem wit_domsOfMemoryReadsBack : ∀ d, (getDom (tCh 0 0 768 0 {}) d).maps = [] ∧ (getDom (tCh 0 0 768 0 {}) d).rel = none := by
  intro d
  have h : (tCh 0 0 768 0 {}).hbm.doms = [] := by decide +kernel
  simp [getDom, h, tabGet, smGet]
theorem wit_memoryBackedToTheEnd :
    hbmBacked (tCh 0 0 768 0 {}) (768 * 2 ^ 30 - 32) 32 = true ∧ hbmPlace (tCh 0 0 6 0 {}) (6 * 2 ^ 30) = none := by decide +kernel
theorem wit_channelFails :
    (tCh 511 0 6 6 {}).Inv ∧ (chState (tCh 511 0 6 6 {}) 511 = 0 ∧ chState (tCh 511 4 6 6 {}) 511 ≠ 0) := wit (by decide +kernel)
theorem wit_relocates :
    let s := tCh 5 1 768 6 { failing := [5] }
    s.Inv ∧ ((getDom s 0).rel = none ∧ (getDom s (domOf s 5)).failing.head? = some 5 ∧ chState s 5 = 1 ∧ 6 ≤ headroom s 0 ∧
      rd s (domPage 0) F.HBM_MAP_CTRL.NREDIR < 8) := wit (by decide +kernel)
theorem wit_relocationPends :
    let s := tCh 5 1 768 5 { failing := [5] }
    s.Inv ∧ (chState s 5 = 1 ∧ headroom s 0 < 6) := wit (by decide +kernel)
theorem wit_granuleCopies :
    let o : MapOut := ⟨0, slotsR + 1⟩
    let s := tCh 0 2 762 0 { rel := some (o, 0) }
    s.Inv ∧ ((getDom s (domOf s 0)).rel = some (o, 0) ∧ o.ch = 0 ∧ 0 < relocSize s 0 o ∧ relocSize s 0 o ≤ 1) := wit (by decide +kernel)
theorem wit_errWindow :
    let s : State := { State.reset with esc := 2 ^ 28 }
    s.Inv ∧ ((tabGet ({} : ErrWin) s.hbm.wins 511).win < s.esc / 2 ^ 28) := wit (by decide +kernel)
theorem wit_patrol :
    let s := wr (tCh 3 0 6 6 {}) (pgCH 3) F.HBM_CH_SCRUB.HOURS 1
    s.Inv ∧ (rd s (pgCH 3) F.HBM_CH_SCRUB.HOURS ≠ 0 ∧ chState s 3 ≠ 5) := wit (by decide +kernel)
theorem wit_patrolCorrects :
    let s := tCh 3 0 6 6 {}
    let s := { s with hbm := { s.hbm with marks := [(burstKey 3 0 0, { sym := some 7 })] } }
    s.Inv ∧ (tabGet ({} : BurstMark) s.hbm.marks (burstKey 3 (0 / 32) (1024 * 0 + 32 * (0 % 32))) = ⟨some 7, false⟩) := wit (by decide +kernel)
theorem wit_mode :
    let s := tCh 3 0 6 6 {}
    let b := setJobState s 0 2
    s.Inv ∧ (true ≠ striped s ∧ anyJob s = false ∧ memBusy s = false ∧ invOk b = true ∧ anyJob b = true) := wit (by decide +kernel)
theorem wit_rebuild :
    let s := tCh 3 0 6 6 {}
    let b := wr s (pgSTK 24) F.HBM_MAP_CTRL.BUSY 1
    s.Inv ∧ (isDomPage s 24 = true ∧ anyJob s = false ∧ rd s (pgSTK 24) F.HBM_MAP_CTRL.BUSY = 0 ∧ invOk b = true ∧ isDomPage b 24 = true ∧
      rd b (pgSTK 24) F.HBM_MAP_CTRL.BUSY ≠ 0) := wit (by decide +kernel)
theorem wit_xlate :
    let s := tCh 3 0 6 6 {}
    s.Inv ∧ (isDomPage s 0 = true ∧ hbmPlace s (6 * 2 ^ 30) = none ∧
      (match hbmPlace s (6 * 2 ^ 30 - 1) with | some x => decide (x.1 < 512 ∧ x.2.1 < 2 ^ 22) | none => false) = true) := wit (by decide +kernel)
theorem wit_domainRebuilds :
    let s := wr (tCh 3 3 6 6 {}) (domPage 3) F.HBM_MAP_CTRL.BUSY 1
    s.Inv ∧ (3 ∈ domList s ∧ rd s (domPage 3) F.HBM_MAP_CTRL.BUSY = 1) := wit (by decide +kernel)
theorem wit_testEnters :
    (tCh 511 4 6 6 {}).Inv ∧ (chState (tCh 511 4 6 6 {}) 511 = 4 ∧ chState (tCh 511 0 6 6 {}) 511 ≠ 5 ∧ anyJob (tCh 511 0 6 6 {}) = false ∧
      chState (setJobState (tCh 511 0 6 6 {}) 0 2) 511 ≠ 4 ∧ anyJob (setJobState (tCh 511 0 6 6 {}) 0 2) = true) := wit (by decide +kernel)
theorem wit_testExits :
    let s := tCh 511 5 6 6 {}
    let m := wr s (pgCH 511) F.HBM_CH_STATE.PRIOR 4
    s.Inv ∧ (chState s 511 = 5 ∧ rd s (pgCH 511) F.HBM_CH_STATE.PRIOR = 0 ∧ invOk m = true ∧ chState m 511 = 5 ∧
      rd m (pgCH 511) F.HBM_CH_STATE.PRIOR ≠ 0) := wit (by decide +kernel)
theorem wit_tgRuns :
    let s := wr1 (tCh 511 5 6 6 {}) (pgCH 511) F.HBM_TG_CTRL.BUSY 1 1
    s.Inv ∧ (tgBusy s 511 1 = true ∧ rd1 s (pgCH 511) F.HBM_TG_FAIL_ADDR.VALID 1 = 0) := wit (by decide +kernel)

/-! ## Optical ports -/

/-- Module 5, port 0 enabled with one link of 16 lanes in a state. -/
def tLink (st : Nat) (v : Link) : State :=
  setLk (setLinkState (wr (wr (wr State.reset pgRTR F.FAB_RTR_ID.ID 5) (pgPORT 0) F.FAB_PORT_CFG.EN 1) (pgPORT 0) F.FAB_PORT_FEED.A_OK 1) 0 st) 0 v

/-- A flit of FSEQ q with an empty body and its CRC, or one more than its CRC. -/
def tFlit (q off : Nat) : List Byte := natToBytes 636 q ++ natToBytes 4 (crc32c (natToBytes 636 q) + off)

theorem tFlit_crc (q off : Nat) :
    crc32c ((tFlit q off).take 636) = crc32c (natToBytes 636 q) ∧
    bytesToNat (((tFlit q off).drop 636).take 4) = (crc32c (natToBytes 636 q) + off) % 2 ^ 32 := by
  have e : 256 ^ 4 = 2 ^ 32 := by decide
  constructor
  · rw [tFlit, List.take_append_of_le_length (by simp [natToBytes_length]), List.take_of_length_le (by simp [natToBytes_length])]
  · rw [tFlit, List.drop_append_of_le_length (by simp [natToBytes_length]), List.drop_eq_nil_of_le (by simp [natToBytes_length]),
      List.nil_append, List.take_of_length_le (by simp [natToBytes_length]), bytesToNat_natToBytes, e]

/-- The two are a flit whose CRC fits and one whose CRC does not. -/
theorem wit_flitCrc (q : Nat) :
    crc32c ((tFlit q 0).take 636) = bytesToNat (((tFlit q 0).drop 636).take 4) ∧
    ¬ crc32c ((tFlit q 1).take 636) = bytesToNat (((tFlit q 1).drop 636).take 4) := by
  have h := crc32c_lt (natToBytes 636 q)
  have a := tFlit_crc q 0
  have b := tFlit_crc q 1
  omega

/-- The lanes 0 to 15. -/
def l16 : List Nat := List.range 16

theorem wit_linkTrains :
    let s := tLink 2 {}
    s.Inv ∧ (linkState s 0 = 2 ∧ (0 : BitVec 2).toNat = rd s (linkPg 0) F.FAB_PORT_CFG.SPLIT ∧
      (∀ i ∈ linkLanes s 0, (0xFFFF : BitVec 17).getLsbD i = true)) := wit (by decide +kernel)
theorem wit_flitExpected :
    let s := tLink 3 { rxSeq := 4095 }
    s.Inv ∧ (usable s 0 = true ∧ (lk s 0).closeAt = 0 ∧ (lk s 0).rxNext = none ∧
      natField (bytesToNat ((tFlit 4095 0).take 12)) 12 2 = 0 ∧ natField (bytesToNat ((tFlit 4095 0).take 12)) 0 12 = (lk s 0).rxSeq ∧
      natField (bytesToNat ((tFlit 0 0).take 12)) 0 12 ≠ (lk s 0).rxSeq) := wit (by decide +kernel)
theorem wit_linkGoesDown :
    let s := { tLink 4 { goodAt := 1, closeAt := 1, ctrlIn := [natToBytes 10 5] } with esc := 32500 }
    s.Inv ∧ (usable s 0 = true ∧ (lk s 0).goodAt + 1300 ≤ s.esc + 1 ∧ (lk s 0).closeAt ≠ 0 ∧ (lk s 0).closeAt + 32500 ≤ s.esc + 1 ∧
      (lk s 0).ctrlIn = natToBytes 10 5 :: [] ∧ bytesToNat (natToBytes 10 5) % 256 = 5) := wit (by decide +kernel)
theorem wit_linkCloses :
    let s := tLink 3 {}
    let t := tLink 3 { retry := [⟨0, false, 0, 0, []⟩] }
    s.Inv ∧ (usable s 0 = true ∧ (lk s 0).closeAt = 0 ∧ (lk s 0).retry = [] ∧ invOk t = true ∧ usable t 0 = true ∧ (lk t 0).retry ≠ []) :=
  wit (by decide +kernel)
theorem wit_linkRetrains :
    let s := { tLink 5 { downAt := 1 } with esc := 32500000 }
    s.Inv ∧ (reservedId (ownId s) = false ∧ rdB s (linkPg 0) F.FAB_PORT_CFG.EN = true ∧ tabGet false s.fab.hot 0 = false ∧
      (if rdB s (linkPg 0) F.FAB_PORT_FEED.SEL then rdB s (linkPg 0) F.FAB_PORT_FEED.B_OK else rdB s (linkPg 0) F.FAB_PORT_FEED.A_OK) = true ∧
      linkState s 0 = 5 ∧ rd1 s (linkPg 0) F.FAB_PORT_LINK.CAUSE 0 ≠ 4 ∧ (lk s 0).downAt + 32500000 ≤ s.esc + 1 ∧
      rd s pgSEC F.SEC_DEBUG.LEVEL ≠ 3 ∧ 0 < linksOf s 0) := wit (by decide +kernel)
theorem wit_retrainRma :
    let s := wr (tLink 5 {}) pgSEC F.SEC_DEBUG.LEVEL 3
    s.Inv ∧ (rd s pgSEC F.SEC_DEBUG.LEVEL = 3) := wit (by decide +kernel)
theorem wit_laneWindow :
    let s : State := { wr1 State.reset (pgPORT 15) F.FAB_LANE_STATE.STATE 16 2 with esc := 2 ^ 28 }
    s.Inv ∧ (tabGet 0 s.fab.laneWin (32 * 15 + 16) < s.esc / 2 ^ 28 ∧ laneState s 15 16 = 2 ∧
      rd s (pgPORT 15) F.FAB_PORT_CSYM_THR.THR ≤ (0xFFFFFFFF : BitVec 32).toNat) := wit (by decide +kernel)
theorem wit_laneFails :
    let s := setLaneState (tLink 3 { txMap := l16, rxMap := l16 }) 0 15 2
    s.Inv ∧ (laneState s 0 15 = 2 ∧ laneState s 0 16 ≠ 6 ∧ usable s (laneLink s 0 15) = true ∧ laneLink s 0 15 = 0 ∧
      (lk s 0).rxMap.any (fun e => e % 16 == 15) = true ∧ linkWidth s 0 ≤ 2 * ((lk s 0).rxMap.length - 1) ∧ (spareOf s 0).rx = none) :=
  wit (by decide +kernel)
theorem wit_laneRecords :
    let rec_ (code lane : Nat) := natToBytes 10 (code + lane * 2 ^ 64)
    let st (code lane : Nat) := tLink 3 { txMap := l16, rxMap := l16, goodAt := 1, ctrlIn := [rec_ code lane] }
    (st 2 15).Inv ∧ ((∀ c ∈ [1, 2, 3, 4], invOk (st c 15) = true ∧ usable (st c 15) 0 = true ∧ (lk (st c 15) 0).goodAt ≠ 0 ∧
        (lk (st c 15) 0).ctrlIn = rec_ c 15 :: [] ∧ bytesToNat (rec_ c 15) % 256 = c) ∧
      natField (bytesToNat (rec_ 2 15)) 64 8 = 15 ∧ (mapWithout l16 15).length ≠ l16.length ∧
      linkWidth (st 2 15) 0 ≤ 2 * (mapWithout l16 15).length ∧ rd (st 3 15) (linkPg 0) F.FAB_PORT_SPARE.TX_USED = 0 ∧
      natField (bytesToNat (rec_ 4 15)) 72 8 < 8) := wit (by decide +kernel)
theorem wit_spareReady :
    let b := natToBytes 10 (4 + 15 * 2 ^ 64 + 7 * 2 ^ 72)
    let s := setSpare (tLink 3 { txMap := l16, rxMap := l16, goodAt := 1, ctrlIn := [b] }) 0 { tx := some (0, 15, 7) }
    s.Inv ∧ ((spareOf s 0).tx = some (0, natField (bytesToNat b) 64 8, natField (bytesToNat b) 72 8)) := wit (by decide +kernel)
theorem wit_mapRecord :
    let b := natToBytes 10 (1 + 0xFFFF * 2 ^ 32)
    let c := natToBytes 10 (1 + 1 * 2 ^ 16 + 0xFFFF * 2 ^ 32)
    let s := tLink 3 { goodAt := 1, ctrlIn := [b] }
    s.Inv ∧ (natField (bytesToNat b) 16 12 = (lk s 0).rxSeq ∧ natField (bytesToNat c) 16 12 ≠ (lk s 0).rxSeq ∧
      linkWidth s 0 ≤ 2 * (mapOfRecord (natField (bytesToNat b) 32 17) (natField (bytesToNat b) 64 4)).length) := wit (by decide +kernel)
theorem wit_spareQualifies :
    let s := setSpare (tLink 3 {}) 0 { rx := some (0, 15, 7), rxSent := true }
    s.Inv ∧ ((spareOf s 0).rx = some (0, 15, 7) ∧ (spareOf s 0).rxSent = true ∧ usable s 0 = true) := wit (by decide +kernel)
theorem wit_split :
    let s := wr (tLink 5 {}) (pgPORT 15) F.FAB_PORT_CFG.EN 0
    s.Inv ∧ (rdB s (pgPORT 0) F.FAB_PORT_CFG.EN = true ∧ rdB s (pgPORT 15) F.FAB_PORT_CFG.EN = false) := wit (by decide +kernel)
theorem wit_feeds :
    let s := tLink 3 {}
    let b := wr s (pgPORT 0) F.FAB_PORT_FEED.B_OK 1
    s.Inv ∧ (rdB s (pgPORT 0) (feedOkF (1 - rd s (pgPORT 0) F.FAB_PORT_FEED.SEL)) = false ∧ invOk b = true ∧
      rdB b (pgPORT 0) (feedOkF (1 - rd b (pgPORT 0) F.FAB_PORT_FEED.SEL)) = true ∧ rd s (pgPORT 0) F.FAB_PORT_FEED.SEL = 0 ∧
      dbm 99 < 100 ∧ 140 ≤ dbm 140 ∧ usable s 0 = true ∧ 0 ∈ portLinks s 0) := wit (by decide +kernel)
theorem wit_feedReturns :
    let s := tLink 1 {}
    let s : State := { s with fab := { s.fab with dark := [(0, true)] } }
    s.Inv ∧ (tabGet false s.fab.dark 0 = true ∧ reservedId (ownId s) = false ∧ rdB s (pgPORT 0) F.FAB_PORT_CFG.EN = true ∧
      tabGet false s.fab.hot 0 = false ∧ linkState s 0 = 1) := wit (by decide +kernel)
theorem wit_ownId :
    (tLink 5 {}).Inv ∧ (reservedId 0xFFFFE = false ∧ (∀ l < 64, linkState (tLink 5 {}) l = 0 ∨ linkState (tLink 5 {}) l = 5) ∧
      linkState (tLink 3 {}) 0 ≠ 0 ∧ linkState (tLink 3 {}) 0 ≠ 5) := wit (by decide +kernel)

/-! ## Craul -/

/-- A sealed WRITE of 32 bytes from module 7 to a module, in window 3. -/
def tWrite (dst hops : Nat) : Msg :=
  { sealMsg { dst := dst, src := 7, cls := 0, op := 1, win := 3, wepoch := 9, offset := 0, len := 32, data := List.replicate 32 5 } with hops := hops }

/-- Module 5 with that message in the stream of link 0, which is UP with credits, and a route to every module of another group on
link 0. -/
def tMsg (m : Msg) : State :=
  let s := tLink 3 { goodAt := 1, stream := msgBytes m, credit := [(0, 276), (6, 15184)] }
  { s with fab := { s.fab with routes := [(1, 2 ^ 6 + 2 ^ 38)] } }

theorem wit_messageWhole :
    (tMsg (tWrite 5 0)).Inv ∧ (∀ m ∈ [tWrite 5 0, tWrite 1030 15, tWrite 1030 14],
      let s := tMsg m
      let x := msgOf (bytesToNat ((lk s 0).stream.take 32)) (((lk s 0).stream.drop 32).take 32)
      invOk s = true ∧ usable s 0 = true ∧ 32 + natField (bytesToNat ((lk s 0).stream.take 32)) 123 13 ≤ (lk s 0).stream.length ∧
      x = m ∧ msgCrc x = x.crc ∧ malformed x = false) := wit (by decide +kernel)
theorem wit_messageRoutes :
    ownId (tMsg (tWrite 5 0)) = 5 ∧ routeLost (tMsg (tWrite 1030 14)) 1030 = false ∧ (tWrite 1030 15).hops = 15 := by decide +kernel
theorem wit_messageBad : msgCrc { tWrite 5 0 with win := 4 } ≠ (tWrite 5 0).crc := by decide +kernel
theorem wit_messageForwards :
    let x : QMsg := { msg := tWrite 1030 0, link := some 0 }
    let s := tMsg (tWrite 5 0)
    let s : State := { s with fab := { s.fab with outq := [x] } }
    s.Inv ∧ (s.fab.outq.filter (fun y => y.msg.cls == 0 && (y.link == some 0 || (y.link.isNone && y.cands.contains 0))) = [x] ∧
      creditFor (lk s 0) x.msg 0 = some 6 ∧ usable s 0 = true ∧ (lk s 0).closeAt = 0 ∧
      (lk s 0).retry.length + (cutBodies 8 (msgBytes x.msg)).length ≤ retryCap s 0 ∧ creditFor {} x.msg 0 = none) := wit (by decide +kernel)
theorem wit_creditReturns :
    let s := tLink 3 { owed := [(0, 2)] }
    s.Inv ∧ (usable s 0 = true ∧ (lk s 0).owed ≠ [] ∧ (lk s 0).retry.length < retryCap s 0) := wit (by decide +kernel)

/-- Module 5 with a request first in its commit order, and window 3 open over the first 4 KiB of a capacity of 6 GiB. -/
def tCommit (m : Msg) : State :=
  let s := wr (tCh 0 0 6 0 {}) pgRTR F.FAB_RTR_ID.ID 5
  { s with fab := { s.fab with commitq := [{ msg := m }],
                               wins := [(3, { size := 1, epoch := 9, r := true, w := true, a := true, opened := true })] } }

theorem wit_commits :
    let w : Msg := { dst := 5, src := 5, cls := 0, op := 1, win := 3, wepoch := 9, offset := 4064, len := 32, data := zeros 32 }
    let r := { w with op := 2, len := 0, step := 32 }
    let a := { w with op := 3 }
    (tCommit w).Inv ∧ (∀ m ∈ [w, r, a], let s := tCommit m
      invOk s = true ∧ m.src = ownId s ∧ reservedId m.src = false ∧
      commitCheck s m (if m.op = 1 then m.len else if m.op = 2 then m.step % 8192 else 8) = 0 ∧
      commitCheck s { m with offset := 4096 } (if m.op = 3 then 8 else 32) = 4 ∧ (hbmRead (markLive s m.win) 4064 8).2.1 = false) :=
  wit (by decide +kernel)
theorem wit_commitsFar :
    let s := tMsg (tWrite 5 0)
    s.Inv ∧ ((1030 : Nat) ≠ ownId s ∧ reservedId 1030 = false ∧ routeLost s 1030 = false) := wit (by decide +kernel)
theorem wit_responses :
    let m : Msg := { dst := 5, src := 7, cls := 1, op := 0x41, seq := 3, step := 0, data := zeros 32 }
    let r := { tReq 9 .get (.window 0 0 7 0) 32 with seq := 3 }
    let s := tReqs [r]
    let s : State := { s with fab := { s.fab with rspq := [{ msg := m }] } }
    s.Inv ∧ (findReq s m = some (0, 9) ∧ findReq s { m with seq := 4 } = none ∧ s.fab.rspq = { msg := m } :: []) := wit (by decide +kernel)
theorem wit_timeout :
    let r := tReq 9 .get (.window 0 0 7 0) 32
    let s : State := { wr (tReqs [r]) pgRTR F.FAB_RTR_RSP_LIM.PCLK 10 with esc := 10 }
    s.Inv ∧ (r ∈ (core s 0).reqs ∧ r.status = none ∧ rd s pgRTR F.FAB_RTR_RSP_LIM.PCLK ≠ 0 ∧
      r.issued + rd s pgRTR F.FAB_RTR_RSP_LIM.PCLK ≤ s.esc) := wit (by decide +kernel)
theorem wit_windows :
    let s := wr (wr State.reset pgRTR F.FAB_WIN_SIZE.SIZE 1) pgRTR F.FAB_WIN_ATTR.EPOCH 1
    let o : State := { s with fab := { s.fab with wins := [(0, { opened := true }), (4095, { busy := true })] } }
    s.Inv ∧ ((winAt s (rd s pgRTR F.FAB_WIN_SEL.IDX)).opened = false ∧ rd s pgRTR F.FAB_WIN_SIZE.SIZE ≠ 0 ∧
      rd s pgRTR F.FAB_WIN_ATTR.EPOCH ≠ (winAt s (rd s pgRTR F.FAB_WIN_SEL.IDX)).epoch ∧ invOk o = true ∧
      (winAt o (rd o pgRTR F.FAB_WIN_SEL.IDX)).opened = true ∧ (winAt o 4095).busy = true ∧
      rd State.reset pgRTR F.FAB_WIN_SIZE.SIZE = 0) := wit (by decide +kernel)
theorem wit_routeWrite :
    let x : QMsg := { msg := tWrite 1030 0, link := some 0 }
    let s := tMsg (tWrite 5 0)
    let s : State := { s with fab := { s.fab with outq := [x] } }
    s.Inv ∧ (x ∈ s.fab.outq ∧ x.msg.dst = 1030 ∧ (1030 : Nat) ≠ ownId s ∧
      routeLost { s with fab := { s.fab with routes := [] } } 1030 = true) := wit (by decide +kernel)
theorem wit_linkLast :
    let q : QMsg := { msg := { dst := 5, src := 7, cls := 4, op := 0xC0, data := natToBytes 4 0 } }
    let s := wr1 (tLink 5 { awaitLast := true, downAt := 1, held := [] }) (linkPg 0) F.FAB_PORT_PEER.MODULE 0 7
    let s : State := { s with fab := { s.fab with mgmtq := [q] } }
    s.Inv ∧ (s.fab.mgmtq.find? (fun y => y.msg.op == 0xC0) = some q ∧
      (List.range 64).find? (fun y => (lk s y).awaitLast && peerOf s y == q.msg.src
        && rd1 s (linkPg y) F.FAB_PORT_PEER.PORT (y % 4) == 0 && rd1 s (linkPg y) F.FAB_PORT_PEER.LINK (y % 4) == 0) = some 0 ∧
      (lk s 0).downAt ≠ 0) := wit (by decide +kernel)
theorem wit_linkLastTimeout :
    let s : State := { tLink 5 { awaitLast := true, downAt := 1 } with esc := 16250 }
    let o := setLinkState s 63 3
    s.Inv ∧ ((lk s 0).awaitLast = true ∧ (lk s 0).downAt ≠ 0 ∧ (lk s 0).downAt + 16250 ≤ s.esc + 1 ∧
      ((List.range 64).any (fun k => k != 0 && linkState s k == 3 && peerOf s k == peerOf s 0)) = false ∧ invOk o = true ∧
      ((List.range 64).any (fun k => k != 0 && linkState o k == 3 && peerOf o k == peerOf o 0)) = true ∧ (lk o 0).held = []) :=
  wit (by decide +kernel)
theorem wit_stall :
    let x : QMsg := { msg := tWrite 1030 0, link := some 63 }
    let s := wr State.reset pgRTR F.FAB_RTR_STALL_LIM.PCLK 10
    let s : State := { s with esc := 20, fab := { s.fab with outq := [x], advAt := [(63 * 8, 11)] } }
    s.Inv ∧ (s.fab.outq.filter (inQueue 63 0) = x :: [] ∧ rd s pgRTR F.FAB_RTR_STALL_LIM.PCLK ≠ 0 ∧
      tabGet 0 s.fab.advAt (63 * 8) ≠ 0 ∧ tabGet 0 s.fab.advAt (63 * 8) + rd s pgRTR F.FAB_RTR_STALL_LIM.PCLK ≤ s.esc + 1) := wit (by decide +kernel)
theorem wit_stallLocal :
    let x : QMsg := { msg := { dst := 5, src := 7, cls := 3, op := 0xA0 } }
    let s : State := { State.reset with fab := { State.reset.fab with collq := [x], advAt := [(64 * 8 + 3, 1)] } }
    s.Inv ∧ (s.fab.collq.filter (fun y => y.msg.cls == 3) = x :: []) := wit (by decide +kernel)

/-! ## Caravan -/

/-- The 32-bit words of a plan entry given as fields: lowest bit and value. -/
def planWords (fs : List (Nat × Nat)) : SMap Word :=
  let v := fs.foldl (fun a f => a + f.2 * 2 ^ f.1) 0
  (List.range 16).foldl (fun m k => tabPut 0 m k (BitVec.ofNat 32 (v / 2 ^ (32 * k)))) []

/-- A module of two ranks, itself (5) rank 0, with plan entry 0 as given, a backed first 6 GiB and the grant of context 0. -/
def tCar (fs : List (Nat × Nat)) (c : Caravan) : State :=
  { wr (tCh 0 0 6 0 {}) pgRTR F.FAB_RTR_ID.ID 5 with
    grants := [(grantKey 0 0 0, tGrant)],
    car := { c with plan := planWords fs, ranks := [(0, 5), (1, 7)], groups := [(0, (0, 2))] } }

/-- Instance 0 of entry 0. -/
def tIns : Inst := { entry := 0, inst := 0, step := 0, lepoch := 0, trig := 0, bank := 0, stepNo := 0, actAt := 1 }

/-- An entry of an operation that moves 32 of its units from address 0 to 64 KiB, with its list at 128 KiB and one buffer unit. -/
def pe (op : Nat) : List (Nat × Nat) := [(0, op), (64, 0), (128, 65536), (192, 32), (256, 131072), (448, 1)]

/-- That entry is at the head of the queue. -/
def tQueue (fs : List (Nat × Nat)) : State := tCar fs { queue := [{ tIns with actAt := 0 }] }

/-- That entry is active. -/
def tActive (fs : List (Nat × Nat)) (i : Inst) : State := tCar fs { active := [i] }

theorem wit_entryActivates :
    (tQueue (pe 3)).Inv ∧ (∀ op ∈ [3, 8], let s := tQueue (pe op); let i := { tIns with actAt := 0 }
      invOk s = true ∧ s.car.queue = i :: [] ∧ activeOf s 0 = none ∧ s.car.active = [] ∧ peBuf (insPlan s i) ≤ bufFree s ∧
      peOpc (insPlan s i) = op ∧ (op = 3 → boundsRule s i = false ∧ formatRule (insPlan s i) = false ∧ grantRule s i = false ∧
        (hbmRead s (insSrc s i) (peCount (insPlan s i))).2.1 = false)) := wit (by decide +kernel)
theorem wit_entryStartsRelay :
    let s := { tQueue (pe 8 ++ [(320, 1)]) with jobs := [(0, { nl := 1 })] }
    s.Inv ∧ (boundsRule s { tIns with actAt := 0 } = false ∧ grantRule s { tIns with actAt := 0 } = false) := wit (by decide +kernel)
theorem wit_entryTorn :
    let i := { tIns with actAt := 0 }
    (tQueue (pe 9)).Inv ∧ (boundsRule (tQueue (pe 9)) i = true ∧
      boundsRule (tQueue (pe 1 ++ [(16, 0xFF)])) i = false ∧ formatRule (insPlan (tQueue (pe 1 ++ [(16, 0xFF)])) i) = true ∧
      boundsRule { tQueue (pe 3) with grants := [] } i = false ∧ formatRule (insPlan (tQueue (pe 3)) i) = false ∧
      grantRule { tQueue (pe 3) with grants := [] } i = true) := wit (by decide +kernel)
theorem wit_entryReadsBad :
    let s := tQueue (pe 3)
    let s := { s with hbm := { s.hbm with marks := [(burstKey 0 0 0, { ue := true })] } }
    s.Inv ∧ ((hbmRead s (insSrc s tIns) 32).2.1 = true) := wit (by decide +kernel)
theorem wit_entryWaits :
    let s := tCar (pe 7) { queue := [{ tIns with actAt := 0 }], active := [{ tIns with entry := 1 }] }
    s.Inv ∧ (¬ (peOpc (insPlan s tIns) = 7 → s.car.active = [])) := wit (by decide +kernel)
theorem wit_entryCompletes :
    let i := { tIns with status := some 0 }
    let s := tActive (pe 3) i
    s.Inv ∧ (activeOf s 0 = some i ∧ recordCores s i = [] ∧ activeOf (tActive (pe 3) tIns) 0 = some tIns ∧ tIns.status = none) :=
  wit (by decide +kernel)
theorem wit_entryRecord :
    let i := { tIns with status := some 0 }
    let s := { hdl (tActive (pe 3 ++ [(384, 1), (394, 3)]) i) 3 0 64 1 with jobs := [(0, { nl := 1, lcores := [(0, tLcore)] })] }
    s.Inv ∧ (recordCores s i = [0] ∧ pcoreOf s 0 0 = some 0 ∧
      (remoteWrite s 0 0 (peNh (insPlan s i)) (32 * insNoff s i) (completionRecord i 0)).isSome = true) := wit (by decide +kernel)
theorem wit_entryTimesOut :
    let s : State := { wr (tActive (pe 3) tIns) pgCAR F.CARAVAN_TMO.PCLK 10 with esc := 10 }
    s.Inv ∧ (activeOf s 0 = some tIns ∧ rd s pgCAR F.CARAVAN_TMO.PCLK ≠ 0 ∧ tIns.actAt + rd s pgCAR F.CARAVAN_TMO.PCLK ≤ s.esc + 1) :=
  wit (by decide +kernel)
theorem wit_carTables :
    let s := tCar (pe 7) {}
    s.Inv ∧ (rdB s pgCAR F.CARAVAN_RESHARD.PEND = false ∧ peOpc (planOf s 0) = 7 ∧ peOpc (planOf s 1) ≠ 7 ∧ carTablesOpen s = true ∧
      carTablesOpen (tActive (pe 3) tIns) = false) := wit (by decide +kernel)

/-- A message of an operation from module 7 for that instance waits. -/
def tColl (fs : List (Nat × Nat)) (i : Inst) (m : Msg) : State :=
  let s := tActive fs i
  { s with fab := { s.fab with collq := [{ msg := m }] } }

/-- Such a message. -/
def tMsgOf (op off : Nat) (bs : List Byte) : Msg :=
  { dst := 5, src := 7, cls := if 0xA0 ≤ op then 3 else 2, op := op, offset := off, len := bs.length, data := bs }

theorem wit_collRule :
    let m := tMsgOf 0x82 0 (zeros 32)
    let s := tColl (pe 3) tIns m
    let q : QMsg := { msg := { m with src := 8 } }
    s.Inv ∧ (takeColl s 0x82 = .take { msg := m } tIns 1 ∧ takeColl s 0x81 = .wait ∧ m.lepoch = tIns.lepoch ∧ m.step = tIns.step ∧
      takeColl (tColl (pe 3) tIns q.msg) 0x82 = .drop q ∧ { m with step := 1 }.step ≠ tIns.step ∧ { m with lepoch := 1 }.lepoch ≠ tIns.lepoch) :=
  wit (by decide +kernel)

/-- Instance values of a reduction at rank 0 that holds its own bytes. -/
def tRed : Inst := { tIns with got := [(0, 64)], held := [(0, [])] }

theorem wit_contrib :
    let m := tMsgOf 0x81 0 (zeros 64)
    let s := tColl (pe 1) tRed m
    s.Inv ∧ (takeColl s 0x81 = .take { msg := m } tRed 1 ∧ tRed.done = 0 ∧ shardElems s tRed = 16 ∧ inBytes (insPlan s tRed) = 4 ∧
      (List.range 2).foldl (fun k y => min k (tabGet 0 (tabPut 0 tRed.got 1 64) y / 4)) 16 = 16 ∧
      (List.range 2).foldl (fun k y => min k (tabGet 0 (tabPut 0 tRed.got 1 0) y / 4)) 16 ≤ tRed.done) := wit (by decide +kernel)
theorem wit_collCredit :
    let m := tMsgOf 0x80 64 []
    let s := tColl (pe 1) tRed m
    s.Inv ∧ (takeColl s 0x80 = .take { msg := m } tRed 1 ∧ max m.offset (tabGet 0 tRed.limit 1) ≠ 0 ∧ peOpc (insPlan s tRed) = 1 ∧
      (hbmRead s (insSrc s tRed + 1 * 64 + 0) 64).2.1 = false) := wit (by decide +kernel)
theorem wit_a2aCount :
    let i := { tIns with from_ := [] }
    let m := tMsgOf 0x83 0 (zeros 32)
    let s := tColl (pe 5) i m
    s.Inv ∧ (takeColl s 0x83 = .take { msg := m } i 1 ∧ i.from_.contains 1 = false ∧ i.from_.length + 1 < insSize s i ∧
      takeColl (tColl (pe 5) { i with from_ := [1] } m) 0x83 = .take { msg := m } { i with from_ := [1] } 1) := wit (by decide +kernel)
theorem wit_a2aRows :
    let m := tMsgOf 0x84 0 (zeros 32)
    let s := tColl (pe 5) tIns m
    s.Inv ∧ (takeColl s 0x84 = .take { msg := m } tIns 1) := wit (by decide +kernel)
theorem wit_permuteData :
    let m := tMsgOf 0x85 (2 ^ 20 - 32) (zeros 32)
    let s := tColl (pe 7) tIns m
    s.Inv ∧ (takeColl s 0x85 = .take { msg := m } tIns 1 ∧ granted s 0 0 (m.offset % 2 ^ 42) 32 false true = true ∧
      granted s 0 0 (m.offset % 2 ^ 42 + 32) 32 false true = false) := wit (by decide +kernel)
theorem wit_status :
    let s := fun st => tColl (pe 3) tIns (tMsgOf 0x86 st [])
    (s 0).Inv ∧ (∀ st ∈ [0, 0x11, 7], invOk (s st) = true ∧ takeColl (s st) 0x86 = .take { msg := tMsgOf 0x86 st [] } tIns 1) :=
  wit (by decide +kernel)

/-- A Relay entry of one slice of 32 bytes for logical core 0, through handle 3. -/
def tRelay (i : Inst) (m : Msg) (pend : Nat) : State :=
  let s := tColl (pe 8 ++ [(320, 1)]) i m
  let s := hbmWrite s 131072 (natToBytes 16 (3 * 2 ^ 8 + 3 * 2 ^ 14 + 32 * 2 ^ 64)) { kind := 3 }
  let s := wr1 (hdl s 3 0 64 0) (pgLEDGER 0) F.LEDGER_HTOK.PEND 3 pend
  { s with jobs := [(0, { nl := 1, lcores := [(0, tLcore)] })] }

theorem wit_relayBlock :
    let m := tMsgOf 0xA0 (1 * 2 ^ 40) (zeros 32)
    let x : Slice := ⟨0, 3, 3, 0, 32, 0⟩
    let s := tRelay tIns m 1
    s.Inv ∧ (takeColl s 0xA0 = .take { msg := m } tIns 1 ∧ slicesOf s tIns = [x] ∧ sliceOpen s tIns x 1 = true ∧
      sliceOpen (tRelay tIns m 0) tIns x 1 = false ∧ pcoreOf s 0 x.lcore = some 0) := wit (by decide +kernel)
theorem wit_relayCredit :
    let m := tMsgOf 0xA1 32 []
    let s := tRelay tIns m 1
    s.Inv ∧ (takeColl s 0xA1 = .take { msg := m } tIns 1 ∧ max m.offset (tabGet 0 tIns.limit 0) ≠ 0 ∧
      (hbmRead s (insSrc s tIns + 0) 32).2.1 = false) := wit (by decide +kernel)
theorem wit_relayPassesOn :
    let i := { tIns with done := 1, sent := [(0, 32)], limit := [(0, 64)] }
    let s := { tRelay i (tMsgOf 0xA1 32 []) 1 with car := { (tRelay i (tMsgOf 0xA1 32 []) 1).car with
      groups := [(0, (0, 3))], ranks := [(0, 5), (1, 7), (2, 9)] } }
    s.Inv ∧ (activeOf s 0 = some i ∧ peOpc (insPlan s i) = 8 ∧ i.passed + 1 ≤ i.done ∧ i.passed + 3 ≤ insSize s i ∧
      (i.passed + 1) * peCount (insPlan s i) ≤ tabGet 0 i.sent 0 ∧ (∀ z ∈ slicesOf s i, (pcoreOf s i.bank z.lcore).isSome = true) ∧
      min (tabGet 0 i.limit 0) ((i.passed + 2) * peCount (insPlan s i)) - tabGet 0 i.sent 0 ≠ 0) := wit (by decide +kernel)

/-- The module is rank `own` of a Muster group of two, and its job's one core has arrived, or not, at a SCOPE 1 Muster. -/
def tGlobal (own : Nat) (arrived : Bool) (up_ : Bool) (op off : Nat) : State :=
  let s := tColl (pe 3) tIns (tMsgOf op off [])
  let s := wr s pgCAR F.CARAVAN_MUSTER_GRP.VALID 1
  { setJobState s 0 2 with
    car := { s.car with active := [], ranks := if own = 0 then [(0, 5), (1, 7)] else [(0, 7), (1, 5)] },
    cores := [(0, { run := .muster 0 0 1 true, lcore := some 0 })],
    jobs := [(0, { num := 1, nl := 1, nctx := 1, valid := 1, mpos := some 0, sentUp := up_,
                   lcores := [(0, { tLcore with arrived := if arrived then some (0, 1) else none })] })] }

theorem wit_musterArrives1 :
    let s := tGlobal 0 true false 0x87 0
    let q : QMsg := { msg := tMsgOf 0x87 0 [] }
    s.Inv ∧ (takeMuster s 0x87 = some (q, some (0, 0, 1)) ∧ musterDone s 0 = some (0, 0, 1) ∧ musterDone s 1 = none ∧
      (jobOf s 0).sentUp = false) := wit (by decide +kernel)
theorem wit_musterArrives2 :
    let s := tGlobal 0 true false 0x87 0
    let q : QMsg := { msg := tMsgOf 0x87 0 [] }
    s.Inv ∧ (takeMuster (tGlobal 0 false false 0x87 0) 0x87 = some (q, some (0, 0, 1)) ∧ musterDone (tGlobal 0 false false 0x87 0) 0 = none ∧
      takeMuster (tGlobal 0 true false 0x86 0) 0x87 = none ∧
      takeMuster { s with car := { s.car with groups := [] } } 0x87 = some (q, none)) := wit (by decide +kernel)
theorem wit_musterWaitsForChild :
    let q : QMsg := { msg := tMsgOf 0x87 0 [] }
    let s := tGlobal 0 true false 0x87 0
    let s := { s with car := { s.car with groups := [(0, (0, 3))], ranks := [(0, 5), (1, 7), (2, 1030)] },
                      fab := { s.fab with routes := [(1, 2 ^ 6 + 2 ^ 38)] } }
    let s := setLinkState s 0 3
    s.Inv ∧ (takeMuster s 0x87 = some (q, some (0, 0, 1)) ∧ musterDone s 0 = some (0, 0, 1) ∧ 2 ∈ liveKids s 0 5 0 ∧
      (childAt s 2).here = false) := wit (by decide +kernel)
theorem wit_musterGoesUp :
    let q : QMsg := { msg := { tMsgOf 0x87 0 [] with src := 1030 } }
    let s := tGlobal 1 true false 0x87 0
    let s := { s with car := { s.car with groups := [(0, (0, 2))], ranks := [(0, 1030), (1, 5)] },
                      fab := { s.fab with routes := [(1, 2 ^ 6 + 2 ^ 38)], collq := [q] } }
    let s := setLinkState s 0 3
    s.Inv ∧ (takeMuster s 0x87 = some (q, some (0, 1, 0)) ∧ musterDone s 0 = some (0, 0, 1) ∧ liveKids s 0 5 1 = [] ∧
      liveParent s 0 6 1 = some 0) := wit (by decide +kernel)
theorem wit_musterReleased :
    let s := tGlobal 1 true true 0x88 4
    let q : QMsg := { msg := tMsgOf 0x88 4 [] }
    s.Inv ∧ (takeMuster s 0x88 = some (q, some (0, 1, 0)) ∧ bankSentUp s = some 0 ∧ musterDone s 0 = some (0, 0, 1) ∧
      takeMuster { s with car := { s.car with groups := [] } } 0x88 = some (q, none) ∧
      bankSentUp (tGlobal 1 false true 0x88 4) = some 0 ∧ musterDone (tGlobal 1 false true 0x88 4) 0 = none) := wit (by decide +kernel)

/-- Core 0 has waited at a Muster for longer than the threshold, and record `v` names its position. -/
def tPref (v : Nat) (why : Nat) : State :=
  let s := tJob { run := .muster 0 0 0 true, slots := [(2, { st := .run, waitWhy := why })] } {}
  { wr s pgCAR F.CARAVAN_PREF_THR.PCLK 5 with esc := 6, jobs := [(0, { num := 1, nl := 1, mpos := some 0, prefetch := [v], lcores := [(0, tLcore)] })] }

theorem wit_prefetchFalls :
    let v := 1 + 2 * 2 ^ 16 + 4 * 2 ^ 19 + 0xFF * 2 ^ 38 + 2 ^ 63
    let s := tPref v 2
    s.Inv ∧ ((core s 0).waitEsc + rd s pgCAR F.CARAVAN_PREF_THR.PCLK < s.esc ∧ v.testBit 63 = true ∧ (core s 0).prefDone = [] ∧
      some (natField v 0 16) = nextPos (jobOf s (core s 0).bank) 0 ∧ natField v 38 8 = 0xFF ∧ (slotOf s 0 (natField v 16 3)).st = .run ∧
      (slotOf s 0 (natField v 16 3)).waitWhy = 2 ∧ natField v 19 12 ≠ 0 ∧
      (slotOf (tPref v 1) 0 (natField v 16 3)).waitWhy ≠ 2 ∧
      rd (wr s pgCAR F.CARAVAN_PREF_THR.PCLK 0) pgCAR F.CARAVAN_PREF_THR.PCLK = 0) := wit (by decide +kernel)

/-! ## Host Ethernet and RoCE -/

/-- Port 0 is UP with an address, and QP 0 is as given; region 2 covers the first 4 KiB of a backed 6 GiB. -/
def tHost (q : Qp) : State :=
  let s := wr (wr (wr (tCh 0 0 6 0 {}) (pgHOSTETH 0) F.HOSTETH_STATE.LINK 1) (pgHOSTETH 0) F.HOSTETH_IPV4.ADDR 0x0A000001)
    (pgHOSTETH 0) F.HOSTETH_CFG.PFC_EN 1
  let s := wr1 s (pgHOSTETH 0) F.HOSTETH_IPV6.ADDR 3 0xFD000000
  let s := wr1 s pgSYS F.SYS_READY_DIE.DOMAIN 0 1
  { s with host := { s.host with qps := [(0, q)], mrs := [(2, { base := 0, size := 1, tag := 9, r := true, w := true, valid := true })] } }

/-- A single packet of 32 bytes at an address in region 2, with a PSN. -/
def tPkt (psn : Nat) (va : Nat) : RocePkt :=
  { port := 0, ce := false, qpn := 0x100, psn := BitVec.ofNat 24 psn, first := true, last := true, va := BitVec.ofNat 64 va,
    rkey := 9 * 64 + 2, len := 32, ackReq := true, data := zeros 32 }

/-- A frame of a length. -/
def tFrame (len : Nat) : EthFrame := { len := BitVec.ofNat 16 len, fcsOk := true, tag := none, kind := .roce }

theorem wit_frames :
    let s := tHost {}
    s.Inv ∧ (hostUp s 0 = true ∧ frameOk s 0 (tFrame 64) = true ∧ frameOk s 0 (tFrame 4224) = true ∧ frameOk s 0 (tFrame 63) = false ∧
      frameOk s 0 (tFrame 4225) = false) := wit (by decide +kernel)
theorem wit_addresses :
    let s := tHost {}
    s.Inv ∧ (rd s (pgHOSTETH 0) F.HOSTETH_IPV4.ADDR = 0x0A000001 ∧ hostIp6 s 0 = 0xFD000000 * 2 ^ 96 ∧ txPaused s 0 = false ∧
      tabGet [] s.host.txq 0 = []) := wit (by decide +kernel)
theorem wit_pauses :
    let s := wr (wr (tHost {}) (pgHOSTETH 0) F.HOSTETH_PFC.XOFF 100) (pgHOSTETH 0) F.HOSTETH_PFC.XON 200
    let t : State := { s with host := { s.host with xoffAt := [(0, 1)] } }
    s.Inv ∧ (pauseDue s 0 99 = true ∧ pauseDue s 0 100 = false ∧ invOk t = true ∧ tabGet 0 t.host.xoffAt 0 ≠ 0 ∧
      rd t (pgHOSTETH 0) F.HOSTETH_PFC.XON < 201) := wit (by decide +kernel)
theorem wit_packets :
    let s := tHost { state := 1 }
    s.Inv ∧ (hostUp s 0 = true ∧ rtsQp s 0x100 = some 0 ∧ rtsQp s 0x101 = none ∧ rtsQp s 0x900 = none ∧
      psnClass (qpOf s 0) 0 = 0 ∧ psnClass (qpOf s 0) 1 = 1 ∧ psnClass (qpOf s 0) (2 ^ 24 - 1) = 2 ∧
      (qpOf s 0).wrOpen = false ∧ (tPkt 0 4064).data.length = (tPkt 0 4064).len.toNat ∧ (tPkt 0 4064).data.length ≤ mtuBytes (qpOf s 0) ∧
      2 ≤ (tPkt 0 0).rkey.toNat % 64) := wit (by decide +kernel)
theorem wit_packetAccess :
    let s := tHost { state := 1 }
    s.Inv ∧ (∀ w ∈ [true, false], accessOk s 0 w (9 * 64 + 2) 4064 32 = true ∧ accessOk s 0 w (9 * 64 + 2) 4065 32 = false) :=
  wit (by decide +kernel)
theorem wit_readBytes :
    let s := tHost { state := 1 }
    let b : State := { s with hbm := { s.hbm with marks := [(burstKey 0 0 0, { ue := true })] } }
    s.Inv ∧ ((hbmRead s 0 32).2.1 = false ∧ invOk b = true ∧ (hbmRead b 0 32).2.1 = true) := wit (by decide +kernel)
theorem wit_packetMarked :
    let s := tHost { state := 1 }
    s.Inv ∧ ({ tPkt 0 0 with ce := true }.ce = true ∧ (qpOf s 0).cnpAt = 0 ∧ rtsQp s 0x100 = some 0) := wit (by decide +kernel)
theorem wit_cnp :
    let s : State := { tHost { state := 1, cutAt := 1 } with esc := 16250 }
    s.Inv ∧ (rtsQp s 0x100 = some 0 ∧ (qpOf s 0).cutAt + 16250 ≤ s.esc + 1 ∧
      { s with esc := 16249 }.esc + 1 < (qpOf s 0).cutAt + 16250 ∧ (qpOf s 0).cutAt ≠ 0) := wit (by decide +kernel)
theorem wit_rateInterval :
    let s : State := { tHost { state := 1, rate := 200 } with esc := 10 ^ 9 }
    s.Inv ∧ (max (qpOf s 0).cutAt (qpOf s 0).raiseAt + 325 * rd s pgROCE F.ROCE_CC.INTERVAL ≤ s.esc + 1 ∧
      (qpOf s 0).rate + rd s pgROCE F.ROCE_CC.STEP * 16 ^ (qpOf s 0).rateExp < 400 ∧
      ¬ 325 * rd s pgROCE F.ROCE_CC.INTERVAL ≤ 0) := wit (by decide +kernel)
theorem wit_acks :
    let s : State := { tHost { state := 1, sent := [(3, zeros 32)], sentAt := 1, retry := 7, tries := 6 } with esc := 10 ^ 9 }
    let t := tHost { state := 1, retry := 7, tries := 7 }
    s.Inv ∧ (rtsQp s 0x100 = some 0 ∧ (0x1F : BitVec 8).toNat / 32 % 4 = 0 ∧ (0x60 : BitVec 8).toNat = nakPsn ∧
      (qpOf s 0).tries < (qpOf s 0).retry ∧ (qpOf t 0).retry ≤ (qpOf t 0).tries ∧ (qpOf s 0).sent ≠ [] ∧
      13312 * 2 ^ (qpOf s 0).timeout ≤ 10 * (s.esc + 1 - (qpOf s 0).sentAt)) := wit (by decide +kernel)
theorem wit_qpWrites :
    let s := up (tHost { state := 1 }) pgROCE
    let t := wr (up (tHost {}) pgROCE) pgROCE F.ROCE_QP_CTX.STATE 1
    s.Inv ∧ (pageClosed s pgROCE = false ∧ (stagedQp s).state = 0 ∧ (qpOf s 0).state ≠ 0 ∧ invOk t = true ∧
      (stagedQp t).state = 1 ∧ (qpOf t 0).state = 0) := wit (by decide +kernel)
theorem wit_doorbells :
    let s := up (tHost { state := 1 }) pgCMDQ
    s.Inv ∧ (pageClosed s pgCMDQ = false ∧ rd1 s pgCMDQ F.CMDQ_CTRL.QP 3 = 0 ∧ rd1 s pgCMDQ F.CMDQ_CTRL.QP 3 ≠ 2047 ∧
      cntSub 16 (sqPi s 3) ≤ queueSize s 3 ∧ cntSub 16 (sqCi s 3) ≤ queueSize s 3 ∧ queueSize s 3 < cntSub (2 ^ 17) (sqPi s 3) ∧
      cntSub 0 (cqCi s 3) ≤ cntSub (cqPi s 3) (cqCi s 3) ∧ cntSub (cqPi s 3) (cqCi s 3) < cntSub 1 (cqCi s 3)) := wit (by decide +kernel)
theorem wit_hostFeed : dbm 79 < 80 ∧ 120 ≤ dbm 120 := by decide
theorem wit_hostLink :
    let s := up (wr State.reset (pgHOSTETH 3) F.HOSTETH_CFG.EN 1) (pgHOSTETH 3)
    s.Inv ∧ (rdB s (pgHOSTETH 3) F.HOSTETH_CFG.EN = true ∧ s.host.dark = false ∧ blkReady s (pgHOSTETH 3) = true) := wit (by decide +kernel)

/-! ## Command queues and commands -/

/-- Queue `k` is open: its page ready, EN set, rings in a ready domain of 6 GiB, one command posted; the Innkeeper runs. -/
def tQ1 (k : Nat) : State :=
  let s := up (wr1 (wr1 (wr1 (tHost {}) pgCMDQ F.CMDQ_CTRL.EN k 1) pgCMDQ F.CMDQ_SQ_PI.PI k 1) pgCMDQ F.CMDQ_CQ_BASE.BASE k 1) pgCMDQ
  wr s pgINNK F.INNK_STATE.STATE 1

/-- A started command of queue `k`, slot 0: its 64 bytes as fields (first byte, value). -/
def tRun (k : Nat) (bs : List (Nat × Nat)) : State :=
  let s := tQ1 k
  { s with host := { s.host with cmds := [{ q := k, n := 0, bytes := bs.foldl (fun a f => a + f.2 * 2 ^ (8 * f.1)) 0 }] } }

/-- The command is ready to run. -/
def tReady (s : State) (k opc : Nat) : Bool :=
  match cmdOf s k 0 opc with
  | some c => c.stage == 0 && (decide (k < 2) || innkRuns s) && !mgmtBefore s c
  | none => false

/-- The command of queue `k`. -/
def tC (s : State) (k opc : Nat) : Cmd := (cmdOf s k 0 opc).getD { q := 0, n := 0, bytes := 0 }

theorem wit_fetch :
    let s := tQ1 2
    s.Inv ∧ (pageClosed s pgCMDQ = false ∧ queueEn s 2 = true ∧ sqCi s 2 ≠ sqPi s 2 ∧ 0 < freeSlots s 2 ∧ ringsReady s 2 = true ∧
      s.host.resets.contains 2 = false ∧ (bytesToNat (hbmPeek s (sqSlot s 2 (sqCi s 2)) 64)).testBit 9 = false ∧ s.host.cmds = [] ∧
      hbmBacked s (sqSlot s 2 (sqCi s 2)) 64 = true ∧ queueEn s 3 = false) := wit (by decide +kernel)
theorem wit_complete :
    let f (k : Nat) : State := { tQ1 2 with host := { (tQ1 2).host with cmds := [{ q := k, n := 7, bytes := 0, done := some (0, 0, 0) }] } }
    (f 2).Inv ∧ (∀ k ∈ [2, 4], invOk (f k) = true ∧
      ((f k).host.cmds.find? (fun x => x.q == k && x.n == 7 && x.done.isSome)).isSome = true) := wit (by decide +kernel)
theorem wit_events :
    let e : Event := ⟨1, 0, 0, 0, 0⟩
    let s : State := { tQ1 2 with events := [e] }
    let t : State := { s with host := { s.host with evLost := 3 } }
    s.Inv ∧ (s.events = e :: [] ∧ (∀ d < 4, ∀ w < 4, rd1 s (pgNOC d) F.NOC_HAZ_CTRL.EN w = 0) ∧ s.host.evLost = 0 ∧
      rd1 s pgCMDQ F.CMDQ_CTRL.NOTIFY_EN 2 = 0 ∧ invOk t = true ∧ t.host.evLost ≠ 0) := wit (by decide +kernel)
theorem wit_queueResets :
    (tRun 2 []).Inv ∧ (startedCmds (tRun 2 []) 2 ≠ [] ∧ startedCmds (tRun 2 []) 3 = [] ∧ pageClosed (tRun 2 []) pgCMDQ = false) :=
  wit (by decide +kernel)
theorem wit_cmdReady :
    (tRun 2 []).Inv ∧ (∀ o ∈ [0x00, 0x10, 0x11, 0x12, 0x20, 0x21, 0x22, 0x23, 0x24, 0x25, 0x26], tReady (tRun 2 [(0, o)]) 2 o = true ∧
      invOk (tRun 2 [(0, o)]) = true ∧ (o ≠ 0 → cmdOf (tRun 2 [(0, o)]) 2 0 0 = none)) := wit (by decide +kernel)
theorem wit_debugReady :
    (tRun 3 []).Inv ∧ (∀ o ∈ [0x30, 0x31, 0x32, 0x33, 0x34], tReady (tRun 3 [(0, o)]) 3 o = true ∧ invOk (tRun 3 [(0, o)]) = true) :=
  wit (by decide +kernel)
theorem wit_copy :
    let s := tRun 2 [(0, 0x10), (8, 0), (16, 4096), (24, 32)]
    let c := tC s 2 0x10
    s.Inv ∧ (rangeReady s (arg c 8 8) (arg c 24 8) = true ∧ rangeReady s (arg c 16 8) (arg c 24 8) = true ∧ rangeRule 0 32 = true ∧
      rangeRule 4096 32 = true ∧ hbmBacked s 0 32 = true ∧ hbmBacked s 4096 32 = true ∧ (0 : Nat) + 32 ≤ 4096 ∧ (hbmRead s 0 32).2.1 = false ∧
      rangeRule 16 32 = false ∧ hbmBacked s (6 * 2 ^ 30) 32 = false) := wit (by decide +kernel)
theorem wit_fillCrc :
    let s := tRun 2 [(0, 0x11), (8, 0), (16, 64), (24, 7)]
    let c := tC s 2 0x11
    s.Inv ∧ (rangeReady s (arg c 8 8) (arg c 16 8) = true ∧ rangeRule (arg c 8 8) (arg c 16 8) = true ∧
      hbmBacked s (arg c 8 8) (arg c 16 8) = true) := wit (by decide +kernel)
theorem wit_powerLimit :
    let s := tRun 2 [(0, 0x21), (8, 4000)]
    s.Inv ∧ (4000 ≤ arg (tC s 2 0x21) 8 4 ∧ arg (tC s 2 0x21) 8 4 ≤ rd s pgPWR F.PWR_PLMAX.W) := wit (by decide +kernel)

/-- The module runs in power state `m` and a POWER_STATE to `t` waits. -/
def tPower (m t : Nat) : State :=
  wr (wr (wr (tRun 2 [(0, 0x22), (8, t)]) pgPWR F.PWR_MODSTATE.STATE m) pgSYS F.SYS_READY_SUMMARY.ALL 1) pgPWR F.PWR_MODSTATE.BUSY 0

theorem wit_powerState :
    (tPower 0 3).Inv ∧ ((∀ x ∈ [(0, 3), (1, 0), (0, 1), (0, 2), (3, 0), (0, 4), (0, 5), (4, 0)], let s := tPower x.1 x.2
      invOk s = true ∧ tReady s 2 0x22 = true ∧ modState s = x.1 ∧ arg (tC s 2 0x22) 8 1 = x.2 ∧
      rdB s pgSYS F.SYS_READY_SUMMARY.ALL = true ∧ secBusy s = false ∧ s.boot.p4 = false ∧ s.boot.p4Wait = false) ∧
      rdB (tPower 0 3) pgPWR F.PWR_MODSTATE.LEAK_LATCH = false ∧ rdB (tPower 0 4) pgSYS F.SYS_REMOVE.READY = false) := wit (by decide +kernel)
theorem wit_powerLeak :
    let s := wr (tPower 0 1) pgPWR F.PWR_MODSTATE.LEAK_LATCH 1
    s.Inv ∧ (rdB s pgPWR F.PWR_MODSTATE.LEAK_LATCH = true ∧ tReady s 2 0x22 = true) := wit (by decide +kernel)
theorem wit_update :
    let s := tRun 2 [(0, 0x23), (8, 0), (16, 64)]
    let c := tC s 2 0x23
    s.Inv ∧ (s.innk.upd = none ∧ rangeReady s (arg c 8 8) (arg c 16 4) = true ∧ rangeRule (arg c 8 8) 0 = true ∧
      hbmBacked s (arg c 8 8) (arg c 16 4) = true ∧ arg c 16 4 < 4096 ∧ (hbmRead s (arg c 8 8) (min (arg c 16 4) bundleMax)).2.1 = false) :=
  wit (by decide +kernel)
theorem wit_logRead :
    let s := tRun 2 [(0, 0x24), (8, 0), (24, 64)]
    let c := tC s 2 0x24
    s.Inv ∧ (addrReady s (arg c 8 8) = true ∧ rangeRule (arg c 8 8) 0 = true ∧
      hbmBacked s (arg c 8 8) (32 * (logRead s (arg c 16 8) (arg c 24 4)).length) = true) := wit (by decide +kernel)
theorem wit_attest :
    let s := hbmWriteOwn (tRun 2 [(0, 0x25), (8, 0), (16, 4096), (24, 8), (28, 40)]) 0 [0x14#8]
    let c := tC s 2 0x25
    let msg := hbmRead s (arg c 8 8) (arg c 24 4)
    s.Inv ∧ (tReady s 2 0x25 = true ∧ rangeReady s (arg c 8 8) (arg c 24 4) = true ∧ rangeReady s (arg c 16 8) (arg c 28 4) = true ∧
      rangeRule (arg c 8 8) 0 = true ∧ rangeRule (arg c 16 8) 0 = true ∧ arg c 24 4 = 8 ∧ 40 ≤ arg c 28 4 ∧
      hbmBacked s (arg c 8 8) (arg c 24 4) = true ∧ hbmBacked s (arg c 16 8) (arg c 28 4) = true ∧ msg.2.1 = false ∧
      byteField (bytesToNat (msg.1.take 8)) 0 1 = 0x14 ∧ byteField (bytesToNat (msg.1.take 8)) 4 2 = 0) := wit (by decide +kernel)
theorem wit_removeReady :
    let s := tRun 2 [(0, 0x26)]
    s.Inv ∧ (s.boot.p4 = false ∧ s.boot.p4Wait = false ∧ anyJob s = false ∧ rdB s pgSYS F.SYS_REMOVE.PEND = false ∧
      anyJob (setJobState s 0 2) = true ∧ { s with boot := { s.boot with p4 := true } }.boot.p4 = true) := wit (by decide +kernel)

/-- Debug level `l` with a debug command that waits, and core 0 of the running job halted for the contexts of a mask. -/
def tDebug (l : Nat) (bs : List (Nat × Nat)) (halted : BitVec 16) : State :=
  let s := setJobState (wr (wr (tRun 3 bs) pgSEC F.SEC_DEBUG.LEVEL l) pgPWR F.PWR_MODSTATE.BUSY 0) 0 2
  { s with cores := [(0, { lcore := some 0, haltCtx := halted })],
           jobs := [(0, { num := 1, nl := 1, valid := 1, lcores := [(0, tLcore)] })] }

theorem wit_debugOpens :
    (tDebug 0 [(0, 0x30)] 0).Inv ∧ (∀ l ∈ [0, 1, 2, 3], let s := tDebug l [(0, 0x30)] 0
      invOk s = true ∧ level s = l ∧ secBusy s = false ∧ arg (tC s 3 0x30) 16 4 = 0 ∧ tReady s 3 0x30 = true) := wit (by decide +kernel)
theorem wit_debugBusy :
    let s := wr (tDebug 0 [(0, 0x30)] 0) pgPWR F.PWR_MODSTATE.BUSY 1
    s.Inv ∧ (secBusy s = true ∧ tReady s 3 0x30 = true) := wit (by decide +kernel)
theorem wit_halts :
    (tDebug 2 [(0, 0x34)] 1).Inv ∧ (2 ≤ level (tDebug 2 [(0, 0x34)] 1) ∧ arg (tC (tDebug 2 [(0, 0x34)] 1) 3 0x34) 8 1 < 16 ∧
      ctxCores (tDebug 2 [(0, 0x34)] 1) 0 0 = [0] ∧ (core (tDebug 2 [(0, 0x34)] 1) 0).haltCtx.getLsbD 0 = true ∧
      rangeRule (arg (tC (tDebug 2 [(0, 0x34)] 1) 3 0x34) 16 8) 0 = true ∧ invOk (tDebug 2 [(0, 0x34)] 0) = true ∧
      (core (tDebug 2 [(0, 0x34)] 0) 0).haltCtx.getLsbD 0 = false ∧ level (tDebug 1 [(0, 0x34)] 0) < 2 ∧
      16 ≤ arg (tC (tDebug 2 [(0, 0x34), (8, 16)] 0) 3 0x34) 8 1) := wit (by decide +kernel)

/-! ## Clocks, power and heat -/

/-- The module runs in a power state at a stamp, with its power unit as given. -/
def tPow (m esc : Nat) (p : Power) : State :=
  { wr (wr State.reset pgPWR F.PWR_MODSTATE.STATE m) pgPWR F.PWR_MODSTATE.BUSY 0 with esc := esc, pow := p }

/-- Measured and limiting power of the module. -/
def tWatts (w limit : Nat) (s : State) : State := wr (wr s pgPWR F.PWR_INST.W w) pgPWR F.PWR_LIMIT.W limit

theorem wit_dividerSwitches :
    let s := tPow 0 0 { pend := [(3, 4)] }
    s.Inv ∧ (tabGet 0 s.pow.pend 3 ≠ 0 ∧ tabGet 0 s.pow.pend 3 ≤ 4 ∧ tabGet 0 s.pow.pend 3 - 1 ≠ dieDiv s 3 ∧
      tabGet 0 s.pow.edgeAt 3 = s.tick ∧ tabGet 0 s.pow.pend 0 = 0) := wit (by decide +kernel)
theorem wit_refLost :
    let s := tPow 2 3250000000 { lostAt := 1 }
    s.Inv ∧ (s.pow.lostAt ≠ 0 ∧ s.pow.lostAt + 3250000000 ≤ s.esc + 1 ∧ s.pow.lostAt + 32500000 ≤ s.esc + 1 ∧ modState s < 3 ∧
      (tPow 0 0 {}).pow.lostAt = 0) := wit (by decide +kernel)
theorem wit_escCheck :
    let s := wr (tPow 0 (2 ^ 20) {}) pgCLK F.CLK_STATE.LOCK 31
    s.Inv ∧ (s.esc % 2 ^ 20 = 0 ∧ (rd s pgCLK F.CLK_STATE.LOCK).testBit 3 = true ∧ (0 : BitVec 64).toNat ≠ s.esc) := wit (by decide +kernel)
theorem wit_capAll :
    let s := tWatts 1101 1000 (tPow 0 0 {})
    s.Inv ∧ (s.host.cmds = [] ∧ 110 * rd s pgPWR F.PWR_LIMIT.W < 100 * rd s pgPWR F.PWR_INST.W ∧ tabGet 0 s.pow.cap 0 ≠ 3) :=
  wit (by decide +kernel)
theorem wit_capUp :
    let s := wr1 (tWatts 981 1000 (tPow 0 0 {})) pgPWR F.PWR_DIE.W 2 7
    s.Inv ∧ (98 * rd s pgPWR F.PWR_LIMIT.W < 100 * rd s pgPWR F.PWR_INST.W ∧ tabGet 0 s.pow.cap 2 < 3 ∧
      100 * rd s pgPWR F.PWR_INST.W ≤ 110 * rd s pgPWR F.PWR_LIMIT.W ∧
      (∀ m < 4, tabGet 0 s.pow.cap m < 3 → rd1 s pgPWR F.PWR_DIE.W m < rd1 s pgPWR F.PWR_DIE.W 2 ∨
        (rd1 s pgPWR F.PWR_DIE.W m = rd1 s pgPWR F.PWR_DIE.W 2 ∧ 2 ≤ m))) := wit (by decide +kernel)
theorem wit_capDown :
    let s := tWatts 980 1000 (tPow 0 32499 { cap := [(1, 2)], upAt := 0 })
    let r := tWatts 980 1000 (tPow 0 32499 { cap := [(1, 2)], upAt := 2 })
    s.Inv ∧ (100 * rd s pgPWR F.PWR_INST.W ≤ 98 * rd s pgPWR F.PWR_LIMIT.W ∧ s.pow.upAt = 0 ∧ tabGet 0 s.pow.cap 1 ≠ 0 ∧
      (∀ m < 4, tabGet 0 s.pow.cap m < tabGet 0 s.pow.cap 1 ∨ (tabGet 0 s.pow.cap m = tabGet 0 s.pow.cap 1 ∧ m ≤ 1)) ∧
      invOk r = true ∧ r.pow.upAt ≠ 0 ∧ r.esc + 1 < r.pow.upAt + 32500) := wit (by decide +kernel)
theorem wit_capLimit :
    let c : Cmd := { q := 2, n := 0, bytes := 0x21 + 4000 * 2 ^ 64, stage := 1 }
    let s : State := { tPow 0 0 {} with host := { State.reset.host with cmds := [c] } }
    s.Inv ∧ (s.host.cmds.filter (fun x => x.stage == 1 && x.done.isNone && byteField x.bytes 0 1 == 0x21) = [c] ∧ arg c 8 4 < 2 ^ 13) :=
  wit (by decide +kernel)
theorem wit_currentDemand :
    let s := tPow 0 32500 { curAt := [(3, 1)] }
    s.Inv ∧ (tabGet 0 s.pow.curAt 3 ≠ 0 ∧ tabGet 0 s.pow.curAt 3 + 32500 ≤ s.esc + 1 ∧ tabGet 0 s.pow.cap 3 ≤ 3 ∧ dieDiv s 3 ≠ 3 ∧
      tabGet 0 s.pow.curAt 0 = 0) := wit (by decide +kernel)
theorem wit_throt :
    let s := wr (tPow 0 9750000000 { throtAt := 1 }) pgPWR F.PWR_THROT.THROT_IN 1
    s.Inv ∧ (throtIn s = true ∧ s.pow.throtAt + 9750000000 ≤ s.esc + 1 ∧ rdB s pgPWR F.PWR_THROT.THROT_STUCK = false ∧
      throtIn (tPow 0 0 {}) = false) := wit (by decide +kernel)
theorem wit_leak : (tPow 2 0 {}).Inv ∧ (modState (tPow 2 0 {}) < 3 ∧ ¬ modState (tPow 3 0 {}) < 3) := wit (by decide +kernel)
theorem wit_temperatures :
    420 ≤ natToSigned 10 (420 : BitVec 10).toNat ∧ natToSigned 10 (399 : BitVec 10).toNat < 400 ∧ 460 ≤ natToSigned 10 (460 : BitVec 10).toNat ∧
    natToSigned 10 (459 : BitVec 10).toNat < 460 ∧ 95 ≤ (95 : BitVec 8).toNat ∧ 100 ≤ (100 : BitVec 8).toNat ∧ (83 : Fin 112).val < 84 := by decide
theorem wit_thermalStep :
    let s := tPow 0 32500 { sens := [(sensKey 0 0, 400)], thermAt := [(0, 1)] }
    s.Inv ∧ (hotDie s 0 = true ∧ maxDie s 0 = false ∧ tabGet 0 s.pow.thermAt 0 + 32500 ≤ s.esc + 1) := wit (by decide +kernel)
theorem wit_thermalStepDown :
    let s := wr (tPow 0 325000 { coolAt := [(3, 1)] }) pgTHERM F.THERM_DEMAND.DIV 0xC0
    s.Inv ∧ (hotDie s 3 = false ∧ tabGet 0 s.pow.coolAt 3 ≠ 0 ∧ tabGet 0 s.pow.coolAt 3 + 325000 ≤ s.esc + 1 ∧ thermDemand s 3 ≠ 0 ∧
      tabGet 0 s.pow.coolAt 0 = 0) := wit (by decide +kernel)
theorem wit_engineHot :
    let s := tLink 3 {}
    s.Inv ∧ (usable s 0 = true ∧ 0 ∈ portLinks s 0 ∧ (lk s 0).retry = [] ∧ (lk s 0).closeAt = 0 ∧ 85 ≤ (85 : BitVec 8).toNat) :=
  wit (by decide +kernel)
theorem wit_engineCools :
    let s : State := { State.reset with fab := { State.reset.fab with hot := [(15, true)] } }
    s.Inv ∧ (tabGet false s.fab.hot 15 = true ∧ (79 : BitVec 8).toNat < 80) := wit (by decide +kernel)
theorem wit_inputRange :
    let s := tPow 0 325000000 { evAt := [(8, 1)] }
    s.Inv ∧ (440 ≤ (440 : BitVec 16).toNat ∧ tabGet 0 s.pow.evAt 8 + 325000000 ≤ s.esc + 1 ∧
      (tPow 0 5 { evAt := [(8, 1)] }).esc + 1 < 1 + 325000000 ∧ 570 < (571 : BitVec 16).toNat) := wit (by decide +kernel)
theorem wit_p3Entry :
    let s := wr (wr (tPow 0 0 { forced := true }) pgPWR F.PWR_MODSTATE.BUSY 1) pgPWR F.PWR_MODSTATE.TARGET 3
    s.Inv ∧ (rdB s pgPWR F.PWR_MODSTATE.BUSY = true ∧ rd s pgPWR F.PWR_MODSTATE.TARGET = 3 ∧ linksClosed s = true ∧ s.pow.forced = true ∧
      rd s pgSYS F.SYS_REMOVE.PHASE < 2 ∧ linksClosed (tLink 3 {}) = false) := wit (by decide +kernel)
theorem wit_corePark :
    let s := up (tPow 2 0 {}) (pgSEQ 255)
    let v : State := { tPow 2 0 {} with innk := { State.reset.innk with bist := [(0, { valid := true })] } }
    s.Inv ∧ (parkable (up (tPow 2 0 {}) (pgSEQ 0)) 0 = true ∧ blkReady (up (tPow 2 0 {}) (pgSEQ 0)) (pgSEQ 0) = true ∧
      testsOn (up (tPow 2 0 {}) (pgSEQ 0)) 0 < 8 ∧ invOk v = true ∧ parkable v 0 = true ∧ blkReady v (pgSEQ 0) = false ∧
      (bistOf v 0).valid = true ∧ parkable (tPow 0 0 {}) 0 = false) := wit (by decide +kernel)

/-! ## The Innkeeper and Passport -/

/-- The Innkeeper in a state at a stamp, with its fields as given. -/
def tInnk (st esc : Nat) (i : Innk) : State :=
  { wr State.reset pgINNK F.INNK_STATE.STATE st with esc := esc, innk := { i with slots := [(0, shippedSlot)] } }

/-- The same, with the firmware set in both slots. -/
def tBoth (st esc : Nat) (i : Innk) : State :=
  { wr State.reset pgINNK F.INNK_STATE.STATE st with esc := esc, innk := { i with slots := [(0, shippedSlot), (1, shippedSlot)] } }

theorem wit_watchdog :
    let s := tInnk 1 (2 * secPclk) {}
    s.Inv ∧ (innkRuns s = true ∧ s.innk.serviced + 2 * secPclk ≤ s.esc ∧ ¬ (tInnk 1 0 {}).innk.serviced + 2 * secPclk ≤ (tInnk 1 0 {}).esc) :=
  wit (by decide +kernel)
theorem wit_boots :
    let s := tInnk 2 0 {}
    let b : State := { tInnk 2 0 {} with innk := { slots := [(1, shippedSlot)] } }
    let n : State := { tInnk 2 0 {} with innk := {} }
    s.Inv ∧ (rd s pgINNK F.INNK_STATE.STATE = 2 ∧ recentRestarts s < 3 ∧ slotFault s (activeSlot s) = none ∧
      invOk b = true ∧ slotFault b (activeSlot b) ≠ none ∧ slotFault b (1 - activeSlot b) = none ∧ rd b pgINNK F.INNK_STATE.STATE = 2 ∧
      invOk n = true ∧ slotFault n 0 ≠ none ∧ slotFault n 1 ≠ none ∧ activeSlot n = 0 ∧ rd n pgINNK F.INNK_STATE.STATE = 2) :=
  wit (by decide +kernel)
theorem wit_rolls :
    let s := tBoth 2 0 { restarts := [0, 0, 0] }
    s.Inv ∧ (rd s pgINNK F.INNK_STATE.STATE = 2 ∧ 3 ≤ recentRestarts s ∧ slotFault s (1 - activeSlot s) = none ∧
      ¬ 3 ≤ recentRestarts (tBoth 2 0 { restarts := [0, 0] })) := wit (by decide +kernel)
theorem wit_healthLate :
    let u : Update := { phase := 5, healthAt := 1 }
    let s := tBoth 1 (30 * secPclk) { upd := some u }
    s.Inv ∧ (s.innk.upd = some u ∧ u.phase = 5 ∧ u.healthAt + 30 * secPclk ≤ s.esc + 1 ∧ rdB s pgINNK F.INNK_STATE.HEALTHY = false ∧
      slotFault s (1 - activeSlot s) = none ∧ ¬ u.healthAt + 30 * secPclk ≤ (tBoth 1 0 { upd := some u }).esc + 1) := wit (by decide +kernel)
theorem wit_well :
    let u : Update := { who := .cmd 2 0, secver := 64 }
    let s := tInnk 1 0 { upd := some u }
    s.Inv ∧ (innkRuns s = true ∧ s.innk.loadFail = false ∧ rdB s pgINNK F.INNK_STATE.HEALTHY = false ∧ s.innk.upd = some u ∧
      u.secver ≤ 64 ∧ u.who = .cmd 2 0 ∧ (tInnk 1 0 {}).innk.upd = none ∧ innkRuns (tInnk 0 0 {}) = false) := wit (by decide +kernel)
theorem wit_sensorsFresh :
    let s := tInnk 1 3250010 {}
    let t : State := { s with pow := { s.pow with snapEsc := 10 } }
    s.Inv ∧ (innkRuns s = true ∧ s.pow.snapEsc = 0 ∧ invOk t = true ∧ t.pow.snapEsc ≠ 0 ∧ t.pow.snapEsc + 3250000 ≤ t.esc ∧
      (111 : Fin 272).val < sensCount 0) := wit (by decide +kernel)

/-- The Innkeeper runs in P0, with the components given in slot A. -/
def tComps (cs : List Comp) (pend : SMap Nat) : State :=
  let s := wr (wr State.reset pgINNK F.INNK_STATE.STATE 1) pgPWR F.PWR_MODSTATE.STATE 0
  { s with innk := { slots := [(0, { comps := cs, valid := true })], pendComp := pend } }

/-- A component as shipped, and one whose hash is not its bytes'. -/
def tComp (ty : Nat) : Comp := { ty := ty, ver := 1, sha := bytesToNat (sha384 []), data := [], secver := 0, key := 0 }
def tBad (ty : Nat) : Comp := { ty := ty, ver := 1, sha := 0, data := [], secver := 0, key := 0 }

theorem wit_componentLoads :
    let s := tComps [tComp 2, tBad 5] []
    s.Inv ∧ (innkRuns s = true ∧ anyJob s = false ∧ diesOn s = true ∧ compOf s (activeSlot s) 2 = some (tComp 2) ∧ compOk (tComp 2) = true ∧
      compOf s (activeSlot s) 5 = some (tBad 5) ∧ compOk (tBad 5) = false ∧ compOf s (activeSlot s) 3 = none) := wit (by decide +kernel)
theorem wit_pendingLoads :
    let s := tComps [tComp 3] [(1, 2 ^ 3), (2, 2 ^ 2)]
    s.Inv ∧ (dieHeld s 1 = false ∧ diesOn s = true ∧ innkRuns s = true ∧ (tabGet 0 s.innk.pendComp 1).testBit 3 = true ∧
      (tabGet 0 s.innk.pendComp 1).testBit 2 = false ∧ (tabGet 0 s.innk.pendComp 2).testBit 2 = true ∧
      (tabGet 0 s.innk.pendComp 2).testBit 3 = false ∧ s.innk.buf.length < 512 ∧
      compOf s (activeSlot s) 3 = some (tComp 3) ∧ compOk (tComp 3) = true ∧ (tabGet 0 s.innk.pendComp 0) = 0) := wit (by decide +kernel)
theorem wit_secLock :
    let s := up (tInnk 1 0 {}) pgSEC
    let t := wr s pgSEC F.SEC_LOCK.LOCK 1
    s.Inv ∧ (pageClosed s pgSEC = false ∧ secLocked s = false ∧ invOk t = true ∧ pageClosed t pgSEC = false ∧ secLocked t = true) :=
  wit (by decide +kernel)
/-- A zeroization in progress. -/
def tZero (z : Zero) : State := { tInnk 1 0 {} with psp := { zero := some z } }

theorem wit_zeroizes :
    let z (l : Nat) (f : Option Nat) : Zero := { level := l, life := f, who := .cmd 3 0, ranges := [(0, 4096)] }
    (tZero (z 2 none)).Inv ∧ (∀ x ∈ [(2, none), (3, none), (3, some 3), (3, some 4)], (tZero (z x.1 x.2)).psp.zero = some (z x.1 x.2) ∧
      invOk (tZero (z x.1 x.2)) = true ∧ linksClosed (tZero (z x.1 x.2)) = true ∧ linksClosed (tLink 3 {}) = false) := wit (by decide +kernel)
theorem wit_zeroizesLater :
    let z : Zero := { level := 0, ranges := [(0, 4096)] }
    let s : State := { tPower 0 1 with psp := { pendZero := some z } }
    s.Inv ∧ (s.psp.zero = none ∧ s.psp.pendZero = some z ∧ diesOn s = true ∧ rdB s pgPWR F.PWR_MODSTATE.BUSY = false) :=
  wit (by decide +kernel)
theorem wit_lifecycleReset :
    let s : State := { State.reset with esc := 32500000, psp := { lifeAt := 1 } }
    s.Inv ∧ (s.psp.lifeAt ≠ 0 ∧ s.psp.lifeAt + 32500000 ≤ s.esc + 1 ∧ State.reset.psp.lifeAt = 0) := wit (by decide +kernel)

/-- The Innkeeper answers over I3C. -/
def tI3c (esc : Nat) (i : Innk) : State :=
  wr (wr (tInnk 1 esc i) pgINNK F.INNK_I3C.EN 1) pgINNK F.INNK_I3C.DVALID 1

/-- A body of bytes. -/
def bts (l : List Nat) : List Byte := l.map (BitVec.ofNat 8)

theorem wit_answers :
    (tI3c 0 {}).Inv ∧ (i3cUp (tI3c 0 {}) = true ∧ mgmtWaits (tI3c 0 {}) = false ∧ (tI3c 0 {}).host.cmds = [] ∧ i3cUp (tInnk 1 0 {}) = false ∧
      innkRuns (tI3c 0 {}) = true ∧ rdB (tI3c 0 {}) pgINNK F.INNK_I3C.EN = true ∧ (tI3c 0 {}).innk.upd = none ∧
      lifecycle (tI3c 0 {}) = 2 ∧
      rdB (wr (tI3c 0 {}) pgSEC F.SEC_LIFECYCLE.ID_READY 1) pgSEC F.SEC_LIFECYCLE.ID_READY = true ∧ rdB (tI3c 0 {}) pgSEC F.SEC_LIFECYCLE.ID_READY = false) := wit (by decide +kernel)
theorem wit_longBody : 4088 < (List.replicate 4089 (0 : Byte)).length := by rw [List.length_replicate]; decide
/-- The fields of a sensor request are in its classes' ranges: one sensor, and all 272 of class 4. -/
theorem wit_sensorBody :
    ∀ l ∈ [[0, 0, 111, 0, 1, 0], [4, 0, 0, 0, 16, 1]], let b := bytesToNat (bts l)
      (bts l).length = 6 ∧ byteField b 0 1 ≤ 6 ∧ 1 ≤ byteField b 4 2 ∧ byteField b 4 2 ≤ 1024 ∧
      byteField b 2 2 + byteField b 4 2 ≤ sensCount (byteField b 0 1) := by decide
theorem wit_registerBody :
    ∀ l ∈ [[0, 0, 0, 0, 1, 0], [0x10, 0xF0, 0xFF, 3, 0xFC, 3]], let b := bytesToNat (bts l)
      (bts l).length = 6 ∧ byteField b 0 4 % 4 = 0 ∧ 1 ≤ byteField b 4 2 ∧ byteField b 4 2 ≤ 1020 ∧
      byteField b 0 4 + 4 * byteField b 4 2 ≤ 2 ^ 26 := by decide
theorem wit_writeBody :
    let l := bts [0xFC, 0xFF, 0xFF, 3, 1, 2, 3, 4]
    let off := bytesToNat (l.take 4)
    l.length % 4 = 0 ∧ 8 ≤ l.length ∧ off % 4 = 0 ∧ (l.length - 4) / 4 ≤ 1020 ∧ off + 4 * ((l.length - 4) / 4) ≤ 2 ^ 26 := by decide
theorem wit_logBody :
    let l := bts [1, 0, 0, 0, 0, 0, 0, 0, 127]
    l.length = 9 ∧ 1 ≤ byteField (bytesToNat l) 8 1 ∧ byteField (bytesToNat l) 8 1 ≤ 127 := by decide
theorem wit_updateBody :
    let l := bts ([0, 0x10, 0, 0] ++ List.replicate 32 7)
    36 ≤ l.length ∧ bytesToNat (l.take 4) % 4096 = 0 ∧ (l.drop 4).length % 32 = 0 ∧ bytesToNat (l.take 4) + (l.drop 4).length ≤ 44 * 2 ^ 20 := by
  decide
theorem wit_certBody :
    let l := bts [1, 1, 0, 0, 0, 0, 0, 0, 0xF0, 0x0F]
    l.length = 10 ∧ byteField (bytesToNat l) 0 1 ≤ 1 ∧ byteField (bytesToNat l) 1 1 ≤ 1 ∧ 1 ≤ byteField (bytesToNat l) 8 2 ∧
    byteField (bytesToNat l) 8 2 ≤ 4080 := by decide
theorem wit_measBody :
    let l := bts [0, 0, 63]
    l.length = 3 ∧ 1 ≤ byteField (bytesToNat l) 2 1 ∧ byteField (bytesToNat l) 2 1 ≤ 63 := by decide
theorem wit_updateApplies :
    (tI3c 0 { upd := some {} }).Inv ∧ ((tI3c 0 { upd := some {} }).innk.upd ≠ none ∧ (tI3c 0 {}).innk.upd = none ∧
      bundleFault (tI3c 0 {}) 0 = some 1 ∧ (bts [0, 0, 0, 0]).length = 4 ∧ bytesToNat (bts [0, 0, 0, 0]) = 0) := wit (by decide +kernel)

/-- The bytes of a staged bundle at their offsets: one component of TYPE 5, empty, with the hash of no bytes; SIG at 4096. -/
def tBundle : SMap Byte :=
  let put (o : Nat) (bs : List Byte) (m : SMap Byte) : SMap Byte := (List.range bs.length).foldl (fun m i => tabPut 0 m (o + i) (bs.getD i 0)) m
  put 80 (sha384 []) (put 72 (natToBytes 4 4096) (put 64 [5#8] (put 28 (natToBytes 4 3437) (put 24 (natToBytes 4 4096)
    (put 16 [1#8] (put 12 (natToBytes 4 7533) (put 8 (natToBytes 4 0x10000) (put 0 (bts [0x5A, 0x4B, 0x53, 0x55, 0x50, 0x44, 0x30, 0x31]) []))))))))

/-- Whether every check of a staged bundle but its signatures passes. -/
def bundleBut (s : State) (len : Nat) : Bool :=
  bundleFormat s len && keyUsable s (stagedNat s (stagedNat s 24 4) 1) && decide (arb s ≤ stagedNat s 20 4) && (bundleComps s).all compOk

/-- A bundle whose signatures verify, and which passes the other checks, has no fault. -/
theorem bundleFault_none {s : State} {len : Nat} (h : bundleBut s len = true)
    (hs : sigsOk (stagedNat s (stagedNat s 24 4) 1) (stagedBytes s 0 (stagedNat s 24 4)) (stagedBytes s (stagedNat s 24 4 + 64) 64)
      (stagedBytes s (stagedNat s 24 4 + 128) 3309) = true) : bundleFault s len = none := by
  simp only [bundleBut, Bool.and_eq_true, decide_eq_true_eq] at h
  simp only [bundleFault, hs, h.1.1.1, h.1.1.2, h.2]
  have h3 : ¬ stagedNat s 20 4 < arb s := by have := h.1.2; omega
  simp [h3]

/-- The signatures are free values (log entry 17): where they verify, a bundle is accepted. -/
theorem wit_bundle :
    let s := tI3c 0 { stage := tBundle }
    s.Inv ∧ (bundleBut s 7533 = true ∧ bytesToNat (natToBytes 4 7533) = 7533) := wit (by decide +kernel)

/-- A token for an operation: KIND, TARGET and the rest as R432 has it, with empty signatures. -/
def tToken (kind target : Nat) : List Byte :=
  bts [0x5A, 0x4B, 0x53, 0x54, 0x4F, 0x4B, 0x30, 0x31, kind, target, 0, 0, 0, 0, 0, 0] ++ natToBytes 8 (uid State.reset) ++
    natToBytes 32 (nonce State.reset) ++ List.replicate 3381 0

/-- A module runs in a lifecycle state, in P0. -/
def tLife (l : Nat) : State := wr (wr (wr (tI3c 0 {}) pgSEC F.SEC_LIFECYCLE.STATE l) pgPWR F.PWR_MODSTATE.STATE 0) pgPWR F.PWR_MODSTATE.BUSY 0

theorem wit_tokens :
    (tLife 1).Inv ∧ (secBusy (tLife 1) = false ∧ i3cUp (tLife 1) = true ∧ level (tLife 1) = 0 ∧
      (∀ x ∈ [(1, 1), (1, 2), (1, 3), (2, 4), (3, 1)], tokenFault (tLife 1) x.1 (tToken x.1 x.2) = none ∧ tokenTarget (tToken x.1 x.2) = x.2) ∧
      tokenFault (tLife 1) 2 (tToken 1 1) = some 1 ∧ tokenFault (tLife 1) 2 (tToken 2 3) = some 6 ∧
      level (wr (tLife 1) pgSEC F.SEC_DEBUG.LEVEL 1) = 1 ∧ secBusy (wr (tLife 1) pgPWR F.PWR_MODSTATE.BUSY 1) = true) := wit (by decide +kernel)

/-- A management message has arrived over the fabric. -/
def tFab (st op ty : Nat) : State :=
  let s := tInnk st 0 {}
  { s with fab := { s.fab with mgmtq := [{ msg := { dst := 0, src := 7, cls := 3, op := op, data := bts [ty, 0, 1, 0, 0, 0, 0, 0] } }] } }

theorem wit_fabricMessages :
    (tFab 1 0xC1 3).Inv ∧ (innkRuns (tFab 1 0xC1 3) = true ∧ mgmtWaits (tFab 1 0xC1 3) = false ∧ (fabricMsg (tFab 1 0xC1 3) 0xC1 3).isSome = true ∧
      fabricDenied 3 = true ∧ fabricMsg State.reset 0xC1 3 = none ∧ fabricMsg State.reset 0xD0 3 = none ∧
      invOk (tFab 0 0xD0 0x14) = true ∧ innkRuns (tFab 0 0xD0 0x14) = false ∧ (fabricMsg (tFab 0 0xD0 0x14) 0xD0 0x14).isSome = true ∧
      (fabricMsg (tFab 1 0xC1 1) 0xC1 1).isSome = true ∧ rdB (tFab 1 0xC1 1) pgINNK F.INNK_CFG.FAB_MGMT = false) := wit (by decide +kernel)
theorem wit_eid :
    ∀ e ∈ [1, 254], let d := bts [1, e]
      d.length = 2 ∧ (d.getD 0 0).toNat < 2 ∧ (d.getD 1 0).toNat = e ∧ e ≠ 0 ∧ e ≠ 255 := by decide
theorem wit_jtag :
    (wr State.reset pgSEC F.SEC_DEBUG.LEVEL 3).Inv ∧ (level (wr State.reset pgSEC F.SEC_DEBUG.LEVEL 3) = 3 ∧ level State.reset ≠ 3 ∧
      State.reset.boot.off = false ∧ invOk { State.reset with boot := { off := true } } = true) := wit (by decide +kernel)
/-- An instruction that is IDCODE, and one that is not, whatever the free opcode. -/
theorem wit_jtagCodes :
    (BitVec.ofNat 8 (Config.code 0x0513 0)).toNat = Config.code 0x0513 0 % 256 ∧
    (BitVec.ofNat 8 (Config.code 0x0513 0 + 1)).toNat ≠ Config.code 0x0513 0 % 256 := by
  generalize Config.code 0x0513 0 = x
  refine ⟨BitVec.toNat_ofNat .., ?_⟩
  rw [BitVec.toNat_ofNat]
  omega

/-! ## Bring-up, self-test, insertion and removal -/

/-- A step of bring-up is done, in power state `m`, with the Innkeeper running. -/
def tBring (k m : Nat) : State :=
  let s := wr (wr (wr State.reset pgINNK F.INNK_STATE.STATE 1) pgPWR F.PWR_MODSTATE.STATE m) pgPWR F.PWR_MODSTATE.BUSY 0
  { s with boot := { s.boot with up := k } }

/-- The module is without power. -/
def tOff (b : Boot) : State := { State.reset with boot := { b with off := true } }

theorem wit_powerUp :
    State.reset.Inv ∧ (State.reset.boot.up = 2 ∧ State.reset.boot.off = false ∧ slotFault State.reset (activeSlot State.reset) = none ∧
      invOk (tBring 7 0) = true ∧ (tBring 7 0).boot.up ≠ 2 ∧ modState (tBring 7 0) ≠ 4 ∧ modState (tBring 7 4) = 4 ∧
      invOk (tOff {}) = true ∧ (tOff {}).boot.off = true) := wit (by decide +kernel)
theorem wit_resetIgnored : (9 : BitVec 8).toNat < 10 ∧ 10 ≤ (10 : BitVec 8).toNat ∧ State.reset.innk.buf.length < 512 := by decide
theorem wit_domainBuilt :
    let s := ((List.range 8).map (· + 24)).foldl (fun s k => up s (pgSTK k)) (tBring 7 0)
    s.Inv ∧ (7 ≤ s.boot.up ∧ innkRuns s = true ∧ diesOn s = true ∧ domReady s 3 = false ∧ striped s = false ∧
      (∀ k ∈ (List.range 8).map (· + 8 * 3), blkReady s (pgSTK k) = true) ∧ diesOn (tBring 7 3) = false) := wit (by decide +kernel)
theorem wit_stripedBuilt :
    let s := (List.range 32).foldl (fun s k => up s (pgSTK k)) (wr (tBring 7 0) (pgSTK 0) F.HBM_MAP_CTRL.MODE 1)
    s.Inv ∧ (domReady s 0 = false ∧ striped s = true ∧ ∀ k ∈ List.range 32, blkReady s (pgSTK k) = true) := wit (by decide +kernel)
theorem wit_coreComes :
    let s := up (tBring 7 0) (pgSTEWARD 3)
    let q := setBist s 255 { state := 2, valid := true }
    s.Inv ∧ (7 ≤ s.boot.up ∧ diesOn s = true ∧ rdB s pgPWR F.PWR_MODSTATE.BUSY = false ∧ coreHealthy s 255 = true ∧
      blkState s (pgSEQ 255) = stOFF ∧ (core s 255).parked = false ∧ blkReady s (pgSTEWARD (dieOf 255)) = true ∧
      testDue s 255 = true ∧ testsOn s (dieOf 255) < 8 ∧
      invOk q = true ∧ testDue q 255 = false ∧ coreHealthy q 255 = true ∧ blkState q (pgSEQ 255) = stOFF ∧ blkReady q (pgSTEWARD 3) = true) :=
  wit (by decide +kernel)
theorem wit_shutTest :
    let s := up (wr (wr (tBring 7 0) pgPWR F.PWR_MODSTATE.BUSY 1) pgPWR F.PWR_MODSTATE.TARGET 3) (pgSEQ 7)
    s.Inv ∧ (shutTestOk s 7 = true ∧ shutTestOk s 8 = false) := wit (by decide +kernel)

/-- Unit `u` is under test. -/
def tTest (u : Nat) (powerup : Bool) (esc : Nat) : State := { startTest (tBring 7 0) u powerup with esc := esc }

/-- A finding with failing segments, failing elements, and the retest's outcome. -/
def tFind (segs : List (Fin 64)) (fails : List TestFail) (ok : Bool) : TestFinding :=
  { segs := segs, memId := 0, nrows := 0, row := 0, bitNo := 0, expect := false, fails := fails, badSpares := [], retestOk := ok }

theorem wit_testEnds :
    let y : TestFail := { page := ⟨0x801, by decide⟩, col := false, bank := 0, target := 5 }
    let s := tTest 0 true 0
    s.Inv ∧ (underTest s 0 = true ∧ s.esc + 1 < (bistOf s 0).startAt + unitBudget 0 ∧ failsIn 0 (tFind [] [] true) = true ∧
      failsIn 0 (tFind [] [y] true) = true ∧ freeSpare { s.innk with badSpares := s.innk.badSpares ++ [] } y = some 0 ∧
      failsIn 0 (tFind [3] [] true) = true ∧ failsIn 0 (tFind [] [y] false) = true ∧ (bistOf s 0).powerup = true ∧
      (bistOf (tTest 0 false 0) 0).powerup = false ∧ underTest s 1 = false ∧ failsIn 1 (tFind [] [y] true) = false) := wit (by decide +kernel)
theorem wit_testLate :
    let s := tTest 261 true 19500000
    s.Inv ∧ (underTest s 261 = true ∧ (bistOf s 261).startAt + unitBudget 261 ≤ s.esc + 1 ∧
      ¬ (bistOf (tTest 261 true 5) 261).startAt + unitBudget 261 ≤ (tTest 261 true 5).esc + 1) := wit (by decide +kernel)

/-- Core 0 has a soft repair of a row that a shut-down test found, and fuses may be burned. -/
def tFuse (k : Nat) : State :=
  let s := wr (tBring 7 0) pgSYS F.SYS_REPAIR_CTRL.FUSE_EN 1
  { s with innk := { s.innk with repairs := [⟨0x801, 0, 5, false⟩], bist := [(0, { state := 3, valid := true })],
                                 fuseCnt := if k = 0 then [] else [(0, k)] } }

theorem wit_fuses :
    let r : Repair := ⟨0x801, 0, 5, false⟩
    (tFuse 0).Inv ∧ (∀ k ∈ [0, 1, 2], let s := tFuse k
      invOk s = true ∧ s.innk.repairs.find? (fun r => !r.fused && unitOfPage r.page == some 0) = some r ∧ unitOfPage r.page = some 0 ∧
      r.page = 0x801 ∧ r.element = 0 ∧ rdB s pgSYS F.SYS_REPAIR_CTRL.FUSE_EN = true ∧ (bistOf s 0).valid = true ∧
      blkReady s 0x801 = false ∧ innkRuns s = true ∧ tabGet 0 s.innk.fuseCnt 0 = k) := wit (by decide +kernel)
theorem wit_p3Leaves :
    let f (t : Nat) : State := wr (wr (tBring 7 3) pgPWR F.PWR_MODSTATE.BUSY 1) pgPWR F.PWR_MODSTATE.TARGET t
    (f 0).Inv ∧ (∀ t ∈ [0, 1, 2], invOk (f t) = true ∧ modState (f t) = 3 ∧ rdB (f t) pgPWR F.PWR_MODSTATE.BUSY = true ∧
      rd (f t) pgPWR F.PWR_MODSTATE.TARGET = t ∧ modState (tBring 7 0) ≠ 3) := wit (by decide +kernel)
theorem wit_offWaits :
    (tOff { enWait := true }).Inv ∧ ((tOff { enWait := true }).boot.enWait = true ∧ (tOff { precharged := true }).boot.precharged = true ∧
      (tOff { precharged := false }).boot.precharged = false ∧ (tOff { lowIn := true }).boot.lowIn = true ∧
      (tOff {}).boot.off = true) := wit (by decide +kernel)
theorem wit_ejects :
    let r := wr (tBring 7 0) pgSYS F.SYS_REMOVE.PEND 1
    (tBring 7 0).Inv ∧ (modState (tBring 7 0) ≠ 4 ∧ rdB (tBring 7 0) pgSYS F.SYS_REMOVE.PEND = false ∧
      rdB (tBring 7 0) pgSYS F.SYS_REMOVE.READY = false ∧ (tBring 7 0).events.length < 256 ∧ rdB r pgSYS F.SYS_REMOVE.PEND = true ∧
      modState (tBring 7 4) = 4) := wit (by decide +kernel)
theorem wit_p4Goes :
    let s : State := { tBring 7 0 with boot := { up := 7, p4Wait := true } }
    let t := wr (wr (tBring 7 0) pgPWR F.PWR_MODSTATE.BUSY 1) pgPWR F.PWR_MODSTATE.TARGET 4
    let p : State := { t with boot := { up := 7, p4 := true, done := [256, 257, 258, 259, 260, 261] } }
    s.Inv ∧ (s.boot.p4Wait = true ∧ p4Held s = false ∧ invOk p = true ∧ p.boot.p4 = true ∧ rdB p pgPWR F.PWR_MODSTATE.BUSY = true ∧
      rd p pgPWR F.PWR_MODSTATE.TARGET = 4 ∧ linksClosed p = true ∧ coresTested p = true ∧ (∀ k < 6, 256 + k ∈ p.boot.done) ∧
      p.boot.p4Wait = false ∧ (tBring 7 0).boot.p4 = false) := wit (by decide +kernel)

/-! ## Register pages, interrupts and pins -/

theorem wit_corePages :
    let r := up State.reset (pgSEQ 255)
    let v := setBlk State.reset (pgSEQ 255) stSERVICE
    State.reset.Inv ∧ (pageClosed State.reset (pgSEQ 255) = true ∧ invOk r = true ∧ invOk v = true ∧ coreState v 255 = stSERVICE ∧
      pageClosed v (pgSEQ 255) = false ∧ coreOpen v 255 = true ∧ coreState r 255 ≠ stSERVICE ∧ coreOpen r 255 = true ∧
      pageClosed r (pgSEQ 255) = false ∧ (core (setCore v 255 { zeroUntil := some 5 }) 255).zeroUntil ≠ none ∧ (core v 255).zeroUntil = none) :=
  wit (by decide +kernel)
/-- A core that is neither open nor closed: it is BUSY. -/
theorem wit_coreNotOpen :
    let s := setBlk State.reset (pgSEQ 0) stBUSY
    s.Inv ∧ (pageClosed s (pgSEQ 0) = false ∧ coreOpen s 0 = false ∧ coreState s 0 ≠ stSERVICE) := wit (by decide +kernel)
theorem wit_step :
    let s := wr (with0 (up State.reset (pgSEQ 0)) { run := .issuing, haltCtx := 1 }) pgSEC F.SEC_DEBUG.LEVEL 2
    let lift := wr (updCore s 0 (fun y => { y with haltCtx := 0 })) (pgSEQ 0) F.SEQ_CTRL.HALT 0
    s.Inv ∧ (2 ≤ level s ∧ seqHalted s 0 = true ∧ canIssue lift 0 = true ∧ (nextBundle lift 0).1 ≤ 4095 ∧
      (tabGet 0 (core s 0).imem (core s 0).pc).toNat = 0 ∧ pageClosed s (pgSEQ 0) = false ∧
      seqHalted (wr s pgSEC F.SEC_DEBUG.LEVEL 1) 0 = true ∧ level (wr s pgSEC F.SEC_DEBUG.LEVEL 1) < 2) := wit (by decide +kernel)
theorem wit_errorPages :
    pageBlk 0x3000 = none ∧ (pageBlk pgSYS).isSome = true ∧ (pageBlk (pgLEDGER 255)).isSome = true ∧ Src.i3c ≠ Src.fabric := by decide

/-- A block of every kind that the clauses on clears and pairs name: an open page, and the words they read. -/
theorem wit_clears :
    let s := up State.reset pgROCE
    let b := (pageBlk pgROCE).map (·.1)
    s.Inv ∧ (pageClosed s pgROCE = false ∧ b = some .roce ∧ (fieldsAt .roce 0x140).isEmpty = false ∧
      (((List.range 960).map (fun i => 0x100 + 4 * i)).any (fun o => isPairLo .roce o && !isPairLo .roce (o + 4))) = true ∧
      pageClosed State.reset pgROCE = true) := wit (by decide +kernel)
theorem wit_pairWrite :
    let s := up State.reset pgJOB
    s.Inv ∧ (pageClosed s pgJOB = false ∧ pageBlk pgJOB = some (.job, 0) ∧ writable .job 0x10C = true ∧ isPairLo .job 0x10C = true ∧
      rdB s pgJOB F.BLK_CTRL.HOST_WP = false ∧ rdB (wr s pgJOB F.BLK_CTRL.HOST_WP 1) pgJOB F.BLK_CTRL.HOST_WP = true ∧
      srcCode (.roce 5) = 0 ∧ srcCode .i3c ≠ 0 ∧ invOk (wr s pgJOB F.BLK_CTRL.HOST_WP 1) = true ∧
      writable .job 0x100 = false ∧ secLocked s = false ∧ secLocked (wr s pgSEC F.SEC_LOCK.LOCK 1) = true ∧
      (5 : BitVec 32).toNat % 4 ≠ 0 ∧ (0x10 : BitVec 32).toNat % 4 = 0 ∧ natField (0x10 : BitVec 32).toNat 4 1 ≠ rd s pgJOB F.BLK_CTRL.HOST_WP ∧
      pageClosed State.reset pgJOB = true) := wit (by decide +kernel)
theorem wit_stepnum :
    let s := up State.reset pgJOB
    let t : State := { s with host := { s.host with loHeld := [(2048, pgJOB, 0x18C, 7)] } }
    s.Inv ∧ (invOk t = true ∧ heldOf' t.host.loHeld (srcNum .i3c) = some (srcNum .i3c, pgJOB, 0x10C + 0x80 * 1, 7) ∧
      heldOf' s.host.loHeld (srcNum .i3c) = none ∧ pageClosed t pgJOB = false) := wit (by decide +kernel)
theorem wit_semaphores :
    let s := up { wr State.reset pgINNK F.INNK_STATE.STATE 1 with esc := 3250000, innk := { State.reset.innk with semWaitAt := 1 } } pgSYS
    s.Inv ∧ (pageClosed s pgSYS = false ∧ s.innk.semWaitAt ≠ 0 ∧ s.innk.semWaitAt + 3250000 ≤ s.esc + 1 ∧ innkRuns s = true ∧
      State.reset.innk.semWaitAt = 0 ∧ pageClosed (up State.reset (pgNOC 3)) (pgNOC 3) = false) := wit (by decide +kernel)
theorem wit_sysPage :
    let s := up State.reset pgSYS
    let t := wr s pgSYS F.SYS_ALERT.EN 1
    s.Inv ∧ (pageClosed s pgSYS = false ∧ pageClosed t pgSYS = false ∧ rdB t pgSYS F.SYS_ALERT.EN = true) := wit (by decide +kernel)

/-! ## Ill-formed commands: each check of WellFormed refuses one and lets its neighbour pass -/

/-- A packet with a payload. -/
def tPay (d : List Byte) : RocePkt :=
  { port := 0, ce := false, qpn := 0, psn := 0, first := true, last := true, va := 0, rkey := 0, len := 0, ackReq := false, data := d }

theorem test_wf_flit : (Instr.flitReceive 0 (List.replicate 639 0) true).wf = false ∧ (Instr.flitReceive 0 (List.replicate 640 0) true).wf = true := by
  decide +kernel
theorem test_wf_pfc : (Instr.pfcFrame 0 0 [1, 2, 3]).wf = false ∧ (Instr.pfcFrame 0 0 (List.replicate 8 1)).wf = true := by decide +kernel
theorem test_wf_payload (p : RocePkt) (h : p.data.length = 4097) : (Instr.rdmaWrite p).wf = false ∧ (Instr.receivedSend p).wf = false := by
  constructor <;> simp [Instr.wf, RocePkt.wf, h]
theorem test_wf_payload_max (p : RocePkt) (h : p.data.length = 4096) : (Instr.rdmaWrite p).wf = true := by simp [Instr.wf, RocePkt.wf, h]
theorem test_wf_read : (Instr.rdmaRead (tPay [1])).wf = false ∧ (Instr.rdmaRead (tPay [])).wf = true := by decide +kernel
theorem test_wf_sensor : (Instr.sensorRefresh [(6, 16, 0)]).wf = false ∧ (Instr.sensorRefresh [(6, 15, 0)]).wf = true := by decide +kernel
theorem test_wf_body (b : List Byte) (h : b.length = 4089) :
    (Instr.getSensor (.i3c 0 b)).wf = false ∧ (Instr.readReg (.i3c 0 b)).wf = false ∧ (Instr.writeReg (.i3c 0 b)).wf = false ∧
    (Instr.command (.i3c 0 b)).wf = false ∧ (Instr.msgLogRead (.i3c 0 b)).wf = false ∧ (Instr.updateWrite (.i3c 0 b)).wf = false ∧
    (Instr.updateApply (.i3c 0 b)).wf = false ∧ (Instr.updateStatus (.i3c 0 b)).wf = false ∧ (Instr.getInfo (.i3c 0 b)).wf = false ∧
    (Instr.getCert (.i3c 0 b)).wf = false ∧ (Instr.getMeasLog (.i3c 0 b)).wf = false ∧ (Instr.getReport (.i3c 0 b)).wf = false ∧
    (Instr.getNonce (.i3c 0 b)).wf = false ∧ (Instr.debugToken (.i3c 0 b)).wf = false ∧ (Instr.lifecycleToken (.i3c 0 b)).wf = false ∧
    (Instr.revokeToken (.i3c 0 b)).wf = false ∧ (Instr.msgDebugClose (.i3c 0 b)).wf = false := by simp [Instr.wf, Via.wf, h]
theorem test_wf_body_max (b : List Byte) (h : b.length = 4088) : (Instr.debugToken (.i3c 0 b)).wf = true := by simp [Instr.wf, Via.wf, h]
theorem test_wf_mctp (b : List Byte) (h : b.length = 4093) : (Instr.mctpControl 0 1 b).wf = false := by simp [Instr.wf, h]
theorem test_wf_component : (Instr.componentLoad 0).wf = false ∧ (Instr.componentLoad 1).wf = true := by decide +kernel
theorem test_wf_tag :
    (∀ i ∈ [Instr.commandComplete 4 65536, .cmdNop 4 65536, .jobStart 4 65536, .jobStop 4 65536, .stepGo 4 65536, .cmdCopy 4 65536,
      .fill 4 65536, .crc 4 65536, .info 4 65536, .powerLimit 4 65536, .powerState 4 65536, .update 4 65536, .cmdLogRead 4 65536,
      .attest 4 65536, .removeReady 4 65536, .debugOpen 4 65536, .debugClose 4 65536, .halt 4 65536, .resume 4 65536, .snapshot 4 65536],
      i.wf = false) ∧ (Instr.halt 4 65535).wf = true ∧ (Instr.halt 3 65536).wf = true := by decide +kernel

/-! ## Published vectors and single steps -/

/-- Whether a command answers a next state of which `p` holds. -/
def gives (i : Instr) (s : State) (p : State → Bool) : Bool :=
  match exec i s with
  | .next t => p t
  | _ => false

/-- Philox-4×32-10's published vectors (R45 follows its definition): key and counter zero, all ones. -/
theorem test_philox :
    philox10 0 0 = ⟨0x6627e8d5, 0xe169c58d, 0xbc57ac4c, 0x9b00dbd8⟩ ∧
    philox10 (2 ^ 64 - 1) (2 ^ 128 - 1) = ⟨0x408f276d, 0x41c83b0e, 0xa20bc7c6, 0x6d5451fd⟩ := by decide +kernel
/-- CRC-32C of "123456789" (R229). -/
theorem test_crc32c : crc32c (bts [0x31, 0x32, 0x33, 0x34, 0x35, 0x36, 0x37, 0x38, 0x39]) = 0xE3069283 := by decide +kernel
/-- SHA-384 of "abc", FIPS 180's example (R422). -/
theorem test_sha384 :
    sha384 (bts [0x61, 0x62, 0x63]) = bts [0xcb, 0x00, 0x75, 0x3f, 0x45, 0xa3, 0x5e, 0x8b, 0xb5, 0xa0, 0x3d, 0x69, 0x9a, 0xc6, 0x50, 0x07,
      0x27, 0x2c, 0x32, 0xab, 0x0e, 0xde, 0xd1, 0x63, 0x1a, 0x8b, 0x60, 0x5a, 0x43, 0xff, 0x5b, 0xed,
      0x80, 0x86, 0x07, 0x2b, 0xa1, 0xe7, 0xcc, 0x23, 0x58, 0xba, 0xec, 0xa1, 0x34, 0xc8, 0x25, 0xa7] := by decide +kernel
/-- The largest E4M3 number is 448 (R24), and larger numbers become it whatever SAT is; 61,440, E5M2's threshold, becomes infinity
without SAT and the largest finite number with it (R44). -/
theorem test_e4m3 :
    (convertTo fmtE4M3 true .rne (fvOf32 0x43E00000)).1 = 0x7E ∧ (convertTo fmtE4M3 true .rne (fvOf32 0x43E08000)).1 = 0x7E ∧
    (convertTo fmtE4M3 false .rne (fvOf32 0x43F00000)).1 = 0x7E ∧ (convertTo fmtE5M2 false .rne (fvOf32 0x47700000)).1 = 0x7C ∧
    (convertTo fmtE5M2 true .rne (fvOf32 0x47700000)).1 = 0x7B := by decide +kernel
/-- FP32: 1 + 1, 1/0 and the root of 2. -/
theorem test_fp32 :
    fAdd 0x3F800000 0x3F800000 = (0x40000000, flNone) ∧ fDiv 0x3F800000 0 = (0x7F800000, flDZ) ∧ fSqrt 0x40000000 = (0x3FB504F3, flNX) := by
  decide +kernel

/-- Core 0 issues with S1 all ones, S2 = 2, S3 = the most negative number. -/
def tRegs : State := with0 State.reset { run := .issuing, sregs := [(1, BitVec.allOnes 64), (2, 2), (3, 0x8000000000000000)] }

/-- The value that will land in a scalar register in the next cycle (R158). -/
def lands (t : State) (r : Nat) (v : DWord) : Bool := decide ((core t 0).land.map (fun x => (x.at_, x.ev)) = [(1, .sreg r v)])

/-- ADD wraps, and the program counter goes on (R152, R158). -/
theorem test_add_wraps : gives (.seqAdd 0 4 1 2) tRegs (fun t => lands t 4 1 && (core t 0).pc == 1) = true := by decide +kernel
/-- SUB where a source is the destination. -/
theorem test_sub_self : gives (.sub 0 2 2 1) tRegs (fun t => lands t 2 3) = true := by decide +kernel
/-- SRA keeps the sign; SHR does not. -/
theorem test_sra : gives (.sra 0 4 3 2) tRegs (fun t => lands t 4 0xE000000000000000) = true := by decide +kernel
theorem test_shr : gives (.shr 0 4 3 2) tRegs (fun t => lands t 4 0x2000000000000000) = true := by decide +kernel
/-- A write of S0 changes nothing (R155). -/
theorem test_s0 : setSreg (core tRegs 0) 0 5 = core tRegs 0 := by decide +kernel
/-- ADDI sign-extends its immediate. -/
theorem test_addi : gives (.addi 0 4 2 0xFFFFFFFF) tRegs (fun t => lands t 4 1) = true := by decide +kernel
/-- The step takes the command at the front of the queue; an empty queue is one root tick. -/
theorem test_step :
    (match step { tRegs with pending := [.sub 0 5 2 2, .seqAdd 0 4 1 2] } with
     | .next t => t.pending.length == 1 && lands t 5 0
     | _ => false) = true := by decide +kernel
theorem test_idle : (match step State.reset with | .next t => t.tick == 1 | _ => false) = true := by decide +kernel
/-- Module reset leaves the shipped slot active and step 2 of R440 done; the Innkeeper then boots it (R421). -/
theorem test_boot : gives .boot { State.reset with boot := { up := 3 } } (fun t => innkRuns t && activeSlot t == 0) = true := by decide +kernel

/-! ## A job image that every check accepts (R335 to R341)

Die 0's domain has every channel but channel 0 left out, so that a local address is its own place and the bytes of a range are those
of the store. The image's CRC is whatever CRC-32C gives. -/

/-- A state in which local addresses of die 0 are places of channel 0, and no burst is in error. -/
structure Flat (s : State) : Prop where
  wf : smWf regDefault s.regs = true
  str : striped s = false
  base : baseList s 0 = [0]
  live : liveList (getDom s 0) = []
  cap : rd s (domPage 0) F.HBM_CAP.GIB = 768
  st : rd s (pgCH 0) F.HBM_CH_STATE.STATE = 0
  marks : s.hbm.marks = []

theorem Flat.place {s : State} (h : Flat s) {a : Nat} (ha : a < dieSpan) : hbmPlace s a = some (0, a / 2048, a % 2048) := by
  have hd : a / dieSpan = 0 := Nat.div_eq_of_lt ha
  have hc : a / 2048 < domCap s 0 := by rw [domCap, h.cap]; simp only [dieSpan, gibGranules] at *; omega
  have hm : domMap s 0 (a / 2048) = (0, a / 2048) := by
    rw [domMap, h.base, h.live]
    simp only [liveMap, baseMap, List.length_singleton, Nat.div_one, Nat.mod_one]
    rfl
  simp only [hbmPlace, addrDom, h.str, hd, Bool.false_eq_true, if_false, Nat.zero_mul, Nat.sub_zero, hm, h.st]
  rw [if_neg (by decide), if_pos hc, if_neg (by decide)]

/-- A counted read changes registers only, and none that the predicate names. -/
theorem Flat.counted {s : State} (h : Flat s) (k : Nat) :
    Flat (add64 s (pgCH 0) F.HBM_CH_BYTES_LO.COUNT F.HBM_CH_BYTES_HI.COUNT 0 k) := by
  have w := h.wf
  have other (pg : Nat) (f : Fld) (i j : Nat)
      (k1 : regKey pg (fldOff f i j) ≠ regKey (pgCH 0) (fldOff F.HBM_CH_BYTES_LO.COUNT 0 0))
      (k2 : regKey pg (fldOff f i j) ≠ regKey (pgCH 0) (fldOff F.HBM_CH_BYTES_HI.COUNT 0 0)) :
      rd2 (add64 s (pgCH 0) F.HBM_CH_BYTES_LO.COUNT F.HBM_CH_BYTES_HI.COUNT 0 k) pg f i j = rd2 s pg f i j := by
    rw [add64, wr64, wr1_eq, wr1_eq, rd2_wr2_word (wr2_wf w) _ _ _ _ _ _ _ _ _ k2, rd2_wr2_word w _ _ _ _ _ _ _ _ _ k1]
  have hs : striped (add64 s (pgCH 0) F.HBM_CH_BYTES_LO.COUNT F.HBM_CH_BYTES_HI.COUNT 0 k) = striped s := by
    simp only [striped, rdB, rd_eq]
    rw [other _ _ _ _ (by decide) (by decide)]
  exact {
    wf := wr1_wf (wr1_wf w)
    str := hs.trans h.str
    base := by
      have e : baseList (add64 s (pgCH 0) F.HBM_CH_BYTES_LO.COUNT F.HBM_CH_BYTES_HI.COUNT 0 k) 0 = baseList s 0 := by
        simp only [baseList, hs, getDom, add64_hbm]
      exact e.trans h.base
    live := h.live
    cap := by rw [rd_eq, other _ _ _ _ (by decide) (by decide)]; exact h.cap
    st := by rw [rd_eq, other _ _ _ _ (by decide) (by decide)]; exact h.st
    marks := h.marks }

theorem Flat.readAux (fuel : Nat) : ∀ (s : State) (a len : Nat), Flat s → a + len ≤ dieSpan → (len = 0 ∨ len + a % 32 ≤ 32 * fuel) →
    (hbmReadAux fuel s a len).1 = memRead s.hbm.mem a len ∧ (hbmReadAux fuel s a len).2.1 = false ∧
    Flat (hbmReadAux fuel s a len).2.2 ∧ (hbmReadAux fuel s a len).2.2.hbm = s.hbm := by
  induction fuel with
  | zero =>
    intro s a len h _ hf
    have : len = 0 := by omega
    subst this
    exact ⟨rfl, rfl, h, rfl⟩
  | succ fuel ih =>
    intro s a len h ha hf
    by_cases hl : len = 0
    · subst hl
      simp only [hbmReadAux, if_true]
      exact ⟨rfl, trivial, h, trivial⟩
    · have hp : a < dieSpan := by omega
      have hb : readBurst s 0 (a / 2048) (a % 2048) (some a) = (s, false) := by simp only [readBurst, h.marks]; rfl
      have hk : placeKey 0 (a / 2048) (a % 2048) = a := by simp only [placeKey]; omega
      have ih := ih _ (a + min len (32 - a % 32)) (len - min len (32 - a % 32)) (h.counted (min len (32 - a % 32))) (by omega) (by omega)
      have e : len = min len (32 - a % 32) + (len - min len (32 - a % 32)) := by omega
      simp only [hbmReadAux, hl, if_false, h.place hp, hb, hk]
      refine ⟨?_, by rw [ih.2.1]; rfl, ih.2.2.1, by rw [ih.2.2.2, add64_hbm]⟩
      rw [ih.1, add64_hbm, memRead_append, ← e]

theorem Flat.read {s : State} (h : Flat s) {a len : Nat} (ha : a + len ≤ dieSpan) :
    hbmPeek s a len = memRead s.hbm.mem a len ∧ (hbmRead s a len).2.1 = false ∧ Flat (hbmRead s a len).2.2 ∧
    (hbmRead s a len).2.2.hbm = s.hbm := Flat.readAux _ s a len h ha (by omega)

theorem Flat.backed {s : State} (h : Flat s) {a len : Nat} (ha : a + len + 2048 ≤ dieSpan) : hbmBacked s a len = true := by
  simp only [hbmBacked, List.all_eq_true, List.mem_range]
  intro i hi
  rw [h.place (by omega)]
  rfl

/-- The bytes of the image but its CRC: one logical core on die 0 in MODE 0, one context, 18 units of 4 KiB. -/
def imgMem : Memory :=
  let put (o : Nat) (bs : List Byte) (m : Memory) : Memory := memWrite m o bs
  let sect (i off len : Nat) (m : Memory) : Memory := put (48 + 8 * i) (natToBytes 4 off ++ natToBytes 4 len) m
  sect 0 192 64 (sect 1 256 64 (sect 2 320 1024 (sect 4 1344 2048 (sect 5 3392 1280 (sect 6 4672 1024 (sect 7 5696 256 (sect 14 5952 65536
    (put 256 [1#8] (put 22 [1#8] (put 20 [1#8] (put 12 [18#8] (put 8 (natToBytes 4 0x10000)
      (put 0 (bts [0x5A, 0x4B, 0x53, 0x4A, 0x4F, 0x42, 0x30, 0x31]) [])))))))))))))

/-- Its CRC. -/
def imgCrc : Nat := crc32c (memRead imgMem 0 16 ++ zeros 4 ++ memRead imgMem 20 73708)

/-- The image. -/
def imgFull : Memory := memWrite imgMem 16 (natToBytes 4 imgCrc)

/-- Nothing is held, core 0 is ready, and die 0's domain has channel 0 alone. -/
def tReg : State :=
  { wr1 (up State.reset (pgSEQ 0)) pgSYS F.SYS_READY_DIE.DOMAIN 0 1 with hbm := { doms := [(0, { out := (List.range 127).map (· + 1) })] } }

/-- A JOB_START of an image of a length at address 0 waits in queue 0. -/
def tImage (m : Memory) (len : Nat) : State :=
  { tReg with host := { cmds := [{ q := 0, n := 0, bytes := 1 + len * 2 ^ 192 }] }, hbm := { tReg.hbm with mem := m } }

theorem rd2_congr {s t : State} (h : s.regs = t.regs) (pg : Nat) (f : Fld) (i j : Nat) : rd2 s pg f i j = rd2 t pg f i j := by
  unfold rd2 rdW; rw [h]
theorem rd_congr {s t : State} (h : s.regs = t.regs) (pg : Nat) (f : Fld) : rd s pg f = rd t pg f := rd2_congr h _ _ _ _
theorem rd1_congr {s t : State} (h : s.regs = t.regs) (pg : Nat) (f : Fld) (i : Nat) : rd1 s pg f i = rd1 t pg f i := rd2_congr h _ _ _ _
theorem rdB_congr {s t : State} (h : s.regs = t.regs) (pg : Nat) (f : Fld) : rdB s pg f = rdB t pg f := by unfold rdB; rw [rd_congr h]

theorem tImage_regs (m : Memory) (len : Nat) : (tImage m len).regs = tReg.regs := by dsimp only [tImage]
theorem tImage_doms (m : Memory) (len : Nat) : (tImage m len).hbm.doms = tReg.hbm.doms := by dsimp only [tImage]

theorem imgMem_wf : imgMem.wf = true := by decide +kernel
theorem imgFull_wf : imgFull.wf = true := memWrite_wf _ _ _ imgMem_wf

theorem imgFull_read {o n : Nat} (h : o + n ≤ 16 ∨ 20 ≤ o) : memRead imgFull o n = memRead imgMem o n :=
  memRead_congr _ _ _ _ (fun x h1 h2 => memByte_write_other _ _ _ _ imgMem_wf (by rw [natToBytes_length]; omega))

theorem imgFull_crc : memRead imgFull 16 4 = natToBytes 4 imgCrc := by
  have := memRead_write (natToBytes 4 imgCrc) imgMem 16 imgMem_wf
  rwa [natToBytes_length] at this

/-- What a header in memory says. -/
def headOf (m : Memory) : Image :=
  let f (o n : Nat) : Nat := bytesToNat (memRead m o n)
  { addr := 0, len := f 12 4, magic := f 0 8, version := f 8 4, crc := f 16 4, nl := f 20 2, nctx := f 22 1, flags := f 23 1,
    saveBase := f 24 6 % 2 ^ 42, fbAddr := f 32 6 % 2 ^ 42, fbLen := f 40 4, nmile := f 44 1,
    sect := (List.range 15).map (fun i => (f (48 + 8 * i) 4, f (52 + 8 * i) 4)) }

theorem byteField_memRead (m : Memory) (a k o n : Nat) (h : o + n ≤ k) :
    byteField (bytesToNat (memRead m a k)) o n = bytesToNat (memRead m (a + o) n) := by
  rw [byteField, natField_bytes _ _ _ (by rw [memRead_length]; exact h)]
  obtain ⟨r, rfl⟩ : ∃ r, k = o + (n + r) := ⟨k - o - n, by omega⟩
  rw [memRead_drop, memRead_take]

theorem natField_low (v l : Nat) : natField v l 42 = natField v l 48 % 2 ^ 42 := by
  simp only [natField]
  omega

theorem Flat.image {s : State} (h : Flat s) : readImage s 0 = headOf s.hbm.mem := by
  have e := (h.read (a := 0) (len := 168) (by decide)).1
  have b (o n : Nat) (hn : o + n ≤ 168) : byteField (bytesToNat (hbmPeek s 0 168)) o n = bytesToNat (memRead s.hbm.mem o n) := by
    rw [e, byteField_memRead _ _ _ _ _ hn, Nat.zero_add]
  have b42 (o : Nat) (hn : o + 6 ≤ 168) :
      natField (bytesToNat (hbmPeek s 0 168)) (8 * o) 42 = bytesToNat (memRead s.hbm.mem o 6) % 2 ^ 42 := by
    rw [natField_low]; exact congrArg (· % 2 ^ 42) (b o 6 hn)
  simp only [readImage, headOf, b42 24 (by decide), b42 32 (by decide), b 12 4 (by decide), b 0 8 (by decide), b 8 4 (by decide),
    b 16 4 (by decide), b 20 2 (by decide), b 22 1 (by decide), b 23 1 (by decide), b 40 4 (by decide), b 44 1 (by decide)]
  congr 1
  apply List.map_congr_left
  intro i hi
  rw [List.mem_range] at hi
  rw [b _ _ (by omega), b _ _ (by omega)]

/-- What the image's header says. -/
def imgHead (crc : Nat) : Image :=
  { addr := 0, len := 18, magic := 0x3130424F4A534B5A, version := 0x10000, crc := crc, nl := 1, nctx := 1, flags := 0, saveBase := 0,
    fbAddr := 0, fbLen := 0, nmile := 0,
    sect := [(192, 64), (256, 64), (320, 1024), (0, 0), (1344, 2048), (3392, 1280), (4672, 1024), (5696, 256), (0, 0), (0, 0), (0, 0),
      (0, 0), (0, 0), (0, 0), (5952, 65536)] }

theorem headOf_imgMem : headOf imgMem = imgHead 0 := by decide +kernel

theorem headOf_congr {m m' : Memory} (h : ∀ o n, o + n ≤ 16 ∨ 20 ≤ o → memRead m o n = memRead m' o n) :
    headOf m = { headOf m' with crc := bytesToNat (memRead m 16 4) } := by
  simp only [headOf]
  rw [h 12 4 (by decide), h 0 8 (by decide), h 8 4 (by decide), h 20 2 (by decide), h 22 1 (by decide), h 23 1 (by decide),
    h 24 6 (by decide), h 32 6 (by decide), h 40 4 (by decide), h 44 1 (by decide)]
  congr 1
  apply List.map_congr_left
  intro i hi
  rw [h _ _ (by omega), h _ _ (by omega)]

theorem headOf_imgFull : headOf imgFull = imgHead imgCrc := by
  have hlt : imgCrc % 256 ^ 4 = imgCrc := Nat.mod_eq_of_lt (crc32c_lt _)
  rw [headOf_congr (fun o n h => imgFull_read h), headOf_imgMem, imgFull_crc, bytesToNat_natToBytes, hlt]
  rfl

/-- A section's bytes where the image stands. -/
theorem Flat.sect {s : State} (h : Flat s) (hm : s.hbm.mem = imgFull) (c i off n : Nat)
    (hr : sectOff (imgHead c) i + off + n ≤ 73728) (h20 : 20 ≤ sectOff (imgHead c) i) :
    sectNat s (imgHead c) i off n = bytesToNat (memRead imgMem (sectOff (imgHead c) i + off) n) := by
  have hd : (73728 : Nat) ≤ dieSpan := by decide
  rw [sectNat, (h.read (by simp only [imgHead] at *; omega)).1, hm]
  have e : (imgHead c).addr + sectOff (imgHead c) i + off = sectOff (imgHead c) i + off := by simp only [imgHead]; omega
  rw [e, imgFull_read (by omega)]

/-- Every check of R341 accepts the image. -/
theorem Flat.accepts {s : State} (h : Flat s) (hm : s.hbm.mem = imgFull) (ob : Nat) : imageFault s (imgHead imgCrc) 18 ob = none := by
  have hl : lcoreEntry s (imgHead imgCrc) 0 = (0, 0, 0, 0) := by
    have e := h.sect hm imgCrc 0 (64 * 0) 6 (by simp [sectOff, imgHead]) (by simp [sectOff, imgHead])
    have z : bytesToNat (memRead imgMem (192 + 64 * 0) 6) = 0 := by decide +kernel
    have o : sectOff (imgHead imgCrc) 0 = 192 := rfl
    rw [o, z] at e
    simp only [lcoreEntry, e]
    decide
  have hx : ctxEntry s (imgHead imgCrc) 0 = 1 := by
    have e := h.sect hm imgCrc 1 (64 * 0) 2 (by simp [sectOff, imgHead]) (by simp [sectOff, imgHead])
    have z : bytesToNat (memRead imgMem (256 + 64 * 0) 2) = 1 := by decide +kernel
    have o : sectOff (imgHead imgCrc) 1 = 256 := rfl
    rw [o, z] at e
    simp only [ctxEntry, e]
  have hb : hbmBacked s 0 73728 = true := h.backed (by decide)
  have c1 : imageCheck s (imgHead imgCrc) 18 ob 1 = true := by simp only [imageCheck, imgHead]; decide +kernel
  have c2 : imageCheck s (imgHead imgCrc) 18 ob 2 = true := by
    simp only [imageCheck, imgHead]
    rw [show 4096 * 18 = 73728 from rfl, hb]
    decide
  have c3 : imageCheck s (imgHead imgCrc) 18 ob 3 = true := by
    have e : hbmPeek s 0 73728 = memRead imgFull 0 73728 := by rw [(h.read (by decide)).1, hm]
    have t : (memRead imgFull 0 73728).take 16 = memRead imgMem 0 16 := by
      rw [show 73728 = 16 + 73712 from rfl, memRead_take, imgFull_read (by decide)]
    have d : (memRead imgFull 0 73728).drop 20 = memRead imgMem 20 73708 := by
      rw [show 73728 = 20 + 73708 from rfl, memRead_drop, Nat.zero_add, imgFull_read (by decide)]
    have g : (imgHead imgCrc).addr = 0 := rfl
    have g2 : (imgHead imgCrc).crc = imgCrc := rfl
    simp only [imageCheck, g, g2]
    rw [show 4096 * 18 = 73728 from rfl, e, t, d]
    exact beq_self_eq_true _
  have c4 : imageCheck s (imgHead imgCrc) 18 ob 4 = true := by
    have g : (imgHead imgCrc).nl = 1 := rfl
    have g2 : (imgHead imgCrc).nctx = 1 := rfl
    have g3 : (imgHead imgCrc).nmile = 0 := rfl
    simp only [imageCheck, g, g2, g3, show List.range 1 = [0] from rfl, List.all_cons, List.all_nil, List.filter, hl]
    decide
  have c5 : imageCheck s (imgHead imgCrc) 18 ob 5 = true := by
    simp only [imageCheck, sectOff, sectLen, fixedSects, imgHead]
    decide +kernel
  have c6 : imageCheck s (imgHead imgCrc) 18 ob 6 = true := by
    have g : (imgHead imgCrc).nl = 1 := rfl
    have g2 : (imgHead imgCrc).nctx = 1 := rfl
    simp only [imageCheck, g, g2, show List.range 1 = [0] from rfl, List.all_cons, List.all_nil, hl, show partCount 0 = 1 from rfl,
      show natField 0 (4 * 0) 4 = 0 from rfl, hx]
    decide
  have hg : imageGrants s (imgHead imgCrc) = [] := by
    have g2 : (imgHead imgCrc).nctx = 1 := rfl
    simp only [imageGrants, g2, show List.range 1 = [0] from rfl, List.flatMap_cons, List.flatMap_nil, hx]
    rfl
  have c7 : imageCheck s (imgHead imgCrc) 18 ob 7 = true := by simp only [imageCheck, hg, List.all_nil]
  have c8 : imageCheck s (imgHead imgCrc) 18 ob 8 = true := by simp only [imageCheck, imgHead]; rfl
  have hp : planFree s (imgHead imgCrc) ob = true := by
    have l9 : sectLen (imgHead imgCrc) 9 = 0 := rfl
    have l10 : sectLen (imgHead imgCrc) 10 = 0 := rfl
    simp only [planFree, sectRecords, l9, l10, Nat.zero_div, List.range_zero, List.map_nil, List.all_nil, Bool.and_self]
  have hf : (imgHead imgCrc).fbAddr = 0 := rfl
  simp only [imageFault, List.find?, c1, c2, c3, c4, c5, c6, c7, c8, hp, hf, Bool.not_true, ne_eq, not_true_eq_false, false_and,
    Bool.false_eq_true, if_false]

theorem tReg_flat : Flat tReg where
  wf := by decide +kernel
  str := by decide +kernel
  base := by decide +kernel
  live := by decide +kernel
  cap := by decide +kernel
  st := by decide +kernel
  marks := by decide +kernel

theorem tImage_flat (m : Memory) (len : Nat) : Flat (tImage m len) := by
  have r := tImage_regs m len
  have d := tImage_doms m len
  have f := tReg_flat
  have hs : striped (tImage m len) = striped tReg := rdB_congr r _ _
  refine ⟨by rw [r]; exact f.wf, hs.trans f.str, ?_, ?_, (rd_congr r _ _).trans f.cap, (rd_congr r _ _).trans f.st, ?_⟩
  · rw [← f.base]; simp only [baseList, hs, getDom, d]
  · rw [← f.live]; simp only [getDom, d]
  · exact f.marks

theorem tImage_inv {m : Memory} (h : m.wf = true) (len : Nat) : (tImage m len).Inv := by
  have i : tReg.Inv := inv_of_invOk (by decide +kernel)
  exact ⟨i.regs, i.cores, i.spads, i.jobs, i.saved, i.dieCyc, i.grants, h, i.events, i.buf⟩

/-- A JOB_START of the image: every premise of the clause in which it starts. -/
theorem wit_jobStarts :
    let s := tImage imgFull 18
    let c : Cmd := { q := 0, n := 0, bytes := 1 + 18 * 2 ^ 192 }
    let im := readImage s (arg c 8 8)
    let image := hbmRead s (arg c 8 8) (4096 * arg c 24 4)
    s.Inv ∧ cmdOf s 0 0 1 = some c ∧ arg c 8 8 = 0 ∧ arg c 24 4 = 18 ∧ s.psp.zero.isSome = false ∧
    rd s pgSEC F.SEC_DEBUG.LEVEL ≠ 3 ∧ rd s pgSYS F.SYS_REMOVE.PHASE < 2 ∧ jobState s 0 = 0 ∧ jobState s 1 = 0 ∧
    rd1 s pgJOB F.JOB_CURFEW_CTRL.FB_PEND 0 = 0 ∧ rd1 s pgJOB F.JOB_CURFEW_CTRL.FB_PEND 1 = 0 ∧ bankCores s 0 = [] ∧
    (∀ m, (core s m).parked = false) ∧ jobWaits s 0 = false ∧ imageCheck s im 18 1 2 = true ∧ image.2.1 = false ∧
    imageFault image.2.2 im 18 1 = none := by
  have f := tImage_flat imgFull 18
  have hi : readImage (tImage imgFull 18) 0 = imgHead imgCrc := f.image.trans headOf_imgFull
  have hc : arg { q := 0, n := 0, bytes := 1 + 18 * 2 ^ 192 } 8 8 = 0 := by decide
  have hn : arg { q := 0, n := 0, bytes := 1 + 18 * 2 ^ 192 } 24 4 = 18 := by decide
  have r := f.read (a := 0) (len := 4096 * 18) (by decide)
  have hl : lcoreEntry (tImage imgFull 18) (imgHead imgCrc) 0 = (0, 0, 0, 0) := by
    have e := f.sect rfl imgCrc 0 (64 * 0) 6 (by simp [sectOff, imgHead]) (by simp [sectOff, imgHead])
    have z : bytesToNat (memRead imgMem (192 + 64 * 0) 6) = 0 := by decide +kernel
    have o : sectOff (imgHead imgCrc) 0 = 192 := rfl
    rw [o, z] at e
    simp only [lcoreEntry, e]
    decide
  have g := tImage_regs imgFull 18
  refine ⟨tImage_inv imgFull_wf 18, rfl, hc, hn, ?_, ?_, ?_, ?_, ?_, ?_, ?_, ?_, ?_, ?_, ?_, ?_, ?_⟩
  · exact (by decide +kernel : tReg.psp.zero.isSome = false)
  · rw [rd_congr g]; decide +kernel
  · rw [rd_congr g]; decide +kernel
  · rw [jobState, rd1_congr g]; decide +kernel
  · rw [jobState, rd1_congr g]; decide +kernel
  · rw [rd1_congr g]; decide +kernel
  · rw [rd1_congr g]; decide +kernel
  · exact (by decide +kernel : bankCores tReg 0 = [])
  · have hk : tReg.cores = [] := by decide +kernel
    intro m
    have e : core (tImage imgFull 18) m = core tReg m := rfl
    rw [e, core, hk]
    rfl
  · have hx : ctxEntry (tImage imgFull 18) (imgHead imgCrc) 0 = 1 := by
      have e := f.sect rfl imgCrc 1 (64 * 0) 2 (by simp [sectOff, imgHead]) (by simp [sectOff, imgHead])
      have z : bytesToNat (memRead imgMem (256 + 64 * 0) 2) = 1 := by decide +kernel
      have o : sectOff (imgHead imgCrc) 1 = 256 := rfl
      rw [o, z] at e
      simp only [ctxEntry, e]
    have hg : imageGrants (tImage imgFull 18) (imgHead imgCrc) = [] := by
      have g2 : (imgHead imgCrc).nctx = 1 := rfl
      simp only [imageGrants, g2, show List.range 1 = [0] from rfl, List.flatMap_cons, List.flatMap_nil, hx]
      rfl
    have hw : (!addrReady tReg 0 || tReg.psp.pendZero.isSome || (domList tReg).any (fun d =>
        rdB tReg (domPage d) F.HBM_MAP_CTRL.BUSY || (!anyJob tReg && domPending tReg d))) = false := by decide +kernel
    have hr : (readyCores tReg 0).isEmpty = false := by decide +kernel
    have e1 : (tImage imgFull 18).psp = tReg.psp := by dsimp only [tImage]
    have ew : (!addrReady (tImage imgFull 18) 0 || (tImage imgFull 18).psp.pendZero.isSome || (domList (tImage imgFull 18)).any (fun d =>
        rdB (tImage imgFull 18) (domPage d) F.HBM_MAP_CTRL.BUSY || (!anyJob (tImage imgFull 18) && domPending (tImage imgFull 18) d))) = false := by
      simp only [addrReady, domReady, domList, striped, anyJob, domPending, chState, rdB_congr g, rd_congr g, rd1_congr g, e1] at hw ⊢
      exact hw
    have er : (readyCores (tImage imgFull 18) 0).isEmpty = false := by
      simp only [readyCores, coreHealthy, coreRole, blkReady, blkState, rd1_congr g, rd_congr g] at hr ⊢
      exact hr
    simp only [jobWaits, ew, hi, hg, Bool.false_eq_true, if_false, List.any_nil, Bool.false_or]
    simp only [show List.range (min (imgHead imgCrc).nl 240) = [0] from rfl, List.any_cons, List.any_nil, hl, Nat.zero_mod, er, Bool.or_false]
  · rw [hc, hi]
    simp only [imageCheck, imgHead]
    rw [show 4096 * 18 = 73728 from rfl, f.backed (by decide)]
    decide
  · rw [hc, hn]
    exact r.2.1
  · rw [hc, hn, hi]
    exact r.2.2.1.accepts (by rw [r.2.2.2]; rfl) 1

/-- A JOB_START of an image that fails check 1: its magic is missing. -/
theorem wit_jobStartRefused :
    let s := tImage [(12, 1#8)] 1
    let im := readImage s 0
    let image := hbmRead s 0 4096
    s.Inv ∧ imageCheck s im 1 1 2 = true ∧ image.2.1 = false ∧ imageFault image.2.2 im 1 1 = some 1 := by
  have f := tImage_flat [(12, 1#8)] 1
  have hi : readImage (tImage [(12, 1#8)] 1) 0 = headOf [(12, 1#8)] := f.image
  have r := f.read (a := 0) (len := 4096) (by decide)
  refine ⟨tImage_inv (by decide) 1, ?_, r.2.1, ?_⟩
  · have g : (headOf [(12, 1#8)]).len = 1 := by decide +kernel
    have g2 : (headOf [(12, 1#8)]).addr = 0 := rfl
    simp only [hi, imageCheck, g, g2]
    rw [f.backed (by decide)]
    decide
  · have c1 : ∀ t, imageCheck t (headOf [(12, 1#8)]) 1 1 1 = false := by
      intro t
      have g : (headOf [(12, 1#8)]).magic = 0 := by decide +kernel
      simp only [imageCheck, g]
      decide
    simp only [hi, imageFault, List.find?, c1, Bool.not_false]

end Sys2Proof.Machine.Tests
end

/-!
SUPPORT and settled statements: the interrupt summaries and the two pins of the SYS page (R496, R497).
A summary word is a sum of bits at distinct places; the first section says which bits such a sum has and when it is zero,
the next say what the SYS page reads as, and then each summary is tied to the pages that it stands for.
-/
namespace Sys2Proof.Machine.SysPage

/-! ## Sums of bits at distinct places -/

@[simp] theorem bit_ne_zero_iff (b : Bool) : bit b ≠ 0 ↔ b = true := by cases b <;> decide

theorem bit_lt_two (b : Bool) : bit b < 2 := by cases b <;> decide

@[simp] theorem bit_testBit_zero (b : Bool) : (bit b).testBit 0 = b := by cases b <;> rfl

@[simp] theorem bitSum_zero (p : Nat → Bool) : bitSum 0 p = 0 := rfl

/-- A field added above the bits that are in use takes its own place and leaves theirs. -/
theorem testBit_add_shiftLeft {a n : Nat} (h : a < 2 ^ n) (b i : Nat) :
    (a + b <<< n).testBit i = if i < n then a.testBit i else b.testBit (i - n) := by
  rw [Nat.shiftLeft_eq, Nat.add_comm, Nat.mul_comm, Nat.testBit_two_pow_mul_add b h]

theorem add_shiftLeft_lt {a b n w m : Nat} (ha : a < 2 ^ n) (hb : b < 2 ^ w) (hm : n + w ≤ m) : a + b <<< n < 2 ^ m := by
  have hbn : 2 ^ n * (b + 1) ≤ 2 ^ n * 2 ^ w := Nat.mul_le_mul_left _ hb
  have hnm : 2 ^ n * 2 ^ w ≤ 2 ^ m := by
    rw [← Nat.pow_add]
    exact Nat.pow_le_pow_right Nat.two_pos hm
  rw [Nat.shiftLeft_eq]
  lia

theorem add_bit_shiftLeft_lt {a n m : Nat} (b : Bool) (ha : a < 2 ^ n) (hm : n + 1 ≤ m) : a + bit b <<< n < 2 ^ m :=
  add_shiftLeft_lt ha (bit_lt_two b) hm

theorem bitSum_succ (n : Nat) (p : Nat → Bool) : bitSum (n + 1) p = bitSum n p + bit (p n) <<< n := by
  simp only [bitSum, List.range_succ, List.map_append, List.foldl_append, List.map_cons, List.map_nil, List.foldl_cons,
    List.foldl_nil]

theorem bitSum_congr {n : Nat} {p q : Nat → Bool} (h : ∀ i < n, p i = q i) : bitSum n p = bitSum n q := by
  induction n with
  | zero => rw [bitSum_zero, bitSum_zero]
  | succ n ih => rw [bitSum_succ, bitSum_succ, h n (Nat.lt_succ_self n), ih fun i hi => h i (Nat.lt_succ_of_lt hi)]

theorem bitSum_add (m n : Nat) (p : Nat → Bool) :
    bitSum (m + n) p = bitSum m p + bitSum n (fun i => p (m + i)) <<< m := by
  induction n with
  | zero => rw [bitSum_zero, Nat.zero_shiftLeft, Nat.add_zero, Nat.add_zero]
  | succ n ih =>
    rw [← Nat.add_assoc, bitSum_succ, bitSum_succ, ih, Nat.shiftLeft_eq, Nat.shiftLeft_eq, Nat.shiftLeft_eq, Nat.shiftLeft_eq,
      Nat.add_mul, Nat.pow_add, Nat.mul_assoc, Nat.mul_comm (2 ^ n), Nat.add_assoc]

theorem bitSum_lt (n : Nat) (p : Nat → Bool) : bitSum n p < 2 ^ n := by
  induction n with
  | zero => exact Nat.two_pow_pos 0
  | succ n ih =>
    rw [bitSum_succ]
    exact add_bit_shiftLeft_lt _ ih (Nat.le_refl _)

theorem bitSum_testBit (n : Nat) (p : Nat → Bool) (i : Nat) : (bitSum n p).testBit i = (decide (i < n) && p i) := by
  induction n with
  | zero => rw [bitSum_zero, Nat.zero_testBit, decide_eq_false (Nat.not_lt_zero i), Bool.false_and]
  | succ n ih =>
    rw [bitSum_succ, testBit_add_shiftLeft (bitSum_lt n p), ih]
    rcases Nat.lt_trichotomy i n with hi | rfl | hi
    · rw [if_pos hi, decide_eq_true hi, decide_eq_true (Nat.lt_succ_of_lt hi)]
    · rw [if_neg (Nat.lt_irrefl i), Nat.sub_self, bit_testBit_zero, decide_eq_true (Nat.lt_succ_self i), Bool.true_and]
    · have hpow : 2 ^ 1 ≤ 2 ^ (i - n) := Nat.pow_le_pow_right Nat.two_pos (by omega)
      have hbit : (bit (p n)).testBit (i - n) = false := Nat.testBit_lt_two_pow (Nat.lt_of_lt_of_le (bit_lt_two _) hpow)
      rw [if_neg (by omega), hbit, decide_eq_false (by omega), Bool.false_and]

theorem bitSum_ne_zero_iff (n : Nat) (p : Nat → Bool) : bitSum n p ≠ 0 ↔ ∃ i < n, p i = true := by
  constructor
  · intro h
    obtain ⟨i, hi⟩ := Nat.exists_testBit_of_ne_zero h
    rw [bitSum_testBit, Bool.and_eq_true, decide_eq_true_eq] at hi
    exact ⟨i, hi⟩
  · rintro ⟨i, hi, hp⟩ hzero
    have hbit : (bitSum n p).testBit i = true := by rw [bitSum_testBit, decide_eq_true hi, hp, Bool.true_and]
    rw [hzero, Nat.zero_testBit] at hbit
    exact Bool.false_ne_true hbit

/-- A sum of fields at places of their own is zero only when each of them is. -/
theorem add_shiftLeft_ne_zero_iff (a b n : Nat) : a + b <<< n ≠ 0 ↔ a ≠ 0 ∨ b ≠ 0 := by
  rw [Ne, Nat.add_eq_zero_iff, Nat.shiftLeft_eq_zero_iff]
  omega

/-- `m` words of 32 bits have a bit set exactly when one of their `32 * m` sources is. -/
theorem exists_word_ne_zero_iff (m base : Nat) (p : Nat → Bool) :
    (∃ k < m, bitSum 32 (fun i => p (32 * (m * base + k) + i)) ≠ 0) ↔ ∃ n < 32 * m, p (32 * m * base + n) = true := by
  simp only [bitSum_ne_zero_iff]
  have place (k i : Nat) : 32 * (m * base + k) + i = 32 * m * base + (32 * k + i) := by
    rw [Nat.mul_add, Nat.mul_assoc, Nat.add_assoc]
  constructor
  · rintro ⟨k, hk, i, hi, h⟩
    exact ⟨32 * k + i, by omega, place k i ▸ h⟩
  · rintro ⟨n, hn, h⟩
    exact ⟨n / 32, by omega, n % 32, by omega, by rwa [place, Nat.div_add_mod]⟩

/-! ## The pages of the index (R479) -/

/-- The pages of die `d`: its Steward, network, bridge, stacks, channels and cores. -/
def IsDiePage (d p : Nat) : Prop :=
  p = pgSTEWARD d ∨ p = pgNOC d ∨ p = pgBRIDGE d ∨ (∃ j < 8, p = pgSTK (8 * d + j)) ∨ (∃ k < 128, p = pgCH (128 * d + k)) ∨
    ∃ n < 64, ∃ k < 8, p = pgCore (64 * d + n) k

/-- The page index by its ranges: the hub, the ports, three pages of each die, the cores with the stacks, the channels. -/
theorem pageBlk_ne_none_iff (p : Nat) : pageBlk p ≠ none ↔ p < 15 ∨ (0x10 ≤ p ∧ p < 0x20) ∨
    (0x40 ≤ p ∧ p < 0x80 ∧ p % 0x10 < 3) ∨ (0x800 ≤ p ∧ p < 0x1020) ∨ (0x1200 ≤ p ∧ p < 0x1400) := by
  fun_cases pageBlk p
  all_goals simp only [ne_eq, reduceCtorEq, not_false_eq_true, not_true_eq_false, true_iff, false_iff]
  all_goals lia

theorem mem_hubPages_iff (p : Nat) : p ∈ hubPages ↔ p < 15 ∨ (0x10 ≤ p ∧ p < 0x20) := by
  simp only [hubPages, pgPORT, List.mem_append, List.mem_cons, List.mem_map, List.mem_range, List.not_mem_nil, or_false]
  constructor
  · rintro ((h | ⟨a, ha, rfl⟩) | h) <;> omega
  · rintro (h | ⟨hl, hu⟩)
    · omega
    · exact .inl <| .inr ⟨p - 0x10, by omega, by omega⟩

theorem exists_isDiePage_iff (p : Nat) : (∃ d < 4, IsDiePage d p) ↔
    (0x40 ≤ p ∧ p < 0x80 ∧ p % 0x10 < 3) ∨ (0x800 ≤ p ∧ p < 0x1020) ∨ (0x1200 ≤ p ∧ p < 0x1400) := by
  simp only [IsDiePage, pgSTEWARD, pgNOC, pgBRIDGE, pgSTK, pgCH, pgCore]
  constructor
  · rintro ⟨d, hd, rfl | rfl | rfl | ⟨j, hj, rfl⟩ | ⟨k, hk, rfl⟩ | ⟨n, hn, k, hk, rfl⟩⟩ <;> omega
  · rintro (⟨hl, hu, hm⟩ | h | h)
    · exact ⟨p / 16 - 4, by omega, by omega⟩
    · by_cases hc : p < 0x1000
      · refine ⟨(p - 0x800) / 512, by omega, .inr <| .inr <| .inr <| .inr <| .inr ?_⟩
        exact ⟨(p - 0x800) / 8 % 64, by omega, p % 8, by omega, by omega⟩
      · exact ⟨(p - 0x1000) / 8, by omega, .inr <| .inr <| .inr <| .inl ⟨p % 8, by omega, by omega⟩⟩
    · exact ⟨(p - 0x1200) / 128, by omega, .inr <| .inr <| .inr <| .inr <| .inl ⟨p % 128, by omega, by omega⟩⟩

theorem hubPages_getD {i : Nat} (hi : i < hubPages.length) : hubPages.getD i 0 = hubPages[i] := by
  rw [List.getD_eq_getElem?_getD, List.getElem?_eq_getElem hi, Option.getD_some]

/-- The pages of the index are those of the hub and those of the four dies. -/
theorem pageBlk_ne_none_iff_hub_or_die (p : Nat) : pageBlk p ≠ none ↔ p ∈ hubPages ∨ ∃ d < 4, IsDiePage d p := by
  rw [pageBlk_ne_none_iff, mem_hubPages_iff, exists_isDiePage_iff, or_assoc]

theorem lt_of_pageBlk_ne_none {p : Nat} (h : pageBlk p ≠ none) : p < 16384 := by
  rw [pageBlk_ne_none_iff] at h
  omega

/-! ## The summaries and their sources (R496) -/

section
variable (s : State)

@[simp] theorem coreInt_iff (n : Nat) : coreInt s n = true ↔ ∃ k < 8, intStatus s (pgCore n k) ≠ 0 := by
  simp only [coreInt, List.any_eq_true, List.mem_range, bne_iff_ne]

theorem intHub_lt : intHub s < 2 ^ 31 := by
  rw [intHub, hubBits]
  exact bitSum_lt 31 _

theorem intHub_testBit {i : Nat} (hi : i < 31) : (intHub s).testBit i = true ↔ intStatus s (hubPages.getD i 0) ≠ 0 := by
  rw [intHub, hubBits, bitSum_testBit, decide_eq_true hi, Bool.true_and, bne_iff_ne]

theorem intHub_ne_zero_iff : intHub s ≠ 0 ↔ ∃ p ∈ hubPages, intStatus s p ≠ 0 := by
  simp only [intHub, hubBits, bitSum_ne_zero_iff, bne_iff_ne]
  constructor
  · rintro ⟨i, hi, h⟩
    refine ⟨hubPages.getD i 0, ?_, h⟩
    rw [hubPages_getD hi]
    exact List.getElem_mem _
  · rintro ⟨p, hp, h⟩
    obtain ⟨i, hi, rfl⟩ := List.getElem_of_mem hp
    exact ⟨i, hi, by rwa [hubPages_getD hi]⟩

theorem intCore_testBit {n : Nat} :
    (intCore s (n / 32)).testBit (n % 32) = true ↔ ∃ k < 8, intStatus s (pgCore n k) ≠ 0 := by
  rw [intCore, bitSum_testBit, decide_eq_true (by omega), Bool.true_and, Nat.div_add_mod, coreInt_iff]

theorem intCh_testBit {n : Nat} : (intCh s (n / 32)).testBit (n % 32) = true ↔ intStatus s (pgCH n) ≠ 0 := by
  rw [intCh, bitSum_testBit, decide_eq_true (by omega), Bool.true_and, Nat.div_add_mod, bne_iff_ne]

/-- The channel words of a die. -/
theorem dieCh_iff (d : Nat) : ((List.range 4).any (fun k => intCh s (4 * d + k) != 0)) = true ↔
    ∃ k < 128, intStatus s (pgCH (128 * d + k)) ≠ 0 := by
  have h := exists_word_ne_zero_iff 4 d (fun n => intStatus s (pgCH n) != 0)
  simp only [bne_iff_ne] at h
  simp only [List.any_eq_true, List.mem_range, bne_iff_ne]
  exact h

/-- The core words of a die. -/
theorem dieCore_iff (d : Nat) : ((List.range 2).any (fun k => intCore s (2 * d + k) != 0)) = true ↔
    ∃ n < 64, ∃ k < 8, intStatus s (pgCore (64 * d + n) k) ≠ 0 := by
  have h := exists_word_ne_zero_iff 2 d (coreInt s)
  simp only [coreInt_iff] at h
  simp only [List.any_eq_true, List.mem_range, bne_iff_ne]
  exact h

theorem intDie_ne_zero_iff (d : Nat) : intDie s d ≠ 0 ↔ ∃ p, IsDiePage d p ∧ intStatus s p ≠ 0 := by
  simp only [intDie, add_shiftLeft_ne_zero_iff, bit_ne_zero_iff, bitSum_ne_zero_iff, bne_iff_ne, dieCh_iff, dieCore_iff,
    IsDiePage]
  constructor
  · rintro (((((h | h) | h) | ⟨j, hj, h⟩) | ⟨k, hk, h⟩) | ⟨n, hn, k, hk, h⟩)
    · exact ⟨_, .inl rfl, h⟩
    · exact ⟨_, .inr <| .inl rfl, h⟩
    · exact ⟨_, .inr <| .inr <| .inl rfl, h⟩
    · exact ⟨_, .inr <| .inr <| .inr <| .inl ⟨j, hj, rfl⟩, h⟩
    · exact ⟨_, .inr <| .inr <| .inr <| .inr <| .inl ⟨k, hk, rfl⟩, h⟩
    · exact ⟨_, .inr <| .inr <| .inr <| .inr <| .inr ⟨n, hn, k, hk, rfl⟩, h⟩
  · rintro ⟨p, rfl | rfl | rfl | ⟨j, hj, rfl⟩ | ⟨k, hk, rfl⟩ | ⟨n, hn, k, hk, rfl⟩, h⟩
    · exact .inl <| .inl <| .inl <| .inl <| .inl h
    · exact .inl <| .inl <| .inl <| .inl <| .inr h
    · exact .inl <| .inl <| .inl <| .inr h
    · exact .inl <| .inl <| .inr ⟨j, hj, h⟩
    · exact .inl <| .inr ⟨k, hk, h⟩
    · exact .inr ⟨n, hn, k, hk, h⟩

/-- The source of each bit of SYS_INT_DIE[d]. -/
def dieSource (d i : Nat) : Bool :=
  if i = 0 then intStatus s (pgSTEWARD d) != 0
  else if i = 1 then intStatus s (pgNOC d) != 0
  else if i = 2 then intStatus s (pgBRIDGE d) != 0
  else if i < 11 then intStatus s (pgSTK (8 * d + (i - 3))) != 0
  else if i = 11 then (List.range 4).any (fun k => intCh s (4 * d + k) != 0)
  else (List.range 2).any (fun k => intCore s (2 * d + k) != 0)

theorem dieSource_stack {d j : Nat} (hj : j < 8) : dieSource s d (3 + j) = (intStatus s (pgSTK (8 * d + j)) != 0) := by
  rw [dieSource, if_neg (by omega), if_neg (by omega), if_neg (by omega), if_pos (by omega), Nat.add_sub_cancel_left]

theorem intDie_eq_bitSum (d : Nat) : intDie s d = bitSum 13 (dieSource s d) := by
  have h0 : dieSource s d 0 = (intStatus s (pgSTEWARD d) != 0) := rfl
  have h1 : dieSource s d 1 = (intStatus s (pgNOC d) != 0) := rfl
  have h2 : dieSource s d 2 = (intStatus s (pgBRIDGE d) != 0) := rfl
  have h11 : dieSource s d 11 = (List.range 4).any (fun k => intCh s (4 * d + k) != 0) := rfl
  have h12 : dieSource s d 12 = (List.range 2).any (fun k => intCore s (2 * d + k) != 0) := rfl
  have hstacks : bitSum 11 (dieSource s d) = _ := bitSum_add 3 8 (dieSource s d)
  rw [bitSum_congr fun j hj => dieSource_stack s hj] at hstacks
  rw [bitSum_succ 12, bitSum_succ 11, hstacks, bitSum_succ 2, bitSum_succ 1, bitSum_succ 0, bitSum_zero, Nat.zero_add,
    Nat.shiftLeft_zero, h0, h1, h2, h11, h12, intDie]

theorem intDie_lt (d : Nat) : intDie s d < 2 ^ 13 := intDie_eq_bitSum s d ▸ bitSum_lt 13 _

theorem intDie_testBit {d i : Nat} (hi : i < 13) : (intDie s d).testBit i = dieSource s d i := by
  rw [intDie_eq_bitSum, bitSum_testBit, decide_eq_true hi, Bool.true_and]

/-- The bits HUB and DIE of SYS_INT_SUMMARY, without ANY. -/
theorem summaryLow_lt : bit (intHub s != 0) + (bitSum 4 (fun d => intDie s d != 0)) <<< 1 < 2 ^ 5 :=
  add_shiftLeft_lt (n := 1) (bit_lt_two _) (bitSum_lt 4 _) (Nat.le_refl _)

theorem intSummary_lt : intSummary s < 2 ^ 6 := add_bit_shiftLeft_lt _ (summaryLow_lt s) (Nat.le_refl _)

theorem intSummary_testBit_low {i : Nat} (hi : i < 5) :
    (intSummary s).testBit i = if i < 1 then intHub s != 0 else intDie s (i - 1) != 0 := by
  rw [intSummary, testBit_add_shiftLeft (summaryLow_lt s), if_pos hi,
    testBit_add_shiftLeft (n := 1) (bit_lt_two _), bitSum_testBit]
  split
  case isTrue h => rw [Nat.lt_one_iff.mp h, bit_testBit_zero]
  case isFalse h => rw [decide_eq_true (by omega), Bool.true_and]

theorem intSummary_any : (intSummary s).testBit 5 = true ↔ intHub s ≠ 0 ∨ ∃ d < 4, intDie s d ≠ 0 := by
  rw [intSummary, testBit_add_shiftLeft (summaryLow_lt s), if_neg (Nat.lt_irrefl 5), Nat.sub_self, bit_testBit_zero, bne_iff_ne,
    add_shiftLeft_ne_zero_iff, bit_ne_zero_iff, bne_iff_ne, bitSum_ne_zero_iff]
  simp only [bne_iff_ne]

/-- ANY stands for every page of the index. -/
theorem intSummary_any_iff_page :
    (intSummary s).testBit 5 = true ↔ ∃ p < 16384, pageBlk p ≠ none ∧ intStatus s p ≠ 0 := by
  simp only [intSummary_any, intHub_ne_zero_iff, intDie_ne_zero_iff]
  constructor
  · rintro (⟨p, hp, h⟩ | ⟨d, hd, p, hp, h⟩)
    · have hb := (pageBlk_ne_none_iff_hub_or_die p).mpr (.inl hp)
      exact ⟨p, lt_of_pageBlk_ne_none hb, hb, h⟩
    · have hb := (pageBlk_ne_none_iff_hub_or_die p).mpr (.inr ⟨d, hd, hp⟩)
      exact ⟨p, lt_of_pageBlk_ne_none hb, hb, h⟩
  · rintro ⟨p, -, hb, h⟩
    rcases (pageBlk_ne_none_iff_hub_or_die p).mp hb with hp | ⟨d, hd, hp⟩
    · exact .inl ⟨p, hp, h⟩
    · exact .inr ⟨d, hd, p, hp, h⟩

theorem intSummary_ne_zero_iff : intSummary s ≠ 0 ↔ (intSummary s).testBit 5 = true := by
  rw [intSummary_any, intSummary, add_shiftLeft_ne_zero_iff, bit_ne_zero_iff, bne_iff_ne, add_shiftLeft_ne_zero_iff,
    bit_ne_zero_iff, bne_iff_ne, bitSum_ne_zero_iff, or_self]
  simp only [bne_iff_ne]

/-! ## The SYS page as read (R443, R498) -/

theorem sysView_intDie {s : State} {off w : Nat} (hl : 0x218 ≤ off) (hu : off < 0x228) :
    sysView s off w = intDie s ((off - 0x218) / 4) := by
  fun_cases sysView s off w
  case case13 => rw [if_neg (by omega), if_neg (by omega), if_pos (by omega)]
  all_goals omega

theorem sysView_intCore {s : State} {off w : Nat} (hl : 0x228 ≤ off) (hu : off < 0x248) :
    sysView s off w = intCore s ((off - 0x228) / 4) := by
  fun_cases sysView s off w
  case case14 => rw [if_neg (by omega), if_neg (by omega), if_neg (by omega), if_pos (by omega)]
  all_goals omega

theorem sysView_intCh {s : State} {off w : Nat} (hl : 0x248 ≤ off) (hu : off < 0x288) :
    sysView s off w = intCh s ((off - 0x248) / 4) := by
  fun_cases sysView s off w
  case case15 => rw [if_neg (by omega), if_neg (by omega), if_neg (by omega), if_neg (by omega), if_pos (by omega)]
  all_goals omega

section
variable {s} (hopen : pageClosed s pgSYS = false)
include hopen

theorem regView_sys {off : Nat} (hoff : 0x100 ≤ off) : regView s pgSYS off = sysView s off (rdW s pgSYS off) % 2 ^ 32 := by
  have hblk : pageBlk pgSYS = some (.sys, 0) := rfl
  simp only [regView, hblk, if_neg (Nat.not_lt.mpr hoff), hopen, Bool.false_eq_true, if_false, blockView]

theorem regView_sysIntSummary : regView s pgSYS 0x210 = intSummary s := by
  have hview : ∀ w, sysView s 0x210 w = intSummary s := fun _ => rfl
  rw [regView_sys hopen (by decide), hview]
  exact Nat.mod_eq_of_lt (Nat.lt_trans (intSummary_lt s) (by decide))

theorem regView_sysIntHub : regView s pgSYS 0x214 = intHub s := by
  have hview : ∀ w, sysView s 0x214 w = intHub s := fun _ => rfl
  rw [regView_sys hopen (by decide), hview]
  exact Nat.mod_eq_of_lt (Nat.lt_trans (intHub_lt s) (by decide))

theorem regView_sysIntDie {d : Nat} (hd : d < 4) : regView s pgSYS (0x218 + 4 * d) = intDie s d := by
  rw [regView_sys hopen (by omega), sysView_intDie (by omega) (by omega), Nat.add_sub_cancel_left,
    Nat.mul_div_cancel_left _ (by decide)]
  exact Nat.mod_eq_of_lt (Nat.lt_trans (intDie_lt s d) (by decide))

theorem regView_sysIntCore {w : Nat} (hw : w < 8) : regView s pgSYS (0x228 + 4 * w) = intCore s w := by
  rw [regView_sys hopen (by omega), sysView_intCore (by omega) (by omega), Nat.add_sub_cancel_left,
    Nat.mul_div_cancel_left _ (by decide)]
  exact Nat.mod_eq_of_lt (bitSum_lt 32 _)

theorem regView_sysIntCh {w : Nat} (hw : w < 16) : regView s pgSYS (0x248 + 4 * w) = intCh s w := by
  rw [regView_sys hopen (by omega), sysView_intCh (by omega) (by omega), Nat.add_sub_cancel_left,
    Nat.mul_div_cancel_left _ (by decide)]
  exact Nat.mod_eq_of_lt (bitSum_lt 32 _)

theorem regView_sysPins : regView s pgSYS 0x1B4 = pins s (rdW s pgSYS 0x1B4) % 2 ^ 32 := regView_sys hopen (by decide)

end

/-! ## The pins (R497) -/

/-- The levels below ALERT_N in SYS_PINS lie below its bit. -/
theorem pinsLow_lt (w : Nat) :
    natField w 0 8 + bit (!s.boot.off) <<< 10 + 1 <<< 11 + bit (!throtIn s) <<< 12
      + bit (!rdB s pgSYS F.SYS_REMOVE.EJECT_IN) <<< 13 + bit (!s.pow.leakIn) <<< 14 + bit (!s.boot.off) <<< 16 < 2 ^ 17 := by
  have hslot : natField w 0 8 < 2 ^ 10 := Nat.lt_trans (natField_lt w 0 8) (by decide)
  have hreset : natField w 0 8 + bit (!s.boot.off) <<< 10 + 1 <<< 11 < 2 ^ 12 :=
    add_shiftLeft_lt (w := 1) (add_bit_shiftLeft_lt _ hslot (Nat.le_refl _)) (by decide) (Nat.le_refl _)
  have heject := add_bit_shiftLeft_lt (!rdB s pgSYS F.SYS_REMOVE.EJECT_IN)
    (add_bit_shiftLeft_lt (!throtIn s) hreset (Nat.le_refl _)) (Nat.le_refl _)
  have hleak := add_bit_shiftLeft_lt (m := 16) (!s.pow.leakIn) heject (by decide)
  exact add_bit_shiftLeft_lt _ hleak (Nat.le_refl _)

/-- Two bits that stand above `lo` and below a third and a field. -/
theorem testBit_pinPair {lo : Nat} (h : lo < 2 ^ 17) (a b c : Bool) (hi : Nat) :
    (lo + bit a <<< 17 + bit b <<< 18 + bit c <<< 19 + hi <<< 24).testBit 17 = a ∧
    (lo + bit a <<< 17 + bit b <<< 18 + bit c <<< 19 + hi <<< 24).testBit 18 = b := by
  have ha := add_bit_shiftLeft_lt a h (Nat.le_refl 18)
  have hb := add_bit_shiftLeft_lt b ha (Nat.le_refl 19)
  have hc := add_bit_shiftLeft_lt (m := 24) c hb (by decide)
  constructor
  · rw [testBit_add_shiftLeft hc, if_pos (by decide), testBit_add_shiftLeft hb, if_pos (by decide), testBit_add_shiftLeft ha,
      if_pos (by decide), testBit_add_shiftLeft h, if_neg (by decide), Nat.sub_self, bit_testBit_zero]
  · rw [testBit_add_shiftLeft hc, if_pos (by decide), testBit_add_shiftLeft hb, if_pos (by decide), testBit_add_shiftLeft ha,
      if_neg (by decide), Nat.sub_self, bit_testBit_zero]

theorem pins_testBit (w : Nat) : (pins s w).testBit 17 = !alert s ∧
    (pins s w).testBit 18 = !(rdB s pgSYS F.SYS_ALERT.LED || s.pow.trip) :=
  testBit_pinPair (pinsLow_lt s w) _ _ _ _

theorem alert_iff : alert s = true ↔ rdB s pgSYS F.SYS_ALERT.EN = true ∧ (intSummary s).testBit 5 = true := by
  rw [alert, Bool.and_eq_true, bne_iff_ne, intSummary_ne_zero_iff]

end

/-- Settles O59: each summary word is a sum of bits, and its sources are the pages of the index. -/
theorem interruptSummaries : Obligations.InterruptSummaries := by
  unfold Obligations.InterruptSummaries
  intro s hopen
  dsimp only
  refine ⟨fun i hi => ?_, fun d hd => ?_, fun n hn => ?_, fun n hn => ?_, ?_, fun d hd => ?_, ?_⟩
  · rw [regView_sysIntHub hopen]
    exact intHub_testBit s hi
  · rw [regView_sysIntDie hopen hd]
    refine ⟨?_, ?_, ?_, fun j hj => ?_, ?_, ?_⟩
    · rw [intDie_testBit s (by decide)]
      exact bne_iff_ne
    · rw [intDie_testBit s (by decide)]
      exact bne_iff_ne
    · rw [intDie_testBit s (by decide)]
      exact bne_iff_ne
    · rw [intDie_testBit s (by omega), dieSource_stack s hj, bne_iff_ne]
    · rw [intDie_testBit s (by decide)]
      exact dieCh_iff s d
    · rw [intDie_testBit s (by decide)]
      exact dieCore_iff s d
  · rw [regView_sysIntCore hopen (by omega)]
    exact intCore_testBit s
  · rw [regView_sysIntCh hopen (by omega)]
    exact intCh_testBit s
  · rw [regView_sysIntSummary hopen, regView_sysIntHub hopen, intSummary_testBit_low s (by decide)]
    exact bne_iff_ne
  · rw [regView_sysIntSummary hopen, regView_sysIntDie hopen hd, intSummary_testBit_low s (by omega), if_neg (by omega),
      Nat.add_sub_cancel_left, bne_iff_ne]
  · rw [regView_sysIntSummary hopen]
    exact intSummary_any_iff_page s

/-- Settles O60: the pins' bits in SYS_PINS, with ANY as the bit that is set exactly while the summary is not zero. -/
theorem alertAndFaultPins : Obligations.AlertAndFaultPins := by
  unfold Obligations.AlertAndFaultPins
  intro s hopen
  obtain ⟨halert, hfault⟩ := pins_testBit s (rdW s pgSYS 0x1B4)
  constructor
  · rw [regView_sysPins hopen, regView_sysIntSummary hopen, Nat.testBit_mod_two_pow, decide_eq_true (by decide),
      Bool.true_and, halert, Bool.not_eq_false', alert_iff]
  · rw [regView_sysPins hopen, Nat.testBit_mod_two_pow, decide_eq_true (by decide), Bool.true_and, hfault, Bool.not_eq_false',
      Bool.or_eq_true]

end Sys2Proof.Machine.SysPage
